-- ==== Sys2Proof/Word.lean ====
section
/-! DEFINITION. Word.lean: the two word types of the manual (R4, R7). All multi-byte values are
little-endian; bit 0 is the least significant bit. -/

namespace Sys2Proof

/-- One byte of a packet, record or memory. -/
abbrev Byte := BitVec 8

/-- One 32-bit register word or u32 field (R4, R7). -/
abbrev Word := BitVec 32

/-- A u16 field. -/
abbrev Half := BitVec 16

/-- A u64 field. -/
abbrev DWord := BitVec 64

end Sys2Proof
end

