-- ==== Sys2Proof/Syntax.lean ====
section
/-! DEFINITION. Syntax.lean: the commands the Ndovik takes, one constructor per row of
spec/opcode_table.json, each with the operands that the rule of its row gives it. A command is a
request that the command sequencer takes, an event on a pin or a port, a timer that runs out, or
one indivisible step of an engine. Operands are plain data. -/

namespace Sys2Proof

/-! ## Operands of the network side -/

/-- Where a packet comes from or goes to: IP address, UDP port and Ethernet address (R53, R483). -/
structure Endpoint where
  v6   : Bool
  ip   : BitVec 128
  port : Half
  mac  : BitVec 48
  deriving DecidableEq, Repr

/-- The Ethernet frame that carries a packet: its port, destination and tag (R484, R492). -/
structure FrameInfo where
  eth    : Fin 4
  dstMac : BitVec 48
  vlan   : BitVec 12
  pcp    : Option (Fin 8)
  length : Nat
  deriving DecidableEq, Repr

/-- IP fragmentation of a received datagram (R51). -/
inductive Frag where
  | whole
  | first   -- the fragment that carries the UDP header
  | later
  deriving DecidableEq, Repr

/-- A UDP datagram as it arrives (R49 to R51). -/
structure Datagram where
  frame   : FrameInfo
  src     : Endpoint
  dstPort : Half
  frag    : Frag
  bytes   : List Byte
  deriving DecidableEq, Repr

/-- A request of an established session: the session it came on and its correlation tag (R56). -/
structure Req where
  session : Word
  tag     : Word
  deriving DecidableEq, Repr

/-- A handshake request on session id 0 (R62, R103): where it came from and what its header held. -/
structure Handshake where
  eth    : Fin 4
  src    : Endpoint
  major  : Byte
  minor  : Byte
  tenant : Byte
  seq    : Word
  ack    : Word
  tag    : Word
  deriving DecidableEq, Repr

/-- SESSION_OPEN request payload (R104). -/
structure SessionOpenArgs where
  ephKey     : List Byte    -- 32 bytes
  nonce      : List Byte    -- 16 bytes
  maxPayload : Half
  reserved   : Half
  deriving DecidableEq, Repr

/-- SESSION_AUTH request payload (R108). -/
structure SessionAuthArgs where
  session    : Word
  tenant     : Byte
  reserved   : BitVec 24
  credential : List Byte    -- 32 bytes
  signature  : List Byte    -- 64 bytes
  deriving DecidableEq, Repr

/-! ## Operands of memory, loops and steps -/

/-- MEM_MAP request payload (R135). -/
structure MemMapArgs where
  va        : DWord
  size      : DWord
  pageSize  : Byte
  flags     : Byte
  reserved  : BitVec 48
  deriving DecidableEq, Repr

/-- LOOP_CREATE request payload (R163). -/
structure LoopCreateArgs where
  cls          : Byte
  kind         : Byte
  queueDepth   : Byte
  flags        : Byte
  pipe         : Byte
  reserved0    : BitVec 24
  prefillVa    : DWord
  tokenVa      : DWord
  batchTableVa : DWord
  chunkTokens  : Half
  maxBatch     : Half
  prefillBytes : Word
  tokenBytes   : Word
  reserved1    : Word
  deriving DecidableEq, Repr

/-- STEP_SUBMIT request payload (R170). -/
structure StepSubmitArgs where
  loop      : Word
  reserved0 : Word
  va        : DWord
  length    : Word
  reserved1 : Word
  deriving DecidableEq, Repr

/-- SEQ_SUBMIT request payload (R199). -/
structure SeqSubmitArgs where
  loop         : Word
  seqTag       : Word
  promptVa     : DWord
  promptLength : Word
  maxNewTokens : Word
  deriving DecidableEq, Repr

/-- FUNC_DISABLE and FUNC_ENABLE request payload (R191). -/
structure FuncArgs where
  target   : Byte
  mode     : Byte
  reserved : Half
  id       : Word
  deriving DecidableEq, Repr

/-- One stripe instance of a work command of the running step of a loop (R167). -/
structure CmdRef where
  loop : Nat
  cmd  : Nat
  inst : Nat
  deriving DecidableEq, Repr

/-- Where an access met a bad entry or page (R151). -/
inductive FaultCause where
  | access          -- the walk or the declared sets refuse the access, or it is a first touch
  | tableCorrupt    -- both copies of a table were found corrupt (R133)
  deriving DecidableEq, Repr

/-- Where an uncorrectable error lies and who met it (R155). -/
inductive EccSite where
  | hbm (ref : CmdRef) (va : DWord)
  | scratchpad (ref : CmdRef) (addr : Word)
  | tableOneCopy (ref : CmdRef)
  | tableBothCopies (ref : CmdRef)
  | decodeInput (lane : Fin 8) (va : DWord)
  | decodeWork (lane : Fin 8) (va : DWord)
  | decodeTable (lane : Fin 8) (va : DWord)   -- a TABLE_CORRUPT walk, which is no memory error
  | galliardMotion (pipe : Fin 8) (block : Nat)
  | galliardSource (pipe : Fin 8) (row : Nat)
  deriving DecidableEq, Repr

/-- What a pass of the patrol scrub found (R154, R158): corrected errors in HBM data, and the
tenant lines that hold an uncorrectable one. -/
structure ScrubReport where
  corrected     : Nat
  uncorrectable : List (Fin 16 × DWord)
  deriving DecidableEq, Repr

/-! ## Operands of the engines -/

/-- The group of 64 threads of a vector engine that issues an instruction (R228). -/
structure VeAt where
  core  : Fin 128
  group : Fin 32
  deriving DecidableEq, Repr

/-- The fields of a vector instruction word, with the literal that may follow it (R231). -/
structure VeFields where
  d       : BitVec 6
  a       : BitVec 6
  b       : BitVec 6
  c       : BitVec 6
  p       : BitVec 3
  n       : Bool
  lit     : Bool
  imm     : BitVec 24
  literal : Word
  deriving DecidableEq, Repr

/-- Direction of a halo stream, seen from its consumer instance (R287, R293). -/
inductive HaloDir where
  | above
  | below
  deriving DecidableEq, Repr

/-- Which wait of a halo pair ran out (R297). -/
inductive HaloWait where
  | slot     -- the consumer stalls on a slot
  | credit   -- the sender waits for a credit
  deriving DecidableEq, Repr

/-! ## Operands of sensors and decode -/

/-- Header state of a CSI-2 packet as the receiver decodes it (R390, R393). -/
inductive CsiHeader where
  | good
  | corrected
  | uncorrectable
  deriving DecidableEq, Repr

/-- SNS_FEED request payload (R412). -/
structure SnsFeedArgs where
  context   : Byte
  flags     : Byte
  reserved0 : Half
  sequence  : Word
  stamp     : Word
  offset    : Word
  width     : Half
  height    : Half
  reserved1 : Word
  data      : List Byte
  deriving DecidableEq, Repr

/-- DEC_OPEN request payload (R415). -/
structure DecOpenArgs where
  timeBase  : Byte
  lanesMax  : Byte
  outFormat : Byte
  augMode   : Byte
  outSlots  : Byte
  seededOps : Byte
  reserved0 : Half
  inVa      : DWord
  in64k     : Word
  slot64k   : Word
  outVa     : DWord
  workVa    : DWord
  work64k   : Word
  cropW     : Half
  cropH     : Half
  gainMax   : Word
  reserved1 : Word
  seed      : DWord
  deriving DecidableEq, Repr

/-- DEC_PUSH request payload (R418). -/
structure DecPushArgs where
  stream    : Byte
  flags     : Byte
  reserved0 : Half
  bytes     : Word
  reserved1 : DWord
  deriving DecidableEq, Repr

/-- The clock-crossing FIFO that overflowed (R395). -/
inductive FifoSite where
  | csi (rx : Fin 12)
  | tdm (port : Fin 6)
  deriving DecidableEq, Repr

/-! ## Operands of display -/

/-- What a DisplayPort sink accepts, as read from its DPCD and EDID, and the output ports of a branch device that have
a sink (R445). -/
structure SinkCaps where
  maxRate      : Fin 4        -- code of R473
  maxLanes     : Fin 3        -- 0 one, 1 two, 2 four
  dsc          : Bool
  adaptiveSync : Bool
  mst          : Bool
  edidBytes    : Half
  ports        : List (Fin 16) := []
  deriving DecidableEq, Repr

/-- Result of link training: the rate and lanes reached, or failure (R445). -/
inductive TrainResult where
  | trained (rate : Fin 4) (lanes : Fin 3)
  | failed
  deriving DecidableEq, Repr

/-- DSP_AUX request payload (R474). -/
structure DspAuxArgs where
  unit    : Byte
  op      : Byte
  length  : Half
  address : Word
  data    : List Byte
  deriving DecidableEq, Repr

/-- How an AUX transfer or a DSI command ended (R474, R475). -/
inductive LinkReply where
  | acknowledged (data : List Byte)
  | noAcknowledge
  deriving DecidableEq, Repr

/-- DSP_FALLBACK_SET request payload (R465). -/
structure FallbackArgs where
  pipe      : Byte
  format    : Byte
  factor    : Byte
  reserved0 : Byte
  width     : Half
  height    : Half
  pitch     : Word
  reserved1 : Word
  va        : DWord
  deriving DecidableEq, Repr

/-- DSP_DSI_CMD request payload (R475). -/
structure DsiCmdArgs where
  unit       : Byte
  dataType   : Byte
  length     : Half
  readLength : Half
  reserved   : Half
  data       : List Byte
  deriving DecidableEq, Repr

/-- How a plane line stood when its scan began (R469). -/
inductive LineFetch where
  | ready
  | underflow
  | fetchError        -- an uncorrectable error
  | tableCorrupt      -- a walk that met corrupt tables
  deriving DecidableEq, Repr

/-! ## Operands of network and time -/

/-- An ARP packet as a port sees it (R482). -/
structure ArpPacket where
  request   : Bool
  senderMac : BitVec 48
  senderIp  : Word
  targetIp  : Word
  deriving DecidableEq, Repr

/-- What the link-local address of a port meets (R482): an ARP packet in its frame, or its own probe timer
(RFC 5227). -/
inductive ArpEvent where
  | packet (frame : FrameInfo) (a : ArpPacket)
  | probeTimer
  deriving DecidableEq, Repr

/-- An IPv6 neighbour solicitation as a port sees it (R482). -/
structure NsPacket where
  frame  : FrameInfo
  src    : Endpoint
  target : BitVec 128
  deriving DecidableEq, Repr

/-- An ICMP or ICMPv6 echo request as a port sees it (R482). -/
structure EchoRequest where
  frame      : FrameInfo
  src        : Endpoint
  dst        : BitVec 128
  identifier : Half
  sequence   : Half
  data       : List Byte
  deriving DecidableEq, Repr

/-- A gPTP Sync as received (R486, R500): its domain and source, the MAC stamp in units of 2^-16 ns
of the time base, and, when one-step, the origin time and correction. -/
structure SyncMsg where
  domain     : BitVec 7
  source     : BitVec 64
  sequence   : Half
  macStamp   : Nat
  twoStep    : Bool
  origin     : Nat
  correction : Int
  rateRatio  : Int          -- cumulative scaled rate offset, units of 2^-41
  deriving DecidableEq, Repr

/-- A gPTP Follow_Up (R486). Times in units of 2^-16 ns. -/
structure FollowUpMsg where
  domain     : BitVec 7
  source     : BitVec 64
  sequence   : Half
  origin     : Nat
  correction : Int
  rateRatio  : Int
  deriving DecidableEq, Repr

/-- A peer-delay request (R486, R493). -/
structure PdelayReqMsg where
  source   : BitVec 64
  sequence : Half
  macStamp : Nat
  deriving DecidableEq, Repr

/-- A peer-delay response with its follow-up: the responder's receipt and transmit times, and the
MAC stamp of the response's arrival (R486). Times in units of 2^-16 ns. -/
structure PdelayRespMsg where
  sequence  : Half
  receipt   : Nat
  transmit  : Nat
  macStamp  : Nat
  deriving DecidableEq, Repr

/-- An Announce message's priority vector (R487). -/
structure AnnounceMsg where
  domain       : BitVec 7
  priority1    : Byte
  clockClass   : Byte
  accuracy     : Byte
  variance     : Half
  priority2    : Byte
  identity     : BitVec 64
  stepsRemoved : Half
  source       : BitVec 64
  logInterval  : Int
  deriving DecidableEq, Repr

/-- NET_GCL_WRITE request payload (R488). -/
structure GclEntry where
  interval : Word
  gates    : Byte
  reserved : BitVec 24
  deriving DecidableEq, Repr

structure GclWriteArgs where
  port     : Byte
  apply    : Byte
  first    : Half
  count    : Half
  length   : Half
  baseTime : DWord
  cycle    : Word
  reserved : Word
  entries  : List GclEntry
  deriving DecidableEq, Repr

/-- NET_STREAM_TABLE request payload (R492). -/
structure StreamTableArgs where
  port     : Byte
  table    : Byte
  index    : Half
  reserved : Word
  entry    : List Byte      -- 16 bytes
  deriving DecidableEq, Repr

/-- A wall-sync datagram as it arrives (R505). -/
structure WallDatagram where
  frame : FrameInfo
  src   : Endpoint
  bytes : List Byte
  deriving DecidableEq, Repr

/-! ## Operands of firmware, power, security and start-up -/

/-- What self-test found (R609): the seven engine bits of each core that failed any, and the 4 KiB frames of HBM that
showed errors, each with its uncorrectable and its corrected ones. -/
structure SelfTestReport where
  failedCores : List (Fin 128 × BitVec 7)
  frames      : List (Nat × Nat × Nat)
  deriving DecidableEq, Repr

/-- One sample of every temperature sensor, in 1/16 °C (R558, R571). -/
structure SensorReadings where
  core   : List Int         -- 128 readings
  uncore : List Int         -- 24 readings
  hbm    : Int
  deriving DecidableEq, Repr

/-- One sample of the eight rails, the core rail first: voltage in mV and current in 1/16 A (R558, R559, R571). -/
structure RailReadings where
  rails : List (Nat × Nat)
  deriving DecidableEq, Repr

/-- The PHY reference clocks of CLK_STATUS (R44). -/
inductive PhyRef where
  | hbm | dp | dsi | csi | eth
  deriving DecidableEq, Repr

/-- The levels of the pins that reset samples (R601, R607). -/
structure StrapLevels where
  compatSel : Bool
  ethMode   : BitVec 20
  deriving DecidableEq, Repr

/-- What a brown-out detector saw (R598); the reset of a monitor samples the straps at its end (R601). -/
inductive SupplyEvent where
  | pwrGoodFell
  | monitorLow (millivolts nanoseconds : Nat)   -- VDD_CORE or VDD_AON at its own monitor
  | outOfTolerance                              -- a rail off tolerance, no threshold crossed
  deriving DecidableEq, Repr

/-- One command of the Ndovik: one constructor per row of spec/opcode_table.json. -/
inductive Instr where
  -- transport and sessions
  | datagramReceive (d : Datagram)
  | ackDelayTimeout (session : Word)
  | retransmitTimeout (session : Word)
  | sessionOpen (h : Handshake) (a : SessionOpenArgs)
  | sessionAuth (h : Handshake) (a : SessionAuthArgs)
  | sessionClose (rq : Req) (reason : Word)
  | heartbeat (rq : Req) (value : DWord)
  | echo (rq : Req) (payload : List Byte)
  | deviceInfo (rq : Req)
  | completionQuery (rq : Req) (about : Word)
  | regRead (rq : Req) (address : Word) (count reserved : Half)
  | regWrite (rq : Req) (address : Word) (count reserved : Half) (values : List Word)
  | regUpdate (rq : Req) (address mask value : Word)
  | regReadList (rq : Req) (count reserved : Half) (addresses : List Word)
  | regWait (rq : Req) (address mask expected timeout : Word)
  | regWaitPoll (rq : Req)
  | regWaitTimeout (rq : Req)
  | cmdPortsWrite (rq : Req) (value : Word)
  | halfOpenTimeout (session : Word)
  | authBlockExpiry (ip : BitVec 128)
  | beaconTimer (port : Fin 4)
  | heartbeatTimeout (tenant : Fin 16)
  | orphanTimeout (tenant : Fin 16)
  | reclaimTimeout (tenant : Fin 16)
  | forceReclaim (rq : Req) (tenant : Fin 16) (enabled : Bool)
  | release (rq : Req)
  | tenLimitsWrite (rq : Req) (tenant : Fin 16) (value : Word)
  | reclaimComplete (tenant : Fin 16)
  -- memory
  | memMap (rq : Req) (a : MemMapArgs)
  | memMapBacked (tenant : Fin 16) (va : DWord)
  | memUnmap (rq : Req) (va size : DWord)
  | memProtect (rq : Req) (va size : DWord) (flags : Byte) (reserved : BitVec 56)
  | memWrite (rq : Req) (va : DWord) (length reserved : Word) (data : List Byte)
  | memRead (rq : Req) (va : DWord) (length reserved : Word)
  | mmuWalk (rq : Req) (va : DWord)
  | faultResume (rq : Req) (faultId action : Word)
  | pageFault (ref : CmdRef) (va : DWord) (write : Bool) (cause : FaultCause)
  | demandBackingDone (ref : CmdRef)
  | faultTimeout (tenant : Fin 16) (faultId : Word)
  | uncorrectableError (site : EccSite)
  | patrolScrub (found : ScrubReport)
  | zeroFillDone (loop : Nat)
  | killedWritesSettled (ref : CmdRef)
  -- loops and scheduling
  | loopCreate (rq : Req) (a : LoopCreateArgs)
  | loopDestroy (rq : Req) (loop : Word)
  | stepSubmit (rq : Req) (a : StepSubmitArgs)
  | seqSubmit (rq : Req) (a : SeqSubmitArgs)
  | funcDisable (rq : Req) (a : FuncArgs)
  | funcEnable (rq : Req) (a : FuncArgs)
  | schedulerTick
  | urgentTick
  | commandCommit (ref : CmdRef)
  | sysCompatWrite (rq : Req) (value : Word)
  | dmaDescriptorStart (ref : CmdRef)
  | dmaDescriptorDone (ref : CmdRef) (index : Nat)
  -- vector engine
  | veNop (v : VeAt) (f : VeFields)
  | veFadd (v : VeAt) (f : VeFields)
  | veFsub (v : VeAt) (f : VeFields)
  | veFmul (v : VeAt) (f : VeFields)
  | veFfma (v : VeAt) (f : VeFields)
  | veFmin (v : VeAt) (f : VeFields)
  | veFmax (v : VeAt) (f : VeFields)
  | veFabs (v : VeAt) (f : VeFields)
  | veFneg (v : VeAt) (f : VeFields)
  | veFcopysign (v : VeAt) (f : VeFields)
  | veFeq (v : VeAt) (f : VeFields)
  | veFne (v : VeAt) (f : VeFields)
  | veFlt (v : VeAt) (f : VeFields)
  | veFle (v : VeAt) (f : VeFields)
  | veFunord (v : VeAt) (f : VeFields)
  | veIeq (v : VeAt) (f : VeFields)
  | veIlt (v : VeAt) (f : VeFields)
  | veUlt (v : VeAt) (f : VeFields)
  | veSel (v : VeAt) (f : VeFields)
  | veIadd (v : VeAt) (f : VeFields)
  | veIsub (v : VeAt) (f : VeFields)
  | veImullo (v : VeAt) (f : VeFields)
  | veSmulhi (v : VeAt) (f : VeFields)
  | veUmulhi (v : VeAt) (f : VeFields)
  | veShl (v : VeAt) (f : VeFields)
  | veShr (v : VeAt) (f : VeFields)
  | veSra (v : VeAt) (f : VeFields)
  | veAnd (v : VeAt) (f : VeFields)
  | veOr (v : VeAt) (f : VeFields)
  | veXor (v : VeAt) (f : VeFields)
  | veSmin (v : VeAt) (f : VeFields)
  | veSmax (v : VeAt) (f : VeFields)
  | veUmin (v : VeAt) (f : VeFields)
  | veUmax (v : VeAt) (f : VeFields)
  | veMov (v : VeAt) (f : VeFields)
  | veCvt (v : VeAt) (f : VeFields)
  | veBfi (v : VeAt) (f : VeFields)
  | veBfx (v : VeAt) (f : VeFields)
  | veRcp (v : VeAt) (f : VeFields)
  | veDiv (v : VeAt) (f : VeFields)
  | veSqrt (v : VeAt) (f : VeFields)
  | veRsqrt (v : VeAt) (f : VeFields)
  | veExp2 (v : VeAt) (f : VeFields)
  | veLog2 (v : VeAt) (f : VeFields)
  | veSinpi (v : VeAt) (f : VeFields)
  | veCospi (v : VeAt) (f : VeFields)
  | veExp (v : VeAt) (f : VeFields)
  | veLog (v : VeAt) (f : VeFields)
  | veSigmoid (v : VeAt) (f : VeFields)
  | veTanh (v : VeAt) (f : VeFields)
  | veShuffle (v : VeAt) (f : VeFields)
  | veBcast (v : VeAt) (f : VeFields)
  | veGred (v : VeAt) (f : VeFields)
  | veDred (v : VeAt) (f : VeFields)
  | veLd32 (v : VeAt) (f : VeFields)
  | veLd64 (v : VeAt) (f : VeFields)
  | veLd128 (v : VeAt) (f : VeFields)
  | veSt32 (v : VeAt) (f : VeFields)
  | veSt64 (v : VeAt) (f : VeFields)
  | veSt128 (v : VeAt) (f : VeFields)
  | veAadd (v : VeAt) (f : VeFields)
  | veAsmin (v : VeAt) (f : VeFields)
  | veAsmax (v : VeAt) (f : VeFields)
  | veAand (v : VeAt) (f : VeFields)
  | veAor (v : VeAt) (f : VeFields)
  | veAxor (v : VeAt) (f : VeFields)
  | veAxchg (v : VeAt) (f : VeFields)
  | veAcas (v : VeAt) (f : VeFields)
  | veBraAny (v : VeAt) (f : VeFields)
  | veBraAll (v : VeAt) (f : VeFields)
  | veBarGroup (v : VeAt) (f : VeFields)
  | veBarDispatch (v : VeAt) (f : VeFields)
  | veDmaIssue (v : VeAt) (f : VeFields)
  | veDmaWait (v : VeAt) (f : VeFields)
  | veExit (v : VeAt) (f : VeFields)
  -- raster front end
  | dlState (ref : CmdRef)
  | dlTriangles (ref : CmdRef)
  | dlRects (ref : CmdRef)
  | dlEnd (ref : CmdRef)
  | dlNop (ref : CmdRef)
  -- halos
  | haloRowSend (ref : CmdRef) (dir : HaloDir)
  | haloSlotRead (ref : CmdRef) (dir : HaloDir)
  | haloCredit (ref : CmdRef) (dir : HaloDir)
  | haloTimeout (ref : CmdRef) (dir : HaloDir) (wait : HaloWait)
  | reelEccError (ref : CmdRef) (corrected : Bool)
  -- frame generation and late re-projection
  | fgEnable (rq : Req) (pipe : Fin 8) (value : Word)
  | fgDisable (rq : Req) (pipe : Fin 8) (value : Word)
  | fgStepEligible (pipe : Fin 8)
  | captureComplete (pipe : Fin 8)
  | publishCopyStart (pipe : Fin 8)
  | publishCopyDone (pipe : Fin 8)
  | galliardDecision (pipe : Fin 8)
  | galEnable (rq : Req) (pipe : Fin 8) (value : Word)
  -- vision
  | streamBandWrite (ref : CmdRef)
  | streamTimeout (ref : CmdRef)
  | tileMemoryEcc (ref : CmdRef)
  -- sensors
  | csiFrameStart (rx : Fin 12) (vc : Fin 4) (number : Half) (header : CsiHeader)
  | csiFrameEnd (rx : Fin 12) (vc : Fin 4) (header : CsiHeader)
  | csiLongPacket (rx : Fin 12) (vc : Fin 4) (dataType : BitVec 6) (header : CsiHeader)
      (wordCount : Half) (crcOk : Bool) (data : List Byte)
  | csiIgnoredPacket (rx : Fin 12) (vcExt : BitVec 4) (dataType : BitVec 6) (header : CsiHeader)
  | frameTimeout (ctx : Fin 48)
  | sourceLost (rx : Fin 12) (vc : Fin 4) (dataType : BitVec 6)
  | csiLinkChange (rx : Fin 12) (link : Bool) (mbps : Half)
  | tdmFrame (port : Fin 6) (bitClocks : Nat) (samples : List Word) (hz : Nat)
  | tdmSyncTimeout (port : Fin 6)
  | fifoOverflow (site : FifoSite)
  | snsFeed (rq : Req) (a : SnsFeedArgs)
  | snsScan (rq : Req)
  -- decode
  | decOpen (rq : Req) (a : DecOpenArgs)
  | decClose (rq : Req) (stream : Byte) (reserved : BitVec 24)
  | decPush (rq : Req) (a : DecPushArgs)
  | recordDispatch (stream : Fin 64)
  | laneStart (lane : Fin 8)
  | decodeFinish (lane : Fin 8)
  | budgetTimeout (lane : Fin 8)
  -- display
  | frameStart (pipe : Fin 8)
  | dspCommitApply (rq : Req) (pipe : Fin 8)
  | dspStop (rq : Req) (pipe : Fin 8)
  | teEdge (unit : Fin 2) (rising : Bool)
  | teTimeout (pipe : Fin 8)
  | hpdChange (tx : Fin 4) (sink : Option SinkCaps)
  | irqHpd (tx : Fin 4) (linkLost : Bool)
  | linkTrainingDone (tx : Fin 4) (result : TrainResult)
  | dspScan (rq : Req)
  | dspAux (rq : Req) (a : DspAuxArgs)
  | auxDone (tx : Fin 4) (result : LinkReply)
  | dspFallbackSet (rq : Req) (a : FallbackArgs)
  | fallbackCopyDone (pipe : Fin 8)
  | dspDsiCmd (rq : Req) (a : DsiCmdArgs)
  | dsiCmdSend (unit : Fin 2) (result : LinkReply)
  | dsiCmdTimeout (unit : Fin 2)
  | memSleepEnter
  | memSleepExit
  -- network and time
  | linkUp (port : Fin 4)
  | linkDown (port : Fin 4)
  | arpRequest (port : Fin 4) (a : ArpEvent)
  | neighbourSolicitation (port : Fin 4) (a : NsPacket)
  | icmpEchoRequest (port : Fin 4) (a : EchoRequest)
  | netPortConfigWrite (rq : Req) (port : Fin 4) (value : Word)
  | sync (port : Fin 4) (m : SyncMsg)
  | followUp (port : Fin 4) (m : FollowUpMsg)
  | pdelayReq (port : Fin 4) (m : PdelayReqMsg)
  | pdelayResp (port : Fin 4) (m : PdelayRespMsg)
  | announce (port : Fin 4) (m : AnnounceMsg)
  | syncIntervalTimer (port : Fin 4)
  | pdelayIntervalTimer (port : Fin 4)
  | syncTimeout (base : Fin 4)
  | netGclWrite (rq : Req) (a : GclWriteArgs)
  | gclSwitch (port : Fin 4)
  | gateIntervalEnd (port : Fin 4)
  | netStreamTable (rq : Req) (a : StreamTableArgs)
  | timeRead (rq : Req)
  | wallKey (rq : Req) (key : List Byte)
  | netWallEnable (rq : Req) (value : Word)
  | wallReady (d : WallDatagram)
  | wallAgree (d : WallDatagram)
  | wallClaim (d : WallDatagram)
  | agreeFallbackTimeout
  | wallAgreementMissing
  | wallElectionTimeout
  -- firmware
  | fwLoad (rq : Req) (offset reserved : Word) (data : List Byte)
  | fwActivate (rq : Req) (imageBytes reserved : Word)
  | fwVerifyDone
  | activationResume
  | processorRestartDone (p : Fin 6)
  | fwRestart (rq : Req) (processor : Byte) (reserved : BitVec 24)
  | watchdogExpiry (p : Fin 6)
  | protectionViolation (p : Fin 6)
  | sramError (p : Fin 6)
  | consistencyCheckFail (p : Fin 6)
  | holdRelease
  | selfTestDone (r : SelfTestReport)
  | logRead (rq : Req) (first : Word) (maximum reserved : Half)
  -- power
  | sensorSample (r : SensorReadings)
  | currentSample (r : RailReadings)
  | powerLoopPeriod
  | parkPeriod
  -- security and persistence
  | secCert (rq : Req)
  | secAttest (rq : Req) (challenge : List Byte)
  | ownerChange (rq : Req) (key signature : List Byte)
  | secKeyRevoke (rq : Req) (index : Byte) (reserved : BitVec 24)
  | secRollbackRaise (rq : Req) (minimum : Word)
  | entropyFail
  | secEnrollArm
  | enrollWindowExpiry
  | nvrWordStored
  -- start-up
  | powerOn (straps : StrapLevels)
  | brownout (e : SupplyEvent)
  | resetAssert
  | resetRelease (straps : StrapLevels)
  | hbmTrained
  | thermalHoldOffEnd
  | rootPllUnlock
  | phyReferenceLost (r : PhyRef)
  | phyReferenceLock (r : PhyRef)
  | sysResetReq (rq : Req) (value : Word)
  | resetRequestTimer
  -- JTAG and I3C
  | jtagBypass
  | jtagIdcode
  | jtagSamplePreload
  | jtagExtest
  | jtagDebugRead (address : Word)
  | jtagDebugWrite (address value : Word)
  | jtagReset
  | i3cSetdasa (address : BitVec 7)
  | i3cEntdaa (address : BitVec 7)
  | i3cAddressWrite (address : Word)
  | i3cRegisterWrite (address value : Word)
  | i3cPrivateRead
  -- rows that the table lists after these
  | lineStart (pipe : Fin 8) (fetch : List LineFetch)
  | memWriteBacked (session : Word)
  | wallMemberLost (index : Fin 64)
  | noPacketsTimeout (rx : Fin 12)
  | bitClockLoss (port : Fin 6)
  | bitClockDetected (port : Fin 6)
  | preemptionVerifyDone (port : Fin 4)
  | announceReceiptTimeout (port : Fin 4)
  | announceIntervalTimer (port : Fin 4)
  deriving DecidableEq, Repr

end Sys2Proof
end

