-- ==== Sys2Proof/Decode.lean ====
section
/-! DEFINITION. Decode.lean: the commands that a table word spells. No row of spec/opcode_table.json
gives its command bits ("fields" is empty in every row), so no word spells a command. The bytes of
request payloads are in Machine/Operands.lean. -/

namespace Sys2Proof

/-- The command that a word of nbits bits spells by the table's bits: none, for no row has bits. -/
def decodeTableWord (_nbits _w : Nat) : Option Instr := none

end Sys2Proof
end

