-- ==== Sys2Proof/Config.lean ====
section
/-! DEFINITION. Config.lean: what one device fixes (its keys, its identity, its silicon revision) and
the free values (what the manual leaves open). Every constant here has no body: nothing can be
proved of its value. A fresh free value is a constant applied to the counter State.fresh. -/

namespace Sys2Proof.Config

/-! ## One device -/

/-- The 256-bit device secret fused at manufacture (R572). -/
opaque deviceSecret : List Byte
/-- Silicon stepping, major in the high byte (SYS_REVISION, R603). -/
opaque siliconRevision : BitVec 16
/-- The 48-bit MAC address of an Ethernet port. -/
opaque portMac : Nat → BitVec 48
/-- Public half of a firmware signing key, 0 to 3 (R582). -/
opaque signingKey : Nat → List Byte
/-- A factory-programmed word of the persistent bank (R585). -/
opaque factoryWord : Nat → Word

/-! ## Free values -/

/-- Bytes from the security unit's random generator (R573): the argument counts the draws. -/
opaque randomBytes : Nat → List Byte
/-- A result the manual does not state, as a 32-bit word. -/
opaque freeWord : Nat → Word
/-- One of several results that one draw leaves open, as a 32-bit word: which one, by its place. -/
opaque freeAt : Nat → List Nat → Word
/-- A word that a wide store of the vector engine takes from no register (R231): thread, place of the instruction, the word
before it and which word it is. -/
opaque storeCorner : List Nat → Word
/-- A raster coordinate or texture position that has no finite value (R339, R342): its code, and its place in the list. -/
opaque rasCorner : List Nat → Word
/-- Bytes the manual does not state. -/
opaque freeBytes : Nat → List Byte
/-- A number the manual does not state. -/
opaque freeNat : Nat → Nat
/-- A choice the manual leaves open. -/
opaque freeBool : Nat → Bool
/-- 0 / 0 and infinity / infinity in the VE's DIV: R232 states no result (operands' codes). -/
opaque divCorner : Word → Word → Word
/-- The rate of a gPTP neighbour against this port's time base, less 1, in units of 2^-41: R486 names
IEEE 802.1AS, which leaves the estimate to the implementation. -/
opaque neighbourRate : Nat → Int
/-- The physical frame that backs a tenant page, as a page-table entry names it (R131): tenant,
page address. The manual does not state which frame the firmware picks. -/
opaque frameOf : Nat → Nat → Nat

end Sys2Proof.Config
end

