-- ==== Sys2Proof/Machine/Flags.lean ====
section
/-! DEFINITION. Machine/Flags.lean: the codes that replies, completions and events carry: status
(R99), detail (R99 and the chapters that own the opcodes), the flags byte of R57, and opcodes. -/

namespace Sys2Proof.Machine

/-! ## Status (R99) -/

abbrev stOk : Nat := 0x0000
abbrev stAccepted : Nat := 0x0001
abbrev stDeferred : Nat := 0x0002
abbrev stBadOpcode : Nat := 0x0101
abbrev stBadLength : Nat := 0x0102
abbrev stBadParam : Nat := 0x0103
abbrev stNotPermitted : Nat := 0x0104
abbrev stNoResource : Nat := 0x0105
abbrev stBusy : Nat := 0x0106
abbrev stVersionMismatch : Nat := 0x0107
abbrev stNotEnabled : Nat := 0x0108
abbrev stPageFault : Nat := 0x0201
abbrev stKilled : Nat := 0x0202
abbrev stAborted : Nat := 0x0203
abbrev stDeadlineMissed : Nat := 0x0204
abbrev stTimeout : Nat := 0x0205
abbrev stLimitExceeded : Nat := 0x0206
abbrev stEccUncorrectable : Nat := 0x0207
abbrev stWorn : Nat := 0x0208
abbrev stAuthFailed : Nat := 0x0301
abbrev stSessionExpired : Nat := 0x0302
abbrev stRollbackRefused : Nat := 0x0303

/-! ## Detail under every opcode (R99) -/

abbrev dtReservedNonzero : Nat := 0x0001
abbrev dtUnmappedAddress : Nat := 0x0002
abbrev dtUnalignedAddress : Nat := 0x0003
abbrev dtCountRange : Nat := 0x0004
abbrev dtTagInUse : Nat := 0x0005
abbrev dtUpdateNotAllowed : Nat := 0x0006
abbrev dtValueRange : Nat := 0x0007
abbrev dtReservedTag : Nat := 0x0008
abbrev dtTenantField : Nat := 0x0009
abbrev dtPermissionClass : Nat := 0x000A
abbrev dtReadOnlyField : Nat := 0x000B
abbrev dtPayloadShort : Nat := 0x000C
abbrev dtPayloadLong : Nat := 0x000D
abbrev dtAsyncLimit : Nat := 0x000E
abbrev dtWaitLimit : Nat := 0x000F

/-! ## Detail of the chapters, 0x0100 upwards -/

abbrev dtTenantUnconfigured : Nat := 0x0101
abbrev dtTenantReclaiming : Nat := 0x0102
abbrev dtHandshakeLimit : Nat := 0x0103
abbrev dtHandshakeStale : Nat := 0x0104
abbrev dtCredentialMismatch : Nat := 0x0105
abbrev dtSignatureInvalid : Nat := 0x0106
abbrev dtPoolExceeded : Nat := 0x0107
abbrev dtOwnerOnly : Nat := 0x0108
abbrev dtResourceOwned : Nat := 0x0109
abbrev dtShareInUse : Nat := 0x010A
abbrev dtResourceEnabled : Nat := 0x010B
abbrev dtAlignment : Nat := 0x0110
abbrev dtVaRange : Nat := 0x0111
abbrev dtMapOverlap : Nat := 0x0112
abbrev dtFlagsInvalid : Nat := 0x0113
abbrev dtShareExhausted : Nat := 0x0114
abbrev dtNotMapped : Nat := 0x0115
abbrev dtRangeInUse : Nat := 0x0116
abbrev dtRangeUncommitted : Nat := 0x0117
abbrev dtRangeDisplay : Nat := 0x0118
abbrev dtSetUnmapped : Nat := 0x0119
abbrev dtSetPermission : Nat := 0x011A
abbrev dtInplaceUnpinned : Nat := 0x011B
abbrev dtSetViolation : Nat := 0x011C
abbrev dtFaultLimit : Nat := 0x011E
abbrev dtFaultTimeout : Nat := 0x011F
abbrev dtFaultIdUnknown : Nat := 0x0120
abbrev dtFaultRefused : Nat := 0x0121
abbrev dtEccHbm : Nat := 0x0122
abbrev dtEccTable : Nat := 0x0123
abbrev dtEccScratchpad : Nat := 0x0124
abbrev dtCompatLocked : Nat := 0x0130
abbrev dtSequenceLoops : Nat := 0x0131
abbrev dtLoopLimit : Nat := 0x0132
abbrev dtQueueFull : Nat := 0x0133
abbrev dtLoopUnknown : Nat := 0x0134
abbrev dtStepFormat : Nat := 0x0135
abbrev dtDepInvalid : Nat := 0x0136
abbrev dtForerunnerMode : Nat := 0x0137
abbrev dtDrainPending : Nat := 0x0138
abbrev dtUnitFailed : Nat := 0x0139
abbrev dtLoopDisabled : Nat := 0x013A
abbrev dtLoopKind : Nat := 0x013B
abbrev dtLoopActive : Nat := 0x013C
abbrev dtFormatPair : Nat := 0x0140
abbrev dtFormatEngine : Nat := 0x0141
abbrev dtGroupSize : Nat := 0x0142
abbrev dtFormatOutput : Nat := 0x0143
abbrev dtRotateOperand : Nat := 0x0144
abbrev dtRotateShape : Nat := 0x0145
abbrev dtOutputEmpty : Nat := 0x0146
abbrev dtLayoutChannels : Nat := 0x0147
abbrev dtOperationForm : Nat := 0x0148
abbrev dtLineBuffer : Nat := 0x0149
abbrev dtCodecBlock : Nat := 0x014A
abbrev dtCodecDescriptor : Nat := 0x014B
abbrev dtVeProgram : Nat := 0x014C
abbrev dtDmaProgram : Nat := 0x014D
abbrev dtHaloPair : Nat := 0x0150
abbrev dtHaloSpan : Nat := 0x0151
abbrev dtFgLoop : Nat := 0x0160
abbrev dtFgRegion : Nat := 0x0161
abbrev dtFgEnabled : Nat := 0x0162
abbrev dtFgReserved : Nat := 0x0163
abbrev dtRasterForm : Nat := 0x0170
abbrev dtDlPacket : Nat := 0x0171
abbrev dtBinOverflow : Nat := 0x0172
abbrev dtGalRegion : Nat := 0x0178
abbrev dtGalEnabled : Nat := 0x0179
abbrev dtGalReserved : Nat := 0x017A
abbrev dtVisForm : Nat := 0x0180
abbrev dtVisRange : Nat := 0x0181
abbrev dtVisStream : Nat := 0x0182
abbrev dtSourceBound : Nat := 0x0190
abbrev dtSnsRing : Nat := 0x0191
abbrev dtFeedSequence : Nat := 0x0192
abbrev dtFeedOffset : Nat := 0x0193
abbrev dtFeedSize : Nat := 0x0194
abbrev dtRingFull : Nat := 0x0195
abbrev dtContextKind : Nat := 0x0196
abbrev dtDecRegion : Nat := 0x01A0
abbrev dtStreamLimit : Nat := 0x01A1
abbrev dtStreamUnknown : Nat := 0x01A2
abbrev dtRingSpace : Nat := 0x01A3
abbrev dtPixelLimit : Nat := 0x01A4
abbrev dtGlobalLimit : Nat := 0x01A5
abbrev dtExpansion : Nat := 0x01A6
abbrev dtSlotSize : Nat := 0x01A7
abbrev dtWorkSize : Nat := 0x01A8
abbrev dtCodecUnsupported : Nat := 0x01A9
abbrev dtDataCorrupt : Nat := 0x01AA
abbrev dtAugParam : Nat := 0x01AB
abbrev dtRecordFormat : Nat := 0x01AC
abbrev dtStreamEnded : Nat := 0x01AE
abbrev dtDspMode : Nat := 0x01B0
abbrev dtDspLead : Nat := 0x01B1
abbrev dtOutputInUse : Nat := 0x01B2
abbrev dtPixelBudget : Nat := 0x01B3
abbrev dtLinkBudget : Nat := 0x01B4
abbrev dtDspRegion : Nat := 0x01B5
abbrev dtFallbackSize : Nat := 0x01B6
abbrev dtPipeDisabled : Nat := 0x01B7
abbrev dtWallKey : Nat := 0x01C0
abbrev dtGclForm : Nat := 0x01C1
abbrev dtTableForm : Nat := 0x01C2
abbrev dtReduceBuffer : Nat := 0x01D0
abbrev dtFwAbsent : Nat := 0x01E0
abbrev dtFwPending : Nat := 0x01E1
abbrev dtFwImage : Nat := 0x01E2
abbrev dtFwSignature : Nat := 0x01E3
abbrev dtFwEmergency : Nat := 0x01E4
abbrev dtHbmSelftest : Nat := 0x01E5
abbrev dtCoreSelftest : Nat := 0x01E6
abbrev dtKeyInvalid : Nat := 0x01F0
abbrev dtEntropyFailed : Nat := 0x01F1
abbrev dtOwnerSignature : Nat := 0x01F2
abbrev dtRollbackAboveRunning : Nat := 0x01F3
abbrev dtKeyInUse : Nat := 0x01F4

/-! ## Packet flags (R57) -/

abbrev fgReply : Nat := 0x01
abbrev fgCompletion : Nat := 0x03
abbrev fgEvent : Nat := 0x04
abbrev fgAckOnly : Nat := 0x08

/-! ## Opcodes (R84) -/

abbrev opSessionOpen : Nat := 0x0001
abbrev opSessionAuth : Nat := 0x0002
abbrev opSessionClose : Nat := 0x0003
abbrev opHeartbeat : Nat := 0x0004
abbrev opEcho : Nat := 0x0005
abbrev opDeviceInfo : Nat := 0x0006
abbrev opCompletionQuery : Nat := 0x0007
abbrev opMemMap : Nat := 0x0101
abbrev opMemUnmap : Nat := 0x0102
abbrev opMemProtect : Nat := 0x0103
abbrev opMemWrite : Nat := 0x0104
abbrev opMemRead : Nat := 0x0105
abbrev opMmuWalk : Nat := 0x0106
abbrev opFaultResume : Nat := 0x0107
abbrev opFaultEvent : Nat := 0x01F0
abbrev opEccEvent : Nat := 0x01F1
abbrev opLoopCreate : Nat := 0x0201
abbrev opLoopDestroy : Nat := 0x0202
abbrev opStepSubmit : Nat := 0x0203
abbrev opSeqSubmit : Nat := 0x0204
abbrev opFuncDisable : Nat := 0x0205
abbrev opFuncEnable : Nat := 0x0206
abbrev opKillEvent : Nat := 0x02F0
abbrev opRegRead : Nat := 0x0301
abbrev opRegWrite : Nat := 0x0302
abbrev opRegUpdate : Nat := 0x0303
abbrev opRegReadList : Nat := 0x0304
abbrev opRegWait : Nat := 0x0305
abbrev opDspScan : Nat := 0x0401
abbrev opDspAux : Nat := 0x0402
abbrev opDspFallbackSet : Nat := 0x0403
abbrev opDspDsiCmd : Nat := 0x0404
abbrev opDspLinkEvent : Nat := 0x04F0
abbrev opSnsFeed : Nat := 0x0501
abbrev opSnsScan : Nat := 0x0502
abbrev opSnsSourceEvent : Nat := 0x05F0
abbrev opDecOpen : Nat := 0x0601
abbrev opDecClose : Nat := 0x0602
abbrev opDecPush : Nat := 0x0603
abbrev opTimeRead : Nat := 0x0701
abbrev opNetGclWrite : Nat := 0x0702
abbrev opNetStreamTable : Nat := 0x0703
abbrev opWallKey : Nat := 0x0704
abbrev opTimeEvent : Nat := 0x07F0
abbrev opWallEvent : Nat := 0x07F1
abbrev opFwLoad : Nat := 0x0801
abbrev opFwActivate : Nat := 0x0802
abbrev opFwRestart : Nat := 0x0803
abbrev opFwEvent : Nat := 0x08F0
abbrev opPwrEvent : Nat := 0x08F1
abbrev opSecCert : Nat := 0x0901
abbrev opSecAttest : Nat := 0x0902
abbrev opOwnerChange : Nat := 0x0903
abbrev opSecKeyRevoke : Nat := 0x0904
abbrev opSecRollbackRaise : Nat := 0x0905
abbrev opLogRead : Nat := 0x0A01

end Sys2Proof.Machine
end

