-- ==== Sys2Proof/Machine/Tab.lean ====
section
/-! DEFINITION. Machine/Tab.lean: sparse tables (a list of key and value pairs with a value that an
unlisted key reads as), and the byte order of R4. -/

namespace Sys2Proof.Machine

/-- A sparse table: rising keys, each with its value. -/
abbrev Tab (α : Type) := List (Nat × α)

/-- The value at a key, or the given one where the table lists none. -/
def tabGet {α : Type} (t : Tab α) (dflt : α) (k : Nat) : α :=
  match t with
  | [] => dflt
  | (j, v) :: r => if j = k then v else tabGet r dflt k

/-- The value at a key, where the table lists one. -/
def tabFind {α : Type} (t : Tab α) (k : Nat) : Option α :=
  match t with
  | [] => none
  | (j, v) :: r => if j = k then some v else tabFind r k

/-- Put a value at a key: in key order. -/
def tabSet {α : Type} (t : Tab α) (k : Nat) (v : α) : Tab α :=
  match t with
  | [] => [(k, v)]
  | (j, w) :: r =>
    if k < j then (k, v) :: (j, w) :: r
    else if k = j then (k, v) :: r
    else (j, w) :: tabSet r k v

/-- Drop a key. -/
def tabErase {α : Type} (t : Tab α) (k : Nat) : Tab α :=
  match t with
  | [] => []
  | (j, w) :: r => if j = k then tabErase r k else (j, w) :: tabErase r k

/-- Put a value at a key in canonical form: a value equal to the default is not listed. -/
def tabPut {α : Type} [DecidableEq α] (t : Tab α) (dflt : α) (k : Nat) (v : α) : Tab α :=
  if v = dflt then tabErase t k else tabSet t k v

/-- Keys strictly rising. -/
def tabSorted {α : Type} : Tab α → Bool
  | [] => true
  | [_] => true
  | (j, _) :: (k, w) :: r => decide (j < k) && tabSorted ((k, w) :: r)

/-- The keys of a table. -/
def tabKeys {α : Type} (t : Tab α) : List Nat := t.map (·.1)

/-- Apply a function to every listed value. -/
def tabMap {α : Type} (f : Nat → α → α) : Tab α → Tab α
  | [] => []
  | (j, v) :: r => (j, f j v) :: tabMap f r

/-! ## Bytes (R4) -/

/-- The n low bytes of a number, least significant first. -/
def leBytes : Nat → Nat → List Byte
  | 0, _ => []
  | n + 1, v => BitVec.ofNat 8 v :: leBytes n (v / 256)

/-- The number whose bytes, least significant first, are given. -/
def leNat : List Byte → Nat
  | [] => 0
  | b :: r => b.toNat + 256 * leNat r

/-- The number that n bytes spell from an offset of a byte string; bytes past its end count 0. -/
def leAt (l : List Byte) (off n : Nat) : Nat := leNat ((l.drop off).take n)

/-- n zero bytes. -/
def zeros (n : Nat) : List Byte := List.replicate n 0

/-- A byte string cut or filled with zero bytes to n bytes. -/
def fit (n : Nat) (l : List Byte) : List Byte := l.take n ++ zeros (n - l.length)

/-- Bits [hi:lo] of a number. -/
def bits (w hi lo : Nat) : Nat := w / 2 ^ lo % 2 ^ (hi + 1 - lo)

/-- Bit i of a number. -/
def bit (w i : Nat) : Bool := w / 2 ^ i % 2 == 1

def boolNat (b : Bool) : Nat := if b then 1 else 0

/-- Two's complement: the integer that the low n bits of a number spell. -/
def sInt (n w : Nat) : Int :=
  let v := w % 2 ^ n
  if 2 * v < 2 ^ n then (v : Int) else (v : Int) - (2 ^ n : Nat)

/-- The n-bit two's complement code of an integer. -/
def uCode (n : Nat) (i : Int) : Nat := (i % ((2 ^ n : Nat) : Int)).toNat

/-- Division rounded up. -/
def ceilDiv (a b : Nat) : Nat := (a + b - 1) / b

/-- The next multiple of b at or above a. -/
def roundUp (a b : Nat) : Nat := ceilDiv a b * b

/-- The numbers from a to a + n - 1. -/
def upFrom (a n : Nat) : List Nat := (List.range n).map (a + ·)

/-- Integer part of the square root of n, by bits from the top of a fuel of result bits. -/
def isqrtLoop : Nat → Nat → Nat → Nat
  | 0, _, r => r
  | k + 1, n, r =>
    let t := r + 2 ^ k
    isqrtLoop k n (if t * t ≤ n then t else r)

def isqrt (n : Nat) : Nat := isqrtLoop (n.log2 / 2 + 1) n 0

end Sys2Proof.Machine
end

