-- ==== Sys2Proof/Machine/Num.lean ====
section
/-! DEFINITION. Machine/Num.lean: the number formats of R205 to R212, the one rounding rule R211,
sums with the zero rule of R221, and the special functions of R232 and R233. An exact value is a
signed fraction; no step rounds but the stated ones. -/

namespace Sys2Proof.Machine

/-- An exact value: a NaN, an infinity, or a signed fraction (a zero keeps its sign). -/
inductive Ext where
  | nan
  | inf (neg : Bool)
  | fin (neg : Bool) (num den : Nat)
  deriving DecidableEq, Repr

/-- A floating-point format of R205. -/
structure Fmt where
  ebits  : Nat
  mbits  : Nat
  bias   : Nat
  hasInf : Bool
  maxNum : Nat      -- the largest finite value, as maxNum / maxDen
  maxDen : Nat
  maxMag : Nat      -- its code without sign
  nanCode : Nat     -- canonical NaN (R210)
  deriving DecidableEq, Repr

def fp32 : Fmt := ⟨8, 23, 127, true, (2 ^ 24 - 1) * 2 ^ 104, 1, 0x7F7FFFFF, 0x7FC00000⟩
def fp16 : Fmt := ⟨5, 10, 15, true, 65504, 1, 0x7BFF, 0x7E00⟩
def bf16 : Fmt := ⟨8, 7, 127, true, (2 ^ 8 - 1) * 2 ^ 120, 1, 0x7F7F, 0x7FC0⟩
def e5m6 : Fmt := ⟨5, 6, 15, true, 65024, 1, 0x7BF, 0x7E0⟩
def fp8e4m3 : Fmt := ⟨4, 3, 7, false, 448, 1, 0x7E, 0x7F⟩
def fp8e5m2 : Fmt := ⟨5, 2, 15, true, 57344, 1, 0x7B, 0x7E⟩
def fp4e2m1 : Fmt := ⟨2, 1, 1, false, 6, 1, 0x7, 0x0⟩

/-- IEEE double, used by the firmware's servo arithmetic. -/
def fp64 : Fmt := ⟨11, 52, 1023, true, (2 ^ 53 - 1) * 2 ^ 971, 1, 0x7FEFFFFFFFFFFFFF, 0x7FF8000000000000⟩

def Fmt.width (f : Fmt) : Nat := 1 + f.ebits + f.mbits

/-- The sign bit in place. -/
def Fmt.sign (f : Fmt) (neg : Bool) : Nat := if neg then 2 ^ (f.ebits + f.mbits) else 0

/-- 2^i as a fraction. -/
def pow2Num (i : Int) : Nat := 2 ^ i.toNat
def pow2Den (i : Int) : Nat := 2 ^ (-i).toNat

/-- floor(log2(num / den)), num and den nonzero. -/
def floorLog2 (num den : Nat) : Int :=
  let e : Int := (num.log2 : Int) - den.log2
  if den * pow2Num e ≤ num * pow2Den e then e else e - 1

/-- The nearest integer to num / den, ties to even. -/
def roundHalfEven (num den : Nat) : Nat :=
  let q := num / den
  let r := num % den
  if den < 2 * r ∨ (2 * r = den ∧ q % 2 = 1) then q + 1 else q

inductive Ovf where
  | ieee
  | sat
  deriving DecidableEq, Repr

def Fmt.infCode (f : Fmt) (neg : Bool) : Nat := f.sign neg + (2 ^ f.ebits - 1) * 2 ^ f.mbits

def Fmt.overflow (f : Fmt) (m : Ovf) (neg : Bool) : Nat :=
  if m = .sat ∨ !f.hasInf then f.sign neg + f.maxMag else f.infCode neg

/-- round_fmt (R211): the code of the format's value nearest to x, ties to even. -/
def roundFmt (x : Ext) (f : Fmt) (m : Ovf) : Nat :=
  match x with
  | .nan => f.nanCode
  | .inf s => f.overflow m s
  | .fin s num den =>
    if num = 0 then f.sign s else
    let e0 := max (floorLog2 num den) (1 - (f.bias : Int))
    let u0 := e0 - f.mbits
    let n0 := roundHalfEven (num * pow2Den u0) (den * pow2Num u0)
    let full := n0 == 2 ^ (f.mbits + 1)
    let n := if full then 2 ^ f.mbits else n0
    let e := if full then e0 + 1 else e0
    let u := e - f.mbits
    if f.maxNum * pow2Den u < n * pow2Num u * f.maxDen then f.overflow m s
    else if n < 2 ^ f.mbits then f.sign s + n
    else f.sign s + (e + f.bias).toNat * 2 ^ f.mbits + (n - 2 ^ f.mbits)

/-- The value of a code of a format (R206, with the infinity and NaN codes of R205). -/
def decodeFmt (f : Fmt) (code : Nat) : Ext :=
  let s := bit code (f.ebits + f.mbits)
  let e := bits code (f.ebits + f.mbits - 1) f.mbits
  let m := code % 2 ^ f.mbits
  let top := e == 2 ^ f.ebits - 1
  if f.hasInf && top then (if m = 0 then .inf s else .nan)
  else if f.ebits = 4 && top && m == 7 then .nan
  else
    let sig := if e = 0 then m else 2 ^ f.mbits + m
    let u : Int := (max e 1 : Nat) - (f.bias : Int) - f.mbits
    .fin s (sig * pow2Num u) (pow2Den u)

/-- Signed integer operand codes (R207). -/
def decodeInt (n code : Nat) : Ext :=
  let i := sInt n code
  .fin (decide (i < 0)) i.natAbs 1

def extOfInt (i : Int) : Ext := .fin (decide (i < 0)) i.natAbs 1

def Ext.neg : Ext → Ext
  | .nan => .nan
  | .inf s => .inf (!s)
  | .fin s n d => .fin (!s) n d

def Ext.abs : Ext → Ext
  | .nan => .nan
  | .inf _ => .inf false
  | .fin _ n d => .fin false n d

def Ext.isNan : Ext → Bool
  | .nan => true
  | _ => false

def Ext.signBit : Ext → Bool
  | .nan => false
  | .inf s => s
  | .fin s _ _ => s

/-- The exact product (R215); a zero times an infinity has no value and gives a NaN, as R213 has it. -/
def Ext.mul : Ext → Ext → Ext
  | .nan, _ => .nan
  | _, .nan => .nan
  | .inf s, .inf t => .inf (s != t)
  | .inf s, .fin t n _ => if n = 0 then .nan else .inf (s != t)
  | .fin t n _, .inf s => if n = 0 then .nan else .inf (s != t)
  | .fin s n d, .fin t m e => .fin (s != t) (n * m) (d * e)

/-- Signed numerator of a finite value over a given denominator multiple. -/
def sgn (neg : Bool) (n : Nat) : Int := if neg then -(n : Int) else n

/-- The exact sum of addends, as R221 has it. -/
def extSum (l : List Ext) : Ext :=
  let step := fun (acc : Ext) (x : Ext) =>
    match acc, x with
    | .nan, _ => .nan
    | _, .nan => .nan
    | .inf s, .inf t => if s = t then .inf s else .nan
    | .inf s, .fin _ _ _ => .inf s
    | .fin _ _ _, .inf s => .inf s
    | .fin s n d, .fin t m e =>
      if n = 0 ∧ m = 0 then .fin (s && t) 0 1
      else
        let v : Int := if d = e then sgn s n + sgn t m else sgn s (n * e) + sgn t (m * d)
        let c := if d = e then d else d * e
        if v = 0 then .fin false 0 1 else .fin (decide (v < 0)) v.natAbs c
  match l with
  | [] => .fin false 0 1
  | x :: r => r.foldl step x

/-- An exactly zero sum is +0 unless every addend is −0 (R221). -/
def sumZeroRule (l : List Ext) (x : Ext) : Ext :=
  match x with
  | .fin _ 0 _ => .fin (l.all fun y => match y with | .fin true 0 _ => true | _ => false) 0 1
  | y => y

/-- rn32 of the exact sum of addends (R219, R221). -/
def rn32Sum (l : List Ext) : Nat := roundFmt (sumZeroRule l (extSum l)) fp32 .ieee

def rn32 (x : Ext) : Nat := roundFmt x fp32 .ieee

def f32 (w : Nat) : Ext := decodeFmt fp32 w

def f32Add (a b : Nat) : Nat := rn32Sum [f32 a, f32 b]
def f32Sub (a b : Nat) : Nat := rn32Sum [f32 a, (f32 b).neg]
def f32Mul (a b : Nat) : Nat := rn32 ((f32 a).mul (f32 b))
def f32Fma (a b c : Nat) : Nat := rn32Sum [(f32 a).mul (f32 b), f32 c]

/-- Order of exact values: negative, zero or positive difference; −0 equals +0. -/
def extCmp (a b : Ext) : Int :=
  match a, b with
  | .inf s, .inf t => if s = t then 0 else if s then -1 else 1
  | .inf s, _ => if s then -1 else 1
  | _, .inf t => if t then 1 else -1
  | .fin s n d, .fin t m e => sgn s (n * e) - sgn t (m * d)
  | _, _ => 0

/-- FP32 comparison by value: less, −0 equal to +0, false with a NaN (R230). -/
def f32Lt (a b : Nat) : Bool :=
  !(f32 a).isNan && !(f32 b).isNan && decide (extCmp (f32 a) (f32 b) < 0)
def f32Eq (a b : Nat) : Bool :=
  !(f32 a).isNan && !(f32 b).isNan && decide (extCmp (f32 a) (f32 b) = 0)
def f32Le (a b : Nat) : Bool := f32Lt a b || f32Eq a b
def f32Nan (a : Nat) : Bool := (f32 a).isNan

/-- Order with −0 below +0, no NaN (R223, R230). -/
def f32Below (a b : Nat) : Bool :=
  f32Lt a b || (f32Eq a b && bit a 31 && !bit b 31)

def nan32 : Nat := 0x7FC00000

/-- FMIN and FMAX: the canonical NaN with a NaN operand, −0 below +0 (R230). -/
def f32Min (a b : Nat) : Nat := if f32Nan a || f32Nan b then nan32 else if f32Below a b then a else b
def f32Max (a b : Nat) : Nat := if f32Nan a || f32Nan b then nan32 else if f32Below a b then b else a

/-- abs and negation are sign operations; a NaN result is the canonical NaN (R210). -/
def f32Abs (a : Nat) : Nat := if f32Nan a then nan32 else a % 2 ^ 31
def f32Neg (a : Nat) : Nat := if f32Nan a then nan32 else if bit a 31 then a - 2 ^ 31 else a + 2 ^ 31
def f32CopySign (a b : Nat) : Nat :=
  if f32Nan a then nan32 else a % 2 ^ 31 + (if bit b 31 then 2 ^ 31 else 0)

/-- Conversion to an n-bit two's complement integer (R212). -/
def extToSInt (n : Nat) (x : Ext) : Int :=
  let hi : Int := 2 ^ (n - 1) - 1
  let lo : Int := -2 ^ (n - 1)
  match x with
  | .nan => 0
  | .inf s => if s then lo else hi
  | .fin s a d => max lo (min hi (sgn s (roundHalfEven a d)))

/-- Conversion to an n-bit unsigned integer, by R212's rule over its own range. -/
def extToUInt (n : Nat) (x : Ext) : Nat :=
  match x with
  | .nan => 0
  | .inf s => if s then 0 else 2 ^ n - 1
  | .fin s a d => if s then 0 else min (2 ^ n - 1) (roundHalfEven a d)

/-- Exact quotient; zero and infinite divisors by the limits R232 gives rcp; none where the
quotient has no value. -/
def Ext.div : Ext → Ext → Option Ext
  | .nan, _ => some .nan
  | _, .nan => some .nan
  | .inf _, .inf _ => none
  | .inf s, .fin t _ _ => some (.inf (s != t))
  | .fin s _ _, .inf t => some (.fin (s != t) 0 1)
  | .fin s n d, .fin t m e =>
    if m = 0 then (if n = 0 then none else some (.inf (s != t)))
    else some (.fin (s != t) (n * e) (d * m))

/-! ## Special functions (R232): exact where the result is rational, otherwise a value known to far
more places than a rounding needs, in fixed point with 512 fractional bits. -/

def fxBits : Nat := 512
def fxOne : Nat := 2 ^ fxBits

/-- atanh(z) = z + z^3/3 + z^5/5 + …, in fixed point. -/
def fxAtanhLoop : Nat → Nat → Nat → Nat → Nat → Nat
  | 0, _, _, _, acc => acc
  | k + 1, p, z2, i, acc => fxAtanhLoop k (p * z2 / fxOne) z2 (i + 2) (acc + p / i)

def fxAtanh (z : Nat) : Nat := fxAtanhLoop 180 z (z * z / fxOne) 1 0

def fxLn2 : Nat := 2 * fxAtanh (fxOne / 3)

/-- e^y for y in [0, 1). -/
def fxExpLoop : Nat → Nat → Nat → Nat → Nat → Nat
  | 0, _, _, _, acc => acc
  | k + 1, t, y, i, acc => fxExpLoop k (t * y / fxOne / i) y (i + 1) (acc + t)

def fxExp (y : Nat) : Nat := fxExpLoop 110 fxOne y 1 0

/-- arctan(1 / n) by its alternating series. -/
def fxAtanInvLoop : Nat → Nat → Nat → Nat → Bool → Int → Int
  | 0, _, _, _, _, acc => acc
  | k + 1, p, n, i, s, acc =>
    fxAtanInvLoop k (p / (n * n)) n (i + 2) (!s) (acc + sgn s (p / i))

def fxAtanInv (n : Nat) : Int := fxAtanInvLoop 240 (fxOne / n) n 1 false 0

/-- π by Machin's formula. -/
def fxPi : Nat := (16 * fxAtanInv 5 - 4 * fxAtanInv 239).toNat

/-- sin y for y in [0, 1.6) by its alternating series. -/
def fxSinLoop : Nat → Nat → Nat → Nat → Bool → Int → Int
  | 0, _, _, _, _, acc => acc
  | k + 1, t, y2, i, s, acc =>
    fxSinLoop k (t * y2 / fxOne / ((i + 1) * (i + 2))) y2 (i + 2) (!s) (acc + sgn s t)

def fxSin (y : Nat) : Nat := (fxSinLoop 60 y (y * y / fxOne) 1 false 0).toNat

/-- num / den in fixed point, rounded down. -/
def fx (num den : Nat) : Nat := num * fxOne / den

/-- A square root with a sticky bit below its last place. -/
def sqrtExt (num den : Nat) : Ext :=
  let k : Nat := 300
  let v := num * 2 ^ (2 * k) / den
  let r := isqrt v
  let exact := r * r * den == num * 2 ^ (2 * k)
  .fin false (2 * r + (if exact then 0 else 1)) (2 ^ (k + 1))

def extSqrt : Ext → Ext
  | .nan => .nan
  | .inf s => if s then .nan else .inf false
  | .fin s n d => if n = 0 then .fin s 0 1 else if s then .nan else sqrtExt n d

def extRsqrt : Ext → Ext
  | .nan => .nan
  | .inf s => if s then .nan else .fin false 0 1
  | .fin s n d => if n = 0 then .inf s else if s then .nan else sqrtExt d n

def extRcp : Ext → Ext
  | .nan => .nan
  | .inf s => .fin s 0 1
  | .fin s n d => if n = 0 then .inf s else .fin s d n

def extExp2 : Ext → Ext
  | .nan => .nan
  | .inf s => if s then .fin false 0 1 else .inf false
  | .fin s n d =>
    let k : Int := sgn s n / (d : Int)
    let f : Nat := (sgn s n - k * d).toNat
    -- beyond these the rounding result does not change
    if 200 < k then .fin false (2 ^ 200) 1
    else if k < -400 then .fin false 1 (2 ^ 400)
    else if f = 0 then .fin false (pow2Num k) (pow2Den k)
    else .fin false (fxExp (fx f d * fxLn2 / fxOne) * pow2Num k) (fxOne * pow2Den k)

def extLog2 : Ext → Ext
  | .nan => .nan
  | .inf s => if s then .nan else .inf false
  | .fin s n d =>
    if n = 0 then .inf true else if s then .nan else
    let e := floorLog2 n d
    let a := n * pow2Den e
    let b := d * pow2Num e
    if a = b then extOfInt e
    else
      let l : Int := 2 * fxAtanh (fx (a - b) (a + b)) * fxOne / fxLn2
      let v : Int := e * fxOne + l
      .fin (decide (v < 0)) v.natAbs fxOne

/-- sin(π t) for t = n / d, sign and zero sign by R232. -/
def extSinPi : Ext → Ext
  | .nan => .nan
  | .inf _ => .nan
  | .fin s n d =>
    let r := n % (2 * d)
    if r % d = 0 then .fin s 0 1
    else
      let neg := decide (d < r)
      let q := if neg then r - d else r       -- in (0, d)
      let h := if d < 2 * q then d - q else q   -- sin π(1 − t) = sin π t
      if 2 * h = d then .fin (s != neg) 1 1
      else .fin (s != neg) (fxSin (fx h d * fxPi / fxOne)) fxOne

def extCosPi : Ext → Ext
  | .nan => .nan
  | .inf _ => .nan
  | .fin _ n d =>
    match extSinPi (.fin false (2 * n + d) (2 * d)) with
    | .fin _ 0 _ => .fin false 0 1
    | x => x

def f32Rcp (a : Nat) : Nat := rn32 (extRcp (f32 a))
/-- DIV; where the quotient has no value the result is free (R232 states none; log entry 7). -/
def f32Div (a b : Nat) : Nat :=
  match (f32 a).div (f32 b) with
  | some x => rn32 x
  | none => (Config.divCorner (BitVec.ofNat 32 a) (BitVec.ofNat 32 b)).toNat
def f32Sqrt (a : Nat) : Nat := rn32 (extSqrt (f32 a))
def f32Rsqrt (a : Nat) : Nat := rn32 (extRsqrt (f32 a))
def f32Exp2 (a : Nat) : Nat := rn32 (extExp2 (f32 a))
def f32Log2 (a : Nat) : Nat := rn32 (extLog2 (f32 a))
def f32SinPi (a : Nat) : Nat := rn32 (extSinPi (f32 a))
def f32CosPi (a : Nat) : Nat := rn32 (extCosPi (f32 a))

/-- 1.44269504f, 0.693147182f and −2.88539008f of R233, as the FP32 nearest to each. -/
def cLog2e : Nat := rn32 (.fin false 144269504 100000000)
def cLn2 : Nat := rn32 (.fin false 693147182 1000000000)
def cTanh : Nat := rn32 (.fin true 288539008 100000000)
def one32 : Nat := 0x3F800000

/-- The compositions of R233, each operation rounding once. -/
def f32Exp (x : Nat) : Nat := f32Exp2 (f32Mul x cLog2e)
def f32Log (x : Nat) : Nat := f32Mul (f32Log2 x) cLn2
def f32Sigmoid (x : Nat) : Nat := f32Rcp (f32Add one32 (f32Exp2 (f32Mul x (f32Neg cLog2e))))
def f32Tanh (x : Nat) : Nat :=
  let a := f32Abs x
  if f32Lt a 0x39800000 then x
  else if f32Le 0x41100000 a then f32CopySign one32 x
  else
    let e := f32Exp2 (f32Mul a cTanh)
    let q := f32Div (f32Sub one32 e) (f32Add one32 e)
    if f32Nan q then nan32 else f32CopySign q x

/-! ## Format codes of R224 -/

/-- The floating-point format of a format code 0 to 5. -/
def fmtOf (c : Nat) : Option Fmt :=
  match c with
  | 0 => some fp32
  | 1 => some fp16
  | 2 => some bf16
  | 3 => some fp8e4m3
  | 4 => some fp8e5m2
  | 5 => some fp4e2m1
  | _ => none

/-- Element width in bits of a format code. -/
def fmtBits (c : Nat) : Nat :=
  match c with
  | 0 => 32
  | 1 => 16
  | 2 => 16
  | 3 => 8
  | 4 => 8
  | 5 => 4
  | 6 => 8
  | 7 => 6
  | _ => 4

/-- A format of the narrow set of R216. -/
def isNarrow (c : Nat) : Bool := 3 ≤ c && c ≤ 8

/-- The exact value of a code of a format code. -/
def decodeCode (c code : Nat) : Ext :=
  match fmtOf c with
  | some f => decodeFmt f code
  | none => decodeInt (fmtBits c) code

/-- Conversion of an exact value to a format code, in the mode given (R211, R212). -/
def encodeCode (c : Nat) (m : Ovf) (x : Ext) : Nat :=
  match fmtOf c with
  | some f => roundFmt x f m
  | none => uCode (fmtBits c) (extToSInt (fmtBits c) x)

/-- Bytes of a row of n elements, padded to whole bytes or byte triples (R208). -/
def rowBytes (c n : Nat) : Nat :=
  match c with
  | 7 => 3 * ceilDiv n 4
  | _ => ceilDiv (n * fmtBits c) 8

/-- The code of element j of a packed row (R208). -/
def elemAt (c : Nat) (row : List Byte) (j : Nat) : Nat :=
  match c with
  | 7 => bits (leAt row (3 * (j / 4)) 3) (6 * (j % 4) + 5) (6 * (j % 4))
  | 5 => bits (leAt row (j / 2) 1) (4 * (j % 2) + 3) (4 * (j % 2))
  | 8 => bits (leAt row (j / 2) 1) (4 * (j % 2) + 3) (4 * (j % 2))
  | _ => leAt row (j * (fmtBits c / 8)) (fmtBits c / 8)

/-- The number whose bit fields of width w, lowest first, are given. -/
def packBits (w : Nat) : List Nat → Nat
  | [] => 0
  | x :: r => x % 2 ^ w + 2 ^ w * packBits w r

/-- A packed row of codes, zero-padded (R208). -/
def packRow (c : Nat) (codes : List Nat) : List Byte :=
  leBytes (rowBytes c codes.length) (packBits (fmtBits c) codes)

/-- expand (R213): the E5M6 value of a narrow code under a BF16 scale. -/
def expandCode (c code scale : Nat) : Nat :=
  let v := decodeCode c code
  let s := decodeFmt bf16 scale
  match v, s with
  | .nan, _ => 0x7E0
  | _, .nan => 0x7E0
  | _, .inf _ => 0x7E0
  | .inf t, .fin u n _ => if n = 0 then 0x7E0 else e5m6.infCode (t != u)
  | v, s => roundFmt (v.mul s) e5m6 .sat

/-- Scale 1.0 in BF16. -/
def bf16One : Nat := 0x3F80

end Sys2Proof.Machine
end

