-- ==== Sys2Proof/Machine/Operands.lean ====
section
/-! DEFINITION. Machine/Operands.lean: the byte layouts of request payloads. requestOf reads a
payload into the command that the sequencer takes (check 10 of R65 refuses a length that does not
suit the opcode); requestBytes writes a command's opcode and payload. -/

namespace Sys2Proof.Machine

open Sys2Proof

/-! ## Field readers -/

def byteAt (l : List Byte) (off : Nat) : Byte := BitVec.ofNat 8 (leAt l off 1)
def halfAt (l : List Byte) (off : Nat) : Half := BitVec.ofNat 16 (leAt l off 2)
def wordAt (l : List Byte) (off : Nat) : Word := BitVec.ofNat 32 (leAt l off 4)
def dwordAt (l : List Byte) (off : Nat) : DWord := BitVec.ofNat 64 (leAt l off 8)
def bvAt (w : Nat) (l : List Byte) (off n : Nat) : BitVec w := BitVec.ofNat w (leAt l off n)

/-- n bytes from an offset, or fewer where the string ends. -/
def sliceAt (l : List Byte) (off n : Nat) : List Byte := (l.drop off).take n

/-- n words from an offset. -/
def wordsAt (l : List Byte) (off : Nat) : Nat → List Word
  | 0 => []
  | n + 1 => wordAt l off :: wordsAt l (off + 4) n

/-- n control list entries of 8 bytes from an offset (R488). -/
def gclEntriesAt (l : List Byte) (off : Nat) : Nat → List GclEntry
  | 0 => []
  | n + 1 =>
    { interval := wordAt l off, gates := byteAt l (off + 4), reserved := bvAt 24 l (off + 5) 3 }
      :: gclEntriesAt l (off + 8) n

/-! ## Field writers -/

def b8 (v : Byte) : List Byte := [v]
def b16 (v : Half) : List Byte := leBytes 2 v.toNat
def b24 (v : BitVec 24) : List Byte := leBytes 3 v.toNat
def b32 (v : Word) : List Byte := leBytes 4 v.toNat
def b48 (v : BitVec 48) : List Byte := leBytes 6 v.toNat
def b56 (v : BitVec 56) : List Byte := leBytes 7 v.toNat
def b64 (v : DWord) : List Byte := leBytes 8 v.toNat

def wordsBytes : List Word → List Byte
  | [] => []
  | w :: r => b32 w ++ wordsBytes r

def gclEntriesBytes : List GclEntry → List Byte
  | [] => []
  | e :: r => b32 e.interval ++ b8 e.gates ++ b24 e.reserved ++ gclEntriesBytes r

/-- Why a payload length does not suit an opcode, if it does not: PAYLOAD_SHORT or PAYLOAD_LONG. -/
def lengthFault (have_ need : Nat) : Option Nat :=
  if have_ < need then some dtPayloadShort
  else if need < have_ then some dtPayloadLong
  else none

/-- The payload length that an opcode needs, given the payload (its count and length fields decide);
none for an opcode that no session knows. The opcodes 0x0001 and 0x0002 are not known in a session
(R62). -/
def payloadNeed (op : Nat) (p : List Byte) : Option Nat :=
  if op = opSessionClose then some 4
  else if op = opHeartbeat then some 8
  else if op = opEcho then some p.length
  else if op = opDeviceInfo then some 0
  else if op = opCompletionQuery then some 4
  else if op = opMemMap then some 24
  else if op = opMemUnmap then some 16
  else if op = opMemProtect then some 24
  else if op = opMemWrite then some (16 + leAt p 8 4)
  else if op = opMemRead then some 16
  else if op = opMmuWalk then some 8
  else if op = opFaultResume then some 8
  else if op = opLoopCreate then some 48
  else if op = opLoopDestroy then some 4
  else if op = opStepSubmit then some 24
  else if op = opSeqSubmit then some 24
  else if op = opFuncDisable then some 8
  else if op = opFuncEnable then some 8
  else if op = opRegRead then some 8
  else if op = opRegWrite then some (8 + 4 * leAt p 4 2)
  else if op = opRegUpdate then some 12
  else if op = opRegReadList then some (4 + 4 * leAt p 0 2)
  else if op = opRegWait then some 16
  else if op = opDspScan then some 0
  else if op = opDspAux then some (8 + if leAt p 1 1 = 1 then leAt p 2 2 else 0)
  else if op = opDspFallbackSet then some 24
  else if op = opDspDsiCmd then some (8 + leAt p 2 2)
  else if op = opSnsFeed then some (max 24 p.length)
  else if op = opSnsScan then some 0
  else if op = opDecOpen then some 64
  else if op = opDecClose then some 4
  else if op = opDecPush then some 16
  else if op = opTimeRead then some 0
  else if op = opNetGclWrite then some (24 + 8 * leAt p 4 2)
  else if op = opNetStreamTable then some 24
  else if op = opWallKey then some 32
  else if op = opFwLoad then some (max 9 p.length)
  else if op = opFwActivate then some 8
  else if op = opFwRestart then some 4
  else if op = opSecCert then some 0
  else if op = opSecAttest then some 32
  else if op = opOwnerChange then some 96
  else if op = opSecKeyRevoke then some 4
  else if op = opSecRollbackRaise then some 4
  else if op = opLogRead then some 8
  else none

/-- The command that a payload of a suitable length spells; none for an opcode that no session
knows. -/
def requestOf (op : Nat) (rq : Req) (p : List Byte) : Option Instr :=
  if op = opSessionClose then some (.sessionClose rq (wordAt p 0))
  else if op = opHeartbeat then some (.heartbeat rq (dwordAt p 0))
  else if op = opEcho then some (.echo rq p)
  else if op = opDeviceInfo then some (.deviceInfo rq)
  else if op = opCompletionQuery then some (.completionQuery rq (wordAt p 0))
  else if op = opMemMap then some (.memMap rq
    { va := dwordAt p 0, size := dwordAt p 8, pageSize := byteAt p 16, flags := byteAt p 17,
      reserved := bvAt 48 p 18 6 })
  else if op = opMemUnmap then some (.memUnmap rq (dwordAt p 0) (dwordAt p 8))
  else if op = opMemProtect then some (.memProtect rq (dwordAt p 0) (dwordAt p 8) (byteAt p 16) (bvAt 56 p 17 7))
  else if op = opMemWrite then some (.memWrite rq (dwordAt p 0) (wordAt p 8) (wordAt p 12) (p.drop 16))
  else if op = opMemRead then some (.memRead rq (dwordAt p 0) (wordAt p 8) (wordAt p 12))
  else if op = opMmuWalk then some (.mmuWalk rq (dwordAt p 0))
  else if op = opFaultResume then some (.faultResume rq (wordAt p 0) (wordAt p 4))
  else if op = opLoopCreate then some (.loopCreate rq
    { cls := byteAt p 0, kind := byteAt p 1, queueDepth := byteAt p 2, flags := byteAt p 3,
      pipe := byteAt p 4, reserved0 := bvAt 24 p 5 3, prefillVa := dwordAt p 8, tokenVa := dwordAt p 16,
      batchTableVa := dwordAt p 24, chunkTokens := halfAt p 32, maxBatch := halfAt p 34,
      prefillBytes := wordAt p 36, tokenBytes := wordAt p 40, reserved1 := wordAt p 44 })
  else if op = opLoopDestroy then some (.loopDestroy rq (wordAt p 0))
  else if op = opStepSubmit then some (.stepSubmit rq
    { loop := wordAt p 0, reserved0 := wordAt p 4, va := dwordAt p 8, length := wordAt p 16,
      reserved1 := wordAt p 20 })
  else if op = opSeqSubmit then some (.seqSubmit rq
    { loop := wordAt p 0, seqTag := wordAt p 4, promptVa := dwordAt p 8, promptLength := wordAt p 16,
      maxNewTokens := wordAt p 20 })
  else if op = opFuncDisable then some (.funcDisable rq
    { target := byteAt p 0, mode := byteAt p 1, reserved := halfAt p 2, id := wordAt p 4 })
  else if op = opFuncEnable then some (.funcEnable rq
    { target := byteAt p 0, mode := byteAt p 1, reserved := halfAt p 2, id := wordAt p 4 })
  else if op = opRegRead then some (.regRead rq (wordAt p 0) (halfAt p 4) (halfAt p 6))
  else if op = opRegWrite then some (.regWrite rq (wordAt p 0) (halfAt p 4) (halfAt p 6)
    (wordsAt p 8 (leAt p 4 2)))
  else if op = opRegUpdate then some (.regUpdate rq (wordAt p 0) (wordAt p 4) (wordAt p 8))
  else if op = opRegReadList then some (.regReadList rq (halfAt p 0) (halfAt p 2) (wordsAt p 4 (leAt p 0 2)))
  else if op = opRegWait then some (.regWait rq (wordAt p 0) (wordAt p 4) (wordAt p 8) (wordAt p 12))
  else if op = opDspScan then some (.dspScan rq)
  else if op = opDspAux then some (.dspAux rq
    { unit := byteAt p 0, op := byteAt p 1, length := halfAt p 2, address := wordAt p 4, data := p.drop 8 })
  else if op = opDspFallbackSet then some (.dspFallbackSet rq
    { pipe := byteAt p 0, format := byteAt p 1, factor := byteAt p 2, reserved0 := byteAt p 3,
      width := halfAt p 4, height := halfAt p 6, pitch := wordAt p 8, reserved1 := wordAt p 12,
      va := dwordAt p 16 })
  else if op = opDspDsiCmd then some (.dspDsiCmd rq
    { unit := byteAt p 0, dataType := byteAt p 1, length := halfAt p 2, readLength := halfAt p 4,
      reserved := halfAt p 6, data := p.drop 8 })
  else if op = opSnsFeed then some (.snsFeed rq
    { context := byteAt p 0, flags := byteAt p 1, reserved0 := halfAt p 2, sequence := wordAt p 4,
      stamp := wordAt p 8, offset := wordAt p 12, width := halfAt p 16, height := halfAt p 18,
      reserved1 := wordAt p 20, data := p.drop 24 })
  else if op = opSnsScan then some (.snsScan rq)
  else if op = opDecOpen then some (.decOpen rq
    { timeBase := byteAt p 0, lanesMax := byteAt p 1, outFormat := byteAt p 2, augMode := byteAt p 3,
      outSlots := byteAt p 4, seededOps := byteAt p 5, reserved0 := halfAt p 6, inVa := dwordAt p 8,
      in64k := wordAt p 16, slot64k := wordAt p 20, outVa := dwordAt p 24, workVa := dwordAt p 32,
      work64k := wordAt p 40, cropW := halfAt p 44, cropH := halfAt p 46, gainMax := wordAt p 48,
      reserved1 := wordAt p 52, seed := dwordAt p 56 })
  else if op = opDecClose then some (.decClose rq (byteAt p 0) (bvAt 24 p 1 3))
  else if op = opDecPush then some (.decPush rq
    { stream := byteAt p 0, flags := byteAt p 1, reserved0 := halfAt p 2, bytes := wordAt p 4,
      reserved1 := dwordAt p 8 })
  else if op = opTimeRead then some (.timeRead rq)
  else if op = opNetGclWrite then some (.netGclWrite rq
    { port := byteAt p 0, apply := byteAt p 1, first := halfAt p 2, count := halfAt p 4,
      length := halfAt p 6, baseTime := dwordAt p 8, cycle := wordAt p 16, reserved := wordAt p 20,
      entries := gclEntriesAt p 24 (leAt p 4 2) })
  else if op = opNetStreamTable then some (.netStreamTable rq
    { port := byteAt p 0, table := byteAt p 1, index := halfAt p 2, reserved := wordAt p 4,
      entry := sliceAt p 8 16 })
  else if op = opWallKey then some (.wallKey rq (sliceAt p 0 32))
  else if op = opFwLoad then some (.fwLoad rq (wordAt p 0) (wordAt p 4) (p.drop 8))
  else if op = opFwActivate then some (.fwActivate rq (wordAt p 0) (wordAt p 4))
  else if op = opFwRestart then some (.fwRestart rq (byteAt p 0) (bvAt 24 p 1 3))
  else if op = opSecCert then some (.secCert rq)
  else if op = opSecAttest then some (.secAttest rq (sliceAt p 0 32))
  else if op = opOwnerChange then some (.ownerChange rq (sliceAt p 0 32) (sliceAt p 32 64))
  else if op = opSecKeyRevoke then some (.secKeyRevoke rq (byteAt p 0) (bvAt 24 p 1 3))
  else if op = opSecRollbackRaise then some (.secRollbackRaise rq (wordAt p 0))
  else if op = opLogRead then some (.logRead rq (wordAt p 0) (halfAt p 4) (halfAt p 6))
  else none

/-- The opcode and payload of a request, as a host sends it; none for a command that no opcode of
its own carries (an event, a timer, a step of an engine, or a register write that has a row). -/
def requestBytes : Instr → Option (Nat × List Byte)
  | .sessionClose _ reason => some (opSessionClose, b32 reason)
  | .heartbeat _ v => some (opHeartbeat, b64 v)
  | .echo _ p => some (opEcho, p)
  | .deviceInfo _ => some (opDeviceInfo, [])
  | .completionQuery _ t => some (opCompletionQuery, b32 t)
  | .memMap _ a => some (opMemMap, b64 a.va ++ b64 a.size ++ b8 a.pageSize ++ b8 a.flags ++ b48 a.reserved)
  | .memUnmap _ va size => some (opMemUnmap, b64 va ++ b64 size)
  | .memProtect _ va size fl r => some (opMemProtect, b64 va ++ b64 size ++ b8 fl ++ b56 r)
  | .memWrite _ va len r d => some (opMemWrite, b64 va ++ b32 len ++ b32 r ++ d)
  | .memRead _ va len r => some (opMemRead, b64 va ++ b32 len ++ b32 r)
  | .mmuWalk _ va => some (opMmuWalk, b64 va)
  | .faultResume _ i a => some (opFaultResume, b32 i ++ b32 a)
  | .loopCreate _ a => some (opLoopCreate,
      b8 a.cls ++ b8 a.kind ++ b8 a.queueDepth ++ b8 a.flags ++ b8 a.pipe ++ b24 a.reserved0
      ++ b64 a.prefillVa ++ b64 a.tokenVa ++ b64 a.batchTableVa ++ b16 a.chunkTokens ++ b16 a.maxBatch
      ++ b32 a.prefillBytes ++ b32 a.tokenBytes ++ b32 a.reserved1)
  | .loopDestroy _ l => some (opLoopDestroy, b32 l)
  | .stepSubmit _ a => some (opStepSubmit,
      b32 a.loop ++ b32 a.reserved0 ++ b64 a.va ++ b32 a.length ++ b32 a.reserved1)
  | .seqSubmit _ a => some (opSeqSubmit,
      b32 a.loop ++ b32 a.seqTag ++ b64 a.promptVa ++ b32 a.promptLength ++ b32 a.maxNewTokens)
  | .funcDisable _ a => some (opFuncDisable, b8 a.target ++ b8 a.mode ++ b16 a.reserved ++ b32 a.id)
  | .funcEnable _ a => some (opFuncEnable, b8 a.target ++ b8 a.mode ++ b16 a.reserved ++ b32 a.id)
  | .regRead _ a c r => some (opRegRead, b32 a ++ b16 c ++ b16 r)
  | .regWrite _ a c r vs => some (opRegWrite, b32 a ++ b16 c ++ b16 r ++ wordsBytes vs)
  | .regUpdate _ a m v => some (opRegUpdate, b32 a ++ b32 m ++ b32 v)
  | .regReadList _ c r as => some (opRegReadList, b16 c ++ b16 r ++ wordsBytes as)
  | .regWait _ a m e t => some (opRegWait, b32 a ++ b32 m ++ b32 e ++ b32 t)
  | .dspScan _ => some (opDspScan, [])
  | .dspAux _ a => some (opDspAux, b8 a.unit ++ b8 a.op ++ b16 a.length ++ b32 a.address ++ a.data)
  | .dspFallbackSet _ a => some (opDspFallbackSet,
      b8 a.pipe ++ b8 a.format ++ b8 a.factor ++ b8 a.reserved0 ++ b16 a.width ++ b16 a.height
      ++ b32 a.pitch ++ b32 a.reserved1 ++ b64 a.va)
  | .dspDsiCmd _ a => some (opDspDsiCmd,
      b8 a.unit ++ b8 a.dataType ++ b16 a.length ++ b16 a.readLength ++ b16 a.reserved ++ a.data)
  | .snsFeed _ a => some (opSnsFeed,
      b8 a.context ++ b8 a.flags ++ b16 a.reserved0 ++ b32 a.sequence ++ b32 a.stamp ++ b32 a.offset
      ++ b16 a.width ++ b16 a.height ++ b32 a.reserved1 ++ a.data)
  | .snsScan _ => some (opSnsScan, [])
  | .decOpen _ a => some (opDecOpen,
      b8 a.timeBase ++ b8 a.lanesMax ++ b8 a.outFormat ++ b8 a.augMode ++ b8 a.outSlots ++ b8 a.seededOps
      ++ b16 a.reserved0 ++ b64 a.inVa ++ b32 a.in64k ++ b32 a.slot64k ++ b64 a.outVa ++ b64 a.workVa
      ++ b32 a.work64k ++ b16 a.cropW ++ b16 a.cropH ++ b32 a.gainMax ++ b32 a.reserved1 ++ b64 a.seed)
  | .decClose _ s r => some (opDecClose, b8 s ++ b24 r)
  | .decPush _ a => some (opDecPush,
      b8 a.stream ++ b8 a.flags ++ b16 a.reserved0 ++ b32 a.bytes ++ b64 a.reserved1)
  | .timeRead _ => some (opTimeRead, [])
  | .netGclWrite _ a => some (opNetGclWrite,
      b8 a.port ++ b8 a.apply ++ b16 a.first ++ b16 a.count ++ b16 a.length ++ b64 a.baseTime
      ++ b32 a.cycle ++ b32 a.reserved ++ gclEntriesBytes a.entries)
  | .netStreamTable _ a => some (opNetStreamTable,
      b8 a.port ++ b8 a.table ++ b16 a.index ++ b32 a.reserved ++ a.entry)
  | .wallKey _ k => some (opWallKey, k)
  | .fwLoad _ o r d => some (opFwLoad, b32 o ++ b32 r ++ d)
  | .fwActivate _ n r => some (opFwActivate, b32 n ++ b32 r)
  | .fwRestart _ p r => some (opFwRestart, b8 p ++ b24 r)
  | .secCert _ => some (opSecCert, [])
  | .secAttest _ c => some (opSecAttest, c)
  | .ownerChange _ k sg => some (opOwnerChange, k ++ sg)
  | .secKeyRevoke _ i r => some (opSecKeyRevoke, b8 i ++ b24 r)
  | .secRollbackRaise _ m => some (opSecRollbackRaise, b32 m)
  | .logRead _ f m r => some (opLogRead, b32 f ++ b16 m ++ b16 r)
  | _ => none

/-- The request that a command is: its session and tag. -/
def reqOf : Instr → Option Req
  | .sessionClose rq _ | .heartbeat rq _ | .echo rq _ | .deviceInfo rq | .completionQuery rq _
  | .memMap rq _ | .memUnmap rq _ _ | .memProtect rq _ _ _ _ | .memWrite rq _ _ _ _
  | .memRead rq _ _ _ | .mmuWalk rq _ | .faultResume rq _ _ | .loopCreate rq _ | .loopDestroy rq _
  | .stepSubmit rq _ | .seqSubmit rq _ | .funcDisable rq _ | .funcEnable rq _ | .regRead rq _ _ _
  | .regWrite rq _ _ _ _ | .regUpdate rq _ _ _ | .regReadList rq _ _ _ | .regWait rq _ _ _ _
  | .dspScan rq | .dspAux rq _ | .dspFallbackSet rq _ | .dspDsiCmd rq _ | .snsFeed rq _ | .snsScan rq
  | .decOpen rq _ | .decClose rq _ _ | .decPush rq _ | .timeRead rq | .netGclWrite rq _
  | .netStreamTable rq _ | .wallKey rq _ | .fwLoad rq _ _ _ | .fwActivate rq _ _ | .fwRestart rq _ _
  | .secCert rq | .secAttest rq _ | .ownerChange rq _ _ | .secKeyRevoke rq _ _
  | .secRollbackRaise rq _ | .logRead rq _ _ _ => some rq
  | _ => none

end Sys2Proof.Machine
end

