-- ==== Sys2Proof/Machine/Regs.lean ====
section
/-! DEFINITION. Machine/Regs.lean: the register map, from the register tables of the chapters. Each
register has its class (R9), the partition a tenant-class register acts for, its word at reset and
its fields with access code (R8) and range (R618). A bit that no field covers is reserved (R10). -/

namespace Sys2Proof.Machine

/-- Permission class (R9). -/
inductive Cls where
  | owner | tenant | device
  deriving DecidableEq, Repr

/-- Whose tenant a tenant-class register acts for: the caller's own partition, or the tenant that
holds the pipe, stream context or decode stream of the register's index (R308, R397, R441, R449). -/
inductive Part where
  | caller | pipe | context | stream
  deriving DecidableEq, Repr

/-- Access code (R8). -/
inductive Acc where
  | rw | ro | wo | w1c | w1s | rws | rwn
  deriving DecidableEq, Repr

structure Field where
  hi  : Nat
  lo  : Nat
  acc : Acc
  min : Nat
  max : Nat
  deriving DecidableEq, Repr

structure RegSpec where
  cls    : Cls
  part   : Part
  reset  : Nat
  fields : List Field
  deriving DecidableEq, Repr

/-- count register groups of one shape, stride bytes apart; each register at its offset. -/
structure RegBlock where
  base   : Nat
  count  : Nat
  stride : Nat
  regs   : Tab RegSpec
  deriving DecidableEq, Repr

/-- A field that takes every value of its width. -/
def fld (hi lo : Nat) (a : Acc) : Field := ⟨hi, lo, a, 0, 2 ^ (hi + 1 - lo) - 1⟩
/-- A field with a range. -/
def flr (hi lo : Nat) (a : Acc) (mn mx : Nat) : Field := ⟨hi, lo, a, mn, mx⟩

def dev (fields : List Field) (reset : Nat := 0) : RegSpec := ⟨.device, .caller, reset, fields⟩
def own (reset : Nat) (fields : List Field) : RegSpec := ⟨.owner, .caller, reset, fields⟩
def ten (p : Part) (reset : Nat) (fields : List Field) : RegSpec := ⟨.tenant, p, reset, fields⟩

/-- A device register that only reports a 32-bit word. -/
def devWord : RegSpec := dev [fld 31 0 .ro]
def tenWord (p : Part) : RegSpec := ten p 0 [fld 31 0 .ro]
def rwWord (p : Part) : RegSpec := ten p 0 [fld 31 0 .rw]
def rw16 (p : Part) : RegSpec := ten p 0 [fld 15 0 .rw]

/-- SYS and CLK (R44, R200, R515, R517, R603 to R607, R615). -/
def sysBlock : RegBlock := ⟨0x00000000, 1, 0x10000, [
  (0x00, dev [fld 31 16 .ro, fld 15 0 .ro] 0xA1E50128),
  (0x04, dev [fld 15 8 .ro, fld 7 0 .ro]),
  (0x08, dev [fld 6 0 .ro]),
  (0x0C, dev [fld 17 16 .ro, fld 15 8 .ro, fld 2 0 .ro]),
  (0x10, own 0 [fld 2 2 .ro, fld 1 1 .ro, fld 0 0 .rw]),
  (0x14, own 0xAAAAAAAA ((List.range 16).map fun n => flr (2 * n + 1) (2 * n) .rw 0 2)),
  (0x18, dev [fld 23 16 .ro, fld 15 8 .ro, fld 7 0 .ro] 0x00010101),
  (0x20, own 0 [flr 31 0 .wo 0xD1E5 0xD1E5]),
  (0x24, own 0 [fld 0 0 .rw]),
  (0x28, dev [fld 20 20 .ro, fld 19 0 .ro]),
  (0x1000, dev [fld 7 7 .ro, fld 6 6 .ro, fld 5 5 .ro, fld 4 4 .ro, fld 3 3 .ro, fld 0 0 .ro])]⟩

/-- CMD (R54, R67, R98, R102). -/
def cmdBlock : RegBlock := ⟨0x00010000, 1, 0x10000, [
  (0x00, own 0xCE41CE40 [flr 31 16 .rw 1 0xFFFF, flr 15 0 .rw 1 0xFFFF]),
  (0x04, own 0xC00003E8 [fld 31 31 .rw, fld 30 30 .rw, flr 15 0 .rw 100 10000]),
  (0x10, devWord), (0x14, devWord), (0x18, devWord), (0x1C, devWord),
  (0x20, ten .caller 0 [fld 28 16 .ro, fld 15 7 .ro, fld 6 4 .ro])]⟩

/-- The per-tenant registers (R115). Those of tenant 0 differ in access (R113): tenantZeroBlock. -/
def tenantRegs (enabled cred : Acc) (ctl : Nat) : Tab RegSpec :=
  [(0x00, dev [fld 31 16 .ro, fld 11 8 .ro, fld 2 0 .ro]),
   (0x04, own 0 [flr 31 21 .rw 0 1024, flr 17 10 .rw 0 128, flr 9 0 .rw 0 576]),
   (0x08, own 0 [fld 7 0 .rw]),
   (0x0C, own 0 [fld 31 0 .rw]),
   (0x10, own 0 [fld 15 0 .rw]),
   (0x14, own 0x07D0 [flr 15 0 .rw 100 60000]),
   (0x18, own 0x012C001E [flr 31 16 .rw 2 65535, flr 15 0 .rw 1 3600]),
   (0x1C, own ctl [fld 8 8 .wo, fld 0 0 enabled])]
  ++ (List.range 8).map fun k => (0x20 + 4 * k, own 0 [fld 31 0 cred])

def tenantZeroBlock : RegBlock := ⟨0x00020000, 1, 0x100, tenantRegs .ro .ro 1⟩
def tenantBlock : RegBlock := ⟨0x00020100, 15, 0x100, tenantRegs .rw .rw 0⟩

/-- TEN_POOL and TEN_SELF (R116, R119). -/
def tenPoolBlock : RegBlock := ⟨0x00021000, 1, 0x100, [
  (0x0, dev [fld 25 16 .ro, fld 9 0 .ro]),
  (0x4, ten .caller 0 [fld 8 8 .w1s, fld 3 0 .ro])]⟩

/-- MMU (R157 to R161). -/
def mmuBlock : RegBlock := ⟨0x00030000, 1, 0x10000, [
  (0x00, own 0x000C0064 [flr 23 16 .rw 1 168, flr 15 0 .rw 1 10000]),
  (0x10, devWord), (0x14, devWord),
  (0x18, dev [fld 15 0 .ro]),
  (0x20, ten .caller 0 [fld 31 16 .ro, fld 15 0 .ro]),
  (0x24, ten .caller 0 [fld 31 16 .ro, fld 6 0 .ro])]⟩

/-- SCH (R201 to R204). -/
def schBlock : RegBlock := ⟨0x00040000, 1, 0x10000, [
  (0x00, own 8 [flr 6 0 .rw 0 64]),
  (0x04, dev [fld 31 24 .ro, fld 23 16 .ro, fld 15 10 .ro, fld 9 0 .ro]),
  (0x08, devWord), (0x0C, devWord),
  (0x10, dev [fld 15 0 .ro])]⟩

/-- ENG (R237, R255). -/
def engBlock : RegBlock := ⟨0x00050000, 1, 0x10000, [
  (0x00, dev [fld 23 16 .ro, fld 10 10 .ro, fld 9 9 .ro, fld 8 0 .ro] 0x000107FF),
  (0x04, dev [fld 15 8 .ro, fld 6 4 .ro, fld 2 0 .ro] 0x00000177)]⟩

/-- FMC (R282, R283). -/
def fmcBlock : RegBlock := ⟨0x00060000, 1, 0x10000, [
  (0x00, dev [fld 15 8 .ro, fld 1 1 .ro, fld 0 0 .ro] 0x00000103),
  (0x10, tenWord .caller), (0x14, tenWord .caller)]⟩

/-- REEL (R302 to R304). -/
def reelBlock : RegBlock := ⟨0x00070000, 1, 0x10000, [
  (0x00, own 0x07D0 [flr 15 0 .rw 100 60000]),
  (0x10, devWord),
  (0x14, dev [fld 31 16 .ro, fld 15 0 .ro])]⟩

/-- FG, per pipe (R308, R328). -/
def fgBlock : RegBlock := ⟨0x00080000, 8, 0x100, [
  (0x00, ten .pipe 0x0000003C [fld 31 31 .rw, fld 30 30 .rw, fld 25 24 .rw, flr 9 0 .rw 1 1023]),
  (0x04, ten .pipe 0 [fld 26 16 .rw, fld 10 0 .rw]),
  (0x08, ten .pipe 0x00002710 [flr 16 0 .rw 1000 100000]),
  (0x0C, ten .pipe 0 [fld 31 16 .rw]),
  (0x10, ten .pipe 0 [fld 31 16 .rw]),
  (0x18, rwWord .pipe), (0x1C, rw16 .pipe), (0x20, rwWord .pipe), (0x24, rw16 .pipe),
  (0x28, rwWord .pipe), (0x2C, rw16 .pipe), (0x30, rwWord .pipe), (0x34, rw16 .pipe),
  (0x38, rwWord .pipe), (0x3C, rwWord .pipe),
  (0x40, ten .pipe 0 [fld 31 16 .rw, flr 15 0 .rw 1 4096]),
  (0x44, ten .pipe 0x00012008 [fld 31 24 .rw, flr 17 16 .rw 0 2, flr 13 8 .rw 1 63, flr 5 0 .rw 1 32]),
  (0x48, ten .pipe 0 [fld 5 0 .ro]),
  (0x4C, tenWord .pipe), (0x50, tenWord .pipe), (0x54, tenWord .pipe), (0x58, tenWord .pipe),
  (0x5C, tenWord .pipe), (0x60, tenWord .pipe)]⟩

/-- RAS (R350). -/
def rasBlock : RegBlock := ⟨0x00090000, 1, 0x10000, [
  (0x00, dev [fld 15 8 .ro, fld 4 0 .ro] 0x0000011F),
  (0x10, tenWord .caller), (0x14, tenWord .caller)]⟩

/-- GAL, per channel (R361). -/
def galBlock : RegBlock := ⟨0x000A0000, 8, 0x100, [
  (0x00, ten .pipe 0x00000800 [fld 31 31 .rw, flr 15 8 .rw 1 255]),
  (0x04, ten .pipe 0x000005DC [flr 15 0 .rw 500 10000]),
  (0x08, ten .pipe 0x01000040 [flr 25 16 .rw 16 1023, flr 7 0 .rw 16 255]),
  (0x0C, rwWord .pipe), (0x10, rw16 .pipe), (0x14, rw16 .pipe),
  (0x18, ten .pipe 0 [fld 15 8 .ro, fld 3 0 .ro]),
  (0x1C, ten .pipe 0 [fld 4 0 .w1c]),
  (0x20, tenWord .pipe), (0x24, tenWord .pipe)]⟩

/-- VIS (R386 to R389). -/
def visBlock : RegBlock := ⟨0x000B0000, 1, 0x10000, [
  (0x00, dev [fld 15 8 .ro, fld 3 0 .ro] 0x0000010F),
  (0x04, own 0x07D0 [flr 15 0 .rw 100 60000]),
  (0x10, dev [fld 8 8 .ro, fld 7 4 .ro, fld 2 0 .ro]),
  (0x14, dev [fld 8 8 .ro, fld 7 4 .ro, fld 2 0 .ro]),
  (0x18, dev [fld 8 8 .ro, fld 7 4 .ro, fld 2 0 .ro]),
  (0x1C, dev [fld 8 8 .ro, fld 7 4 .ro, fld 2 0 .ro]),
  (0x20, devWord),
  (0x30, tenWord .caller), (0x34, tenWord .caller)]⟩

/-- SNS, per context (R397). A value outside every range of its field is refused at the write (R618); which of the ranges
of unit, vc, select and block_frames applies is a matter of kind, and is judged at FUNC_ENABLE (R398; DESIGN CHOICE, log
entry 38). -/
def ctxBlock : RegBlock := ⟨0x000C0000, 48, 0x100, [
  (0x00, ten .context 0 [fld 31 30 .rw, flr 27 24 .rw 0 11, fld 21 20 .rw, fld 15 0 .rw]),
  (0x04, ten .context 0 [fld 31 30 .rw, fld 11 0 .rw]),
  (0x08, rwWord .context), (0x0C, rw16 .context),
  (0x10, ten .context 0 [flr 30 24 .rw 2 64, flr 15 0 .rw 1 65535]),
  (0x14, tenWord .context),
  (0x18, ten .context 0 [fld 22 16 .ro, fld 15 8 .ro, fld 2 0 .ro]),
  (0x1C, tenWord .context)]⟩

/-- SNS receivers, ports and settings (R411, R413). -/
def csiBlock : RegBlock := ⟨0x000C8000, 12, 0x10, [
  (0x0, own 0 [fld 31 31 .rw, flr 1 0 .rw 0 2]),
  (0x4, dev [fld 31 16 .ro, fld 11 8 .ro, fld 1 0 .ro]),
  (0x8, dev [fld 31 24 .ro, fld 23 16 .ro, fld 15 8 .ro, fld 7 0 .ro])]⟩
def tdmBlock : RegBlock := ⟨0x000C9000, 6, 0x10, [
  (0x0, own 0x0220000F [fld 31 31 .rw, fld 28 28 .rw, fld 27 27 .rw, fld 26 26 .rw, flr 25 24 .rw 0 2,
    flr 21 20 .rw 0 2, fld 3 0 .rw]),
  (0x4, dev [fld 31 12 .ro, fld 1 0 .ro])]⟩
def snsBlock : RegBlock := ⟨0x000CA000, 1, 0x100, [
  (0x0, own 0x01F40064 [flr 31 16 .rw 100 10000, flr 15 0 .rw 10 1000])]⟩

/-- DEC (R437 to R441). -/
def decBlock : RegBlock := ⟨0x000D0000, 1, 0x1000, [
  (0x000, dev [fld 15 8 .ro, fld 7 0 .ro] 0x000001FF),
  (0x004, own 0x0400 [flr 15 0 .rw 1 65535])]
  ++ ((List.range 16).map fun n => (0x100 + 4 * n, own 0x05010000 [flr 31 22 .rw 1 1000, flr 16 0 .rw 1 65536]))
  ++ ((List.range 8).map fun n => (0x200 + 4 * n, dev [fld 21 16 .ro, fld 11 8 .ro, fld 2 0 .ro]))
  ++ [(0x300, devWord), (0x304, devWord)]⟩
def streamBlock : RegBlock := ⟨0x000D1000, 64, 0x10, [
  (0x0, ten .stream 0 [fld 22 16 .ro, fld 2 0 .ro]),
  (0x4, tenWord .stream), (0x8, tenWord .stream),
  (0xC, ten .stream 0 [fld 31 16 .ro, fld 15 0 .ro])]⟩

/-- The registers of one plane, from its offset (R458). -/
def planeRegs (o : Nat) : Tab RegSpec := [
  (o + 0x00, ten .pipe 0x020003FF [fld 31 31 .rws, flr 26 24 .rws 0 4, fld 22 20 .rws, fld 9 0 .rws]),
  (o + 0x04, ten .pipe 0 [fld 31 16 .rws, fld 15 0 .rws]),
  (o + 0x08, ten .pipe 0 [fld 31 16 .rws, fld 15 0 .rws]),
  (o + 0x0C, ten .pipe 0 [fld 31 0 .rws]),
  (o + 0x10, ten .pipe 0 [fld 31 0 .rws]),
  (o + 0x14, ten .pipe 0 [fld 15 0 .rws])]

/-- DSP, per pipe (R449, R458, R479). -/
def pipeBlock : RegBlock := ⟨0x000E0000, 8, 0x1000, [
  (0x000, ten .pipe 0 [fld 31 31 .wo, fld 9 8 .rws, fld 7 6 .rws, fld 5 4 .rws, fld 2 0 .ro]),
  (0x004, ten .pipe 0 [fld 0 0 .w1s]),
  (0x008, ten .pipe 0 [fld 12 12 .rws, fld 9 8 .rws, fld 4 4 .rws, fld 1 1 .rws, fld 0 0 .rws]),
  (0x00C, ten .pipe 0x00024414 [flr 22 0 .rws 25000 4200000]),
  (0x010, ten .pipe 0x08980780 [fld 31 16 .rws, fld 15 0 .rws]),
  (0x014, ten .pipe 0x07D8002C [fld 31 16 .rws, fld 15 0 .rws]),
  (0x018, ten .pipe 0x04650438 [fld 31 16 .rws, fld 15 0 .rws]),
  (0x01C, ten .pipe 0x043C0005 [fld 31 16 .rws, fld 15 0 .rws]),
  (0x020, ten .pipe 0x04650000 [fld 31 16 .rws]),
  (0x024, ten .pipe 0 [fld 29 20 .rw, fld 19 10 .rw, fld 9 0 .rw]),
  (0x028, ten .pipe 0 [fld 25 16 .rws, fld 15 4 .rws, fld 1 0 .rws]),
  (0x02C, ten .pipe 0 [fld 27 16 .rws, fld 0 0 .rws]),
  (0x030, ten .pipe 0x000000FA [flr 9 0 .rws 50 1000]),
  (0x040, ten .pipe 0 [fld 31 16 .ro, fld 5 4 .ro, fld 1 1 .ro, fld 0 0 .ro]),
  (0x044, tenWord .pipe), (0x048, tenWord .pipe), (0x04C, tenWord .pipe),
  (0x050, ten .pipe 0 [fld 4 0 .w1c]),
  (0x054, tenWord .pipe), (0x058, tenWord .pipe),
  (0x05C, ten .pipe 0 [fld 31 16 .ro, fld 1 1 .ro, fld 0 0 .ro])]
  ++ planeRegs 0x100 ++ planeRegs 0x120 ++ planeRegs 0x140 ++ planeRegs 0x160⟩

/-- DSP, block-wide and transmitters (R478, R480). -/
def dspBlock : RegBlock := ⟨0x000E8000, 1, 0x100, [
  (0x0, dev [fld 23 16 .ro, fld 13 8 .ro, fld 7 0 .ro] 0x00013FFF),
  (0x4, dev [fld 14 0 .ro]),
  (0x8, own 1 [fld 0 0 .rw]),
  (0xC, devWord)]⟩
def txStatus : RegSpec := dev [fld 31 16 .ro, fld 7 6 .ro, fld 5 3 .ro, fld 2 2 .ro, fld 1 1 .ro]
def dpTxBlock : RegBlock := ⟨0x000E9000, 4, 0x10, [
  (0x0, own 0x00000023 [fld 9 9 .rw, fld 8 8 .rw, flr 5 4 .rw 0 2, flr 2 0 .rw 0 3]),
  (0x4, txStatus)]⟩
def dsiTxBlock : RegBlock := ⟨0x000E9040, 2, 0x10, [
  (0x0, own 0x000000ED [fld 9 9 .rw, fld 8 8 .rw, fld 7 6 .rw, flr 5 0 .rw 2 45]),
  (0x4, txStatus)]⟩

/-- NET, per port (R485, R490 to R495). -/
def portBlock : RegBlock := ⟨0x000F0000, 4, 0x1000, [
  (0x000, own 0x81080000 [fld 31 31 .rw, flr 30 28 .rw 0 4, fld 27 26 .rw, fld 25 25 .rw, fld 24 24 .rw,
    fld 23 22 .rw, fld 21 20 .rw, fld 19 17 .rw, fld 16 16 .rw, fld 11 0 .rw]),
  (0x004, dev [fld 31 31 .ro, fld 30 28 .ro, fld 27 26 .ro, fld 25 25 .ro, fld 24 24 .ro, fld 1 0 .ro]),
  (0x008, devWord), (0x00C, dev [fld 15 0 .ro]),
  (0x010, own 0 [fld 31 0 .rw]),
  (0x020, own 0 [fld 31 0 .rw]), (0x024, own 0 [fld 31 0 .rw]),
  (0x028, own 0 [fld 31 0 .rw]), (0x02C, own 0 [fld 31 0 .rw]),
  (0x030, own 0 [fld 31 16 .rw, fld 15 0 .rw]),
  (0x034, own 0 [fld 31 0 .rw]),
  (0x038, own 0xD0000320 [fld 31 28 .rw, fld 27 24 .rw, fld 15 0 .rw]),
  (0x040, own 0 [fld 31 31 .rw, flr 30 28 .rw 0 6, fld 22 0 .rw]),
  (0x044, own 0 [fld 31 31 .rw, flr 30 28 .rw 0 6, fld 22 0 .rw]),
  (0x048, own 0 [fld 31 31 .rw, fld 30 30 .rw, fld 29 28 .rw, fld 7 7 .ro, fld 6 0 .rw]),
  (0x050, devWord)]⟩
def wallBlock : RegBlock := ⟨0x000F8000, 1, 0x100, [
  (0x00, own 0x00800000 [fld 31 31 .rw, fld 30 30 .rw, fld 29 28 .rw, fld 27 26 .rw, fld 23 16 .rw,
    fld 5 0 .rw]),
  (0x04, own 0 [fld 15 0 .rw]),
  (0x08, own 0 [fld 31 0 .rw]), (0x0C, own 0 [fld 31 0 .rw]),
  (0x10, dev [fld 22 16 .ro, fld 13 8 .ro, fld 3 3 .ro, fld 2 2 .ro, fld 1 1 .ro, fld 0 0 .ro]),
  (0x14, devWord)]⟩

/-- TIM (R498). The reset of enable is 1 for base 0 alone. -/
def timRegs (cfg : Nat) : Tab RegSpec := [
  (0x00, devWord), (0x04, dev [fld 15 0 .ro]), (0x08, devWord),
  (0x0C, own cfg [fld 31 31 .rw, fld 30 24 .rw, fld 23 16 .rw, fld 15 8 .rw]),
  (0x10, own 0x001403E8 [fld 23 20 .rw, fld 19 16 .rw, flr 15 0 .rw 1 65535]),
  (0x14, own 0 [fld 9 9 .w1c, fld 8 8 .ro, fld 5 4 .ro, fld 2 0 .ro]),
  (0x18, devWord), (0x1C, devWord), (0x20, devWord), (0x24, devWord)]
def timZeroBlock : RegBlock := ⟨0x00100000, 1, 0x100, timRegs 0x80FFF800⟩
def timBlock : RegBlock := ⟨0x00100100, 3, 0x100, timRegs 0x00FFF800⟩

/-- FW (R553 to R556). -/
def fwBlock : RegBlock := ⟨0x00110000, 1, 0x10000, [
  (0x00, dev ((List.range 6).map fun p => fld (4 * p + 3) (4 * p) .ro)),
  (0x04, dev [fld 31 24 .ro, fld 23 16 .ro, fld 15 0 .ro]),
  (0x08, dev [fld 10 8 .ro, fld 2 0 .ro])]
  ++ (List.range 6).map fun p => (0x10 + 4 * p, dev [fld 23 16 .ro, fld 15 0 .ro])⟩

/-- PWR (R569 to R571). -/
def pwrBlock : RegBlock := ⟨0x00120000, 1, 0x10000, [
  (0x00, dev [fld 31 24 .ro, fld 22 16 .ro, fld 15 8 .ro, fld 4 4 .ro, fld 3 3 .ro, fld 2 0 .ro]),
  (0x04, own 0x00005F64 [flr 15 8 .rw 80 95, flr 7 0 .rw 85 104]),
  (0x08, own 0xA29E01AE [flr 31 22 .rw 200 650, flr 21 12 .rw 200 480, flr 8 0 .rw 100 430]),
  (0x0C, own 0x20 [flr 7 0 .rw 0 128])]
  ++ ((List.range 128).map fun n => (0x100 + 4 * n, dev [fld 31 16 .ro, fld 15 0 .ro]))
  ++ ((List.range 24).map fun n => (0x300 + 4 * n, dev [fld 31 16 .ro, fld 15 0 .ro]))
  ++ [(0x360, dev [fld 31 16 .ro, fld 15 0 .ro]), (0x400, dev [fld 31 16 .ro, fld 15 0 .ro]),
      (0x404, dev [fld 31 16 .ro, fld 15 0 .ro]), (0x410, devWord), (0x414, devWord)]⟩

/-- SEC (R591 to R593). -/
def secBlock : RegBlock := ⟨0x00130000, 1, 0x10000, [
  (0x00, dev [fld 7 7 .ro, fld 6 6 .ro, fld 5 5 .ro, fld 4 4 .ro, fld 3 0 .ro]),
  (0x04, own 0 [fld 25 16 .ro, fld 0 0 .w1s]),
  (0x08, devWord), (0x0C, devWord), (0x10, devWord), (0x14, devWord)]⟩

/-- NVR (R587, R594, R595): words 0 to 127 in the device class, 128 to 1,023 in the owner class. -/
def nvrDevBlock : RegBlock := ⟨0x00140000, 128, 4, [(0, devWord)]⟩
def nvrOwnBlock : RegBlock := ⟨0x00140200, 896, 4, [(0, own 0 [fld 31 0 .rwn])]⟩
def nvrWearBlock : RegBlock := ⟨0x00141000, 1024, 4, [(0, dev [fld 31 31 .ro, fld 16 0 .ro])]⟩
def nvrStatusBlock : RegBlock := ⟨0x00142000, 1, 4, [(0, dev [fld 31 16 .ro, fld 0 0 .ro])]⟩

/-- DBG (R557). -/
def dbgBlock : RegBlock := ⟨0x00150000, 1, 0x10000, [
  (0x0, devWord), (0x4, devWord),
  (0x8, own 1 [fld 1 0 .rw]),
  (0xC, own 0 [fld 15 0 .rw])]⟩

/-- Per-core windows (R16 to R18). -/
def coreBlock : RegBlock := ⟨0x01000000, 128, 0x10000, [
  (0x0, dev [fld 22 16 .ro, fld 10 8 .ro, fld 3 0 .ro]),
  (0x4, dev [fld 2 0 .ro])]⟩

def regBlocks : List RegBlock :=
  [sysBlock, cmdBlock, tenantZeroBlock, tenantBlock, tenPoolBlock, mmuBlock, schBlock, engBlock, fmcBlock,
   reelBlock, fgBlock, rasBlock, galBlock, visBlock, ctxBlock, csiBlock, tdmBlock, snsBlock, decBlock,
   streamBlock, pipeBlock, dspBlock, dpTxBlock, dsiTxBlock, portBlock, wallBlock, timZeroBlock, timBlock,
   fwBlock, pwrBlock, secBlock, nvrDevBlock, nvrOwnBlock, nvrWearBlock, nvrStatusBlock, dbgBlock, coreBlock]

/-- The register of a block at an address: its index in the block and its description. -/
def RegBlock.find (b : RegBlock) (addr : Nat) : Option (Nat × RegSpec) :=
  if addr < b.base then none
  else
    let i := (addr - b.base) / b.stride
    if i < b.count then (tabFind b.regs ((addr - b.base) % b.stride)).map fun r => (i, r) else none

def findIn : List RegBlock → Nat → Option (Nat × RegSpec)
  | [], _ => none
  | b :: r, addr =>
    match b.find addr with
    | some x => some x
    | none => findIn r addr

/-- The register at an address; none where no register is (R11). -/
def findReg (addr : Nat) : Option (Nat × RegSpec) := findIn regBlocks addr

/-- The bits that fields of some access codes cover. -/
def maskOf (p : Acc → Bool) (fs : List Field) : Nat :=
  fs.foldl (fun m f => if p f.acc then m ||| ((2 ^ (f.hi + 1 - f.lo) - 1) * 2 ^ f.lo) else m) 0

/-- Every bit that is not reserved. -/
def RegSpec.covered (r : RegSpec) : Nat := maskOf (fun _ => true) r.fields
/-- The bits that a write sets and that the register map keeps. -/
def RegSpec.kept (r : RegSpec) : Nat := maskOf (fun a => a = .rw || a = .rws) r.fields

def RegSpec.has (r : RegSpec) (p : Acc → Bool) : Bool := r.fields.any fun f => p f.acc

/-- Every writable field of a word lies in its range (R618). -/
def RegSpec.inRange (r : RegSpec) (v : Nat) : Bool :=
  r.fields.all fun f => f.acc = .ro || (decide (f.min ≤ bits v f.hi f.lo) && decide (bits v f.hi f.lo ≤ f.max))

/-- The word at reset of the register at an address, 0 where none is. -/
def resetWord (addr : Nat) : Nat := match findReg addr with | some (_, r) => r.reset | none => 0

end Sys2Proof.Machine
end

