-- ==== Sys2Proof/Machine/State.lean ====
section
/-! DEFINITION. Machine/State.lean: everything the manual gives the chip to hold, as plain data, and
the state right after reset. Register words live in one sparse map keyed by address (Machine/Regs.lean
gives each register its reset word); what a register only reports is held here once and computed when
it is read. -/

namespace Sys2Proof.Machine

open Sys2Proof

/-! ## How a step may stop -/

/-- Why the machine stops with a fault. -/
inductive Fault where
  /-- Raised by BROWNOUT when a rail leaves tolerance and crosses no threshold: R598 calls what the
  Ndovik does then undefined and gives no effect. Safe: nothing can be proved of such a run. -/
  | supplyUndefined
  deriving DecidableEq, Repr

/-- Why the machine has no meaning for a command. -/
inductive Refusal where
  /-- Raised by the arms of exec that have no meaning yet, by mnemonic. Safe. -/
  | notModelled (mnemonic : String)
  deriving DecidableEq, Repr

/-! ## Exact time -/

/-- An exact number of nanoseconds. -/
structure Frac where
  num : Int := 0
  den : Nat := 1
  deriving DecidableEq, Repr

/-! ## Packets -/

/-- A packet of a session before it takes a sequence number: a reply, a completion or an event. -/
structure Msg where
  op      : Nat
  flags   : Nat
  tag     : Nat
  status  : Nat
  detail  : Nat
  payload : List Byte
  deriving DecidableEq, Repr

/-- A packet as first sent, so that a retransmission is byte-identical (R61). Sequence and
acknowledgement count without wrapping; the wire carries them modulo 2^32. -/
structure TxPacket where
  seq : Nat
  ack : Nat
  msg : Msg
  deriving DecidableEq, Repr

/-- A received packet that passed checks 1 to 5 of R65. -/
structure RxPacket where
  major   : Nat
  op      : Nat
  tenant  : Nat
  flags   : Nat
  tag     : Nat
  status  : Nat
  detail  : Nat
  payload : List Byte
  deriving DecidableEq, Repr

/-- A UDP datagram as it leaves, with the Ethernet frame that carries it (R49 to R53, R483, R484): VLAN id and PCP
where it is tagged; `whole` where fragmentation is prohibited (DF over IPv4, never fragmented over IPv6: R51). -/
structure Wire where
  eth     : Nat
  dstMac  : BitVec 48
  cls     : Nat
  vlan    : Option (Nat × Nat)
  v6      : Bool
  src     : BitVec 128
  dst     : BitVec 128
  srcPort : Nat
  dstPort : Nat
  whole   : Bool
  bytes   : List Byte
  deriving DecidableEq, Repr

/-- What leaves the chip, newest first in State.sent. A packet of a session stands beside the datagram that
carries it, sealed (R59). -/
inductive Output where
  | packet (session : Nat) (p : TxPacket) (w : Wire)
  | ackOnly (session counter ack : Nat) (w : Wire)
  | handshake (w : Wire)
  | beacon (w : Wire)
  | arpReply (eth : Nat) (a : ArpPacket)
  | arpProbe (eth : Nat) (ip : Word)
  | arpAnnounce (eth : Nat) (ip : Word)
  | mldReport (eth : Nat) (wall : Bool)
  | neighbourAdvert (eth : Nat) (target : BitVec 128)
  | echoReply (eth : Nat) (r : EchoRequest)
  | gptp (eth : Nat) (kind : Nat) (fields : List Int)
  | wall (kind : Nat) (w : Wire)
  | ibi (level : Nat)
  | i3cRead (bytes : List Byte)
  | i3cNack
  | i3cAck
  | tdo (bits : Nat) (value : Nat)
  | thermTrip
  | dsiSend (unit : Nat) (a : DsiCmdArgs)
  | line (pipe n : Nat) (port : Option Nat) (pixels : List Nat)     -- port of an MST branch (R445)
  | dscLine (pipe n : Nat) (port : Option Nat) (bytes : List Byte)
  | pps (pipe : Nat) (port : Option Nat) (bytes : List Byte)
  deriving DecidableEq, Repr

/-- A frame that waits at its port (R489, R490): its class, its bytes on the line, and, once it was pre-empted, what
is left of it in ns. -/
structure HeldFrame where
  out   : Output
  cls   : Nat
  bytes : Nat
  left  : Option Frac
  deriving DecidableEq, Repr

/-- The transmit side of a port with gates, shapers or pre-emption: frames that wait, oldest first; when its line is
free, in its tsn_time_base; the preemptable frame sent last, with when it started and when it ends (R486, R491); and the
credit of each shaped class in bits, with the time it stood so (R490). -/
structure Egress where
  queue    : List HeldFrame := []
  lineFree : Frac := {}
  onLine   : Option (HeldFrame × Frac × Frac) := none
  credit   : Tab (Frac × Frac) := []
  deriving DecidableEq, Repr

/-! ## Sessions (R52 to R81) -/

/-- A REG_WAIT pending (R97). -/
structure RegWait where
  tag : Nat
  address : Nat
  mask : Nat
  expected : Nat
  last : Nat
  due : Nat
  deriving DecidableEq, Repr

/-- A MEM_WRITE whose pages are being backed, and the latest end of that at 64 GB/s (R129, R138). -/
structure Backing where
  tag : Nat
  va : Nat
  data : List Byte
  due : Nat
  deriving DecidableEq, Repr

structure SessTx where
  next     : Nat := 1
  ctl      : Nat := 1
  unacked  : List TxPacket := []
  waiting  : List Msg := []
  rtoStep  : Nat := 0
  rtoDue   : Option Nat := none
  deriving DecidableEq, Repr

structure SessRx where
  next     : Nat := 1
  buf      : List (Nat × Nat × RxPacket) := []   -- sequence number, receipt, packet (R69)
  ctl      : Nat := 0
  unacked  : Nat := 0               -- received and not yet acknowledged to the host
  ackDue   : Option Nat := none     -- 200 µs after the earliest of them (R71)
  deriving DecidableEq, Repr

structure Session where
  tenant     : Nat
  minor      : Nat
  maxPayload : Nat
  keyIn      : List Byte
  keyOut     : List Byte
  credential : List Byte
  eth        : Nat
  src        : Endpoint
  tx         : SessTx := {}
  rx         : SessRx := {}
  waits      : List RegWait := []
  backing    : Option Backing := none
  stalled    : List RxPacket := []  -- requests that wait behind one in service, oldest first
  closing    : Option Nat := none   -- reason of a SESSION_CLOSE whose reply waits for the send window (R74, R86)
  deriving DecidableEq, Repr

/-- A half-open session (R107). -/
structure HalfOpen where
  id         : Nat
  ip         : BitVec 128
  minor      : Nat
  maxPayload : Nat
  shared     : List Byte
  nonces     : List Byte
  transcript : List Byte      -- T1 and the signature over it
  due        : Nat
  deriving DecidableEq, Repr

/-- A SESSION_AUTH of tenant 0 that enrols its credential: its half-open session, and the job of the non-volatile bank
that stores the nine words (R578, R580). -/
structure Enrolment where
  shake : Handshake
  args  : SessionAuthArgs
  half  : HalfOpen
  job   : Nat
  deriving DecidableEq, Repr

/-- A handshake answer kept for a repeated request (R76). -/
structure Answer where
  ip      : BitVec 128
  tag     : Nat
  request : List Byte         -- opcode and payload of the request it answers
  header  : List Byte
  payload : List Byte
  deriving DecidableEq, Repr

structure Transport where
  sessions    : Tab Session := []
  half        : List HalfOpen := []
  answers     : List Answer := []
  authFails   : List (BitVec 128 × Nat) := []   -- source and time of each AUTH_FAILED
  blocked     : List (BitVec 128 × Nat) := []   -- source and end of its block (R111)
  expired     : List (BitVec 128 × Nat) := []   -- last SESSION_EXPIRED answer per source (R64)
  portsNext   : List (Nat × Nat × Nat) := []    -- CMD_PORTS values that await their replies, with session and tag (R55)
  resetNext   : Option (Nat × Nat) := none      -- session and tag of a SYS_RESET_REQ whose reply has not gone (R606)
  enrolling   : Option Enrolment := none        -- an enrolment whose words are being stored (R578)
  handshakes  : List Instr := []                -- handshake requests that wait for the session processor (R542), or an enrolment
  beaconSeq   : List Nat := [0, 0, 0, 0]
  beaconLast  : List (Option Nat) := [none, none, none, none]
  beaconDue   : List Nat := [0, 0, 0, 0]
  beaconBody  : List (List Byte) := [[], [], [], []]   -- last sent, but for sequence, time and signature
  deriving DecidableEq, Repr

/-! ## Tenants (R112 to R126) -/

inductive TenState where
  | unconfigured | configured | active | orphaned | fallback | reclaiming
  deriving DecidableEq, Repr

/-- A request answered ACCEPTED or DEFERRED and not completed (R80). -/
structure Async where
  session : Nat
  op      : Nat
  tag     : Nat
  deriving DecidableEq, Repr

/-- A mapped range (R130, R135). -/
structure Mapping where
  va      : Nat
  size    : Nat
  page    : Nat          -- page size in bytes
  read    : Bool
  write   : Bool
  pinned  : Bool
  display : Bool
  deriving DecidableEq, Repr

/-- A command held on a kind 1 fault (R152). -/
structure HeldFault where
  id   : Nat
  loop : Nat
  cmd  : Nat
  inst : Nat
  va   : Nat
  due  : Nat
  deriving DecidableEq, Repr

/-- Pinned pages being backed: the request that its completion answers, and the latest end at 64 GB/s (R129, R136). -/
structure PinBacking where
  va      : Nat
  request : Async
  due     : Nat
  deriving DecidableEq, Repr

structure TenMem where
  maps     : List Mapping := []
  backing  : List PinBacking := []
  backed   : List (Nat × Nat) := []     -- touched demand pages: address, page size
  raising  : List (Option CmdRef × Nat × Nat) := []   -- those of them still being backed: for a command, or for MEM_WRITE
  badLines : List Nat := []             -- 64-byte lines that hold an uncorrectable error
  tainted  : List Nat := []             -- 4 KiB pages whose frame has held one (R155)
  held     : List HeldFault := []
  nextFault : Nat := 1
  faults   : Nat := 0
  deriving DecidableEq, Repr

structure Tenant where
  state     : TenState := .unconfigured
  reason    : Nat := 0
  closeValue : Nat := 0                -- reason of the last SESSION_CLOSE, as given (R86)
  session   : Option Nat := none
  lastAuth  : Option Nat := none       -- last authenticated packet of its host
  release   : Bool := false
  reclaimDue : Option Nat := none
  async     : List Async := []
  held      : List Msg := []           -- completions kept (R75)
  mem       : TenMem := {}
  exact     : Nat := 0                 -- FMC_EXACT_BLOCKS
  lossy     : Nat := 0
  rasWritten : Nat := 0
  rasSkipped : Nat := 0
  visRefined : Nat := 0
  visMarked : Nat := 0
  deriving DecidableEq, Repr

/-! ## Function disable (R191 to R195), one per target -/

inductive FuncPhase where
  | enabled | draining | aborting | disabled
  deriving DecidableEq, Repr

structure Func where
  phase    : FuncPhase := .enabled
  drain    : Option (Nat × Async) := none   -- tenant and request of a pending DRAIN
  abort    : List (Nat × Async) := []
  finished : Nat := 0
  aborted  : Nat := 0
  deriving DecidableEq, Repr

/-! ## Loops, steps and commands (R162 to R204) -/

structure Extent where
  va    : Nat
  rowBytes : Nat
  rows  : Nat
  pitch : Nat
  read  : Bool
  write : Bool
  deriving DecidableEq, Repr

structure Region where
  offset : Nat
  bytes  : Nat
  deriving DecidableEq, Repr

structure CmdRec where
  engine  : Nat
  deps    : List Nat
  stripes : Nat
  program : Nat
  programBytes : Nat
  weightTag : Nat
  extents : List Extent
  regions : List Region
  deriving DecidableEq, Repr

/-- A group of 64 threads of a vector command (R228, R229). Its registers are bytes of the thread storage in
scratchpad; predicates are keyed lane * 8 + predicate, and one that is not listed is false. -/
structure VeGroup where
  pc      : Nat := 0
  preds   : List Nat := []
  exited  : Bool := false
  barrier : Bool := false
  deriving DecidableEq, Repr

/-- What a group gave to a dispatch-wide value: the operand of each lane, the identity in a lane that took no part
(R231, R518). -/
structure VePart where
  value : Nat
  group : Nat
  lanes : List Word
  core  : Nat
  deriving DecidableEq, Repr

structure VeRun where
  loaded   : Bool := false
  first    : Nat := 0                  -- groups of earlier fills
  groups   : List VeGroup := []
  partials : List VePart := []         -- in finishing order
  deriving DecidableEq, Repr

/-- Output of a WE or Minuet run on its way out: address, the codec modes of encoded blocks, and bytes. -/
structure WinStore where
  at_   : Nat
  modes : List Nat := []
  bytes : List Byte
  deriving DecidableEq, Repr

/-- A DMA descriptor started and not completed. A fill of a line-buffer ring has no bytes of its own (R266). -/
structure DmaJob where
  index : Nat
  group : Nat := 0                    -- the vector group that issued it, by its dispatch-wide index
  desc  : List Byte := []             -- of a DMA or vector command
  out   : Option WinStore := none     -- what a write of a WE or Minuet command stores
  deriving DecidableEq, Repr

structure DmaRun where
  next    : Nat := 0
  jobs    : List DmaJob := []
  done    : List Nat := []
  exact   : Nat := 0
  lossy   : Nat := 0
  deriving DecidableEq, Repr

/-- A primitive, after clipping and setup: vertices (snapped x and y in 1/256 pixel, z, w, motion,
attributes as FP32 codes) and the STATE body in force. -/
structure RasVertex where
  x  : Int
  y  : Int
  z  : Nat
  w  : Nat
  mx : Nat
  my : Nat
  attrs : List Nat
  deriving DecidableEq, Repr

structure RasPrim where
  seq   : Nat
  state : List Byte
  verts : List RasVertex
  deriving DecidableEq, Repr

structure RasRun where
  pos   : Nat := 0
  state : List Byte := [0, 0, 0, 0, 0, 0, 0, 4,  0, 0, 0, 0,  0, 0, 0, 0,  0, 0, 0x80, 0x3F,  0, 0, 0x80, 0x3F]
  count : Nat := 0
  prims : List RasPrim := []           -- newest first
  ended : Bool := false
  written : Nat := 0
  skipped : Nat := 0
  deriving DecidableEq, Repr

/-- One direction of a halo stream, at its consumer instance (R292 to R294). -/
structure Halo where
  sent    : Nat := 0       -- last row sequence number written
  taken   : Nat := 0       -- last row sequence number read
  credits : Nat := 0
  waitSlot : Option (Nat × Nat) := none    -- a stall on a slot: the instant from which it counts, and the ticks left then
  waitCredit : Option Nat := none  -- when a wait for a credit times out
  deriving DecidableEq, Repr

/-- The run of a WE or Minuet instance (R258, R265, R266, R281, R295). -/
structure WinRun where
  rows   : Nat := 0                            -- output rows drained: the row-progress count of R295
  issued : Nat := 0                            -- fill descriptors issued, in order
  filled : Nat := 0                            -- and completed
  staged : List (Nat × List (List Nat)) := []  -- rows of the band in the staging area: row, codes by pixel
  out    : List WinStore := []                 -- drained output whose write descriptors are not issued yet
  deriving DecidableEq, Repr

structure StreamRun where
  bands : Nat := 0         -- bands written
  wait  : Option Nat := none    -- when a wait for a ready flag times out
  refined : Nat := 0
  marked : Nat := 0
  kept  : List (List Byte) := []    -- bands that an in-place producer has sent, to send again to a rerun consumer
  deriving DecidableEq, Repr

inductive Phase where
  | waiting                 -- not placed
  | running
  | backing (due : Nat)     -- DEMAND: pages being backed and zeroed, at the latest until then (R129)
  | held (fault : Nat)      -- SHARE_EXHAUSTED
  | settling                -- killed; its writes have not all landed or been dropped (R149)
  | finished                -- engine done, commit deferred with a pair or a stripe (R167, R291, R384)
  | committed
  deriving DecidableEq, Repr

/-- One stripe instance of a command. -/
structure Inst where
  phase : Phase := .waiting
  core  : Nat := 0xFF       -- core, or 0xFF for a chip-level unit
  slot  : Nat := 0          -- WE or ME of the core, or vision unit
  cores : List Nat := []    -- owner cores of a raster command, in ascending order
  since : Nat := 0
  eligible : Nat := 0
  eccLines : List Nat := [] -- HBM lines met bad in this run of the step (R155)
  bound : Option Nat := none  -- core a killed stripe instance reruns on (R299)
  wasOn : List Nat := []    -- while its writes settle: its cores, or 256 + its vision unit (R149, R192)
  pads  : List (Nat × Region) := []  -- bin and tile regions of a raster command, by core (R168, R330)
  dma   : DmaRun := {}
  ve    : VeRun := {}
  ras   : RasRun := {}
  win   : WinRun := {}
  above : Halo := {}
  below : Halo := {}
  strm  : StreamRun := {}
  deriving DecidableEq, Repr

structure Cmd where
  spec  : CmdRec
  insts : List Inst
  kills : Nat := 0
  checked : Bool := false   -- program checks of first dispatch passed
  raised : Bool := false    -- treated as LC under R176
  parts : Nat := 0          -- P of R520, of the dispatch or the last rerun (R522)
  avoid : Option (Nat × Nat) := none   -- a link that the pair's chain must not use
  deriving DecidableEq, Repr

/-- A failed step that waits for its killed runs to settle before its zero fill (R149, R150). -/
structure Failing where
  status : Nat
  detail : Nat
  cmd    : Nat
  ns     : Nat               -- time base 0 at the failure: nanoseconds and seconds (R171)
  sec    : Nat
  deriving DecidableEq, Repr

structure Step where
  seq       : Nat
  order     : Nat             -- submission order of the command sequencer (R144)
  tag       : Option Async    -- the STEP_SUBMIT that its completion answers
  present   : Option Nat
  presentVa : Nat
  deadlineNs : Nat
  seed      : Nat
  cmds      : List Cmd
  kills     : Nat := 0
  ready     : Option Frac := none      -- met R173 (bound loops: R312)
  eligible  : Option Nat := none
  deadline  : Option (Nat × Frac) := none   -- time base and time
  level     : Nat := 2
  failing   : Option Failing := none
  link      : Option ((Nat × Nat) × Nat) := none   -- the Reel link of the last halo timeouts, and how many in a row (R299)
  info      : Bool := false            -- frame info, adaptation info or batch table written
  fg        : Option Nat := none       -- the pipe to which its loop was bound as it became eligible (R310)
  rate      : Nat := 0                 -- r of R306 then
  ref       : Option (Nat × Nat) := none   -- reference index and capture buffer (R317)
  frame0    : Nat := 0                 -- output frame index of sub-frame 0
  subs      : Nat := 0                 -- r, when the step claimed frame starts
  render    : Nat := 0
  bank      : Nat := 0
  hist      : Bool := false
  f0        : Frac := {}               -- its first claimed frame start
  eligibleAt : Frac := {}              -- in the pipe's time base
  seqs      : List (Nat × Nat × Nat) := []   -- batch: sequence order, position, tokens
  prefill   : Bool := false
  deriving DecidableEq, Repr

/-- A sequence of a sequence loop (R197, R199). -/
structure Seq where
  order   : Nat
  tag     : Nat
  request : Async
  promptVa : Nat
  prompt  : Nat
  maxNew  : Nat
  position : Nat := 0       -- tokens processed
  made    : Nat := 0        -- tokens generated
  started : Bool := false
  decoding : Bool := false
  deriving DecidableEq, Repr

structure SeqParams where
  prefill  : List CmdRec
  token    : List CmdRec
  seed     : Nat
  tokenDeadline : Nat
  tableVa  : Nat
  chunk    : Nat
  maxBatch : Nat
  deriving DecidableEq, Repr

structure Loop where
  tenant   : Nat
  lc       : Bool
  depth    : Nat
  notify   : Bool
  pipe     : Option Nat
  sequence : Option SeqParams
  queue    : List Step := []
  nextSeq  : Nat := 1
  seqs     : List Seq := []
  nextOrder : Nat := 0
  resident : Option Nat := none      -- since when
  blocked  : Option Nat := none      -- resident and blocked since when
  waiting  : Bool := false           -- runnable and waiting for a slot
  func     : Func := {}
  deriving DecidableEq, Repr

/-- A core (R17 to R19), with the bytes recorded resident per weight tag (R26, R168). -/
structure Core where
  state    : Nat := 0
  engineOk : Nat := 0x7F
  resident : List (Nat × Region) := []
  parking  : Bool := false           -- leaves service once what it holds has ended (R188)
  parkedAt : Int := 0                -- reading of its diode when it parked (R564)
  func     : Func := {}
  deriving DecidableEq, Repr

structure Sched where
  loops      : Tab Loop := []
  cores      : Tab Core := []
  units      : Tab Func := []        -- vision units 0 to 3
  nextOrder  : Nat := 1
  lastLoaded : Nat := 0
  lastTenant : Nat := 0
  lastLoop   : Tab Nat := []         -- per tenant, last loop served in the round robin
  nextTick   : Nat := 0
  locked     : Bool := false         -- SYS_COMPAT.locked
  lcWorst    : Nat := 0
  limits     : Tab Nat := []         -- TEN_LIMITS.cores in force (R118)
  reserve    : Nat := 8              -- SCH_LC_RESERVE.cores in force (R201)
  evicted    : List Nat := []        -- loops that an eviction has loaded since the last tick (R184)
  deriving DecidableEq, Repr

/-! ## Frame generation, Galliard and display (R305 to R480) -/

inductive CapState where
  | free
  | busy (ref order : Nat)                 -- taken by a reference step, of a submission order, not yet captured
  | copying (ref lastFrame render : Nat) (table : List Byte) (reads : List Extent)   -- its table as read (R318), and what it reads
  | held (ref : Nat)
  deriving DecidableEq, Repr

/-- A frame start claimed by a step (R312): its step's submission order, sub-frame, how many frame starts come before it,
latest time and lead in µs. -/
structure Claim where
  step : Nat
  sub  : Nat
  ahead : Nat
  fmax : Frac
  lead : Nat
  deriving DecidableEq, Repr

structure FrameGen where
  bound     : Bool := false
  nextIndex : Nat := 0
  render    : Nat := 0
  nextRef   : Nat := 0
  refCount  : Nat := 0
  bank      : Nat := 0
  cap0      : CapState := .free
  cap1      : CapState := .free
  capOrder  : List Nat := []          -- completed captures held, oldest first
  pubWait   : List Nat := []          -- steps eligible before the last exchange (R327)
  publish   : Nat := 0                -- 0 none, 1 passed, 2 copying, 3 copied
  claims    : List Claim := []        -- in order of time
  histOk    : Bool := false
  deriving DecidableEq, Repr

/-- A buffer committed to a pipe (R148, R453). -/
structure Cand where
  va     : Nat
  loop   : Nat
  order  : Nat          -- submission order of its step
  at_    : Frac         -- commit, in the pipe's time base
  subs   : Nat          -- sub-frames of a bound loop's step, or 0
  pitch  : Nat          -- distance between sub-frames
  deriving DecidableEq, Repr

inductive Decision where
  | show (va order : Nat)
  /-- An extrapolation over a span into an output buffer: when pass 1 began, and when it and 8 rows are done. -/
  | extrapolate (span buffer : Nat) (began done : Frac)
  /-- Galliard holds (R354): 0 max_chain, 1 no anchor or field, 2 out_small. -/
  | hold (reason : Nat)
  | repeat_
  deriving DecidableEq, Repr

structure GalRun where
  anchor   : Option Nat := none        -- VA
  old      : List Nat := []            -- earlier anchors, held until a newer buffer has been shown (R359)
  anchorAt : Frac := {}
  chain    : Nat := 0
  holding  : Bool := false
  showing  : Bool := false
  buffer   : Nat := 0                  -- output buffer of the Galliard frame shown last
  began    : Frac := {}                -- when its pass 1 began
  badBlocks : List Nat := []           -- motion entries met with an uncorrectable error (R358)
  badRows  : List Nat := []            -- anchor rows met with an uncorrectable error
  deriving DecidableEq, Repr

/-- A stored fallback image (R465). -/
structure FallbackImage where
  format : Nat
  factor : Nat
  width  : Nat
  height : Nat
  pitch  : Nat
  bytes  : List Byte
  deriving DecidableEq, Repr

structure PipeTime where
  last      : Frac := {}               -- last frame start F_k, or when the pipe was enabled
  started   : Bool := false            -- a frame has started since the pipe was enabled
  frameTime : Frac := {}               -- last frame start, as DSP_FRAME_TIME keeps it (R479)
  next      : Option Frac := none      -- next frame start, where it is fixed already
  fmax      : Frac := {}               -- its latest time (R453)
  deadline  : Frac := {}               -- its commit deadline
  ready     : Option Frac := none      -- ready instant of R454
  period    : Frac := {}               -- last frame period
  leads     : List (Frac × Nat) := []  -- writes of GAL_LEAD: when, and the value before; oldest first
  teEdges   : List Frac := []          -- accepted edges, newest first
  agreed    : Option Frac := none
  phase     : Int := 0
  locked    : Bool := false
  leaderless : Bool := false
  deriving DecidableEq, Repr

structure Pipe where
  state     : Nat := 0
  time      : PipeTime := {}
  decided   : Option Decision := none
  cands     : List Cand := []          -- oldest first
  shown     : Option Nat := none       -- VA the presented plane shows
  source    : Nat := 0
  transparent : Bool := true
  fallback  : Bool := false            -- shows the fallback image
  resume    : Bool := false            -- leaves it at the next frame start (R125)
  stored    : Option FallbackImage := none
  image     : Option FallbackImage := none   -- the stored image as of the last frame start (R465)
  colour    : Nat := 0                 -- DSP_FALLBACK as of the last frame start (R449)
  storing   : List (Nat × Async × Bool × Option FallbackImage) := []   -- tenant, request, read without error, image
  apply     : Bool := false
  applyOrder : Nat := 0                -- steps submitted before the apply write have lower orders
  floor     : Nat := 0                 -- buffers of steps before this order are not shown (R463)
  line      : Nat := 0                 -- lines of this frame whose scan has begun
  prevLines : List (List Nat) := []    -- previous output line of each plane
  carried   : Bool := false            -- its stream runs on a trained link since a frame start (R477)
  func      : Func := { phase := .disabled }
  fg        : FrameGen := {}
  gal       : GalRun := {}
  deriving DecidableEq, Repr

structure Transmitter where
  hpd      : Bool := false
  sink     : Option SinkCaps := none
  training : Bool := false
  trained  : Option (Nat × Nat) := none
  failed   : Bool := false
  idle     : List Nat := []             -- pipes whose stream the link cannot carry
  aux      : List (Nat × Async × DspAuxArgs) := []
  dsi      : List (Nat × Async × DsiCmdArgs × Option Nat) := []   -- with the panel's time limit, once sent
  teLost   : Bool := false
  changed  : Nat := 0
  deriving DecidableEq, Repr

structure Display where
  pipes  : Tab Pipe := []
  txs    : Tab Transmitter := []
  asleep : Bool := false
  deriving DecidableEq, Repr

/-! ## Sensors (R390 to R413) -/

structure Source where
  vc       : Nat
  dataType : Nat
  words    : Nat
  rows     : Nat
  seen     : Nat        -- last frame that carried it
  deriving DecidableEq, Repr

/-- A frame in progress on a virtual channel: the packets of each data type. -/
structure CsiFrame where
  number  : Nat
  start   : Nat           -- arrival
  types   : List (Nat × Nat × Nat) := []   -- data type, word count, rows
  bad     : Bool := false   -- a packet of it had an error (R393)
  fixed   : Bool := false
  deriving DecidableEq, Repr

structure Receiver where
  state   : Nat := 0
  mbps    : Nat := 0
  lastPacket : Nat := 0
  sources : List Source := []
  frames  : Tab CsiFrame := []
  errors  : Nat := 0
  deriving DecidableEq, Repr

structure TdmPort where
  state  : Nat := 0
  run    : Nat := 0        -- consecutive good frames
  hz     : Nat := 0
  last   : Nat := 0
  clocks : Nat := 0
  deriving DecidableEq, Repr

/-- A record in progress on a stream context. -/
structure Record where
  seq    : Nat
  slot   : Nat
  start  : Nat            -- 32-bit stamp
  startSec : Nat
  last   : Nat            -- end stamp so far
  opened : Nat
  frame  : Nat
  width  : Nat
  height : Nat
  bytes  : Nat
  pitch  : Nat
  data   : List (List Byte)   -- rows or blocks, newest first
  lost   : Nat            -- hole reason bits that lose this record, 0 none
  fixed  : Bool
  words  : Nat
  deriving DecidableEq, Repr

structure Context where
  head     : Nat := 0
  offered  : Nat := 0        -- last sequence number offered
  nextSlot : Nat := 0
  reasons  : Nat := 0
  holes    : Nat := 0
  before   : Nat := 0        -- records lost since the last written one
  beforeWhy : Nat := 0
  changed  : Bool := true
  current  : Option Record := none
  full     : List Nat := []  -- host-fed sequence numbers refused with RING_FULL (R402)
  func     : Func := { phase := .disabled }
  deriving DecidableEq, Repr

structure Sensors where
  rx    : Tab Receiver := []
  tdm   : Tab TdmPort := []
  ctx   : Tab Context := []
  deriving DecidableEq, Repr

/-! ## Decoding (R414 to R441) -/

structure DecRecord where
  seq     : Nat
  codec   : Nat
  hasAug  : Bool
  payload : Nat
  sample  : Nat
  tag     : Nat
  body    : Nat          -- body check
  start   : Nat          -- stream offset of the record header
  length  : Nat
  missing : Nat
  slot    : Nat := 0
  bad     : Bool := false   -- a record that cannot be read (R422)
  dispatched : Bool := false
  lane    : Option Nat := none
  started : Nat := 0
  done    : Option (Nat × Nat) := none   -- status and detail
  laneNs  : Nat := 0
  width   : Nat := 0
  height  : Nat := 0
  channels : Nat := 0
  ops     : Nat := 0
  seeded  : Bool := false
  budget  : Nat := 0        -- ns, as it was when the lane started
  deriving DecidableEq, Repr

structure Stream where
  tenant  : Nat
  args    : DecOpenArgs
  state   : Nat := 1
  pushed  : Nat := 0
  consumed : Nat := 0
  parsed  : Nat := 0         -- stream offset of the parser
  resyncing : Bool := false
  endPushed : Bool := false
  lastSeq : Option Nat := none
  head    : Nat := 0
  holes   : Nat := 0
  dups    : Nat := 0
  resyncs : Nat := 0
  nextSlot : Nat := 0
  records : List DecRecord := []      -- undelivered, oldest first
  ending  : Option Async := none
  closing : Option Async := none
  deriving DecidableEq, Repr

structure Lane where
  job  : Option (Nat × Nat) := none    -- stream, and where the record starts in it, which no two records share
  func : Func := {}
  deriving DecidableEq, Repr

structure Decoder where
  streams : Tab Stream := []
  lanes   : Tab Lane := []
  lastTenant : Nat := 15
  lastStream : Tab Nat := []
  deriving DecidableEq, Repr

/-! ## Network and time (R481 to R512) -/

structure Gcl where
  entries : List (Nat × Nat) := []     -- interval ns, gates
  cycle   : Nat := 0
  base    : Nat := 0
  deriving DecidableEq, Repr

structure GptpPort where
  delay    : Option Frac := none       -- meanLinkDelay
  pdelaySeq : Nat := 0
  pdelaySent : Option Frac := none     -- transmit instant of the last Pdelay_Req
  pending  : Option SyncMsg := none    -- a two-step Sync that awaits its Follow_Up
  syncSeq  : Nat := 0
  best     : Option AnnounceMsg := none
  bestSeen : Nat := 0
  role     : Nat := 0
  announceSeq : Nat := 0
  syncDue  : Nat := 0
  pdelayDue : Nat := 0
  announceDue : Nat := 0
  deriving DecidableEq, Repr

/-- A received frame: its source id, its sequence number in its class, and its stamp (R484, R493). -/
structure RxStamp where
  source : Nat
  seq    : Nat
  stamp  : Frac
  deriving DecidableEq, Repr

structure Port where
  link     : Bool := false
  mode     : Nat := 0
  rate     : Nat := 0
  preempt  : Bool := false
  verified : Bool := false           -- verification has succeeded (R491)
  conflict : Bool := false
  probes   : Nat := 0                -- probes and announcements sent of the link-local IPv4 address (R482)
  probeDue : Nat := 0                -- when the next is due
  defended : Option Nat := none      -- when a conflict was last answered (R482)
  gcl      : Gcl := {}
  gclOn    : Bool := false
  gclStart : Nat := 0
  gclIndex : Nat := 0
  staged   : List (Nat × (Nat × Nat)) := []
  stagedLen : Nat := 0
  stagedCycle : Nat := 0
  stagedBase : Nat := 0
  switching : Option (Nat × Async × Nat) := none   -- tenant, request, switch instant
  filters  : Tab (List Byte) := []
  gates    : Tab (List Byte) := []
  meters   : Tab (List Byte) := []
  buckets  : Tab (Nat × Nat × Nat) := []    -- committed and excess tokens (bits), last refill
  received : List Nat := [0, 0, 0, 0, 0, 0, 0, 0]
  stamps   : Tab RxStamp := []       -- the last frame received in each class (R484, R493)
  gptp     : GptpPort := {}
  deriving DecidableEq, Repr

structure TimeBase where
  t      : Frac := {}
  i      : Nat := 0          -- integral term, IEEE double code
  y      : Nat := 0          -- rate, ppb, IEEE double code
  state  : Nat := 0
  first  : Bool := true
  offset : Int := 0
  inBand : Nat := 0          -- consecutive offsets within 100 ns
  outBand : Nat := 0
  holdSyncs : Nat := 0
  slave  : Nat := 0
  gm     : Nat := 0
  lastSync : Nat := 0
  deriving DecidableEq, Repr

structure WallMember where
  last     : Nat             -- when a message last arrived
  boot     : Nat
  counter  : Nat
  priority : Nat
  ready    : Option Nat := none
  claim    : Option Nat := none
  deriving DecidableEq, Repr

structure Wall where
  key      : Option (List Byte) := none
  members  : Tab WallMember := []
  joined   : Bool := false
  leader   : Nat := 0
  isLeader : Bool := false
  leaderless : Bool := false
  conflict : Bool := false
  frame    : Nat := 0
  counter  : Nat := 1
  seen     : Tab (Nat × Nat) := []   -- the newest boot count and counter received from each member (R505)
  candidate : Option Nat := none
  agreed   : Option Nat := none
  claimAt  : Option Nat := none
  deriving DecidableEq, Repr

structure Net where
  ports : Tab Port := []
  bases : Tab TimeBase := []
  wall  : Wall := {}
  deriving DecidableEq, Repr

/-! ## Firmware, power, security (R530 to R595) -/

structure LogRecord where
  seq    : Nat
  ns     : Nat
  sec    : Nat
  source : Nat
  severity : Nat
  code   : Nat
  tenant : Nat
  args   : List Nat
  deriving DecidableEq, Repr

inductive ProcState where
  | off | running | restarting (due : Nat) | held
  deriving DecidableEq, Repr

/-- A region of a processor's memory protection unit (R532): a range, and what it permits. -/
structure MpuRegion where
  base    : Nat
  size    : Nat
  read    : Bool
  write   : Bool
  execute : Bool
  deriving DecidableEq, Repr

structure Processor where
  state   : ProcState := .off
  cause   : Nat := 0
  count   : Nat := 0
  build   : Nat := 0
  pending : Nat := 0          -- cause of the restart in progress
  requests : List Async := []  -- FW_RESTARTs that its start answers
  imem    : List Byte := []    -- instruction and data SRAM, 256 KiB each: what is past the end reads 0 (R530)
  dmem    : List Byte := []
  regions : List MpuRegion := []  -- at most 16 (R532)
  deriving DecidableEq, Repr

structure Firmware where
  procs    : Tab Processor := []
  staging  : List Byte := []       -- from its start; what is past the end reads 0
  image    : List Byte := []
  next     : List Byte := []       -- the image being verified or activated
  device   : Nat := 0              -- device state of the beacon
  actState : Nat := 0              -- FW_ACTIVATION.state
  actNext  : Nat := 0              -- place in the order of R547
  request  : Option Async := none
  major    : Nat := 0
  minor    : Nat := 0
  build    : Nat := 0
  secver   : Nat := 0
  signer   : Nat := 0
  mail     : Tab (List (List Byte)) := []   -- mailboxes, by sender × 8 + receiver: 64-byte messages, oldest first (R532)
  log      : List LogRecord := []  -- newest first
  logHead  : Nat := 0
  logLost  : Nat := 0
  logSecond : Nat := 0             -- the second in which records are being counted, and how many it has taken (R549)
  logCount : Nat := 0
  deriving DecidableEq, Repr

structure Power where
  level    : Nat := 0
  duty     : Nat := 64
  held     : Bool := false
  core     : List (Int × Int) := []      -- now and peak, 128 diodes
  uncore   : List (Int × Int) := []
  hbm      : Int × Int := (0, 0)
  now16    : Nat := 0                    -- core-rail current, and its 1 ms average, in 1/16 A
  avg16    : Nat := 0
  rails    : List (Nat × Nat) := []      -- last sample of the eight rails: millivolts, and current in 1/16 A (R558)
  samples  : List (Nat × Nat × Nat) := []   -- samples of the last 10 ms, newest first: when, core-rail current, package power in 1/16 mW
  package  : Nat := 0                    -- 10 ms package power, and its peak, in 1/16 mW
  packPeak : Nat := 0
  limiter  : Bool := false
  limEvents : Nat := 0
  lvlEvents : Nat := 0
  hot115   : Bool := false               -- the last sample had a diode at 115 °C or more
  at32     : Option Nat := none          -- since when the duty stands at 32 at level 1
  leaving  : Option Nat := none          -- since when the leaving condition holds
  below2   : Option Nat := none          -- when the level last fell below 2
  clear    : Option Nat := none          -- since when the hold's release condition holds (R543)
  parkDue  : Nat := 0
  loopDue  : Nat := 0
  thermal  : Nat := 0x00005F64           -- PWR_THERMAL, PWR_LIMITS and PWR_PARK in force (R570)
  limits   : Nat := 0xA29E01AE
  park     : Nat := 0x20
  deriving DecidableEq, Repr

/-- The non-volatile bank, its write counts, and the writes that wait for it (R587 to R590). -/
structure Nvr where
  words   : Tab Word := []
  wear    : Tab Nat := []
  queue   : List (Nat × Word × Nat) := []        -- word, value, job
  due     : Nat := 0
  jobs    : Tab (Nat × Async × Nat × Nat) := []     -- job: tenant, request, words written, address
  nextJob : Nat := 0
  deriving DecidableEq, Repr

structure Security where
  entropyFail : Bool := false
  bootWorn  : Bool := false
  enroll    : Option Nat := none          -- end of the window
  authFails : Nat := 0
  deriving DecidableEq, Repr

/-! ## The chip -/

inductive ChipPhase where
  | inReset                 -- powered, RESET_N low or an internal reset in progress
  | running
  | tripped                 -- level 4: stopped until reset (R566, R602)
  | holdOff                 -- RESET_N rose after a trip while a diode reads 105 °C or more
  deriving DecidableEq, Repr

structure Chip where
  phase     : ChipPhase := .inReset
  cause     : Nat := 0x01
  wasTripped : Bool := false
  straps    : StrapLevels := { compatSel := false, ethMode := 0 }   -- as sampled
  pins      : StrapLevels := { compatSel := false, ethMode := 0 }   -- as they stand on the pins (R601)
  clk       : Nat := 0            -- CLK_STATUS
  hbmReady  : Bool := false
  selftest  : Nat := 0
  failed    : Nat := 0
  retired   : Nat := 0
  retiredFrames : List Nat := []       -- frames that no page may take: retired by self-test or since (R155, R609)
  eccCorr   : Nat := 0
  eccUncorr : Nat := 0
  resetDue  : Option Nat := none
  i3cAddr   : Nat := 0            -- register address set
  i3cDyn    : Option (BitVec 7) := none
  trip      : Bool := false       -- THERM_TRIP_N asserted
  boot      : Nat := 0            -- boot count
  lowAt     : Nat := 0            -- when RESET_N last went low
  scrubDue  : Nat := 0
  deriving DecidableEq, Repr

/-- The whole chip. `pending` is the queue of commands that wait; `now` counts PERI cycles of 2.5 ns;
`fresh` counts the free values drawn (the model's own field); `sent` is what left the chip, newest
first (the model's own field). -/
structure State where
  pending : List Instr := []
  now     : Nat := 0
  fresh   : Nat := 0
  sent    : List Output := []
  regs    : Tab Word := []        -- register words that differ from their reset value
  pend    : Tab Word := []        -- pending RWS words
  chip    : Chip := {}
  link    : Transport := {}
  tenants : Tab Tenant := []
  hbm     : List Host.Cell := []  -- tenant bytes, keyed tenant * 2^48 + VA; what is not listed reads 0
  pad     : List Host.Cell := []  -- scratchpad bytes, keyed core * 2^22 + address
  sched   : Sched := {}
  disp    : Display := {}
  sens    : Sensors := {}
  dec     : Decoder := {}
  net     : Net := {}
  egress  : Tab Egress := []
  fw      : Firmware := {}
  pwr     : Power := {}
  nvr     : Nvr := {}
  sec     : Security := {}
  deriving DecidableEq, Repr

/-- Right after power-on reset, RESET_N still low: every field at its reset value, nothing queued. -/
def State.reset : State := {}

end Sys2Proof.Machine
end

