-- ==== Sys2Proof/Machine/Base.lean ====
section
/-! DEFINITION. Machine/Base.lean: the plainest operations that meanings share: exact time, access to the
tables of the state, memory, free values, and the trace. -/

namespace Sys2Proof.Machine

open Sys2Proof

/-! ## Exact fractions -/

def fr (n : Int) (d : Nat) : Frac :=
  let g := Nat.gcd n.natAbs d
  if g = 0 then ⟨0, 1⟩ else ⟨n / (g : Int), d / g⟩

def frOf (n : Int) : Frac := ⟨n, 1⟩
def frAdd (a b : Frac) : Frac := fr (a.num * b.den + b.num * a.den) (a.den * b.den)
def frSub (a b : Frac) : Frac := fr (a.num * b.den - b.num * a.den) (a.den * b.den)
def frMul (a b : Frac) : Frac := fr (a.num * b.num) (a.den * b.den)
def frLt (a b : Frac) : Bool := decide (a.num * b.den < b.num * a.den)
def frLe (a b : Frac) : Bool := decide (a.num * b.den ≤ b.num * a.den)
def frFloor (a : Frac) : Int := a.num / (a.den : Int)
def frMax (a b : Frac) : Frac := if frLt a b then b else a
def frMin (a b : Frac) : Frac := if frLt b a then b else a

/-! ## Time: PERI cycles of 2.5 ns (R41) -/

def usTicks : Nat := 400
def msTicks : Nat := 400000
def secTicks : Nat := 400000000

/-! ## Counters and small helpers -/

/-- A counter that stops at its largest value. -/
def satAdd (v n cap : Nat) : Nat := min (v + n) cap

def cap32 : Nat := 0xFFFFFFFF

/-- d = (b - a) mod 2^32 lies from 1 to 2^31 - 1: b is newer than a (R13). -/
def newer (b a : Nat) : Bool :=
  let d := (b + 2 ^ 32 - a % 2 ^ 32) % 2 ^ 32
  decide (1 ≤ d ∧ d < 2 ^ 31)

def le2 (v : Nat) : List Byte := leBytes 2 v
def le4 (v : Nat) : List Byte := leBytes 4 v
def le8 (v : Nat) : List Byte := leBytes 8 v
def by1 (v : Nat) : List Byte := leBytes 1 v

def fieldMask (hi lo : Nat) : Nat := (2 ^ (hi + 1 - lo) - 1) * 2 ^ lo
/-- A word with the bits of one field replaced. -/
def putBits (w hi lo v : Nat) : Nat :=
  w - bits w hi lo * 2 ^ lo + v % 2 ^ (hi + 1 - lo) * 2 ^ lo

/-! ## Register words that the map keeps -/

/-- The word that the map keeps at a register address. -/
def regW (s : State) (a : Nat) : Nat := (tabGet s.regs (BitVec.ofNat 32 (resetWord a)) a).toNat

def setRegW (s : State) (a v : Nat) : State :=
  { s with regs := tabPut s.regs (BitVec.ofNat 32 (resetWord a)) a (BitVec.ofNat 32 v) }

/-- The pending word of a register with RWS fields: what a read returns (R8). -/
def pendW (s : State) (a : Nat) : Nat :=
  match tabFind s.pend a with
  | some w => w.toNat
  | none => regW s a

/-- Add to a counter register that stops at a largest value. -/
def incReg (s : State) (a n cap : Nat) : State := setRegW s a (satAdd (regW s a) n cap)

def rField (s : State) (a hi lo : Nat) : Nat := bits (regW s a) hi lo

/-! ## Addresses -/

def aCmdPorts : Nat := 0x00010000
def aCmdBeacon : Nat := 0x00010004
def aDiscFormat : Nat := 0x00010010
def aDiscSession : Nat := 0x00010014
def aDiscTag : Nat := 0x00010018
def aDiscWindow : Nat := 0x0001001C
def aSysCompat : Nat := 0x00000010
def aSysRepro : Nat := 0x00000014
def aSysResetReq : Nat := 0x00000020
def aSysJtag : Nat := 0x00000024
def aTen (t o : Nat) : Nat := 0x00020000 + 0x100 * t + o
def aMmuConfig : Nat := 0x00030000
def aReserve : Nat := 0x00040000
def aKills : Nat := 0x00040008
def aEvictions : Nat := 0x0004000C
def aReelConfig : Nat := 0x00070000
def aReelTimeouts : Nat := 0x00070010
def aReelEcc : Nat := 0x00070014
def aFg (p o : Nat) : Nat := 0x00080000 + 0x100 * p + o
def aGal (p o : Nat) : Nat := 0x000A0000 + 0x100 * p + o
def aVisConfig : Nat := 0x000B0004
def aVisTimeouts : Nat := 0x000B0020
def aCtx (c o : Nat) : Nat := 0x000C0000 + 0x100 * c + o
def aCsi (r o : Nat) : Nat := 0x000C8000 + 0x10 * r + o
def aTdm (p o : Nat) : Nat := 0x000C9000 + 0x10 * p + o
def aSnsConfig : Nat := 0x000CA000
def aDecExpansion : Nat := 0x000D0004
def aDecTenant (t : Nat) : Nat := 0x000D0100 + 4 * t
def aDecTimeouts : Nat := 0x000D0300
def aDecLimits : Nat := 0x000D0304
def aPipe (p o : Nat) : Nat := 0x000E0000 + 0x1000 * p + o
def aMemSleep : Nat := 0x000E8008
def aMemSleeps : Nat := 0x000E800C
def aTx (t o : Nat) : Nat := 0x000E9000 + 0x10 * t + o
def aPort (p o : Nat) : Nat := 0x000F0000 + 0x1000 * p + o
def aWall (o : Nat) : Nat := 0x000F8000 + o
def aTim (b o : Nat) : Nat := 0x00100000 + 0x100 * b + o
def aPwr (o : Nat) : Nat := 0x00120000 + o
def aSecEnroll : Nat := 0x00130004
def aNvr (w : Nat) : Nat := 0x00140000 + 4 * w
def aLogLevel : Nat := 0x00150008
def aTrace : Nat := 0x0015000C

/-! ## Tables of the state -/

/-- Tenant 0 is enabled from reset, so it starts CONFIGURED (R113, R115). -/
def tenantDflt (t : Nat) : Tenant := if t = 0 then { state := .configured } else {}

def getTen (s : State) (t : Nat) : Tenant := tabGet s.tenants (tenantDflt t) t
def setTen (s : State) (t : Nat) (v : Tenant) : State := { s with tenants := tabSet s.tenants t v }
def modTen (s : State) (t : Nat) (f : Tenant → Tenant) : State := setTen s t (f (getTen s t))

def getSes (s : State) (i : Nat) : Option Session := tabFind s.link.sessions i
def setSes (s : State) (i : Nat) (v : Session) : State :=
  { s with link := { s.link with sessions := tabSet s.link.sessions i v } }

def getLoop (s : State) (i : Nat) : Option Loop := tabFind s.sched.loops i
def setLoop (s : State) (i : Nat) (v : Loop) : State :=
  { s with sched := { s.sched with loops := tabSet s.sched.loops i v } }

def getCore (s : State) (c : Nat) : Core := tabGet s.sched.cores {} c
def setCore (s : State) (c : Nat) (v : Core) : State :=
  { s with sched := { s.sched with cores := tabSet s.sched.cores c v } }

def getUnit (s : State) (u : Nat) : Func := tabGet s.sched.units {} u
def setUnit (s : State) (u : Nat) (v : Func) : State :=
  { s with sched := { s.sched with units := tabSet s.sched.units u v } }

def getPipe (s : State) (p : Nat) : Pipe := tabGet s.disp.pipes {} p
def setPipe (s : State) (p : Nat) (v : Pipe) : State :=
  { s with disp := { s.disp with pipes := tabSet s.disp.pipes p v } }
def modPipe (s : State) (p : Nat) (f : Pipe → Pipe) : State := setPipe s p (f (getPipe s p))

def getTx (s : State) (t : Nat) : Transmitter := tabGet s.disp.txs {} t
def setTx (s : State) (t : Nat) (v : Transmitter) : State :=
  { s with disp := { s.disp with txs := tabSet s.disp.txs t v } }

def getRx (s : State) (r : Nat) : Receiver := tabGet s.sens.rx {} r
def setRx (s : State) (r : Nat) (v : Receiver) : State :=
  { s with sens := { s.sens with rx := tabSet s.sens.rx r v } }
def getTdm (s : State) (p : Nat) : TdmPort := tabGet s.sens.tdm {} p
def setTdm (s : State) (p : Nat) (v : TdmPort) : State :=
  { s with sens := { s.sens with tdm := tabSet s.sens.tdm p v } }
def getCtx (s : State) (c : Nat) : Context := tabGet s.sens.ctx {} c
def setCtx (s : State) (c : Nat) (v : Context) : State :=
  { s with sens := { s.sens with ctx := tabSet s.sens.ctx c v } }

def getStream (s : State) (i : Nat) : Option Stream := tabFind s.dec.streams i
def setStream (s : State) (i : Nat) (v : Stream) : State :=
  { s with dec := { s.dec with streams := tabSet s.dec.streams i v } }
def getLane (s : State) (l : Nat) : Lane := tabGet s.dec.lanes {} l
def setLane (s : State) (l : Nat) (v : Lane) : State :=
  { s with dec := { s.dec with lanes := tabSet s.dec.lanes l v } }

def getPort (s : State) (p : Nat) : Port := tabGet s.net.ports {} p
def setPort (s : State) (p : Nat) (v : Port) : State :=
  { s with net := { s.net with ports := tabSet s.net.ports p v } }
def getBase (s : State) (b : Nat) : TimeBase := tabGet s.net.bases {} b
def setBase (s : State) (b : Nat) (v : TimeBase) : State :=
  { s with net := { s.net with bases := tabSet s.net.bases b v } }
def setWall (s : State) (w : Wall) : State := { s with net := { s.net with wall := w } }

def getProc (s : State) (p : Nat) : Processor := tabGet s.fw.procs {} p
def setProc (s : State) (p : Nat) (v : Processor) : State :=
  { s with fw := { s.fw with procs := tabSet s.fw.procs p v } }

/-! ## Time bases (R404, R497) -/

/-- The full count T of a time base in whole nanoseconds. -/
def tbNs (s : State) (b : Nat) : Nat := (frFloor (getBase s b).t).toNat
/-- Its 32-bit stamp. -/
def tbStamp (s : State) (b : Nat) : Nat := tbNs s b % 2 ^ 32
/-- Its 48-bit seconds. -/
def tbSec (s : State) (b : Nat) : Nat := tbNs s b / 1000000000 % 2 ^ 48

/-! ## Free values -/

/-- Draw a free value: the count of the draws moves on. -/
def draw (s : State) : State := { s with fresh := s.fresh + 1 }

/-! ## Memory: tenant bytes of HBM, and scratchpad bytes (R24, R114, R127) -/

abbrev Memory := List Host.Cell

/-- What an unlisted address reads as: 0 (R129 zeroes HBM before a tenant maps it). -/
def memUnlisted : Byte := 0

def memRead (m : Memory) (a : Nat) : Byte := tabGet m memUnlisted a
def memWrite (m : Memory) (a : Nat) (v : Byte) : Memory := tabPut m memUnlisted a v

/-- n bytes from an address. -/
def memReads (m : Memory) (a n : Nat) : List Byte := (List.range n).map fun i => memRead m (a + i)

def memWrites (m : Memory) (a : Nat) : List Byte → Memory
  | [] => m
  | v :: r => memWrites (memWrite m a v) (a + 1) r

/-- n zero bytes: the listed cells of the range go. -/
def memZero (m : Memory) (a n : Nat) : Memory := m.filter fun c => !(decide (a ≤ c.1) && decide (c.1 < a + n))

/-- The canonical form: addresses strictly rising, no entry equal to what an unlisted address
reads as. -/
def Memory.wf (m : Memory) : Bool := tabSorted m && m.all fun c => decide (c.2 ≠ memUnlisted)

/-- The key of a tenant's byte: tenants share no address (R126). -/
def hbmKey (t va : Nat) : Nat := t * 2 ^ 48 + va % 2 ^ 48

def hbmRead (s : State) (t va n : Nat) : List Byte := memReads s.hbm (hbmKey t va) n
def hbmWrite (s : State) (t va : Nat) (l : List Byte) : State :=
  { s with hbm := memWrites s.hbm (hbmKey t va) l }
def hbmZero (s : State) (t va n : Nat) : State := { s with hbm := memZero s.hbm (hbmKey t va) n }
def hbmLe (s : State) (t va n : Nat) : Nat := leNat (hbmRead s t va n)

/-- Scratchpad bytes of one core: 3 MiB (R24). -/
def padBytes : Nat := 0x300000
def padKey (c a : Nat) : Nat := c * 2 ^ 22 + a % 2 ^ 22
def padRead (s : State) (c a n : Nat) : List Byte := memReads s.pad (padKey c a) n
def padWrite (s : State) (c a : Nat) (l : List Byte) : State :=
  { s with pad := memWrites s.pad (padKey c a) l }
def padZero (s : State) (c a n : Nat) : State := { s with pad := memZero s.pad (padKey c a) n }

/-! ## Mapped ranges (R130, R135) -/

/-- The mapping that holds an address. -/
def mapAt : List Mapping → Nat → Option Mapping
  | [], _ => none
  | m :: r, va => if m.va ≤ va ∧ va < m.va + m.size then some m else mapAt r va

/-- Every byte from va up to stop lies in a mapping that satisfies p. -/
def covered (maps : List Mapping) (p : Mapping → Bool) : Nat → Nat → Nat → Bool
  | 0, va, stop => decide (stop ≤ va)
  | k + 1, va, stop =>
    if stop ≤ va then true
    else
      match mapAt maps va with
      | none => false
      | some m => p m && covered maps p k (m.va + m.size) stop

def rangeOk (s : State) (t : Nat) (p : Mapping → Bool) (va n : Nat) : Bool :=
  let maps := (getTen s t).mem.maps
  covered maps p (maps.length + 1) va (va + n)

/-- The mapping of a range that lies wholly in one mapping satisfying p. -/
def inOneMapping (s : State) (t : Nat) (p : Mapping → Bool) (va n : Nat) : Bool :=
  match mapAt (getTen s t).mem.maps va with
  | none => false
  | some m => p m && decide (va + n ≤ m.va + m.size)

/-- A range, if it is not empty, lies wholly in one mapping satisfying p. -/
def liesIn (s : State) (t : Nat) (p : Mapping → Bool) (va n : Nat) : Bool := decide (n = 0) || inOneMapping s t p va n

/-- Two byte ranges share a byte. -/
def overlap (a n b m : Nat) : Bool := decide (0 < n) && decide (0 < m) && decide (a < b + m) && decide (b < a + n)

/-- The first line with an uncorrectable error that a range of a tenant touches (R155). -/
def badLineIn (s : State) (t va n : Nat) : Option Nat :=
  (getTen s t).mem.badLines.find? fun l => overlap l 64 va n

/-- A whole line that is written takes new check bits: its error goes (R154). -/
def healLines (s : State) (t va n : Nat) : State :=
  if (getTen s t).mem.badLines = [] then s
  else modTen s t fun x => { x with mem := { x.mem with
    badLines := x.mem.badLines.filter fun l => !(decide (va ≤ l) && decide (l + 64 ≤ va + n)) } }

/-! ## Trace records (R549 to R552) -/

def ringRecords : Nat := 524288

/-- Records that the ring accepts in a second. -/
def logRate : Nat := 50000000

/-- Write one log record: the newest stands first, and the ring keeps 524,288 of them. A record beyond the rate is
dropped, counted, and takes no number (DESIGN CHOICE, log entry 47: a second is a whole one of the PERI count). -/
def pushLog (s : State) (source severity code tenant : Nat) (args : List Nat) : State :=
  let second := s.now / secTicks
  let n := if second = s.fw.logSecond then s.fw.logCount else 0
  if logRate ≤ n then { s with fw := { s.fw with logLost := satAdd s.fw.logLost 1 cap32 } }
  else
    let r : LogRecord :=
      { seq := (s.fw.logHead + 1) % 2 ^ 32, ns := tbStamp s 0, sec := tbSec s 0,
        source := source, severity := severity, code := code, tenant := tenant, args := args }
    { s with fw := { s.fw with logHead := (s.fw.logHead + 1) % 2 ^ 32, log := (r :: s.fw.log).take ringRecords,
                               logSecond := second, logCount := n + 1 } }

/-- What writes a trace point: a processor, or else hardware (R549, R552). -/
def traceSource (point : Nat) : Nat := if point = 12 ∨ point = 13 then 1 else if point = 14 then 5 else if point = 15 then 3 else 0x10

/-- What writes the trace point runs: hardware always does (R552). -/
def tracing (s : State) (point : Nat) : Bool :=
  traceSource point = 0x10 || (getProc s (traceSource point)).state = .running

/-- Write a trace record when its point is enabled (R551). -/
def trace (s : State) (point tenant : Nat) (args : List Nat) : State :=
  if bit (regW s aTrace) point && tracing s point then pushLog s (traceSource point) 0xFF point tenant args else s

end Sys2Proof.Machine
end

