-- ==== Sys2Proof/Machine/Crypto.lean ====
section
/-! DEFINITION. Machine/Crypto.lean: the published algorithms the manual names (R59, R572 to R575,
R585): SHA-512, HMAC, HKDF-SHA-512 (RFC 5869), AES-256-GCM, X25519 (RFC 7748) and Ed25519
(RFC 8032). PRESUMED: the manual names them and does not spell them out (log entry 9). -/

namespace Sys2Proof.Machine

/-! ## SHA-512 -/

def mask64 : Nat := 2 ^ 64

def rotr64 (x n : Nat) : Nat := (x / 2 ^ n + x * 2 ^ (64 - n)) % mask64

/-- Integer cube root by bits. -/
def icbrtLoop : Nat → Nat → Nat → Nat
  | 0, _, r => r
  | k + 1, n, r =>
    let t := r + 2 ^ k
    icbrtLoop k n (if t * t * t ≤ n then t else r)

def primes80 : List Nat :=
  (upFrom 2 420).filter fun n => (upFrom 2 20).all fun d => n ≤ d || n % d != 0

/-- Round constants: fractional bits of the cube roots of the first 80 primes. -/
def shaK : List Nat := (primes80.take 80).map fun p => icbrtLoop 70 (p * 2 ^ 192) 0 % mask64

/-- Initial hash: fractional bits of the square roots of the first eight primes. -/
def shaH0 : List Nat := (primes80.take 8).map fun p => isqrtLoop 70 (p * 2 ^ 128) 0 % mask64

def beNat (l : List Byte) : Nat := l.foldl (fun a b => a * 256 + b.toNat) 0

def beBytes (n v : Nat) : List Byte := (leBytes n v).reverse

/-- A byte string cut into blocks of k bytes, by fuel. -/
def blocksOf : Nat → Nat → List Byte → List (List Byte)
  | 0, _, _ => []
  | f + 1, k, l => if l.isEmpty then [] else l.take k :: blocksOf f k (l.drop k)

/-- The message schedule, one word per step from a window of sixteen. -/
def shaSchedule : Nat → List Nat → List Nat
  | 0, _ => []
  | n + 1, w =>
    let w1 := w.getD 1 0
    let w14 := w.getD 14 0
    let s0 := rotr64 w1 1 ^^^ rotr64 w1 8 ^^^ (w1 / 2 ^ 7)
    let s1 := rotr64 w14 19 ^^^ rotr64 w14 61 ^^^ (w14 / 2 ^ 6)
    let x := (w.getD 0 0 + s0 + w.getD 9 0 + s1) % mask64
    w.getD 0 0 :: shaSchedule n (w.drop 1 ++ [x])

def shaRound (st : List Nat) (kw : Nat × Nat) : List Nat :=
  match st with
  | [a, b, c, d, e, f, g, h] =>
    let s1 := rotr64 e 14 ^^^ rotr64 e 18 ^^^ rotr64 e 41
    let ch := (e &&& f) ^^^ ((mask64 - 1 - e) &&& g)
    let t1 := h + s1 + ch + kw.1 + kw.2
    let s0 := rotr64 a 28 ^^^ rotr64 a 34 ^^^ rotr64 a 39
    let mj := (a &&& b) ^^^ (a &&& c) ^^^ (b &&& c)
    [(t1 + s0 + mj) % mask64, a, b, c, (d + t1) % mask64, e, f, g]
  | l => l

def shaBlock (h : List Nat) (blk : List Byte) : List Nat :=
  let w := (blocksOf 16 8 blk).map beNat
  let st := (shaK.zip (shaSchedule 80 w)).foldl shaRound h
  (h.zip st).map fun p => (p.1 + p.2) % mask64

def sha512 (m : List Byte) : List Byte :=
  let pad := (239 - m.length % 128) % 128
  let msg := m ++ [0x80#8] ++ zeros pad ++ beBytes 16 (8 * m.length)
  let h := (blocksOf (msg.length / 128 + 1) 128 msg).foldl shaBlock shaH0
  h.flatMap (beBytes 8)

def hmacSha512 (key msg : List Byte) : List Byte :=
  let k := fit 128 (if 128 < key.length then sha512 key else key)
  sha512 (k.map (· ^^^ 0x5C#8) ++ sha512 (k.map (· ^^^ 0x36#8) ++ msg))

/-- HKDF-SHA-512 with one output block (up to 64 bytes), all the manual uses. -/
def hkdf (salt ikm info : List Byte) (len : Nat) : List Byte :=
  let prk := hmacSha512 (if salt.isEmpty then zeros 64 else salt) ikm
  (hmacSha512 prk (info ++ [1#8])).take len

/-! ## AES-256-GCM -/

def xtime (a : Nat) : Nat := if a < 128 then 2 * a else (2 * a - 256) ^^^ 0x1B

/-- Product in GF(2^8). -/
def gfMulLoop : Nat → Nat → Nat → Nat → Nat
  | 0, _, _, acc => acc
  | k + 1, a, b, acc => gfMulLoop k (xtime a) (b / 2) (if b % 2 = 1 then acc ^^^ a else acc)

def gfMul (a b : Nat) : Nat := gfMulLoop 8 a b 0

/-- Inverse in GF(2^8): the 254th power. -/
def gfInv (a : Nat) : Nat :=
  let a2 := gfMul a a
  let a3 := gfMul a2 a
  let a6 := gfMul a3 a3
  let a12 := gfMul a6 a6
  let a15 := gfMul a12 a3
  let a30 := gfMul a15 a15
  let a60 := gfMul a30 a30
  let a120 := gfMul a60 a60
  let a126 := gfMul a120 a6
  let a127 := gfMul a126 a
  gfMul a127 a127

def rotl8 (x n : Nat) : Nat := (x * 2 ^ n + x / 2 ^ (8 - n)) % 256

def aesSub (a : Nat) : Nat :=
  let b := gfInv a
  b ^^^ rotl8 b 1 ^^^ rotl8 b 2 ^^^ rotl8 b 3 ^^^ rotl8 b 4 ^^^ 0x63

def aesSBox : List Nat := (List.range 256).map aesSub

def aesSubByte (a : Nat) : Nat := aesSBox.getD a 0

def xorL (a b : List Nat) : List Nat := (a.zip b).map fun p => p.1 ^^^ p.2

/-- Key schedule: 60 words of four bytes, newest first. -/
def aesExpandLoop : Nat → Nat → Nat → List (List Nat) → List (List Nat)
  | 0, _, _, ws => ws
  | n + 1, i, rcon, ws =>
    let t := ws.getD 0 []
    let u :=
      if i % 8 = 0 then
        xorL ((t.drop 1 ++ t.take 1).map aesSubByte) [rcon, 0, 0, 0]
      else if i % 8 = 4 then t.map aesSubByte
      else t
    aesExpandLoop n (i + 1) (if i % 8 = 0 then xtime rcon else rcon) (xorL (ws.getD 7 []) u :: ws)

def natBlocks : Nat → List Nat → List (List Nat)
  | 0, _ => []
  | f + 1, l => l.take 4 :: natBlocks f (l.drop 4)

/-- The fifteen round keys of 16 bytes. -/
def aesRoundKeys (key : List Byte) : List (List Nat) :=
  let ws := (aesExpandLoop 52 8 1 (natBlocks 8 (key.map (·.toNat))).reverse).reverse
  (List.range 15).map fun r => ((ws.drop (4 * r)).take 4).flatten

def aesShiftRows (s : List Nat) : List Nat :=
  (List.range 16).map fun i => s.getD ((i + 4 * (i % 4)) % 16) 0

def aesMixColumn (c : List Nat) : List Nat :=
  match c with
  | [a, b, d, e] =>
    [gfMul a 2 ^^^ gfMul b 3 ^^^ d ^^^ e, a ^^^ gfMul b 2 ^^^ gfMul d 3 ^^^ e,
     a ^^^ b ^^^ gfMul d 2 ^^^ gfMul e 3, gfMul a 3 ^^^ b ^^^ d ^^^ gfMul e 2]
  | l => l

def aesMix (s : List Nat) : List Nat := ((natBlocks 4 s).map aesMixColumn).flatten

def aesBlock (rk : List (List Nat)) (blk : List Byte) : List Byte :=
  let s0 := xorL (blk.map (·.toNat)) (rk.getD 0 [])
  let mid := (rk.drop 1).take 13
  let s := mid.foldl (fun s k => xorL (aesMix (aesShiftRows (s.map aesSubByte))) k) s0
  let out := xorL (aesShiftRows (s.map aesSubByte)) (rk.getD 14 [])
  out.map (BitVec.ofNat 8)

/-- Product in GCM's field, bit 0 the most significant of the block. -/
def ghashMulLoop : Nat → Nat → Nat → Nat → Nat
  | 0, _, _, z => z
  | k + 1, x, v, z =>
    ghashMulLoop k x (if v % 2 = 1 then v / 2 ^^^ (0xE1 * 2 ^ 120) else v / 2)
      (if bit x k then z ^^^ v else z)

def ghashMul (x h : Nat) : Nat := ghashMulLoop 128 x h 0

def pad16 (l : List Byte) : List Byte := l ++ zeros ((16 - l.length % 16) % 16)

def ghash (h : Nat) (aad ct : List Byte) : Nat :=
  let m := pad16 aad ++ pad16 ct ++ beBytes 8 (8 * aad.length) ++ beBytes 8 (8 * ct.length)
  (blocksOf (m.length / 16 + 1) 16 m).foldl (fun y b => ghashMul (y ^^^ beNat b) h) 0

def xorBytes (a b : List Byte) : List Byte := (a.zip b).map fun p => p.1 ^^^ p.2

/-- Counter-mode key stream XOR from counter 2. -/
def gcmCtr (rk : List (List Nat)) (nonce msg : List Byte) : List Byte :=
  let n := ceilDiv msg.length 16
  xorBytes msg ((List.range n).flatMap fun i => aesBlock rk (nonce ++ beBytes 4 (i + 2)))

def gcmTag (rk : List (List Nat)) (nonce aad ct : List Byte) : List Byte :=
  let h := beNat (aesBlock rk (zeros 16))
  xorBytes (beBytes 16 (ghash h aad ct)) (aesBlock rk (nonce ++ beBytes 4 1))

/-- AES-256-GCM: ciphertext and 16-byte tag. -/
def gcmSeal (key nonce aad pt : List Byte) : List Byte × List Byte :=
  let rk := aesRoundKeys key
  let ct := gcmCtr rk nonce pt
  (ct, gcmTag rk nonce aad ct)

/-- The plaintext, where the tag verifies. -/
def gcmOpen (key nonce aad ct tag : List Byte) : Option (List Byte) :=
  let rk := aesRoundKeys key
  if gcmTag rk nonce aad ct = tag then some (gcmCtr rk nonce ct) else none

/-! ## Curve25519 -/

def p25519 : Nat := 2 ^ 255 - 19

def fMul (a b : Nat) : Nat := a * b % p25519
def fAdd (a b : Nat) : Nat := (a + b) % p25519
def fSub (a b : Nat) : Nat := (a + p25519 - b % p25519) % p25519

/-- a^e, over the bits of e from bit k − 1 down. -/
def fPowLoop : Nat → Nat → Nat → Nat → Nat
  | 0, _, _, acc => acc
  | k + 1, a, e, acc => fPowLoop k a e (if bit e k then fMul (fMul acc acc) a else fMul acc acc)

def fPow (a e : Nat) : Nat := fPowLoop 255 a e 1
def fInv (a : Nat) : Nat := fPow a (p25519 - 2)

/-- One Montgomery ladder step on (x2, z2, x3, z3) (RFC 7748). -/
def ladderLoop : Nat → Nat → Nat → Nat × Nat × Nat × Nat → Nat × Nat × Nat × Nat
  | 0, _, _, st => st
  | n + 1, k, x1, (x2, z2, x3, z3) =>
    let sw := bit k n
    let (x2, z2, x3, z3) := if sw then (x3, z3, x2, z2) else (x2, z2, x3, z3)
    let a := fAdd x2 z2
    let aa := fMul a a
    let b := fSub x2 z2
    let bb := fMul b b
    let e := fSub aa bb
    let da := fMul (fSub x3 z3) a
    let cb := fMul (fAdd x3 z3) b
    let s := fAdd da cb
    let t := fSub da cb
    let r := (fMul aa bb, fMul e (fAdd aa (fMul 121665 e)), fMul s s, fMul x1 (fMul t t))
    let (y2, w2, y3, w3) := r
    ladderLoop n k x1 (if sw then (y3, w3, y2, w2) else (y2, w2, y3, w3))

def clamp25519 (l : List Byte) : Nat := leNat l % 2 ^ 254 / 8 * 8 + 2 ^ 254

def x25519 (scalar point : List Byte) : List Byte :=
  let u := leNat point % 2 ^ 255 % p25519
  let st := ladderLoop 255 (clamp25519 scalar) u (1, 0, u, 1)
  leBytes 32 (fMul st.1 (fInv st.2.1))

def x25519Base : List Byte := leBytes 32 9

/-! ## Ed25519, extended coordinates (X, Y, Z, T) -/

def edD : Nat := fMul (p25519 - 121665) (fInv 121666)
def edL : Nat := 2 ^ 252 + 27742317777372353535851937790883648493

abbrev EdPt := Nat × Nat × Nat × Nat

def edAdd : EdPt → EdPt → EdPt
  | (x1, y1, z1, t1), (x2, y2, z2, t2) =>
    let a := fMul (fSub y1 x1) (fSub y2 x2)
    let b := fMul (fAdd y1 x1) (fAdd y2 x2)
    let c := fMul (fMul 2 (fMul t1 t2)) edD
    let d := fMul 2 (fMul z1 z2)
    let e := fSub b a
    let f := fSub d c
    let g := fAdd d c
    let h := fAdd b a
    (fMul e f, fMul g h, fMul f g, fMul e h)

def edMulLoop : Nat → Nat → EdPt → EdPt → EdPt
  | 0, _, _, acc => acc
  | k + 1, s, p, acc =>
    let d := edAdd acc acc
    edMulLoop k s p (if bit s k then edAdd d p else d)

def edMul (s : Nat) (p : EdPt) : EdPt := edMulLoop 256 s p (0, 1, 1, 0)

/-- The x coordinate of a y with a given parity, where one exists. -/
def edRecoverX (y : Nat) (par : Bool) : Option Nat :=
  if p25519 ≤ y then none else
  let y2 := fMul y y
  let x2 := fMul (fSub y2 1) (fInv (fAdd (fMul edD y2) 1))
  if x2 = 0 then (if par then none else some 0) else
  let r := fPow x2 ((p25519 + 3) / 8)
  let x := if fMul r r = x2 then r else fMul r (fPow 2 ((p25519 - 1) / 4))
  if fMul x x ≠ x2 then none
  else some (if (x % 2 == 1) == par then x else p25519 - x)

def edDecode (l : List Byte) : Option EdPt :=
  let v := leNat l
  let y := v % 2 ^ 255
  match edRecoverX y (bit v 255) with
  | none => none
  | some x => some (x, y, 1, fMul x y)

def edEncode : EdPt → List Byte
  | (x, y, z, _) =>
    let zi := fInv z
    let ax := fMul x zi
    leBytes 32 (fMul y zi + (if ax % 2 = 1 then 2 ^ 255 else 0))

def edBase : EdPt :=
  let y := fMul 4 (fInv 5)
  let x := (edRecoverX y false).getD 0
  (x, y, 1, fMul x y)

def edPublic (secret : List Byte) : List Byte :=
  edEncode (edMul (clamp25519 ((sha512 secret).take 32)) edBase)

def edSign (secret msg : List Byte) : List Byte :=
  let h := sha512 secret
  let a := clamp25519 (h.take 32)
  let pub := edPublic secret
  let r := leNat (sha512 (h.drop 32 ++ msg)) % edL
  let rp := edEncode (edMul r edBase)
  let k := leNat (sha512 (rp ++ pub ++ msg)) % edL
  rp ++ leBytes 32 ((r + k * a) % edL)

/-- Signature verification (RFC 8032): S below L, and [S]B = R + [k]A as encodings. -/
def edVerify (pub msg sig : List Byte) : Bool :=
  let s := leNat ((sig.drop 32).take 32)
  match edDecode pub, edDecode (sig.take 32) with
  | some a, some r =>
    let k := leNat (sha512 (sig.take 32 ++ pub ++ msg)) % edL
    decide (sig.length = 64) && decide (pub.length = 32) && decide (s < edL) &&
      decide (edEncode (edMul s edBase) = edEncode (edAdd r (edMul k a)))
  | _, _ => false

/-- The bytes of a text. -/
def ascii (s : String) : List Byte := s.toList.map fun c => BitVec.ofNat 8 c.toNat

/-- CRC-64 over bytes, reflected, given its polynomial, initial value and final XOR. -/
def crcStep (poly : Nat) (c : Nat) : Nat → Nat
  | 0 => c
  | k + 1 => crcStep poly (if c % 2 = 1 then c / 2 ^^^ poly else c / 2) k

def crcReflected (poly init fin : Nat) (l : List Byte) : Nat :=
  (l.foldl (fun c b => crcStep poly (c ^^^ b.toNat) 8) init) ^^^ fin

end Sys2Proof.Machine
end

