-- ==== Sys2Proof/Machine/Egress.lean ====
section
/-! DEFINITION. Machine/Egress.lean: what leaves the chip: the addresses of a port (R482), the datagrams that carry
packets (R49 to R53, R483, R484), the header, nonce and seal of a packet (R56, R59, R60, R62), and the gates that an
Ethernet frame leaves through (R488 to R491). An IPv4 address stands in the low 32 bits of an address, first octet in
[31:24]; an IPv6 address has its first byte uppermost. -/

namespace Sys2Proof.Machine

open Sys2Proof

def modPort (s : State) (p : Nat) (f : Port → Port) : State := setPort s p (f (getPort s p))
def portCfg (s : State) (p hi lo : Nat) : Nat := rField s (aPort p 0) hi lo
def portOn (s : State) (p : Nat) : Bool := portCfg s p 31 31 = 1

/-! ## Addresses (R482) -/

/-- The MAC address of a port, byte 0 first. -/
def macBytes (p : Nat) : List Byte := leBytes 6 (Config.portMac p).toNat
def macByte (p i : Nat) : Nat := leAt (macBytes p) i 1

/-- The port's IPv4 address: configured, or link-local from its MAC address. -/
def portIp4 (s : State) (p : Nat) : Nat :=
  let w := regW s (aPort p 0x10)
  if w ≠ 0 then w else 0xA9FE0000 + (1 + macByte p 4 % 254) * 256 + macByte p 5

/-- The modified EUI-64 of a MAC address, and the identifier that keeps its first byte. -/
def eui64 (p flip : Nat) : Nat :=
  beNat (([macByte p 0 ^^^ flip, macByte p 1, macByte p 2, 0xFF, 0xFE, macByte p 3, macByte p 4, macByte p 5]).map (BitVec.ofNat 8))

def linkLocal6 (p : Nat) : Nat := 0xFE80 * 2 ^ 112 + eui64 p 2

def static6 (s : State) (p : Nat) : Option Nat :=
  if portCfg s p 16 16 = 1 then
    some (regW s (aPort p 0x20) * 2 ^ 96 + regW s (aPort p 0x24) * 2 ^ 64 + regW s (aPort p 0x28) * 2 ^ 32 + regW s (aPort p 0x2C))
  else none

/-- An IPv6 address of the port. -/
def ownIp6 (s : State) (p a : Nat) : Bool := a = linkLocal6 p || static6 s p = some a
/-- The port uses its IPv4 address: a configured one at once, the link-local one once its probes have met no conflict
(RFC 5227), and none while it is in conflict. -/
def ip4Up (s : State) (p : Nat) : Bool :=
  !(getPort s p).conflict && (regW s (aPort p 0x10) ≠ 0 || decide (4 ≤ (getPort s p).probes))
def ownIp4 (s : State) (p a : Nat) : Bool := ip4Up s p && a = portIp4 s p
def ownAddress (s : State) (p : Nat) (v6 : Bool) (a : Nat) : Bool := if v6 then ownIp6 s p a else ownIp4 s p a

/-- The address that a datagram leaves from (DESIGN CHOICE, log entry 57): link-local towards a link-local host, else
the static IPv6 address where the port has one. -/
def ownSource (s : State) (p : Nat) (v6 : Bool) (dst : Nat) : Nat :=
  if !v6 then portIp4 s p
  else if dst / 2 ^ 118 = 0x3FA then linkLocal6 p
  else (static6 s p).getD (linkLocal6 p)

/-! ## Headers and seals (R56, R59, R60, R62) -/

def ndMajor : Nat := 3

/-- The 32 bytes of a header (R56). -/
def wireHeader (major minor op tenant flags session seq ack len tag status detail : Nat) : List Byte :=
  le2 0x4E44 ++ by1 major ++ by1 minor ++ le2 op ++ by1 tenant ++ by1 flags ++ le4 session ++ le4 seq ++ le4 ack
  ++ le4 len ++ le4 tag ++ le2 status ++ le2 detail

/-- The nonce of a packet (R60): the counter's low 32 bits, and the times it has wrapped beside the direction (from
the Ndovik) and the ack_only bit. -/
def packetNonce (session count : Nat) (fromDevice ackOnly : Bool) : List Byte :=
  le4 session ++ le4 count ++ le4 (2 ^ 31 * boolNat fromDevice + 2 ^ 30 * boolNat ackOnly + count / 2 ^ 32 % 2 ^ 30)

/-- A command packet under a key: the header, the ciphertext, the tag over both (R50, R59). -/
def sealed (key nonce header payload : List Byte) : List Byte :=
  let x := gcmSeal key nonce header payload
  header ++ x.1 ++ x.2

/-- The tag of a handshake packet: an all-zero key over header and payload, both in clear (R62). -/
def clearTag (nonce header payload : List Byte) : List Byte :=
  gcmTag (aesRoundKeys (zeros 32)) nonce (header ++ payload) []

/-- A handshake packet of the Ndovik: its sequence field is 0. -/
def clearPacket (header payload : List Byte) : List Byte :=
  header ++ payload ++ clearTag (packetNonce 0 0 true false) header payload

/-! ## Datagrams (R49, R51, R53, R483, R484) -/

/-- The class of a priority code point (IEEE 802.1Q, eight classes). -/
def pcpClass (c : Nat) : Nat := match c with | 0 => 1 | 1 => 0 | n => n

def commandTag (s : State) (p : Nat) : Option (Nat × Nat) :=
  let v := portCfg s p 11 0
  if v ≠ 0 then some (v, portCfg s p 19 17) else none

/-- A datagram of the command port to a host: to the Ethernet address that its last packet came from, never
fragmented. -/
def unicast (s : State) (p : Nat) (h : Endpoint) (bytes : List Byte) : Wire :=
  { eth := p, dstMac := h.mac, cls := pcpClass (portCfg s p 19 17), vlan := commandTag s p, v6 := h.v6,
    src := BitVec.ofNat 128 (ownSource s p h.v6 h.ip.toNat), dst := h.ip, srcPort := rField s aCmdPorts 15 0,
    dstPort := h.port.toNat, whole := true, bytes := bytes }

/-- The Ethernet address of a multicast group. -/
def groupMac (v6 : Bool) (g : Nat) : BitVec 48 :=
  BitVec.ofNat 48 (if v6 then 0x333300000000 + g % 2 ^ 32 else 0x01005E000000 + g % 2 ^ 23)

/-- A datagram to a group, from and to one UDP port. -/
def toGroup (s : State) (p : Nat) (v6 : Bool) (g port cls : Nat) (tag : Option (Nat × Nat)) (bytes : List Byte) : Wire :=
  { eth := p, dstMac := groupMac v6 g, cls := cls, vlan := tag, v6 := v6,
    src := BitVec.ofNat 128 (ownSource s p v6 g), dst := BitVec.ofNat 128 g, srcPort := port, dstPort := port,
    whole := true, bytes := bytes }

/-- 239.255.86.n, and ff02::4e43 + n. -/
def groupOf (v6 : Bool) (n : Nat) : Nat := if v6 then 0xFF02 * 2 ^ 112 + 0x4E43 + n else 0xEFFF5600 + n

def beaconWire (s : State) (p : Nat) (v6 : Bool) (bytes : List Byte) : Wire :=
  toGroup s p v6 (groupOf v6 1) (rField s aCmdPorts 31 16) (pcpClass (portCfg s p 19 17)) (commandTag s p) bytes

/-- The port and class of a wall-sync packet: UDP port 52802, tagged with PCP 6, on class 6 (R484, R505). -/
def wallWire (s : State) (p : Nat) (v6 : Bool) (bytes : List Byte) : Wire :=
  toGroup s p v6 (groupOf v6 2) 52802 6 (some (portCfg s p 11 0, 6)) bytes

/-! ## Frames -/

/-- Bytes on the line of a frame, with preamble and inter-frame gap. -/
def lineBytes (n : Nat) : Nat := max 64 n + 20

def wireBytes (w : Wire) : Nat :=
  lineBytes (14 + (if w.vlan.isSome then 4 else 0) + (if w.v6 then 40 else 20) + 8 + w.bytes.length + 4)

/-- Port, class and line bytes of an Ethernet frame (R484). The lengths of frames other than datagrams follow their
standards (PRESUMED, log entry 43). -/
def ethFrame (s : State) (o : Output) : Option (Nat × Nat × Nat) :=
  let plain (p n : Nat) : Option (Nat × Nat × Nat) :=
    some (p, pcpClass (portCfg s p 19 17), lineBytes (n + 18 + if (commandTag s p).isSome then 4 else 0))
  let wire (w : Wire) : Option (Nat × Nat × Nat) := some (w.eth, w.cls, wireBytes w)
  match o with
  | .packet _ _ w => wire w
  | .ackOnly _ _ _ w => wire w
  | .handshake w => wire w
  | .beacon w => wire w
  | .wall _ w => wire w
  | .arpReply p _ => plain p 28
  | .arpProbe p _ => plain p 28
  | .arpAnnounce p _ => plain p 28
  | .mldReport p _ => plain p 76
  | .neighbourAdvert p _ => plain p 72
  | .echoReply p r => plain p ((if r.src.v6 then 40 else 20) + 8 + r.data.length)
  | .gptp p kind _ => some (p, 7, lineBytes (18 + if kind = 0 then 44 else if kind = 1 ∨ kind = 5 then 76 else 54))
  | _ => none

/-- An IPv4 datagram of a port that may not use its IPv4 address (R482). -/
def muted (s : State) (o : Output) : Bool :=
  let wire (w : Wire) : Bool := !w.v6 && !ip4Up s w.eth
  match o with
  | .packet _ _ w => wire w
  | .ackOnly _ _ _ w => wire w
  | .handshake w => wire w
  | .beacon w => wire w
  | .wall _ w => wire w
  | _ => false

/-! ## Instants at the medium (R481, R494) -/

/-- The time base of a port's gPTP. -/
def ptpBase (s : State) (p : Nat) : Nat := portCfg s p 23 22
/-- The time base that stamps a port's frames and drives its gates. -/
def tsnBase (s : State) (p : Nat) : Nat := portCfg s p 21 20

/-- Transmit and receive constants in 0.1 ns, by mode and rate in use. -/
def macConstants (mode rate : Nat) : Nat × Nat :=
  match mode, rate with
  | 0, _ => (448, 608)
  | 1, 0 => (512, 672)
  | 1, 1 => (832, 1152)
  | 1, 2 => (1472, 2112)
  | 1, _ => (3392, 4992)
  | 2, _ => (1280, 1760)
  | 3, _ => (2960, 3920)
  | _, _ => (2640, 3600)

/-- Link rate in kbit/s of a mode and a USXGMII rate. -/
def linkKbps (mode rate : Nat) : Nat :=
  match mode, rate with
  | 0, _ => 10000000
  | 1, 0 => 10000000
  | 1, 1 => 5000000
  | 1, 2 => 2500000
  | 2, _ => 2500000
  | _, _ => 1000000

def txDelay (s : State) (p : Nat) : Frac :=
  let x := getPort s p
  fr (((macConstants x.mode x.rate).1 + 10 * rField s (aPort p 0x30) 31 16 : Nat) : Int) 10
def rxDelay (s : State) (p : Nat) : Frac :=
  let x := getPort s p
  fr (((macConstants x.mode x.rate).2 + 10 * rField s (aPort p 0x30) 15 0 : Nat) : Int) 10

/-- Times of gPTP messages count 2^-16 ns. -/
def scaled (n : Int) : Frac := fr n 65536
def toScaled (f : Frac) : Int := frFloor (fr (f.num * 65536) f.den)

/-- The resolution of a MAC stamp, 0.625 ns (R493). -/
def macStamp (t : Frac) : Frac := frMul (fr 5 8) (frOf (frFloor (frMul t (fr 8 5))))

/-- The transmit instant of a frame that leaves now (R493, R494). -/
def txInstant (s : State) (p : Nat) : Frac := frAdd (macStamp (getBase s (ptpBase s p)).t) (txDelay s p)

/-! ## Gates (R488, R489) -/

/-- Where the entry in force ends, counted from the start of its cycle: the last entry lasts until the
cycle ends, and none outlasts it. -/
def gclEntryEnd (g : Gcl) (i : Nat) : Nat :=
  if g.entries.length ≤ i + 1 then g.cycle else min g.cycle ((g.entries.take (i + 1)).map fun e => e.1).sum

def entryGates (g : Gcl) (i : Nat) : Nat := (g.entries.getD i (0, 0xFF)).2

/-- The gates that are open. -/
def openGates (s : State) (p : Nat) : Nat :=
  let x := getPort s p
  if x.gclOn then entryGates x.gcl x.gclIndex else 0xFF

/-- When the gate of a class closes, from an entry of a cycle that began at some time on; none: never. -/
def gateEnd (g : Gcl) (c : Nat) : Nat → Nat → Nat → Option Nat
  | 0, _, _ => none
  | k + 1, i, start =>
    let stop := gclEntryEnd g i
    let nextI := if stop = g.cycle then 0 else i + 1
    if bit (entryGates g nextI) c then gateEnd g c k nextI (if stop = g.cycle then start + g.cycle else start)
    else some (start + stop)

/-- When the open gate of a class closes: by the list that runs, or at a switch to one that closes it. -/
def gateCloses (s : State) (p c : Nat) : Option Nat :=
  let x := getPort s p
  let run := if x.gclOn then gateEnd x.gcl c (x.gcl.entries.length + 1) x.gclIndex x.gclStart else none
  let sw := match x.switching with
    | some (_, _, at_) => if bit (tabGet x.staged (0, 0) 0).2 c then none else some at_
    | none => none
  match run, sw with
  | some a, some b => some (min a b)
  | some a, none => some a
  | none, b => b


/-! ## Shaping (R490) -/

/-- The ns of a cycle in which the gate of a class is open. -/
def openNs (g : Gcl) (c : Nat) : Nat :=
  ((List.range g.entries.length).map fun i =>
    if bit (entryGates g i) c then gclEntryEnd g i - (if i = 0 then 0 else gclEntryEnd g (i - 1)) else 0).sum

/-- Idle slope of a shaped class in bits per ns; behind gates, raised by the part of the cycle that they are open
(IEEE 802.1Qbv). -/
def idleSlope (s : State) (p c : Nat) : Option Frac :=
  let of (o : Nat) : Option Nat :=
    let w := regW s (aPort p o)
    if bit w 31 && bits w 30 28 = c then some (bits w 22 0) else none
  match of 0x40 <|> of 0x44 with
  | none => none
  | some k =>
    let x := getPort s p
    let n := openNs x.gcl c
    if x.gclOn && decide (0 < n) then some (fr ((k * x.gcl.cycle : Nat) : Int) (1000000 * n)) else some (fr (k : Int) 1000000)

def getEgress (s : State) (p : Nat) : Egress := tabGet s.egress {} p
def setEgress (s : State) (p : Nat) (e : Egress) : State := { s with egress := tabSet s.egress p e }

/-- The frames of the port leave one by one: it runs a gate list or one waits, a shaper is on, pre-emption is in use, or
frames still wait. -/
def paced (s : State) (p : Nat) : Bool :=
  let x := getPort s p
  x.gclOn || x.switching.isSome || x.preempt || bit (regW s (aPort p 0x40)) 31 || bit (regW s (aPort p 0x44)) 31
  || (getEgress s p).queue ≠ []

def portRate (s : State) (p : Nat) : Frac := fr ((linkKbps (getPort s p).mode (getPort s p).rate : Nat) : Int) 1000000

def frDiv (a b : Frac) : Frac :=
  if b.num = 0 then {} else frMul a (if b.num < 0 then ⟨-(b.den : Int), b.num.natAbs⟩ else ⟨b.den, b.num.natAbs⟩)

def zeroFrac : Frac := frOf 0

/-- When a frame of a class may start: once the line is free and the credit of a shaped class is not negative; with
the credit at that instant. -/
def startAt (s : State) (p : Nat) (e : Egress) (c : Nat) : Option (Frac × Frac) :=
  let now := (getBase s (tsnBase s p)).t
  let free := frMax now e.lineFree
  match idleSlope s p c with
  | none => some (free, zeroFrac)
  | some idle =>
    let y := tabGet e.credit (zeroFrac, zeroFrac) c
    let then_ := if frLt now y.2 then y.1 else frMin zeroFrac (frAdd y.1 (frMul idle (frSub now y.2)))
    let c1 := frAdd then_ (frMul idle (frSub free (frMax now y.2)))
    if frLe zeroFrac c1 then some (free, c1)
    else if idle.num = 0 then none
    else some (frAdd free (frDiv (frSub zeroFrac c1) idle), zeroFrac)

/-- The line is taken by a class from one instant to another. -/
def takeLine (s : State) (p : Nat) (e : Egress) (c : Nat) (credit start stop : Frac) : Egress :=
  { e with
    lineFree := stop,
    credit := match idleSlope s p c with
      | none => e.credit
      | some idle => tabSet e.credit c (frAdd credit (frMul (frSub idle (portRate s p)) (frSub stop start)), stop) }

/-! ## A frame at its port (R486, R489, R491) -/

def preemptable (s : State) (p c : Nat) : Bool := (getPort s p).preempt && decide (c < 7) && bit (regW s (aPort p 0x48)) c

def lineNs (s : State) (p n : Nat) : Frac := frDiv (frOf (8 * n : Nat)) (portRate s p)

/-- The shortest fragment that does not end its frame, with preamble; the shortest that does (R491); and what a cut puts
on the line: a check sequence and gap after the first part, a preamble before the next (PRESUMED, IEEE 802.3br, log
entry 43). -/
def firstFragment (s : State) (p : Nat) : Nat := (bits (regW s (aPort p 0x48)) 29 28 + 1) * 64 + 8
def lastFragment : Nat := 64
def cutTail : Nat := 16
def cutHead : Nat := 8

/-- Where a preemptable frame that stands on the line from one instant to another can be cut at or after a third. -/
def cutFrom (s : State) (p : Nat) (start stop t : Frac) : Option Frac :=
  let at_ := frMax t (frAdd start (lineNs s p (firstFragment s p)))
  if frLe (frAdd at_ (lineNs s p lastFragment)) stop then some at_ else none

/-- How a frame takes the line: from when, with which credit, until when, and what is left of it then. -/
structure LineUse where
  start  : Frac
  credit : Frac
  stop   : Frac
  left   : Option Frac := none
  deriving DecidableEq, Repr

/-- An express frame starts where its last byte leaves before the gate closes; a preemptable one starts while the gate is
open, and is pre-empted when it closes (R489). None: it cannot start yet. -/
def lineUse (s : State) (p : Nat) (e : Egress) (f : HeldFrame) : Option LineUse :=
  if !bit (openGates s p) f.cls then none
  else
    match startAt s p e f.cls with
    | none => none
    | some (start, credit) =>
      let stop := frAdd start (f.left.getD (lineNs s p f.bytes))
      match gateCloses s p f.cls with
      | none => some { start := start, credit := credit, stop := stop }
      | some t =>
        let close := frOf (t : Nat)
        if frLe stop close then some { start := start, credit := credit, stop := stop }
        else if preemptable s p f.cls then
          let at_ := frMin close (frSub stop (lineNs s p lastFragment))
          match cutFrom s p start stop at_ with
          | some c =>
            if frLe c close then
              some { start := start, credit := credit, stop := c, left := some (frAdd (frSub stop c) (lineNs s p cutHead)) }
            else none
          | none => none
        else none

/-- A preemptable frame waits for another one whose rest has not left (IEEE 802.3br). -/
def behindRest (s : State) (p : Nat) (e : Egress) (f : HeldFrame) : Bool :=
  preemptable s p f.cls && f.left.isNone && e.queue.any fun x => x.left.isSome

/-- The line is taken as said; a preemptable frame on it can be cut while it stands there. -/
def useLine (s : State) (p : Nat) (e : Egress) (f : HeldFrame) (u : LineUse) : Egress :=
  let e := takeLine s p e f.cls u.credit u.start u.stop
  let e := if u.left.isSome then { e with lineFree := frAdd u.stop (lineNs s p cutTail) } else e
  { e with onLine := if preemptable s p f.cls then some (f, u.start, u.stop) else none }

/-- An express frame that could start but for a preemptable one on the line pre-empts it (R486): the rest of that one
stands at the head of what waits. -/
def preempted (s : State) (p : Nat) (e : Egress) : Egress :=
  match e.onLine with
  | none => e
  | some (f, start, stop) =>
    match cutFrom s p start stop (getBase s (tsnBase s p)).t with
    | none => e
    | some c =>
      let rest := frSub stop c
      let queue := match e.queue.find? fun x => x.left.isSome with
        | some x => { x with left := some (frAdd rest (x.left.getD zeroFrac)) } :: e.queue.filter fun y => y.left.isNone
        | none => { f with left := some (frAdd rest (lineNs s p cutHead)) } :: e.queue
      let e2 := { e with queue := queue, lineFree := frAdd c (lineNs s p cutTail), onLine := none }
      if e.queue.any fun x => !preemptable s p x.cls && (lineUse s p e2 x).isSome then e2 else e

/-- A frame starts to leave. The MAC stamps gPTP frames as they leave (R493, R496): a one-step Sync takes its origin, the
Follow_Up of a two-step one brings it, a Pdelay_Resp is followed by its time, and a Pdelay_Req keeps its own; what
follows goes in its turn. -/
def depart (s : State) (o : Output) : State × List Output :=
  let put (s : State) (o : Output) : State := { s with sent := o :: s.sent }
  match o with
  | .gptp p 0 [d, seq, step] =>
    let t := txInstant s p
    let at_ : List Int := [frFloor t, toScaled (frSub t (frOf (frFloor t)))]
    if step = 1 then (put s (.gptp p 0 ([d, seq, 1] ++ at_)), []) else (put s o, [.gptp p 1 ([d, seq] ++ at_)])
  | .gptp p 2 _ =>
    (put (modPort s p fun x => { x with gptp := { x.gptp with pdelaySent := some (txInstant s p) } }) o, [])
  | .gptp p 3 [source, seq, _] => (put s o, [.gptp p 4 [source, seq, toScaled (txInstant s p)]])
  | _ => (put s o, [])

/-- A frame joins those that wait at its port. -/
def joinPort (s : State) (o : Output) : State :=
  match ethFrame s o with
  | none => s
  | some (p, cls, n) =>
    let e := getEgress s p
    setEgress s p { e with queue := e.queue ++ [{ out := o, cls := cls, bytes := n, left := none }] }

/-- A list without the first element that satisfies a test. -/
def dropFirst (c : HeldFrame → Bool) : List HeldFrame → List HeldFrame
  | [] => []
  | x :: r => if c x then r else x :: dropFirst c r

/-- The frame of a class that goes next: the rest of one that was cut, else the oldest. -/
def headOf (e : Egress) (c : Nat) : Option HeldFrame :=
  (e.queue.find? fun x => x.cls = c && x.left.isSome) <|> e.queue.find? fun x => x.cls = c

/-- The frames of a class that may start now start, in order. The rest of a frame stands behind nothing of its class. -/
def drainClass (p c : Nat) : Nat → State → State
  | 0, s => s
  | k + 1, s =>
    let e := getEgress s p
    match headOf e c with
    | none => s
    | some f =>
      match lineUse s p e f with
      | none => s
      | some u =>
        if behindRest s p e f || frLt (getBase s (tsnBase s p)).t u.start then s
        else
          let rest := match u.left with
            | some l => [{ f with left := some l }]
            | none => []
          let e := useLine s p { e with queue := rest ++ dropFirst (fun x => x.cls = f.cls && x.left.isSome = f.left.isSome) e.queue } f u
          let s := setEgress s p e
          if f.left.isSome then drainClass p c k s
          else
            let r := depart s f.out
            drainClass p c k (r.2.foldl joinPort r.1)

/-- The frames of a port that may start now do, the highest class first; express ones pre-empt. -/
def drainPort (s : State) (p : Nat) : State :=
  if (getEgress s p).queue = [] then s
  else
    let s := setEgress s p (preempted s p (getEgress s p))
    [7, 6, 5, 4, 3, 2, 1, 0].foldl (fun s c => drainClass p c (2 * (getEgress s p).queue.length + 2) s) s

/-- Frames of a port go when a cycle has passed. -/
def drainPorts (s : State) : State := if s.egress = [] then s else [0, 1, 2, 3].foldl drainPort s

/-- A frame is offered to its port: none leaves a port whose link is down (R45). -/
def out (s : State) (o : Output) : State :=
  if muted s o then s
  else
    match ethFrame s o with
    | none => (depart s o).1
    | some (p, _, _) =>
      if !(getPort s p).link then s
      else if paced s p then drainPort (joinPort s o) p
      else
        let r := depart s o
        r.2.foldl (fun s o => (depart s o).1) r.1

/-- A span in which the gates of some classes were closed has ended: their credit stood still (R490). -/
def freezeCredit (s : State) (p gates : Nat) (span : Nat) : State :=
  let e := getEgress s p
  if e.credit = [] then s
  else
    let keep (c : Nat) (y : Frac × Frac) : Frac × Frac := if bit gates c then y else (y.1, frAdd y.2 (frOf (span : Nat)))
    setEgress s p { e with credit := tabMap keep e.credit }

end Sys2Proof.Machine
end

