-- ==== Sys2Proof/Machine/Ops.lean ====
section
/-! DEFINITION. Machine/Ops.lean: the named operations that meanings share: packets of a session, requests,
who holds a pipe or a stream context, and the passing of time. -/

namespace Sys2Proof.Machine

open Sys2Proof

abbrev Out := Host.Outcome State Fault Refusal

/-! ## Packets of a session (R68 to R82) -/

def rto0 : Nat := 2 * msTicks

/-- A packet of a session as its datagram holds it: header, ciphertext and tag. It depends on nothing that changes
while it is unacknowledged, so a retransmission is byte-identical (R56, R59, R61). The tenant is the session's also in the
reply to a request refused with TENANT_FIELD, where R78 names the request's and R56 the session's (DESIGN CHOICE, log entry
13). -/
def packetBytes (i : Nat) (ss : Session) (p : TxPacket) : List Byte :=
  sealed ss.keyOut (packetNonce i p.seq true false)
    (wireHeader ndMajor 0 p.msg.op ss.tenant p.msg.flags i p.seq p.ack p.msg.payload.length p.msg.tag p.msg.status p.msg.detail)
    p.msg.payload

/-- An ack-only packet: its sequence field is the control counter (R73). -/
def ackBytes (i : Nat) (ss : Session) (ctl ack : Nat) : List Byte :=
  sealed ss.keyOut (packetNonce i ctl true true) (wireHeader ndMajor 0 0 ss.tenant fgAckOnly i ctl ack 0 0 0 0) []

/-- A packet goes to where the host's last packet came from (R53). -/
def sendPacket (s : State) (i : Nat) (ss : Session) (p : TxPacket) : State :=
  out s (.packet i p (unicast s ss.eth ss.src (packetBytes i ss p)))

def resetDelay : Nat := 10 * msTicks

/-- The reset that waits for a reply is due 10 ms after it is sent (R606). -/
def armReset (s : State) (i tag : Nat) : State :=
  if s.link.resetNext = some (i, tag) then
    { s with link := { s.link with resetNext := none },
             chip := { s.chip with resetDue := s.chip.resetDue <|> some (s.now + resetDelay) } }
  else s

/-- What waits for a reply takes effect once it is sent: a change of the command port (R55), and a requested reset. -/
def afterSent (s : State) (i : Nat) (m : Msg) : State :=
  if m.flags ≠ fgReply then s
  else
    let s := armReset s i m.tag
    match s.link.portsNext.find? fun x => x.2.1 = i && x.2.2 = m.tag with
    | none => s
    | some x => { setRegW s aCmdPorts x.1 with link := { s.link with portsNext := s.link.portsNext.filter fun y => y.2 ≠ x.2 } }

/-- Send a packet of a session now: it takes the next sequence number and carries the
acknowledgement (R68, R71, R72). -/
def transmit (s : State) (i : Nat) (ss : Session) (m : Msg) : State :=
  let p : TxPacket := { seq := ss.tx.next, ack := ss.rx.next - 1, msg := m }
  let due := match ss.tx.rtoDue with
    | some d => some d
    | none => some (s.now + rto0 * 2 ^ ss.tx.rtoStep)
  let ss := { ss with
    tx := { ss.tx with next := ss.tx.next + 1, unacked := ss.tx.unacked ++ [p], rtoDue := due },
    rx := { ss.rx with unacked := 0, ackDue := none } }
  afterSent (sendPacket (setSes s i ss) i ss p) i m

/-- Send a packet, or let it wait in order while the send window of 256 is full (R69, R74). -/
def sendMsg (s : State) (i : Nat) (m : Msg) : State :=
  match getSes s i with
  | none => s
  | some ss =>
    if ss.tx.waiting = [] ∧ ss.tx.unacked.length < 256 then transmit s i ss m
    else setSes s i { ss with tx := { ss.tx with waiting := ss.tx.waiting ++ [m] } }

/-- An ack-only packet: the control counter moves on, and nothing waits for acknowledgement (R73). -/
def sendAck (s : State) (i : Nat) : State :=
  match getSes s i with
  | none => s
  | some ss =>
    let ack := ss.rx.next - 1
    out (setSes s i { ss with
        tx := { ss.tx with ctl := ss.tx.ctl + 1 },
        rx := { ss.rx with unacked := 0, ackDue := none } })
      (.ackOnly i ss.tx.ctl ack (unicast s ss.eth ss.src (ackBytes i ss ss.tx.ctl ack)))

/-- The reply to a request (R78). -/
def reply (s : State) (op : Nat) (rq : Req) (status detail : Nat) (payload : List Byte) : State :=
  sendMsg s rq.session.toNat
    { op := op, flags := fgReply, tag := rq.tag.toNat, status := status, detail := detail, payload := payload }

/-- A refusal: a reply with an empty payload (R79). -/
def refuse (s : State) (op : Nat) (rq : Req) (e : Nat × Nat) : State := reply s op rq e.1 e.2 []

def replyOk (s : State) (op : Nat) (rq : Req) (payload : List Byte) : State := reply s op rq stOk 0 payload

/-- Send to the tenant's open session, or hold a completion for its next session (R75, R80). -/
def toTenant (s : State) (t : Nat) (m : Msg) (keep : Bool) : State :=
  match (getTen s t).session with
  | some i => sendMsg s i m
  | none =>
    if keep ∧ (getTen s t).held.length < 4096 then
      modTen s t fun x => { x with held := x.held ++ [m] }
    else s

/-- The completion of a request answered ACCEPTED or DEFERRED (R79): sent once, to the tenant's
session, or kept with the tenant. -/
def complete (s : State) (t : Nat) (a : Async) (status detail : Nat) (payload : List Byte) : State :=
  if (getTen s t).async.elem a then
    toTenant (modTen s t fun x => { x with async := x.async.erase a }) t
      { op := a.op, flags := fgCompletion, tag := a.tag, status := status, detail := detail,
        payload := payload } true
  else s

/-- An event to a tenant: discarded when it has no session (R82, R122). -/
def event (s : State) (t op status detail : Nat) (payload : List Byte) : State :=
  toTenant s t { op := op, flags := fgEvent, tag := 0, status := status, detail := detail, payload := payload }
    false

/-- Requests of a session answered ACCEPTED or DEFERRED and not completed. -/
def asyncCount (s : State) (t i : Nat) : Nat := ((getTen s t).async.filter fun a => a.session == i).length

def asyncLimit : Nat := 4096

/-- Answer a request ACCEPTED or DEFERRED and go on, unless the session is at its limit of
asynchronous requests, which is tested last of all (R80). -/
def accept (s : State) (op : Nat) (rq : Req) (t status : Nat) (payload : List Byte)
    (k : State → Async → State) : State :=
  if asyncLimit ≤ asyncCount s t rq.session.toNat then refuse s op rq (stNoResource, dtAsyncLimit)
  else
    let a : Async := { session := rq.session.toNat, op := op, tag := rq.tag.toNat }
    k (reply (modTen s t fun x => { x with async := x.async ++ [a] }) op rq status 0 payload) a

/-! ## Requests -/

def isRunning (s : State) : Bool := s.chip.phase = .running

/-- A tag is held from the request until the host acknowledges its final reply or completion
(R81). -/
def tagHeld (s : State) (ss : Session) (tag : Nat) : Bool :=
  (getTen s ss.tenant).async.any (fun a => a.tag = tag)
  || (getTen s ss.tenant).held.any (fun m => m.tag = tag)
  || ss.tx.unacked.any (fun p => p.msg.tag = tag && p.msg.flags ≠ fgEvent)
  || ss.tx.waiting.any (fun m => m.tag = tag && m.flags ≠ fgEvent)
  || (match ss.backing with | some b => b.tag = tag | none => false)
  || ss.stalled.any (fun p => p.tag = tag)

/-- While no firmware runs, only the session group and the firmware group are served (R534). -/
def servedWithoutFirmware (op : Nat) : Bool :=
  decide (op < 0x0100) || (decide (0x0800 ≤ op) && decide (op < 0x0900))

/-- The control processor whose restart a request waits for, if any (R530, R542). -/
def processorOf (op : Nat) : Option Nat :=
  if op = opFwLoad ∨ op = opFwActivate ∨ op = opFwRestart ∨ op = opDecOpen ∨ op = opDecClose ∨ op = opLogRead
  then some 0
  else if op = opSessionClose then some 1
  else if op = opLoopCreate ∨ op = opLoopDestroy ∨ op = opFuncDisable ∨ op = opFuncEnable ∨ op = opMemMap
    ∨ op = opMemUnmap ∨ op = opMemProtect then some 2
  else if op = opDspAux ∨ op = opDspDsiCmd ∨ op = opDspFallbackSet ∨ op = opDspScan ∨ op = opSnsScan then some 4
  else none

def restarting (s : State) (p : Nat) : Bool :=
  match (getProc s p).state with
  | .restarting _ => true
  | _ => false

/-- The request waits behind one of its session: one in service, or a SESSION_CLOSE whose reply has not gone (R78, R86,
R138, R542). -/
def inLine (ss : Session) : Bool := ss.stalled ≠ [] || ss.backing.isSome || ss.closing.isSome

/-- The request works on HBM: the memory and loop groups, and those that fetch from it or store to it. -/
def touchesHbm (op : Nat) : Bool :=
  (decide (0x0100 ≤ op) && decide (op < 0x0300)) || (decide (0x0600 ≤ op) && decide (op < 0x0700)) || op = opSnsFeed
  || op = opDspFallbackSet || op = opLogRead

/-- A request waits while the control processor that it needs restarts (R542), or while HBM, which it works on, has no
reference clock (R45; log entry 49). -/
def mustWait (s : State) (op : Nat) : Bool :=
  (match processorOf op with
   | some p => restarting s p
   | none => false)
  || (touchesHbm op && !s.chip.hbmReady)

/-- Put a request behind those of its session that wait. -/
def stall (s : State) (i : Nat) (ss : Session) (op tag : Nat) (payload : List Byte) : State :=
  setSes s i { ss with stalled := ss.stalled ++
    [{ major := 3, op := op, tenant := ss.tenant, flags := 0, tag := tag, status := 0, detail := 0,
       payload := payload }] }

/-- Checks 10 and 11 of R65 and the rule of R534, in order; none when the request passes. -/
def requestFault (s : State) (ss : Session) (op tag : Nat) (payload : List Byte) : Option (Nat × Nat) :=
  match payloadNeed op payload with
  | none => some (stBadOpcode, 0)
  | some n =>
    match (if ss.maxPayload < payload.length then some dtPayloadLong else lengthFault payload.length n) with
    | some d => some (stBadLength, d)
    | none =>
      if tag = 0 then some (stBadParam, dtReservedTag)
      else if tagHeld s ss tag then some (stBadParam, dtTagInUse)
      else if s.fw.device = 0 ∧ !servedWithoutFirmware op then some (stNotEnabled, dtFwAbsent)
      else none

/-- The command sequencer takes a request (R77): a chip that does not run takes none; a request of a session that has
ended is discarded and counted (R64); one behind a waiting request waits; one that fails a check is refused; one whose
control processor restarts, or that needs HBM while it stands, waits; any other takes its effect, with the caller's tenant and session. -/
def request (s : State) (op : Nat) (rq : Req) (payload : List Byte) (k : Nat → Session → State) : State :=
  if !isRunning s then s
  else
    match getSes s rq.session.toNat with
    | none => incReg s aDiscSession 1 cap32
    | some ss =>
      if inLine ss then stall s rq.session.toNat ss op rq.tag.toNat payload
      else
        match requestFault s ss op rq.tag.toNat payload with
        | some e => refuse s op rq e
        | none =>
          if mustWait s op then stall s rq.session.toNat ss op rq.tag.toNat payload
          else k ss.tenant ss

/-- A request of an established session is an authenticated packet of its host: the tenant's heartbeat starts anew
(R75, R120). -/
def hear (rq : Req) (s : State) : State :=
  if isRunning s then
    match getSes s rq.session.toNat with
    | some ss => modTen s ss.tenant fun x => { x with lastAuth := some s.now }
    | none => s
  else s

/-- The same, from the command itself: its opcode and payload are those of requestBytes. -/
def take (i : Instr) (s : State) (k : Nat → Nat → Session → Req → State) : State :=
  match requestBytes i, reqOf i with
  | some (op, p), some rq => request s op rq p fun t ss => k op t ss rq
  | _, _ => s

/-- First refusal of a list of checks: each a condition with the refusal it draws. -/
def firstFault : List (Bool × (Nat × Nat)) → Option (Nat × Nat)
  | [] => none
  | (c, e) :: r => if c then some e else firstFault r

/-- Refuse under the first check that fails, else go on. -/
def checked (s : State) (op : Nat) (rq : Req) (l : List (Bool × (Nat × Nat))) (k : State) : State :=
  match firstFault l with
  | some e => refuse s op rq e
  | none => k

/-! ## Who holds a pipe or a stream context -/

/-- A partition exists (R112). -/
def hasPartition (x : Tenant) : Bool :=
  x.state = .active || x.state = .orphaned || x.state = .fallback

/-- The tenant whose TEN_PIPES names a pipe. -/
def pipeHolder (s : State) (p : Nat) : Option Nat :=
  (List.range 16).find? fun t => bit (regW s (aTen t 0x08)) p

/-- The tenant that a pipe's registers act for: tenant 0 where its tenant has no partition (R449). -/
def pipeTenant (s : State) (p : Nat) : Nat :=
  match pipeHolder s p with
  | some t => if hasPartition (getTen s t) then t else 0
  | none => 0

/-- The tenant whose TEN_STREAMS names a stream context. -/
def ctxHolder (s : State) (c : Nat) : Option Nat :=
  (List.range 16).find? fun t =>
    if c < 32 then bit (regW s (aTen t 0x0C)) c else bit (regW s (aTen t 0x10)) (c - 32)

/-! ## The passing of time -/

/-- One PERI cycle of a time base: 2.5 ns × (1 + y × 10^-9), the rest below carried (R497). y is the
value of an IEEE double code. -/
def advance (b : TimeBase) : TimeBase :=
  if b.y = 0 then { b with t := frAdd b.t (fr 5 2) }
  else
    match decodeFmt fp64 b.y with
    | .fin neg n d => { b with t := frAdd b.t (frAdd (fr 5 2) (fr (5 * (if neg then -(n : Int) else n)) (2 * d * 1000000000))) }
    | _ => { b with t := frAdd b.t (fr 5 2) }

/-- One PERI cycle passes: the count moves on, a running chip's four time bases advance, and frames leave that waited
for their time. -/
def passCycle (s : State) : State :=
  if isRunning s then
    drainPorts { s with
      now := s.now + 1,
      net := { s.net with bases := (List.range 4).map fun b => (b, advance (getBase s b)) } }
  else { s with now := s.now + 1 }

/-! ## What other families read -/

/-- Last reading of a core's diode, in 1/16 °C. -/
def coreReading (s : State) (c : Nat) : Int := (s.pwr.core.getD c (0, 0)).1

/-- The minor version that the device serves: the boot ROM's 0, or the interface minor of the firmware
that runs (R534, R539). -/
def fwMinor (s : State) : Nat := if s.fw.device = 0 then 0 else if s.fw.device = 1 then leAt s.fw.next 7 1 else s.fw.minor

def onlineCores (s : State) : Nat := ((List.range 128).filter fun c => (getCore s c).state = 1).length

end Sys2Proof.Machine
end

