-- ==== Sys2Proof/Machine/Regions.lean ====
section
/-! DEFINITION. Machine/Regions.lean: extents (R140), and the byte ranges of a tenant that something
other than a step holds: planes and buffers that a pipe shows (R139, R359), frame-generation regions
(R307, R322), sensor rings (R397) and decode regions (R417). -/

namespace Sys2Proof.Machine

open Sys2Proof

/-! ## Extents -/

/-- An extent as bytes of one row, rows and pitch; rows without a gap join into one. -/
def Extent.norm (e : Extent) : Extent :=
  if e.rows ≤ 1 then { e with rows := 1, pitch := e.rowBytes }
  else if e.pitch = e.rowBytes then { e with rowBytes := e.rowBytes * e.rows, rows := 1, pitch := e.rowBytes * e.rows }
  else e

/-- The bytes from x up to x + n meet the extent. -/
def Extent.meets (e0 : Extent) (x n : Nat) : Bool :=
  let e := e0.norm
  let first := if x < e.va + e.rowBytes then 0 else (x - e.va - e.rowBytes) / max e.pitch 1 + 1
  decide (0 < n) && decide (0 < e.rowBytes) && decide (first < e.rows)
    && decide (e.va + first * e.pitch < x + n) && decide (x < e.va + first * e.pitch + e.rowBytes)

/-- Some number below n satisfies p. -/
def anyBelow (p : Nat → Bool) : Nat → Bool
  | 0 => false
  | k + 1 => p k || anyBelow p k

/-- Every number below n satisfies p. -/
def allBelow (p : Nat → Bool) : Nat → Bool
  | 0 => true
  | k + 1 => p k && allBelow p k

/-- Two extents share a byte. -/
def Extent.shares (a0 b0 : Extent) : Bool :=
  let a := a0.norm
  let b := b0.norm
  if a.rows ≤ b.rows then anyBelow (fun r => b.meets (a.va + r * a.pitch) a.rowBytes) a.rows
  else anyBelow (fun r => a.meets (b.va + r * b.pitch) b.rowBytes) b.rows

def setsShare (a b : List Extent) : Bool := a.any fun x => b.any fun y => x.shares y

/-- Some extent of a list meets some range of a list. -/
def extentsMeet (es : List Extent) (rs : List (Nat × Nat)) : Bool :=
  es.any fun e => rs.any fun r => e.meets r.1 r.2

def rangesMeet (rs : List (Nat × Nat)) (va n : Nat) : Bool := rs.any fun r => overlap r.1 r.2 va n

/-- Where the row of an extent that holds a byte ends. -/
def Extent.rowEnd (e0 : Extent) (x : Nat) : Option Nat :=
  let e := e0.norm
  if x < e.va then none
  else
    let r := (x - e.va) / max e.pitch 1
    if r < e.rows ∧ x < e.va + r * e.pitch + e.rowBytes then some (e.va + r * e.pitch + e.rowBytes) else none

/-- Every byte from x up to stop lies in some extent of a list. -/
def inExtents (es : List Extent) : Nat → Nat → Nat → Bool
  | 0, x, stop => decide (stop ≤ x)
  | k + 1, x, stop =>
    if stop ≤ x then true
    else
      match es.findSome? fun e => e.rowEnd x with
      | none => false
      | some y => inExtents es k y stop

def withinSet (es : List Extent) (va n : Nat) : Bool := inExtents es (n + 1) va (va + n)

def readSet (c : CmdRec) : List Extent := c.extents.filter fun e => e.read
def writeSet (c : CmdRec) : List Extent := c.extents.filter fun e => e.write

/-- The command's read and write sets share a byte (R142). -/
def inPlace (c : CmdRec) : Bool := setsShare (readSet c) (writeSet c)

/-- Some line that extents of a tenant touch holds an uncorrectable error. -/
def badInExtents (s : State) (t : Nat) (es : List Extent) : Bool :=
  es.any fun e0 =>
    let e := e0.norm
    anyBelow (fun r => (badLineIn s t (e.va + r * e.pitch) e.rowBytes).isSome) e.rows

/-! ## Register pairs that name an address (R308) -/

def regPair (s : State) (lo : Nat) : Nat := regW s lo + rField s (lo + 4) 15 0 * 2 ^ 32

/-! ## Planes and buffers (R139, R359, R461) -/

def aPlane (p k o : Nat) : Nat := aPipe p (0x100 + 0x20 * k + o)
def presentedPlane (s : State) (p : Nat) : Nat := rField s (aPipe p 0) 5 4
/-- Bytes of one buffer of the presented plane: pitch times height. -/
def planeBytes (s : State) (p k : Nat) : Nat := regW s (aPlane p k 0x0C) * rField s (aPlane p k 0x04) 31 16

/-- Bytes of one motion field: rows of blocks at a pitch of whole 64-byte lines (R352). -/
def fieldPitch (w : Nat) : Nat := roundUp (8 * ceilDiv w 8) 64
def fieldBytes (w h : Nat) : Nat := fieldPitch w * ceilDiv h 8
def motionOffset (s : State) (p : Nat) : Nat := 65536 * rField s (aFg p 0x10) 31 16

/-- A presented buffer with its motion field. -/
def bufferRanges (s : State) (p va : Nat) : List (Nat × Nat) :=
  let k := presentedPlane s p
  let size := regW s (aPlane p k 0x04)
  (va, planeBytes s p k) ::
    (if motionOffset s p = 0 then [] else [(va + motionOffset s p, fieldBytes (bits size 15 0) (bits size 31 16))])

/-- Both output buffers of a Galliard channel. -/
def galOutputs (s : State) (p : Nat) : List (Nat × Nat) :=
  [(regPair s (aGal p 0x0C), 2 * 65536 * rField s (aGal p 0x14) 15 0)]

/-- What a Galliard channel holds while an anchor stands (R359): anchors with their fields. -/
def galHeld (s : State) (p : Nat) : List (Nat × Nat) :=
  let g := (getPipe s p).gal
  ((g.anchor.toList ++ g.old).map fun va => bufferRanges s p va).flatten

/-- Planes of a pipe that is ACTIVE or DRAINING: its presented plane is the buffer it shows. -/
def pipePlanes (s : State) (p : Nat) : List (Nat × Nat) :=
  let x := getPipe s p
  if x.state = 2 ∨ x.state = 3 then
    ((List.range 4).map fun k =>
      if !bit (regW s (aPlane p k 0)) 31 then []
      else if k = presentedPlane s p then (x.shown.map fun va => (va, planeBytes s p k)).toList
      else [(regPair s (aPlane p k 0x10), planeBytes s p k)]).flatten
  else []

def pipesOf (s : State) (t : Nat) : List Nat := (List.range 8).filter fun p => pipeHolder s p = some t

/-- Ranges that RANGE_DISPLAY protects (R139, R359). -/
def displayRanges (s : State) (t : Nat) : List (Nat × Nat) :=
  ((pipesOf s t).map fun p =>
    pipePlanes s p ++ galHeld s p ++ (if galHeld s p = [] then [] else galOutputs s p)).flatten

/-! ## Frame generation (R307, R322) -/

def fgInfo (s : State) (p : Nat) : Nat := regPair s (aFg p 0x18)
def capBytes (s : State) (p : Nat) : Nat := 65536 * rField s (aFg p 0x40) 31 16
def bankBytes (s : State) (p : Nat) : Nat := 65536 * rField s (aFg p 0x40) 15 0
def fgCapBuf (s : State) (p b : Nat) : Nat := regPair s (aFg p 0x28) + b * capBytes s p
/-- Bank 0, bank 1, or, as 2, the candidate area. -/
def fgBank (s : State) (p b : Nat) : Nat := regPair s (aFg p 0x30) + b * bankBytes s p

/-- The frame-generation regions of a pipe. -/
def fgRegions (s : State) (p : Nat) : List (Nat × Nat) :=
  [(fgInfo s p, 4096), (fgCapBuf s p 0, 2 * capBytes s p), (fgBank s p 0, 3 * bankBytes s p)]

def capReads (c : CapState) : List Extent :=
  match c with
  | .copying _ _ _ _ reads => reads
  | _ => []

/-- Extents that unfinished captures of a tenant's pipes read (R322). -/
def openCaptures (s : State) (t : Nat) : List Extent :=
  ((pipesOf s t).map fun p => capReads (getPipe s p).fg.cap0 ++ capReads (getPipe s p).fg.cap1).flatten

/-! ## Rings and decode regions (R397, R417) -/

def ctxRing (s : State) (c : Nat) : Nat := regPair s (aCtx c 0x08)
def ctxSlotBytes (s : State) (c : Nat) : Nat := 65536 * rField s (aCtx c 0x10) 15 0
def ctxSlots (s : State) (c : Nat) : Nat := rField s (aCtx c 0x10) 30 24

def sensorRings (s : State) (t : Nat) : List (Nat × Nat) :=
  ((List.range 48).filter fun c => ctxHolder s c = some t && (getCtx s c).func.phase ≠ .disabled).map fun c =>
    (ctxRing s c, ctxSlots s c * ctxSlotBytes s c)

def decSlotBytes (x : Stream) : Nat := 65536 * x.args.slot64k.toNat
def decRegions (x : Stream) : List (Nat × Nat) :=
  [(x.args.inVa.toNat, 65536 * x.args.in64k.toNat),
   (x.args.outVa.toNat, x.args.outSlots.toNat * decSlotBytes x),
   (x.args.workVa.toNat, 65536 * x.args.lanesMax.toNat * x.args.work64k.toNat)]

def streamsOf (s : State) (t : Nat) : List Stream :=
  (s.dec.streams.filter fun x => x.2.tenant = t).map fun x => x.2

/-! ## Steps -/

/-- Extents of every step of a tenant that has neither committed nor failed. -/
def stepExtents (s : State) (t : Nat) : List Extent :=
  (s.sched.loops.map fun p =>
    if p.2.tenant = t then (p.2.queue.map fun st => (st.cmds.map fun c => c.spec.extents).flatten).flatten
    else []).flatten

/-- No uncommitted command of the tenant has an extent over a range; a write extent counts until its
step commits, as R144 has it (R401, R424). -/
def freeOfCommands (s : State) (t va n : Nat) : Bool :=
  s.sched.loops.all fun p =>
    p.2.tenant ≠ t || p.2.queue.all fun st => st.cmds.all fun c =>
      !((writeSet c.spec).any fun e => e.meets va n)
      && ((c.insts.all fun i => i.phase = .committed) || !((readSet c.spec).any fun e => e.meets va n))

end Sys2Proof.Machine
end

