-- ==== Sys2Proof/Machine/Memory.lean ====
section
/-! DEFINITION. Machine/Memory.lean: the memory group (R135 to R139, R621): mapping, host access and
the table walk. -/

namespace Sys2Proof.Machine

open Sys2Proof

/-! ## Backing (R129, R136, R138) -/

def mib : Nat := 1048576
def vaFirst : Nat := 0x1000
def vaEnd : Nat := 2 ^ 48

/-- 64 GB/s in bytes per PERI cycle. -/
def backRate : Nat := 160

/-- Bytes of a tenant's share (R115). -/
def shareBytes (s : State) (t : Nat) : Nat := 64 * mib * rField s (aTen t 0x04) 9 0

def pinnedBytes (x : Tenant) : Nat := (x.mem.maps.map fun m => if m.pinned then m.size else 0).sum
def backedBytes (x : Tenant) : Nat := pinnedBytes x + (x.mem.backed.map fun p => p.2).sum

/-- Of the pinned bytes, and of all bytes taken into the share, those that are backed and zeroed already: what MMU_USAGE
reports (R160). -/
def pinnedDone (x : Tenant) : Nat :=
  (x.mem.maps.map fun m => if m.pinned && !(x.mem.backing.any fun b => b.va = m.va) then m.size else 0).sum
def backedDone (x : Tenant) : Nat :=
  pinnedDone x + (x.mem.backed.map fun p => p.2).sum - (x.mem.raising.map fun p => p.2.2).sum

def modMem (s : State) (t : Nat) (f : TenMem → TenMem) : State := modTen s t fun x => { x with mem := f x.mem }

/-- Demand pages of a mapping that an extent touches and that nothing has backed. -/
def unbackedIn (x : Tenant) (e : Extent) (m : Mapping) : List (Nat × Nat) :=
  if m.pinned then []
  else
    let lo := max m.va e.norm.va
    let hi := min (m.va + m.size) (e.norm.va + (e.norm.rows - 1) * e.norm.pitch + e.norm.rowBytes)
    if hi ≤ lo then []
    else
      ((upFrom (lo / m.page) ((hi - 1) / m.page + 1 - lo / m.page)).filter fun p =>
        e.meets (p * m.page) m.page && !(x.mem.backed.any fun b => b.1 = p * m.page)).map fun p => (p * m.page, m.page)

def unbacked (x : Tenant) (es : List Extent) : List (Nat × Nat) :=
  ((es.map fun e => (x.mem.maps.map fun m => unbackedIn x e m).flatten).flatten).eraseDups

def pagesBytes (l : List (Nat × Nat)) : Nat := (l.map fun p => p.2).sum

/-- Take the pages into the share, for a command or for MEM_WRITE, or none when it would be exceeded. -/
def backPages (s : State) (t : Nat) (who : Option CmdRef) (l : List (Nat × Nat)) : Option State :=
  if shareBytes s t < backedBytes (getTen s t) + pagesBytes l then none
  else some (modMem s t fun m => { m with backed := m.backed ++ l, raising := m.raising ++ l.map fun p => (who, p) })

/-- The pages that were being backed for one stand backed and zeroed. -/
def pagesRaised (s : State) (t : Nat) (who : Option CmdRef) : State :=
  modMem s t fun m => { m with raising := m.raising.filter fun p => p.1 ≠ who }

/-! ## MEM_MAP (R136) -/

def pageSizeOf (code : Nat) : Nat := if code = 0 then 0x1000 else if code = 1 then 0x10000 else 0x200000

def mapsMeet (maps : List Mapping) (va n : Nat) : Bool := maps.any fun m => overlap m.va m.size va n

/-- Put a mapping in address order. -/
def insertMap : List Mapping → Mapping → List Mapping
  | [], m => [m]
  | a :: r, m => if m.va < a.va then m :: a :: r else a :: insertMap r m

def memMapChecks (s : State) (t : Nat) (a : MemMapArgs) : List (Bool × (Nat × Nat)) :=
  let va := a.va.toNat
  let n := a.size.toNat
  let fl := a.flags.toNat
  let ps := pageSizeOf a.pageSize.toNat
  [ (a.reserved ≠ 0 || decide (16 ≤ fl), (stBadParam, dtReservedNonzero)),
    (decide (2 < a.pageSize.toNat), (stBadParam, dtValueRange)),
    (n = 0 || va % ps ≠ 0 || n % ps ≠ 0, (stBadParam, dtAlignment)),
    (decide (va < vaFirst) || decide (vaEnd < va + n), (stBadParam, dtVaRange)),
    (mapsMeet (getTen s t).mem.maps va n, (stBadParam, dtMapOverlap)),
    ((bit fl 1 && !bit fl 0) || (bit fl 3 && !bit fl 2) || (!bit fl 0 && !bit fl 1), (stBadParam, dtFlagsInvalid)),
    (bit fl 2 && decide (shareBytes s t < backedBytes (getTen s t) + n), (stNoResource, dtShareExhausted)) ]

def newMapping (a : MemMapArgs) : Mapping :=
  let fl := a.flags.toNat
  { va := a.va.toNat, size := a.size.toNat, page := pageSizeOf a.pageSize.toNat,
    read := bit fl 0, write := bit fl 1, pinned := bit fl 2, display := bit fl 3 }

def addMapping (s : State) (t : Nat) (m : Mapping) : State :=
  modMem s t fun x => { x with maps := insertMap x.maps m }

def onMemMap (rq : Req) (a : MemMapArgs) (s : State) : State :=
  take (.memMap rq a) s fun op t _ rq =>
    checked s op rq (memMapChecks s t a) (
      let m := newMapping a
      if m.pinned then
        accept s op rq t stAccepted [] fun s r =>
          modMem (addMapping s t m) t fun x => { x with
            backing := x.backing ++ [{ va := m.va, request := r, due := s.now + ceilDiv m.size backRate }] }
      else replyOk (addMapping s t m) op rq [])

/-- MEM_MAP_BACKED: every page of a pinned mapping is backed and zeroed; the completion follows
(R136). R129 bounds the time from above alone; the scheduler processor backs, and not while it restarts (R530, R542). -/
def onMemMapBacked (t va : Nat) (s : State) : State :=
  match (getTen s t).mem.backing.find? fun b => b.va = va with
  | none => s
  | some b =>
    if restarting s 2 then s
    else complete (modMem s t fun x => { x with backing := x.backing.erase b }) t b.request stOk 0 []

def execMemMap (rq : Req) (a : MemMapArgs) (s : State) : Out := .next (onMemMap rq a (hear rq s))
def execMemMapBacked (tenant : Fin 16) (va : DWord) (s : State) : Out :=
  .next (onMemMapBacked tenant.val va.toNat s)

/-! ## MEM_UNMAP and MEM_PROTECT (R621, R139) -/

/-- The frame that backs a page: a free value (log entry 8), in the pool and aligned to the page (R127, R132); the next one
that holds no retired frame (R155, R609). -/
def pageFrame (s : State) (t page va : Nat) : Nat :=
  let bad := s.chip.retiredFrames
  let at_ (k : Nat) : Nat := (Config.frameOf t va + k) % (0x8E0000000 / page) * page
  at_ (((List.range (bad.length + 1)).find? fun k =>
    bad.all fun f => !overlap (at_ k) page (f * 4096) 4096).getD 0)

/-- An address falls inside a page of an existing mapping. -/
def insidePage (maps : List Mapping) (x : Nat) : Bool :=
  match mapAt maps x with
  | some m => x % m.page ≠ 0
  | none => false

/-- Rows 2 to 4 of R621. -/
def rangeChecks (s : State) (t va n : Nat) : List (Bool × (Nat × Nat)) :=
  let maps := (getTen s t).mem.maps
  [ (n = 0 || va % 0x1000 ≠ 0 || n % 0x1000 ≠ 0 || insidePage maps va || insidePage maps (va + n),
      (stBadParam, dtAlignment)),
    (decide (va < vaFirst) || decide (vaEnd < va + n), (stBadParam, dtVaRange)),
    (!rangeOk s t (fun _ => true) va n, (stBadParam, dtNotMapped)) ]

/-- R139. -/
def busyChecks (s : State) (t va n : Nat) : List (Bool × (Nat × Nat)) :=
  [ ((stepExtents s t).any fun e => e.meets va n, (stBusy, dtRangeInUse)),
    (rangesMeet (displayRanges s t) va n, (stBusy, dtRangeDisplay)) ]

/-- Rings and decode regions bar the two mapping changes (R397, R417). -/
def mapBusyChecks (s : State) (t va n : Nat) : List (Bool × (Nat × Nat)) :=
  busyChecks s t va n ++
  [ (rangesMeet ((streamsOf s t).map decRegions).flatten va n, (stBusy, dtRangeInUse)),
    (rangesMeet (sensorRings s t) va n, (stBusy, dtResourceEnabled)) ]

/-- The parts of a mapping below, inside and above a range, each with whether it lies inside. -/
def splitMap (lo hi : Nat) (m : Mapping) : List (Bool × Mapping) :=
  let e := m.va + m.size
  if e ≤ lo ∨ hi ≤ m.va then [(false, m)]
  else
    (if m.va < lo then [(false, { m with size := lo - m.va })] else [])
    ++ [(true, { m with va := max m.va lo, size := min e hi - max m.va lo })]
    ++ (if hi < e then [(false, { m with va := hi, size := e - hi })] else [])

def splitMaps (lo hi : Nat) (maps : List Mapping) : List (Bool × Mapping) := (maps.map (splitMap lo hi)).flatten

/-- Pages of 4 KiB in a range of a tenant whose frames have held an uncorrectable line: the frames are retired, and not
used again until reset (R155). -/
def retireFrames (s : State) (t : Nat) (pages : List Nat) : State :=
  let maps := (getTen s t).mem.maps
  let frame (p : Nat) : Option Nat :=
    (mapAt maps p).map fun m =>
      let first := p / m.page * m.page
      pageFrame s t m.page first / 4096 + (p - first) / 4096
  { s with chip := { s.chip with
    retired := satAdd s.chip.retired pages.length 0xFFFF,
    retiredFrames := s.chip.retiredFrames ++ pages.filterMap frame } }

/-- The mappings of a range go, with their backing, their bytes and their bad lines; a frame that
has held an uncorrectable line is retired (R155). -/
def unmapRange (s : State) (t va n : Nat) : State :=
  let s := retireFrames s t ((getTen s t).mem.tainted.filter fun p => decide (va ≤ p) && decide (p < va + n))
  let s := modMem s t fun m => { m with
    maps := ((splitMaps va (va + n) m.maps).filter fun p => !p.1).map fun p => p.2,
    backed := m.backed.filter fun b => !(decide (va ≤ b.1) && decide (b.1 < va + n)),
    raising := m.raising.filter fun b => !(decide (va ≤ b.2.1) && decide (b.2.1 < va + n)),
    badLines := m.badLines.filter fun l => !(decide (va ≤ l) && decide (l < va + n)),
    tainted := m.tainted.filter fun p => !(decide (va ≤ p) && decide (p < va + n)) }
  hbmZero s t va n

def onMemUnmap (rq : Req) (va size : DWord) (s : State) : State :=
  take (.memUnmap rq va size) s fun op t _ rq =>
    checked s op rq (rangeChecks s t va.toNat size.toNat ++ mapBusyChecks s t va.toNat size.toNat)
      (replyOk (unmapRange s t va.toNat size.toNat) op rq [])

def protectChecks (flags : Byte) (reserved : BitVec 56) : List (Bool × (Nat × Nat)) :=
  let fl := flags.toNat
  [ (reserved ≠ 0 || decide (4 ≤ fl), (stBadParam, dtReservedNonzero)),
    ((bit fl 1 && !bit fl 0) || fl = 0, (stBadParam, dtFlagsInvalid)) ]

/-- Only the read and write bits of the range change (R621). -/
def protectRange (s : State) (t va n fl : Nat) : State :=
  modMem s t fun m => { m with
    maps := (splitMaps va (va + n) m.maps).map fun p =>
      if p.1 then { p.2 with read := bit fl 0, write := bit fl 1 } else p.2 }

def onMemProtect (rq : Req) (va size : DWord) (flags : Byte) (reserved : BitVec 56) (s : State) : State :=
  take (.memProtect rq va size flags reserved) s fun op t _ rq =>
    checked s op rq
      (protectChecks flags reserved ++ rangeChecks s t va.toNat size.toNat ++ mapBusyChecks s t va.toNat size.toNat)
      (replyOk (protectRange s t va.toNat size.toNat flags.toNat) op rq [])

def execMemUnmap (rq : Req) (va size : DWord) (s : State) : Out := .next (onMemUnmap rq va size (hear rq s))
def execMemProtect (rq : Req) (va size : DWord) (flags : Byte) (reserved : BitVec 56) (s : State) : Out :=
  .next (onMemProtect rq va size flags reserved (hear rq s))

/-! ## MEM_WRITE and MEM_READ (R138, R139, R155) -/

def countUncorr (s : State) : State :=
  { s with chip := { s.chip with eccUncorr := satAdd s.chip.eccUncorr 1 cap32 } }

/-- Checks that a host access shares: the fields of R135, and the mapping. -/
def accessChecks (s : State) (t : Nat) (ss : Session) (va : DWord) (length reserved : Word)
    (p : Mapping → Bool) : List (Bool × (Nat × Nat)) :=
  let n := length.toNat
  [ (reserved ≠ 0, (stBadParam, dtReservedNonzero)),
    (decide (vaEnd ≤ va.toNat) || n = 0 || decide (ss.maxPayload < n + 16), (stBadParam, dtValueRange)),
    (!rangeOk s t p va.toNat n, (stBadParam, dtNotMapped)) ]

/-- MEM_WRITE over a frame-generation region of a bound pipe, or a decode work region (R307, R417). -/
def writeBusyChecks (s : State) (t va n : Nat) : List (Bool × (Nat × Nat)) :=
  busyChecks s t va n ++
  [ (((pipesOf s t).any fun p => (getPipe s p).fg.bound && rangesMeet (fgRegions s p) va n),
      (stBusy, dtRangeInUse)),
    (rangesMeet ((streamsOf s t).map fun x => (decRegions x).drop 2).flatten va n, (stBusy, dtRangeInUse)) ]

/-- Bytes written by the host or by a unit that the chip serves: whole lines take new check bits. -/
def storeBytes (s : State) (t va : Nat) (l : List Byte) : State :=
  healLines (hbmWrite s t va l) t va l.length

/-- A bad line that a write covers only in part: the first and last lines are checked (R155). DESIGN CHOICE (log entry
22): where both are bad, the lower one is named. -/
def partialBad (s : State) (t va n : Nat) : Option Nat :=
  ((getTen s t).mem.badLines.filter fun l => overlap l 64 va n && !(decide (va ≤ l) && decide (l + 64 ≤ va + n))).min?

/-- The lowest bad line of a range. -/
def firstBad (s : State) (t va n : Nat) : Option Nat :=
  ((getTen s t).mem.badLines.filter fun l => overlap l 64 va n).min?

def onMemWrite (rq : Req) (va : DWord) (length reserved : Word) (data : List Byte) (s : State) : State :=
  take (.memWrite rq va length reserved data) s fun op t ss rq =>
    let a := va.toNat
    let n := length.toNat
    checked s op rq (accessChecks s t ss va length reserved (fun m => m.write) ++ writeBusyChecks s t a n) (
      match partialBad s t a n with
      | some l => reply (countUncorr s) op rq stEccUncorrectable dtEccHbm (le8 l)
      | none =>
        let pages := unbacked (getTen s t)
          [{ va := a, rowBytes := n, rows := 1, pitch := n, read := false, write := true }]
        if pages = [] then replyOk (storeBytes s t a data) op rq []
        else
          match backPages s t none pages with
          | none => refuse s op rq (stNoResource, dtShareExhausted)
          | some s =>
            let b : Backing :=
              { tag := rq.tag.toNat, va := a, data := data, due := s.now + ceilDiv (pagesBytes pages) backRate }
            setSes s rq.session.toNat { ss with backing := some b })

def memReadReply (a n : Nat) (data : List Byte) : List Byte := le8 a ++ le4 n ++ zeros 4 ++ data

def onMemRead (rq : Req) (va : DWord) (length reserved : Word) (s : State) : State :=
  take (.memRead rq va length reserved) s fun op t ss rq =>
    let a := va.toNat
    let n := length.toNat
    checked s op rq (accessChecks s t ss va length reserved (fun m => m.read) ++
        [(((stepExtents s t).filter fun e => e.write).any fun e => e.meets a n, (stBusy, dtRangeUncommitted))]) (
      match firstBad s t a n with
      | some l => reply (countUncorr s) op rq stEccUncorrectable dtEccHbm (memReadReply l n [])
      | none => replyOk s op rq (memReadReply a n (hbmRead s t a n)))

def execMemWrite (rq : Req) (va : DWord) (length reserved : Word) (data : List Byte) (s : State) : Out :=
  .next (onMemWrite rq va length reserved data (hear rq s))
def execMemRead (rq : Req) (va : DWord) (length reserved : Word) (s : State) : Out :=
  .next (onMemRead rq va length reserved (hear rq s))

/-! ## MMU_WALK (R131, R132, R137) -/

/-- Bytes that one entry of a level spans. -/
def levelSpan (lvl : Nat) : Nat := 2 ^ (12 + 9 * lvl)

/-- The frame of a table, in the reserved memory. -/
def tableFrame (t lvl va : Nat) : Nat :=
  0x8E0000000 + Config.frameOf t (2 ^ 48 * (lvl + 1) + va / levelSpan (lvl + 1)) % 0x20000 * 4096

/-- A leaf or demand entry (R132). The frame reads 0 for every tenant but 0. A leaf shows valid from its MEM_MAP, or from the
fault or MEM_WRITE that raises its page, on: also while the page is still being backed (DESIGN CHOICE, log entry 22). -/
def leafEntry (s : State) (t : Nat) (m : Mapping) (va : Nat) : Nat :=
  let page := va / m.page * m.page
  let there := m.pinned || (getTen s t).mem.backed.any fun b => b.1 = page
  t * 2 ^ 60 + (if there ∧ t = 0 then pageFrame s t m.page page else 0)
  + (if there then 1 else 128) + 2 + 4 * boolNat m.read + 8 * boolNat m.write + 16 * boolNat m.pinned
  + 64 * boolNat m.display + (if m.page = 0x10000 then 32 else 0)

/-- A table pointer from a level to the one below. -/
def pointerEntry (t lvl va : Nat) : Nat := t * 2 ^ 60 + (if t = 0 then tableFrame t (lvl - 1) va else 0) + 1

/-- The walk from a level down: the entries read, and the level of the leaf. DESIGN CHOICE (log entry 22): a table goes, and
with it the pointer to it, when the last mapping that it serves is unmapped; levels_read of an unmapped VA follows. An unused
entry reads 0 whole, its owner field too, for every tenant (DESIGN CHOICE, log entry 22). -/
def walk (s : State) (t va : Nat) : Nat → List Nat × Nat
  | 0 =>
    match mapAt (getTen s t).mem.maps va with
    | some m => ([leafEntry s t m va], 0)
    | none => ([0], 0xFF)
  | lvl + 1 =>
    let base := va / levelSpan (lvl + 1) * levelSpan (lvl + 1)
    match mapAt (getTen s t).mem.maps va with
    | some m =>
      if lvl = 0 ∧ m.page = 0x200000 then ([leafEntry s t m va], 1)
      else (pointerEntry t (lvl + 1) va :: (walk s t va lvl).1, (walk s t va lvl).2)
    | none =>
      if mapsMeet ((getTen s t).mem.maps.filter fun m => !(decide (lvl = 0) && decide (m.page = 0x200000))) base
          (levelSpan (lvl + 1)) then
        (pointerEntry t (lvl + 1) va :: (walk s t va lvl).1, (walk s t va lvl).2)
      else ([0], 0xFF)

def mmuWalkReply (s : State) (t va : Nat) : List Byte :=
  let w := walk s t va 3
  le8 va ++ by1 w.1.length ++ by1 w.2 ++ zeros 6
  ++ ((w.1 ++ List.replicate (4 - w.1.length) 0).map le8).flatten

def onMmuWalk (rq : Req) (va : DWord) (s : State) : State :=
  take (.mmuWalk rq va) s fun op t _ rq =>
    if vaEnd ≤ va.toNat then refuse s op rq (stBadParam, dtValueRange)
    else replyOk s op rq (mmuWalkReply s t va.toNat)

def execMmuWalk (rq : Req) (va : DWord) (s : State) : Out := .next (onMmuWalk rq va (hear rq s))

end Sys2Proof.Machine
end

