-- ==== Sys2Proof/Machine/Frames.lean ====
section
/-! DEFINITION. Machine/Frames.lean: when a pipe's frames start (R451 to R456), their commit deadlines
(R453, R362), and the frame starts that a step of a bound loop claims (R312, R455). -/

namespace Sys2Proof.Machine

open Sys2Proof

/-! ## Exact helpers -/

def frScale (a : Frac) (n : Int) : Frac := fr (a.num * n) a.den
def frDivNat (a : Frac) (n : Nat) : Frac := fr a.num (a.den * max n 1)
/-- Round up to an integer. -/
def frCeil (a : Frac) : Int := -(-a.num / (a.den : Int))
def usNs (n : Nat) : Frac := frOf ((1000 * n : Nat) : Int)

/-! ## Timing registers (R449) -/

structure Timing where
  base    : Nat      -- time base
  sync    : Nat      -- sync mode
  htotal  : Nat
  hactive : Nat
  hstart  : Nat
  hwidth  : Nat
  vmin    : Nat
  vactive : Nat
  vstart  : Nat
  vwidth  : Nat
  vmax    : Nat
  khz     : Nat
  deriving DecidableEq, Repr

/-- The timing that register words give; v reads a register. -/
def timingOf (v : Nat → Nat) (p : Nat) : Timing :=
  let c := v (aPipe p 0)
  let h := v (aPipe p 0x10)
  let hs := v (aPipe p 0x14)
  let x := v (aPipe p 0x18)
  let vs := v (aPipe p 0x1C)
  { base := bits c 9 8, sync := bits c 7 6, htotal := bits h 31 16, hactive := bits h 15 0,
    hstart := bits hs 31 16, hwidth := bits hs 15 0, vmin := bits x 31 16, vactive := bits x 15 0,
    vstart := bits vs 31 16, vwidth := bits vs 15 0, vmax := bits (v (aPipe p 0x20)) 31 16,
    khz := bits (v (aPipe p 0x0C)) 22 0 }

def timing (s : State) (p : Nat) : Timing := timingOf (regW s) p

/-- The line period L in ns (R451). -/
def Timing.line (t : Timing) : Frac := fr ((t.htotal * 1000000 : Nat) : Int) (max t.khz 1)
/-- The nominal frame period P. -/
def Timing.period (t : Timing) : Frac := frScale t.line t.vmin

/-- The pipe's time base, in ns. -/
def pipeNow (s : State) (p : Nat) : Frac := (getBase s (rField s (aPipe p 0) 9 8)).t

/-- Sync mode in force: a BLANK pipe keeps fixed blanking, or the wall's frame starts (R467). -/
def syncMode (s : State) (p : Nat) : Nat :=
  let m := (timing s p).sync
  if (getPipe s p).state = 1 ∧ m ≠ 3 then 0 else m

/-! ## Tearing effect (R456) -/

def intervalsOf : List Frac → List Frac
  | a :: b :: r => frSub a b :: intervalsOf (b :: r)
  | _ => []

def frSum (l : List Frac) : Frac := l.foldl frAdd {}

/-- Mean of the last eight accepted edge intervals, or P until eight have been seen. -/
def teMean (s : State) (p : Nat) : Frac :=
  let iv := (intervalsOf (getPipe s p).time.teEdges).take 8
  if iv.length < 8 then (timing s p).period else frDivNat (frSum iv) 8

/-! ## Latest times and deadlines (R453, R362) -/

/-- Distance from one latest frame start to the next. -/
def frameStep (s : State) (p : Nat) : Frac :=
  let t := timing s p
  match syncMode s p with
  | 0 => t.period
  | 2 => teMean s p
  | _ => frScale t.line t.vmax

/-! ## The line grid of a wall (R504) -/

def gridInstant (t : Timing) (k : Nat) : Nat := k * t.htotal * 1000000 / max 1 t.khz
/-- The index of the grid instant at f, or of the first after it. -/
def gridIndex (t : Timing) (f : Frac) : Nat :=
  (frCeil (fr (f.num * t.khz) (f.den * max 1 (t.htotal * 1000000)))).toNat
/-- The grid instant n lines after f. -/
def gridAfter (t : Timing) (f : Frac) (n : Nat) : Frac := frOf (gridInstant t (gridIndex t f + n) : Nat)

/-- The latest time of the frame start after one at f. -/
def latestAfter (s : State) (p : Nat) (f : Frac) : Frac :=
  if syncMode s p = 3 then gridAfter (timing s p) f (timing s p).vmax else frAdd f (frameStep s p)

/-- The lead of a frame start in µs: a write of GAL_LEAD applies to those more than 10,000 µs after
it. -/
def leadFor (s : State) (p : Nat) (f : Frac) : Nat :=
  match (getPipe s p).time.leads.find? fun w => frLe f (frAdd w.1 (usNs 10000)) with
  | some w => w.2
  | none => rField s (aGal p 4) 15 0

/-- The claim of the next frame start. -/
def nextClaim (cs : List Claim) : Option Claim := cs.find? fun c => c.ahead = 0

/-- The commit deadline of the next frame start, with its latest time: a claimed one keeps its lead. -/
def deadlineAt (s : State) (p : Nat) (f : Frac) : Frac :=
  match nextClaim (getPipe s p).fg.claims with
  | some c => frSub f (usNs c.lead)
  | none => frSub f (usNs (leadFor s p f))

/-- Fix the latest time and deadline of the next frame start, once the frame at F_k has begun. -/
def armNext (s : State) (p : Nat) (f : Frac) : State :=
  modPipe s p fun x => { x with
    time := { x.time with fmax := f, deadline := deadlineAt s p f },
    fg := { x.fg with claims := x.fg.claims.map fun c => if c.ahead = 0 then { c with fmax := f } else c } }

/-! ## Claims (R312) -/

def subFrames (s : State) (p : Nat) : Nat := rField s (aFg p 0) 25 24 + 1
def budgetNs (s : State) (p : Nat) : Frac := usNs (rField s (aFg p 8) 16 0)

def frameFuel : Nat := 65536

/-- The first frame start that satisfies ok, from the n-th from now on, which has latest time f. -/
def firstFrame (s : State) (p : Nat) (ok : Nat → Frac → Bool) : Nat → Nat → Frac → Nat × Frac
  | 0, n, f => (n, f)
  | k + 1, n, f => if ok n f then (n, f) else firstFrame s p ok k (n + 1) (latestAfter s p f)

/-- The n-th frame start from now on comes after the last one that the loop has claimed. -/
def afterClaims (cs : List Claim) (n : Nat) : Bool :=
  match cs.getLast? with
  | some c => decide (c.ahead < n)
  | none => true

/-- Claims of n frame starts from one on, which has k before it and latest time f: each next one at its latest. -/
def claimRun (s : State) (p order : Nat) : Nat → Nat → Nat → Frac → List Claim
  | 0, _, _, _ => []
  | n + 1, sub, k, f =>
    { step := order, sub := sub, ahead := k, fmax := f, lead := leadFor s p f }
      :: claimRun s p order n (sub + 1) (k + 1) (latestAfter s p f)

/-- The claims of a step that is ready at an instant. -/
def newClaims (s : State) (p order : Nat) (ready : Frac) : List Claim :=
  let x := getPipe s p
  let f0 := firstFrame s p (fun n f => afterClaims x.fg.claims n
      && frLe (frAdd ready (budgetNs s p)) (frSub f (usNs (leadFor s p f)))) frameFuel 0 x.time.fmax
  claimRun s p order (subFrames s p) 0 f0.1 f0.2

/-- A ready step claims its frame starts, on a pipe whose frame starts show buffers. -/
def claimFrames (s : State) (p order : Nat) (ready : Frac) : State :=
  if (getPipe s p).state = 2 then
    modPipe s p fun x => { x with fg := { x.fg with claims := x.fg.claims ++ newClaims s p order ready } }
  else s

/-- A frame start has come: the later claims have one fewer before them, and their times move earlier with a frame start
that came before its latest time (R455). -/
def shiftClaims (cs : List Claim) (by_ : Frac) : List Claim :=
  (cs.filter fun c => 0 < c.ahead).map fun c => { c with ahead := c.ahead - 1, fmax := frSub c.fmax by_ }

/-! ## Another count of a pipe's time base (R500, R451) -/

def shiftTime (d : Frac) (x : PipeTime) : PipeTime :=
  let m (f : Frac) : Frac := frAdd f d
  { x with last := m x.last, frameTime := m x.frameTime, next := x.next.map m, fmax := m x.fmax, deadline := m x.deadline,
           ready := x.ready.map m, leads := x.leads.map fun w => (m w.1, w.2), teEdges := x.teEdges.map m,
           locked := false }

def shiftDecision (d : Frac) : Decision → Decision
  | .extrapolate a b t u => .extrapolate a b (frAdd t d) (frAdd u d)
  | x => x

/-- What a pipe holds in its time base counts in the new time: no frame start moves against the clock of the pixels; an
agreed frame start of a wall stays as agreed. -/
def shiftPipe (d : Frac) (x : Pipe) : Pipe :=
  { x with time := shiftTime d x.time,
           decided := x.decided.map (shiftDecision d),
           cands := x.cands.map fun c => { c with at_ := frAdd c.at_ d },
           gal := { x.gal with anchorAt := frAdd x.gal.anchorAt d, began := frAdd x.gal.began d },
           fg := { x.fg with claims := x.fg.claims.map fun c => { c with fmax := frAdd c.fmax d } } }

/-! ## The next frame start (R452, R454, R457) -/

/-- The frame start that a ready instant gives under variable blanking: the fewest whole lines, never fewer than
vtotal_min, and never more than vtotal_max. -/
def readyStart (s : State) (p : Nat) (r : Frac) : Frac :=
  let t := timing s p
  let last := (getPipe s p).time.last
  let need := frAdd (frSub r last) (frScale t.line ((t.vmin : Int) - t.vstart))
  let n := frCeil (fr (need.num * t.line.den) (need.den * max t.line.num.toNat 1))
  frAdd last (frScale t.line (min (max (t.vmin : Int) n) (max t.vmin t.vmax)))

/-- Lines of the last frame period. -/
def periodLines (t : Timing) (per : Frac) : Nat :=
  (frFloor (fr (2 * per.num * t.line.den + per.den * t.line.num) (2 * per.den * max t.line.num.toNat 1))).toNat

def marginNs (s : State) (p : Nat) : Frac := usNs (rField s (aPipe p 0x30) 9 0)

/-- The next frame start, once it is known; in wall mode F^max stands in for an agreement that is
missing at F^max minus the margin, and the last period while the wall has no leader; the first frame
after enabling waits for an agreement. -/
def nextStart (s : State) (p : Nat) : Option Frac :=
  let x := (getPipe s p).time
  let now := pipeNow s p
  match x.next with
  | some f => some f
  | none =>
    match syncMode s p with
    | 0 => some x.fmax
    | 1 =>
      match x.ready with
      | some r => if frLe r x.deadline then some (readyStart s p r) else some x.fmax
      | none => if frLt x.deadline now then some x.fmax else none
    | 2 => none
    | _ =>
      if regW s (aPipe p 0x4C) = 0 then x.agreed
      else if x.leaderless then some (gridAfter (timing s p) x.last (periodLines (timing s p) x.period))
      else
        match x.agreed with
        | some f => some f
        | none => if frLe (frSub x.fmax (marginNs s p)) now then some x.fmax else none

end Sys2Proof.Machine
end

