-- ==== Sys2Proof/Machine/Transport.lean ====
section
/-! DEFINITION. Machine/Transport.lean: the reliable stream of a session towards its host (R68 to
R75), how a session ends, and the session group (R85 to R90). -/

namespace Sys2Proof.Machine

open Sys2Proof

/-! ## Sending -/

/-- The reply to a SESSION_CLOSE still waits for the send window. -/
def closeWaits (ss : Session) : Bool := ss.tx.waiting.any fun m => m.op = opSessionClose && m.flags = fgReply

/-- Send what waits, in order, while the window of 256 has room (R74), up to the reply to a SESSION_CLOSE, after which
the session is gone (R86). -/
def flushWaiting : Nat → State → Nat → State
  | 0, s, _ => s
  | k + 1, s, i =>
    match getSes s i with
    | none => s
    | some ss =>
      match ss.tx.waiting with
      | [] => s
      | m :: r =>
        if ss.tx.unacked.length < 256 ∧ (ss.closing.isNone ∨ closeWaits ss) then
          flushWaiting k (transmit s i { ss with tx := { ss.tx with waiting := r } } m) i
        else s

/-- The packets that a cumulative acknowledgement covers go: the sequence number on the wire names
one of the packets that wait for acknowledgement, or the one before them (R71). -/
def ackCovers (unacked : List TxPacket) (ack : Nat) : Nat :=
  match unacked.findIdx? fun p => p.seq % 2 ^ 32 = ack with
  | some k => k + 1
  | none => 0

/-- A cumulative acknowledgement arrives: it advances the stream, returns the timer to 2 ms and lets
waiting packets go (R71, R72, R74). -/
def ackAdvance (s : State) (i ack : Nat) : State :=
  match getSes s i with
  | none => s
  | some ss =>
    match ackCovers ss.tx.unacked ack with
    | 0 => s
    | k + 1 =>
      let rest := ss.tx.unacked.drop (k + 1)
      let due := if rest = [] then none else some (s.now + rto0)
      flushWaiting (ss.tx.waiting.length + 1)
        (setSes s i { ss with tx := { ss.tx with unacked := rest, rtoStep := 0, rtoDue := due } }) i

/-- ACK_DELAY_TIMEOUT: 200 µs after the earliest receipt that no packet has acknowledged (R71). -/
def onAckDelay (session : Word) (s : State) : State :=
  if !isRunning s then s
  else
    match getSes s session.toNat with
    | none => s
    | some ss =>
      match ss.rx.ackDue with
      | some d => if d ≤ s.now then sendAck s session.toNat else s
      | none => s

/-- RETRANSMIT_TIMEOUT: the oldest unacknowledged packet goes again, byte for byte, and the timer
doubles up to 64 ms (R61, R72). -/
def onRetransmit (session : Word) (s : State) : State :=
  if !isRunning s then s
  else
    match getSes s session.toNat with
    | none => s
    | some ss =>
      match ss.tx.rtoDue, ss.tx.unacked with
      | some d, p :: _ =>
        if d ≤ s.now then
          let step := min (ss.tx.rtoStep + 1) 5
          let tx := { ss.tx with rtoStep := step, rtoDue := some (s.now + rto0 * 2 ^ step) }
          sendPacket (setSes s session.toNat { ss with tx := tx }) session.toNat ss p
        else s
      | _, _ => s

def execAckDelayTimeout (session : Word) (s : State) : Out := .next (onAckDelay session s)
def execRetransmitTimeout (session : Word) (s : State) : Out := .next (onRetransmit session s)

/-! ## The end of a session -/

/-- The completions that the host has not acknowledged, in the order they were sent (R75). -/
def keptCompletions (ss : Session) : List Msg :=
  ((ss.tx.unacked.map fun p => p.msg) ++ ss.tx.waiting).filter fun m => m.flags = fgCompletion

/-- Whole seconds since the last authenticated packet, while the tenant is not ACTIVE (R115). -/
def quietSeconds (s : State) (t : Nat) : Nat :=
  let x := getTen s t
  match x.lastAuth with
  | some last => if x.state = .active then 0 else min ((s.now - last) / secTicks) 65535
  | none => 0

def tenCode : TenState → Nat
  | .unconfigured => 0
  | .configured => 1
  | .active => 2
  | .orphaned => 3
  | .fallback => 4
  | .reclaiming => 5

/-- A tenant changes state, with its trace record (R112, trace point 13). -/
def setTenState (s : State) (t : Nat) (st : TenState) : State :=
  let old := (getTen s t).state
  let s := modTen s t fun x => { x with state := st }
  trace s 13 t [tenCode old, tenCode st, quietSeconds s t]

/-- A session ends with a close reason: its waits are cancelled, its unacknowledged replies and
events go, its completions stay with the tenant, and the write that it was backing stands (R75, R97,
R121). Of more than the 4,096 completions of R80 the oldest are kept (DESIGN CHOICE, log entry 15). -/
def dropSession (s : State) (t reason : Nat) : State :=
  match (getTen s t).session with
  | none => s
  | some i =>
    match getSes s i with
    | none => modTen s t fun x => { x with session := none, reason := reason }
    | some ss =>
      let s := match ss.backing with
        | some b => hbmWrite (modTen s t fun x => { x with mem := { x.mem with
            raising := x.mem.raising.filter fun p => p.1 ≠ none } }) t b.va b.data
        | none => s
      let s := incReg s aDiscSession (ss.stalled.length + ss.rx.buf.length) cap32
      let s := { s with link := { s.link with
        sessions := tabErase s.link.sessions i, portsNext := s.link.portsNext.filter fun x => x.2.1 ≠ i,
        resetNext := s.link.resetNext.filter fun x => x.1 ≠ i } }
      let s := modTen s t fun x => { x with
        session := none, reason := reason,
        async := x.async.filter fun a => !(decide (a.op = opRegWait) && decide (a.session = i)),
        held := (x.held ++ keptCompletions ss).take 4096 }
      trace s 12 t [i, reason, 0]

/-- The close reason that TEN_STATE shows for a SESSION_CLOSE (R86, R115); the reason as given stands in
Tenant.closeValue. -/
def closeReason (v : Nat) : Nat := if v = 0 then 0 else if v = 1 then 1 else 4

/-! ## The session group -/

/-- HEARTBEAT reply (R87). -/
def heartbeatReply (s : State) (v : DWord) : List Byte :=
  b64 v ++ leBytes 6 (tbSec s 0) ++ zeros 2 ++ le4 (tbStamp s 0)

def partNumber : List Byte :=
  [0x41, 0x4C, 0x2D, 0x4E, 0x31, 0x32, 0x38, 0x2D, 0x48, 0x33, 0x36, 0, 0, 0, 0, 0]

/-- DEVICE_INFO reply (R89). -/
def deviceInfoReply (s : State) (t : Nat) (ss : Session) : List Byte :=
  by1 3 ++ by1 (fwMinor s) ++ zeros 2 ++ by1 s.fw.major ++ by1 s.fw.minor ++ le2 s.fw.build
  ++ le4 Config.siliconRevision.toNat ++ le2 (onlineCores s) ++ by1 t ++ zeros 1 ++ le2 ss.maxPayload
  ++ le2 asyncLimit ++ zeros 4 ++ partNumber

/-- What COMPLETION_QUERY says of a tag: state and final status (R90). A tag is final once its last
reply or completion has been sent and waits for acknowledgement. -/
def tagState (s : State) (ss : Session) (tag : Nat) : Nat × Nat :=
  let pending := (getTen s ss.tenant).async.any (fun a => a.tag = tag)
    || (match ss.backing with | some b => b.tag = tag | none => false)
    || ss.stalled.any (fun p => p.tag = tag)
    || ss.tx.waiting.any (fun m => m.tag = tag && m.flags ≠ fgEvent)
  if pending then (1, 0)
  else
    match ss.tx.unacked.find? (fun p => p.msg.tag = tag && p.msg.flags ≠ fgEvent
        && p.msg.status ≠ stAccepted && p.msg.status ≠ stDeferred) with
    | some p => (2, p.msg.status)
    | none => (0, 0)

def completionQueryReply (s : State) (ss : Session) (rq : Req) (about : Word) : List Byte :=
  let st := if about = rq.tag then (1, 0) else tagState s ss about.toNat
  b32 about ++ by1 st.1 ++ zeros 1 ++ le2 st.2

def onHeartbeat (rq : Req) (v : DWord) (s : State) : State :=
  take (.heartbeat rq v) s fun op _ _ rq => replyOk s op rq (heartbeatReply s v)

def onEcho (rq : Req) (p : List Byte) (s : State) : State :=
  take (.echo rq p) s fun op _ _ rq => replyOk s op rq p

def onDeviceInfo (rq : Req) (s : State) : State :=
  take (.deviceInfo rq) s fun op t ss rq => replyOk s op rq (deviceInfoReply s t ss)

def onCompletionQuery (rq : Req) (about : Word) (s : State) : State :=
  take (.completionQuery rq about) s fun op _ ss rq => replyOk s op rq (completionQueryReply s ss rq about)

def execHeartbeat (rq : Req) (value : DWord) (s : State) : Out := .next (onHeartbeat rq value (hear rq s))
def execEcho (rq : Req) (payload : List Byte) (s : State) : Out := .next (onEcho rq payload (hear rq s))
def execDeviceInfo (rq : Req) (s : State) : Out := .next (onDeviceInfo rq (hear rq s))
def execCompletionQuery (rq : Req) (about : Word) (s : State) : Out := .next (onCompletionQuery rq about (hear rq s))

end Sys2Proof.Machine
end

