-- ==== Sys2Proof/Machine/Sched.lean ====
section
/-! DEFINITION. Machine/Sched.lean: steps and their commands: order (R144), eligibility
(R173, R174), resident slots (R177, R178), and how a command is killed and a step fails or ends (R149,
R150, R171, R185, R196). Placement is in Machine/Place.lean. -/

namespace Sys2Proof.Machine

open Sys2Proof

/-! ## Where commands are -/

/-- One stripe instance of a command of the step at the head of a loop's queue. -/
structure Placed where
  ref  : CmdRef
  loop : Loop
  step : Step
  cmd  : Cmd
  inst : Inst
  deriving DecidableEq, Repr

def stepInsts (id : Nat) (l : Loop) (st : Step) : List Placed :=
  (st.cmds.zipIdx.map fun ck => ck.1.insts.zipIdx.map fun ik =>
    { ref := { loop := id, cmd := ck.2, inst := ik.2 }, loop := l, step := st, cmd := ck.1, inst := ik.1 }).flatten

/-- The instances of every running step. -/
def allInsts (s : State) : List Placed :=
  (s.sched.loops.map fun p => match p.2.queue with | st :: _ => stepInsts p.1 p.2 st | [] => []).flatten

def findInst (s : State) (r : CmdRef) : Option Placed :=
  match getLoop s r.loop with
  | none => none
  | some l =>
    match l.queue with
    | [] => none
    | st :: _ =>
      match st.cmds[r.cmd]? with
      | none => none
      | some c =>
        match c.insts[r.inst]? with
        | none => none
        | some i => some { ref := r, loop := l, step := st, cmd := c, inst := i }

def listMod {α : Type} (l : List α) (n : Nat) (f : α → α) : List α :=
  match l, n with
  | [], _ => []
  | a :: r, 0 => f a :: r
  | a :: r, k + 1 => a :: listMod r k f

def modLoop (s : State) (id : Nat) (f : Loop → Loop) : State :=
  match getLoop s id with
  | none => s
  | some l => setLoop s id (f l)

/-- Change the step at the head of a loop's queue. -/
def modHead (s : State) (id : Nat) (f : Step → Step) : State :=
  modLoop s id fun l => { l with queue := listMod l.queue 0 f }

def modCmd (s : State) (id c : Nat) (f : Cmd → Cmd) : State :=
  modHead s id fun st => { st with cmds := listMod st.cmds c f }

/-- Change a command of any step of a loop's queue. -/
def modQueued (s : State) (id n c : Nat) (f : Cmd → Cmd) : State :=
  modLoop s id fun l => { l with queue := listMod l.queue n fun st => { st with cmds := listMod st.cmds c f } }

def modInst (s : State) (r : CmdRef) (f : Inst → Inst) : State :=
  modCmd s r.loop r.cmd fun c => { c with insts := listMod c.insts r.inst f }

def isRun (i : Inst) : Bool := match i.phase with | .running => true | _ => false
def isDone (i : Inst) : Bool := match i.phase with | .committed => true | _ => false
def isWaiting (i : Inst) : Bool := match i.phase with | .waiting => true | _ => false
def isFinished (i : Inst) : Bool := match i.phase with | .finished => true | _ => false
def isSettling (i : Inst) : Bool := match i.phase with | .settling => true | _ => false
def isHeld (i : Inst) : Bool := match i.phase with | .held _ => true | .backing _ => true | _ => false

/-- The instance occupies its core: its engine runs, or its output region is held (R291). -/
def onCore (i : Inst) : Bool := isRun i || isFinished i

def cmdDone (c : Cmd) : Bool := c.insts.all isDone
def cmdPlaced (c : Cmd) : Bool := c.insts.all fun i => isRun i || isFinished i || isDone i

/-- The cores that an instance holds: its own, or a raster command's owner cores (R329). -/
def instCores (p : Placed) : List Nat :=
  if p.cmd.spec.engine = 5 then p.inst.cores else if p.inst.core = 0xFF then [] else [p.inst.core]

/-- Counted protection (R185): a best-effort command killed four times. -/
def isProtected (p : Placed) : Bool := !p.loop.lc && decide (4 ≤ p.cmd.kills)
/-- Treated as latency-critical (R176). -/
def asLc (p : Placed) : Bool := p.loop.lc || p.cmd.raised
/-- May be killed to make way (R182, R186). -/
def killable (p : Placed) : Bool := !asLc p && !isProtected p && !inPlace p.cmd.spec

/-- Cores holding a protected or in-place command (R187, R202). -/
def protectedCores (s : State) : List Nat :=
  ((allInsts s).filter fun p => onCore p.inst && (isProtected p || inPlace p.cmd.spec)).map instCores
    |>.flatten |>.eraseDups

/-! ## Programs: who is paired with whom -/

def progBytes (s : State) (t : Nat) (c : CmdRec) (off n : Nat) : List Byte := hbmRead s t (c.program + off) n
def progLe (s : State) (t : Nat) (c : CmdRec) (off n : Nat) : Nat := leNat (progBytes s t c off n)

/-- The halo producer that a striped WE or Minuet command names (R287). -/
def haloNamed (s : State) (t : Nat) (c : CmdRec) : Option Nat :=
  if (c.engine = 0 ∨ c.engine = 3) ∧ 1 < c.stripes ∧ 168 ≤ c.programBytes then
    let p := progLe s t c 136 2
    if p = 0xFFFF then none else some p
  else none

/-- An earlier command of the step names the halo producer already. -/
def haloTaken (s : State) (t : Nat) (st : Step) (k p : Nat) : Bool :=
  (st.cmds.take k).any fun x => haloNamed s t x.spec = some p

/-- The halo producer of a command of a step: the one it names, where the two can be placed as a pair. A command that
names no such producer waits for none, and fails R289 at its first dispatch: so does one whose producer already has a
consumer, which may have committed with it. -/
def haloProducer (s : State) (t : Nat) (st : Step) (k : Nat) : Option Nat :=
  match st.cmds[k]? with
  | none => none
  | some c =>
    match haloNamed s t c.spec with
    | none => none
    | some p =>
      match st.cmds[p]? with
      | none => none
      | some x =>
        if p < k ∧ (x.spec.engine = 0 ∨ x.spec.engine = 3) ∧ x.spec.stripes = c.spec.stripes ∧ !c.spec.deps.elem p
            ∧ !haloTaken s t st k p
        then some p else none

/-- The stream consumer that a vision command names (R366, R381). -/
def streamConsumer (s : State) (t : Nat) (c : CmdRec) : Option Nat :=
  if c.engine = 6 ∨ c.engine = 7 then
    let p := progLe s t c 80 2
    if p = 0xFFFF then none else some p
  else none

/-- The vision command whose stream a command of the step consumes, where the two can be placed as a pair: a vision
command that names any other consumer fails R381 at its own first dispatch. -/
def streamProducer (s : State) (t : Nat) (st : Step) (k : Nat) : Option Nat :=
  match st.cmds[k]? with
  | none => none
  | some c =>
    if c.spec.engine = 2 ∧ c.spec.stripes = 1 then
      (st.cmds.zipIdx.find? fun cj => decide (cj.2 < k) && !c.spec.deps.elem cj.2
        && streamConsumer s t cj.1.spec = some k).map fun cj => cj.2
    else none

/-- The halo consumer of a command of the step. -/
def haloConsumer (s : State) (t : Nat) (st : Step) (k : Nat) : Option Nat :=
  (List.range st.cmds.length).find? fun j => haloProducer s t st j = some k

/-! ## Eligibility (R173, R144) -/

/-- Within one step: an earlier command that is not committed holds back a later one with which it
shares bytes. Across steps of one tenant: an earlier step's writes hold until that step ends, its
reads until the reading command commits (R144). A held Galliard anchor and an unfinished capture
hold back writes in the same way (R359, R322). -/
def mayStart (s : State) (t : Nat) (st : Step) (k : Nat) (c : CmdRec) : Bool :=
  ((st.cmds.take k).all fun e =>
    cmdDone e || !(setsShare (writeSet e.spec) c.extents || setsShare (readSet e.spec) (writeSet c)))
  && (s.sched.loops.all fun p =>
    p.2.tenant ≠ t || p.2.queue.all fun x =>
      decide (st.order ≤ x.order) || x.cmds.all fun e =>
        !setsShare (writeSet e.spec) c.extents
        && (cmdDone e || !setsShare (readSet e.spec) (writeSet c)))
  && ((pipesOf s t).all fun p => !extentsMeet (writeSet c) (galHeld s p))
  && !setsShare (openCaptures s t) (writeSet c)

/-- Uncommitted best-effort commands of earlier steps for which a command waits under R144: loop, place of the step in
its queue, and index. Those that R176 raises. -/
def blockers (s : State) (t : Nat) (st : Step) (c : CmdRec) : List (Nat × Nat × Nat) :=
  (s.sched.loops.map fun p =>
    if p.2.tenant ≠ t ∨ p.2.lc then []
    else (p.2.queue.zipIdx.map fun xn =>
      if st.order ≤ xn.1.order then []
      else (xn.1.cmds.zipIdx.filter fun ek => !cmdDone ek.1
        && (setsShare (writeSet ek.1.spec) c.extents || setsShare (readSet ek.1.spec) (writeSet c))).map
          fun ek => (p.1, xn.2, ek.2)).flatten).flatten

def depsDone (st : Step) (c : CmdRec) : Bool :=
  c.deps.all fun d => match st.cmds[d]? with | some x => cmdDone x | none => false

/-- R173, with the producer of a pair or a stream placed first (R290, R382). -/
def cmdEligible (s : State) (l : Loop) (st : Step) (k : Nat) : Bool :=
  match st.cmds[k]? with
  | none => false
  | some c =>
    st.eligible.isSome && st.failing.isNone && depsDone st c.spec
    && (match haloProducer s l.tenant st k with
        | some p => (match st.cmds[p]? with | some x => cmdPlaced x | none => true)
        | none => true)
    && (match streamProducer s l.tenant st k with
        | some p => (match st.cmds[p]? with | some x => cmdPlaced x | none => true)
        | none => true)
    && mayStart s l.tenant st k c.spec

/-- Neither placed nor committed: R173 asks no more of an instance of an eligible command, so one that was killed, or
that a fault holds, is eligible too. -/
def isUnplaced (i : Inst) : Bool := !onCore i && !isDone i

/-- The instances of a loop's running step that are eligible and not placed (R173). -/
def eligibleInsts (s : State) (id : Nat) (l : Loop) : List Placed :=
  match l.queue with
  | [] => []
  | st :: _ => (stepInsts id l st).filter fun p => isUnplaced p.inst && cmdEligible s l st p.ref.cmd

/-- Those that may be dispatched: a killed run has settled, and no fault holds the command (R149, R151). -/
def placeable (s : State) (id : Nat) (l : Loop) : List Placed :=
  (eligibleInsts s id l).filter fun p => isWaiting p.inst

def loopRunnable (s : State) (id : Nat) (l : Loop) : Bool := eligibleInsts s id l ≠ []

def loopBlocked (s : State) (id : Nat) (l : Loop) : Bool :=
  !loopRunnable s id l && (match l.queue with
    | [] => true
    | st :: _ => (stepInsts id l st).all fun p => !isRun p.inst)

/-! ## Resident slots (R177, R178) -/

def slots : Nat := 32

def residentLoops (s : State) : List (Nat × Loop) := s.sched.loops.filter fun p => p.2.resident.isSome

/-- The resident loop blocked longest, ties to the lower loop id (R178). -/
def blockedLongest (s : State) : Option Nat :=
  (residentLoops s).foldl (fun (best : Option (Nat × Nat)) p =>
    match p.2.blocked, best with
    | some b, none => some (b, p.1)
    | some b, some x => if b < x.1 then some (b, p.1) else best
    | none, _ => best) none |>.map fun x => x.2

/-- Load a loop into a slot. -/
def loadLoop (s : State) (id : Nat) : State :=
  let s := modLoop s id fun l => { l with resident := some s.now, blocked := none, waiting := false }
  { s with sched := { s.sched with lastLoaded := id } }

/-- t_switch of R184 in ns, on a core where something was killed. -/
def switchNs (descs records : Nat) : Nat := 180 + 4 * min descs 128 + 16 * records

/-- Outstanding descriptors of a loop's running commands on the core that holds most of them. -/
def loopDescs (s : State) (id : Nat) : Nat :=
  let qs := (allInsts s).filter fun p => p.ref.loop = id && onCore p.inst
  ((qs.map instCores).flatten.map fun c =>
    ((qs.filter fun p => (instCores p).elem c).map fun p => p.inst.dma.jobs.length).sum).foldl max 0

/-- Take a loop out of its slot: counted, with its trace record (R203, trace point 4). The switch that the record gives is
that of the core with the most descriptors (DESIGN CHOICE, log entry 25: R184 gives one for each core). -/
def unloadLoop (s : State) (id by_ records : Nat) : State :=
  let t := match getLoop s id with | some l => l.tenant | none => 0xFF
  let ns := switchNs (loopDescs s id) records
  let s := modLoop s id fun l => { l with resident := none, blocked := none }
  trace (incReg s aEvictions 1 cap32) 4 t [id, by_, ns]

/-- Load a loop into the slot of another. Outside a scheduling tick the eviction is an urgent tick's, whose record the
tick that follows counts (R184). -/
def replaceLoop (s : State) (out id records : Nat) : State :=
  let s := loadLoop (unloadLoop s out id records) id
  { s with sched := { s.sched with evicted := id :: s.sched.evicted } }

/-- A non-resident runnable loop is loaded into a free slot, else into the slot of the loop blocked
longest, else it waits (R178). -/
def admitLoop (s : State) (id : Nat) : State :=
  if (residentLoops s).length < slots then loadLoop s id
  else
    match blockedLongest s with
    | some b => replaceLoop s b id 1
    | none => modLoop s id fun l => { l with waiting := true }

/-- Bring the blocked marks of resident loops up to date, then admit loops that became runnable. -/
def refreshLoops (s : State) : State :=
  let s := s.sched.loops.foldl (fun s p =>
    if p.2.resident.isSome then
      modLoop s p.1 fun l => { l with
        blocked := if loopBlocked s p.1 l then some (l.blocked.getD s.now) else none }
    else s) s
  s.sched.loops.foldl (fun s p =>
    match getLoop s p.1 with
    | none => s
    | some l =>
      if l.resident.isNone then
        if loopRunnable s p.1 l then (if l.waiting then s else admitLoop s p.1)
        else modLoop s p.1 fun l => { l with waiting := false }
      else s) s

/-- Note when commands became eligible, for SCH_LC_WORST (R204). -/
def markEligible (s : State) : State :=
  s.sched.loops.foldl (fun s p =>
    (placeable s p.1 p.2).foldl (fun s q =>
      if q.inst.eligible = 0 then modInst s q.ref fun i => { i with eligible := s.now + 1 } else s) s) s

/-- An LC command of a running step that only R144 keeps from starting. -/
def raisesFor (s : State) (l : Loop) (st : Step) : List (Nat × Nat × Nat) :=
  if !l.lc || st.eligible.isNone || st.failing.isSome then []
  else (st.cmds.map fun c =>
    if c.insts.any isUnplaced && depsDone st c.spec then blockers s l.tenant st c.spec else []).flatten

/-- Commands for which an eligible LC command waits under R144 are treated as LC from then on (R176). -/
def raiseBlockers (s : State) : State :=
  (s.sched.loops.map fun p => match p.2.queue with | st :: _ => raisesFor s p.2 st | [] => []).flatten.foldl
    (fun s b => modQueued s b.1 b.2.1 b.2.2 fun x => { x with raised := true }) s

def refresh (s : State) : State := markEligible (raiseBlockers (refreshLoops s))

/-! ## Steps become eligible (R173, R174) -/

/-- The pipe whose commit deadline sets a step's deadline, if its timing runs. -/
def deadlinePipe (s : State) (l : Loop) (st : Step) : Option Nat :=
  match (if l.lc then st.present else none) <|> l.pipe with
  | some p => if 2 ≤ (getPipe s p).state then some p else none
  | none => none

def stepDeadline (s : State) (l : Loop) (st : Step) : Option (Nat × Frac) :=
  match deadlinePipe s l st with
  | some p => some (rField s (aPipe p 0) 9 8, (getPipe s p).time.deadline)
  | none => if st.deadlineNs = 0 then none else some (0, frAdd (getBase s 0).t (frOf st.deadlineNs))

/-- The pipe to which frame generation has bound a loop (R309). -/
def boundPipe (s : State) (id : Nat) : Option Nat :=
  (List.range 8).find? fun p => (getPipe s p).fg.bound && rField s (aFg p 4) 10 0 == id

/-- The pipes whose adaptation loop a loop is (R324). -/
def adaptPipes (s : State) (id : Nat) : List Nat :=
  (List.range 8).filter fun p =>
    (getPipe s p).fg.bound && bit (regW s (aFg p 0)) 30 && rField s (aFg p 4) 26 16 == id && id != 0

/-- A completed capture is held, and no publish is pending (R324). -/
def adaptReady (g : FrameGen) : Bool := g.capOrder ≠ [] && g.publish = 0

/-- A step becomes eligible: its deadline and its reproducibility level are fixed (R174, R516). -/
def makeEligible (s : State) (id : Nat) (l : Loop) (st : Step) (deadline : Option (Nat × Frac)) : State :=
  let level := rField s aSysRepro (2 * l.tenant + 1) (2 * l.tenant)
  let s := modHead s id fun x => { x with eligible := some s.now, deadline := deadline, level := level }
  trace s 0 l.tenant [id, st.seq, match deadline with | some d => (frFloor d.2).toNat % 2 ^ 32 | none => 0]

/-- A failure, with the time at which it comes (R171). -/
def failingNow (s : State) (status detail cmd : Nat) : Failing :=
  { status := status, detail := detail, cmd := cmd, ns := tbStamp s 0, sec := tbSec s 0 }

/-- The step at the head of a loop's queue, the one before it gone: it becomes eligible, or, on a
bound loop, waits for its frame starts (R173, R312). In a loop that is being aborted it fails in its
turn (R192). -/
def promote (s : State) (id : Nat) : State :=
  match getLoop s id with
  | none => s
  | some l =>
    match l.queue with
    | [] => s
    | st :: _ =>
      if st.eligible.isSome ∨ st.failing.isSome then s
      else if l.func.phase = .aborting then
        modHead s id fun x => { x with failing := some (failingNow s stAborted 0 0xFFFF) }
      else
        match boundPipe s id with
        | some p =>
          if st.ready.isSome then s
          else
            let now := pipeNow s p
            claimFrames (modHead s id fun x => { x with ready := some now }) p st.order now
        | none =>
          if (adaptPipes s id).all fun p => adaptReady (getPipe s p).fg then
            makeEligible s id l st (stepDeadline s l st)
          else s

/-! ## Kills (R149, R185, R196, R298) -/

/-- What an instance loses when it stops: its engine, its runs and its scratchpad (R27). -/
def deadInst (i : Inst) (ph : Phase) : Inst :=
  { i with phase := ph, core := 0xFF, cores := [], pads := [], eligible := 0, dma := {}, ve := {}, ras := {}, win := {},
           above := {}, below := {}, strm := {} }

/-- The scratchpad bytes of an instance's regions go. -/
def killPads (s : State) (p : Placed) : State :=
  (instCores p).foldl (fun s c => p.cmd.spec.regions.foldl (fun s r => padZero s c r.offset r.bytes) s) s

/-- Instances that a killed one takes with it: consumers that read its rows, at i - 1, i and i + 1
(R298); the other side of a stream (R384). -/
def tiedTo (s : State) (q : Placed) : List CmdRef :=
  let id := q.ref.loop
  let ct := match haloConsumer s q.loop.tenant q.step q.ref.cmd with
    | some k => [q.ref.inst - 1, q.ref.inst, q.ref.inst + 1].map fun i => ({ loop := id, cmd := k, inst := i } : CmdRef)
    | none => []
  let sc := match streamConsumer s q.loop.tenant q.cmd.spec with
    | some k => [({ loop := id, cmd := k, inst := 0 } : CmdRef)]
    | none => []
  let sp := match streamProducer s q.loop.tenant q.step q.ref.cmd with
    | some k => [({ loop := id, cmd := k, inst := 0 } : CmdRef)]
    | none => []
  (ct ++ sc ++ sp).eraseDups.filter fun r =>
    match findInst s r with | some p => onCore p.inst | none => false

/-- A set of instances closed under what kills take with them. -/
def spread (s : State) : Nat → List CmdRef → List CmdRef
  | 0, rs => rs
  | k + 1, rs =>
    let more := (rs.map fun r => match findInst s r with | some q => tiedTo s q | none => []).flatten
    let new := more.eraseDups.filter fun r => !rs.elem r
    if new = [] then rs else spread s k (rs ++ new)

/-- A wait for a row stops counting, as the producer instance stops running (R297). -/
def haltWait (now since : Nat) (r : Halo) : Halo :=
  { r with waitSlot := r.waitSlot.map fun w => (now, w.2 - (now - max w.1 since)) }

/-- The waits for rows of a producer instance that stops running stand still. -/
def haltWaits (s : State) (q : Placed) : State :=
  match (if isRun q.inst then haloConsumer s q.loop.tenant q.step q.ref.cmd else none) with
  | none => s
  | some k =>
    let s1 := modInst s { q.ref with cmd := k, inst := q.ref.inst + 1 } fun i =>
      { i with above := haltWait s.now q.inst.since i.above }
    if q.ref.inst = 0 then s1
    else modInst s1 { q.ref with cmd := k, inst := q.ref.inst - 1 } fun i =>
      { i with below := haltWait s.now q.inst.since i.below }

/-- A stream of which one command stops while the other, in place, goes on (R142, R384; DESIGN CHOICE, log entry 23): an
in-place producer sends its bands again from number 1, and to an in-place consumer a producer goes on where it stood. -/
def restream (s : State) (q : Placed) : State :=
  let spared (k : Nat) : Bool := match q.step.cmds[k]? with | some c => inPlace c.spec | none => false
  let s1 := match streamProducer s q.loop.tenant q.step q.ref.cmd with
    | some k =>
      if spared k then modInst s { q.ref with cmd := k, inst := 0 } fun i =>
        { i with strm := { i.strm with bands := 0, wait := none } }
      else s
    | none => s
  match streamConsumer s q.loop.tenant q.cmd.spec with
  | some k => if spared k then modInst s1 q.ref fun i => { i with strm := { bands := q.inst.strm.bands } } else s1
  | none => s1

/-- A stripe instance reruns on the core it had (R284, R299). -/
def reboundCore (q : Placed) : Option Nat := if 1 < q.cmd.spec.stripes then some q.inst.core else none

/-- An instance of a halo pair. -/
def inPair (s : State) (q : Placed) : Bool :=
  (haloProducer s q.loop.tenant q.step q.ref.cmd).isSome || (haloConsumer s q.loop.tenant q.step q.ref.cmd).isSome

/-- One instance stops, to run again: its outstanding writes land or are dropped first (R149). -/
def stopInst (s : State) (r : CmdRef) (ph : Phase) : State :=
  match findInst s r with
  | none => s
  | some q =>
    let b := reboundCore q
    let on := if ph = .waiting then []
      else if q.cmd.spec.engine = 6 ∨ q.cmd.spec.engine = 7 then [256 + q.inst.slot]
      else instCores q
    restream (modInst (killPads (haltWaits s q) q) r fun i => { deadInst i ph with bound := b, wasOn := on }) q

/-- Kill causes of R196. -/
def kcPreempt : Nat := 0
def kcPark : Nat := 1
def kcLimit : Nat := 2
def kcEvict : Nat := 3
def kcEcc : Nat := 4
def kcHalo : Nat := 5
def kcLevel3 : Nat := 6

/-- KILL_EVENT (R196). -/
def killEvent (s : State) (q : Placed) (kills cause core : Nat) : State :=
  if q.loop.notify then
    event s q.loop.tenant opKillEvent stKilled 0
      (le4 q.ref.loop ++ le4 q.step.seq ++ le2 q.ref.cmd ++ by1 cause ++ by1 core ++ by1 (min kills 255)
        ++ by1 (boolNat (!q.loop.lc && decide (4 ≤ kills))) ++ zeros 2)
  else s

/-- The core that an event names, 0xFF for a chip-level unit. -/
def eventCore (q : Placed) : Nat := if 5 ≤ q.cmd.spec.engine then 0xFF else q.inst.core

/-- One kill event of a command, however many of its instances it kills: its kill count rises once,
and it is counted, traced and reported (R185, R196, R203). -/
def countKill (s : State) (q : Placed) (cause : Nat) : State :=
  let kills := if q.loop.lc then q.cmd.kills else q.cmd.kills + 1
  let s := modCmd s q.ref.loop q.ref.cmd fun c => { c with kills := kills }
  let s := modHead s q.ref.loop fun st => { st with kills := min (st.kills + 1) 255 }
  let s := incReg s aKills 1 cap32
  let s := trace s 3 q.loop.tenant [q.ref.loop, q.ref.cmd + cause * 65536, kills]
  killEvent s q kills cause (eventCore q)

/-- One instance of each command of a list. -/
def onePerCmd (qs : List Placed) : List Placed :=
  ((qs.map fun q => (q.ref.loop, q.ref.cmd)).eraseDups).filterMap fun lc =>
    qs.find? fun q => q.ref.loop = lc.1 && q.ref.cmd = lc.2

/-- Kills that no row of R196 reports (ABORT, a reclaim, a fault): each command counts in SCH_KILLS and in its step's
byte 14, and in no kill count (R171, R185, R203; that an ABORT or a reclaim sends no KILL_EVENT is DEDUCED, log
entry 25: R196 has no cause for it). -/
def countQuiet (s : State) (qs : List Placed) : State :=
  (onePerCmd qs).foldl (fun s q =>
    incReg (modHead s q.ref.loop fun st => { st with kills := min (st.kills + 1) 255 }) aKills 1 cap32) s

/-- What kills stop: the given instances that run or are held, and those they take with them; never one in place (R142,
R186; DEDUCED, log entry 23: a consumer in place goes on, and its producer's rows reach it again). -/
def toll (s : State) (rs : List CmdRef) : List CmdRef :=
  (spread s 256 rs).filter fun r => match findInst s r with
    | some q => onCore q.inst && !inPlace q.cmd.spec
    | none => false

/-- Kill running or held instances, and all that they take with them, in one kill event. -/
def killInsts (s : State) (rs : List CmdRef) (cause : Nat) : State :=
  let all := toll s rs
  let s := (onePerCmd (all.filterMap (findInst s))).foldl (fun s q => countKill s q cause) s
  refresh (all.foldl (fun s r => stopInst s r .settling) s)

/-- A kill, with all that it takes with it, reaches nothing in place and, where `spare` holds, nothing protected (R142,
R186). -/
def killOk (s : State) (spare : Bool) (rs : List CmdRef) : Bool :=
  (spread s 256 rs).all fun r => match findInst s r with
    | some p => !onCore p.inst || (!inPlace p.cmd.spec && !(spare && isProtected p))
    | none => true

/-! ## Function disable completions (R191 to R195) -/

def funcPayload (target id : Nat) (f : Func) : List Byte :=
  by1 target ++ zeros 3 ++ le4 id ++ le4 f.finished ++ le4 f.aborted

/-- A disabled target is idle: its pending requests complete, a DRAIN that an ABORT overtook with
ABORTED (R192, R194). -/
def endFunc (s : State) (target id : Nat) (f : Func) : State × Func :=
  let s := match f.drain with
    | some (t, a) => complete s t a (if f.phase = .aborting then stAborted else stOk) 0 (funcPayload target id f)
    | none => s
  let s := f.abort.foldl (fun s x => complete s x.1 x.2 stOk 0 (funcPayload target id f)) s
  (s, { phase := .disabled })

def leaving (f : Func) : Bool := f.phase = .draining || f.phase = .aborting

def coreIdle (s : State) (c : Nat) : Bool :=
  (allInsts s).all fun p =>
    !((onCore p.inst && (instCores p).elem c) || p.inst.wasOn.elem c)

/-- Trace point 9: a core changes state. -/
def setCoreState (s : State) (c st : Nat) : State :=
  let x := getCore s c
  if x.state = st then s else trace (setCore s c { x with state := st }) 9 0xFF [c, x.state, st]

/-- A core that is idle leaves service: it is parked, or its disable completes (R188, R192). R34 gates the scratchpad of a
parked core; the spec says nothing of its bytes, and the model keeps them and the records of R26 (DESIGN CHOICE, log
entry 48). -/
def settleCore (s : State) (c : Nat) : State :=
  let s := if (getCore s c).parking ∧ coreIdle s c then
      setCoreState (setCore s c { getCore s c with
        parking := false, parkedAt := coreReading s c }) c 2
    else s
  let x := getCore s c
  if leaving x.func ∧ coreIdle s c then
    let (s, f) := endFunc s 0 c x.func
    setCoreState (setCore s c { getCore s c with func := f }) c 3
  else s

def settleLoop (s : State) (id : Nat) : State :=
  match getLoop s id with
  | none => s
  | some l =>
    if leaving l.func ∧ l.queue = [] ∧ l.seqs = [] then
      let (s, f) := endFunc s 1 id l.func
      modLoop s id fun l => { l with func := f }
    else s

def unitIdle (s : State) (u : Nat) : Bool :=
  (allInsts s).all fun p =>
    !(((p.cmd.spec.engine = 6 || p.cmd.spec.engine = 7) && onCore p.inst && p.inst.slot = u)
      || p.inst.wasOn.elem (256 + u))

def settleUnit (s : State) (u : Nat) : State :=
  let f := getUnit s u
  if leaving f ∧ unitIdle s u then
    let (s, g) := endFunc s 5 u f
    setUnit s u g
  else s

/-- Complete whatever disable has become idle. -/
def settleFuncs (s : State) : State :=
  let s := (tabKeys s.sched.cores).foldl settleCore s
  let s := (tabKeys s.sched.loops).foldl settleLoop s
  (List.range 4).foldl settleUnit s

/-! ## Failure (R150) -/

/-- Drop the held faults of a loop from its tenant's list. -/
def dropHeld (s : State) (t id : Nat) : State :=
  modTen s t fun x => { x with mem := { x.mem with held := x.mem.held.filter fun h => h.loop ≠ id } }

/-- A held instance, or one whose pages were being backed, may run again once its writes have settled
(R149, R151, R152). -/
def afterHold (i : Inst) : Inst := { i with phase := if i.wasOn = [] then .waiting else .settling }

/-- A step fails: its running instances stop, and once their writes have settled its write sets are
zeroed (ZERO_FILL_DONE), and only then does its completion go (R149, R150). -/
def failStep (s : State) (id status detail cmd : Nat) : State :=
  match getLoop s id with
  | none => s
  | some l =>
    match l.queue with
    | [] => s
    | st :: _ =>
      if st.failing.isSome then s
      else
        let s := if status = stAborted then countQuiet s ((stepInsts id l st).filter fun p => onCore p.inst) else s
        let s := (stepInsts id l st).foldl (fun s p =>
          if isRun p.inst || isFinished p.inst then stopInst s p.ref .settling
          else if isHeld p.inst then modInst s p.ref afterHold
          else s) s
        let s := dropHeld s l.tenant id
        refresh (modHead s id fun x => { x with failing := some (failingNow s status detail cmd) })

/-- The 24-byte payload of a step completion: its time is that of the failure, or now (R171). -/
def stepPayload (s : State) (id : Nat) (st : Step) (cmd : Nat) : List Byte :=
  let f := st.failing.getD (failingNow s 0 0 0)
  le4 id ++ le4 st.seq ++ le4 f.ns ++ le2 cmd ++ by1 (min st.kills 255) ++ zeros 1
  ++ leBytes 6 f.sec ++ zeros 2

/-- The head step leaves its queue, with its completion (R171), its trace record, and the count of a
disable that waits for it; the next step becomes eligible (R173). -/
def popStep (s : State) (id status detail cmd : Nat) (ok : Bool) : State :=
  match getLoop s id with
  | none => s
  | some l =>
    match l.queue with
    | [] => s
    | st :: rest =>
      let s := trace s 1 l.tenant [id, st.seq, status]
      let f := if l.func.phase = .enabled then l.func
        else if ok then { l.func with finished := l.func.finished + 1 }
        else { l.func with aborted := l.func.aborted + 1 }
      let s := setLoop s id { l with queue := rest, func := f }
      let s := match st.tag with
        | some a => complete s l.tenant a status detail (stepPayload s id st cmd)
        | none => s
      promote s id

/-- R150 writes zeros over the write sets of all of a step's commands. -/
def zeroStep (s : State) (t : Nat) (st : Step) : State :=
  st.cmds.foldl (fun s c => (writeSet c.spec).foldl (fun s e0 =>
    let e := e0.norm
    (List.range e.rows).foldl (fun s r =>
      healLines (hbmZero s t (e.va + r * e.pitch) e.rowBytes) t (e.va + r * e.pitch) e.rowBytes) s) s) s

end Sys2Proof.Machine
end

