-- ==== Sys2Proof/Machine/Faults.lean ====
section
/-! DEFINITION. Machine/Faults.lean: page faults (R151 to R153), memory errors (R154 to R156), and how
killed and failed work settles (R149, R150). -/

namespace Sys2Proof.Machine

open Sys2Proof

/-! ## FAULT_EVENT and ECC_EVENT (R153, R156) -/

/-- Engine code of R153. -/
def engineCode (q : Placed) : Nat :=
  match q.cmd.spec.engine with
  | 0 => q.inst.slot
  | 1 => 2 + q.inst.slot
  | 2 => 4
  | 3 => 5
  | 4 => 6
  | 5 => 7
  | _ => 8

def faultPayload (id loop seq cmd engine kind va core outcome : Nat) : List Byte :=
  le4 id ++ le4 loop ++ le4 seq ++ le2 cmd ++ by1 engine ++ by1 kind ++ le8 (va / 4096 * 4096) ++ by1 core
  ++ by1 outcome ++ zeros 6

/-- Count a fault of a tenant, with its trace record (R161, trace point 7). -/
def countFault (s : State) (t loop kind va : Nat) : State :=
  trace (modMem s t fun m => { m with faults := satAdd m.faults 1 65535 }) 7 t [loop, kind, va % 2 ^ 32]

/-- The next fault id of a tenant, and the count moved on. -/
def takeFaultId (s : State) (t : Nat) : State × Nat :=
  let n := (getTen s t).mem.nextFault
  (modMem s t fun m => { m with nextFault := (n + 1) % 2 ^ 32 }, n)

/-- FAULT_EVENT of a fault of an instance: held (outcome 0) or failed with a detail (outcome 1). -/
def faultReport (s : State) (q : Placed) (id kind va outcome detail : Nat) : State :=
  event s q.loop.tenant opFaultEvent (if outcome = 0 then stOk else stPageFault) (if outcome = 0 then 0 else detail)
    (faultPayload id q.ref.loop q.step.seq q.ref.cmd (engineCode q) kind va (eventCore q) outcome)

/-- A new fault of an instance is counted and reported. -/
def faultEvent (s : State) (q : Placed) (kind va outcome detail : Nat) : State × Nat :=
  let t := q.loop.tenant
  let (s, id) := takeFaultId (countFault s t q.ref.loop kind va) t
  (faultReport s q id kind va outcome detail, id)

def eccPayload (loc outcome loop seq cmd core va : Nat) : List Byte :=
  by1 loc ++ by1 outcome ++ zeros 2 ++ le4 loop ++ le4 seq ++ le2 cmd ++ by1 core ++ zeros 1 ++ le8 va

/-- Send ECC_EVENT (R156, trace point 8). -/
def eccEvent (s : State) (q : Placed) (loc outcome detail va : Nat) : State :=
  event (trace s 8 q.loop.tenant [loc, outcome, eventCore q]) q.loop.tenant opEccEvent
    (if outcome = 1 then stEccUncorrectable else stOk) (if outcome = 1 then detail else 0)
    (eccPayload loc outcome q.ref.loop q.step.seq q.ref.cmd (eventCore q) va)

/-! ## Page faults (R151, R152) -/

/-- Kill the run of one instance for a fault, with what it takes with it: the kills count in SCH_KILLS and in byte 14
of the completion, in no kill count, and no KILL_EVENT reports them (R171, R185, R196, R203). -/
def faultKill (s : State) (q : Placed) (ph : Phase) : State :=
  let rest := (toll s [q.ref]).filter fun r => r ≠ q.ref
  let s := stopInst (countQuiet s (q :: rest.filterMap (findInst s))) q.ref ph
  refresh (rest.foldl (fun s r => stopInst s r .settling) s)

/-- Kind 2 and 3: the step fails, and is never rerun. -/
def faultFail (s : State) (q : Placed) (kind va detail : Nat) : State :=
  failStep (faultEvent s q kind va 1 detail).1 q.ref.loop stPageFault detail q.ref.cmd

/-- DESIGN CHOICE (log entry 23): the time limit is the one in force as the command is held; a later write of
MMU_CONFIG changes it for later faults. -/
def faultHold (s : State) (q : Placed) (va : Nat) : State :=
  let t := q.loop.tenant
  if 64 ≤ (getTen s t).mem.held.length then faultFail s q 1 va dtFaultLimit
  else
    let (s, id) := faultEvent s q 1 va 0 0
    let s := faultKill s q (.held id)
    let h : HeldFault := { id := id, loop := q.ref.loop, cmd := q.ref.cmd, inst := q.ref.inst, va := va,
                           due := s.now + msTicks * rField s aMmuConfig 15 0 }
    modMem s t fun m => { m with held := m.held ++ [h] }

/-- First touch of a demand page: every demand page of the declared sets is backed, or the command
is held (kinds 0 and 1). While the scheduler processor restarts the fault waits: the run stands at its access (R542). -/
def demandFault (s : State) (q : Placed) (va : Nat) : State :=
  let t := q.loop.tenant
  let pages := unbacked (getTen s t) q.cmd.spec.extents
  if restarting s 2 then s
  else match backPages s t (some q.ref) pages with
  | none => faultHold s q va
  | some s => faultKill (countFault s t q.ref.loop 0 va) q (.backing (s.now + ceilDiv (pagesBytes pages) backRate))

def isDemandPage (x : Tenant) (va : Nat) : Bool :=
  match mapAt x.mem.maps va with
  | some m => !m.pinned && !(x.mem.backed.any fun b => b.1 = va / m.page * m.page)
  | none => false

/-- PAGE_FAULT: an access of a running instance that its declared sets refuse, that touches a demand
page first, or whose walk met corrupt tables (DESIGN CHOICE, log entry 23: no rule names the detail of that failure: 0). -/
def onPageFault (ref : CmdRef) (va : DWord) (write : Bool) (cause : FaultCause) (s : State) : State :=
  match findInst s ref with
  | none => s
  | some q =>
    if !isRunning s || !isRun q.inst then s
    else
      match cause with
      | .tableCorrupt => faultFail s q 3 va.toNat 0
      | .access =>
        let set := if write then writeSet q.cmd.spec else readSet q.cmd.spec
        if !withinSet set va.toNat 1 then faultFail s q 2 va.toNat dtSetViolation
        else if isDemandPage (getTen s q.loop.tenant) va.toNat then demandFault s q va.toNat
        else s

def execPageFault (ref : CmdRef) (va : DWord) (write : Bool) (cause : FaultCause) (s : State) : Out :=
  .next (onPageFault ref va write cause s)

/-- Pages that were being backed for a command stand backed, whatever became of the command. -/
def raisedFor (s : State) (ref : CmdRef) : State :=
  { s with tenants := tabMap (fun _ x => { x with mem := { x.mem with
      raising := x.mem.raising.filter fun p => p.1 ≠ some ref } }) s.tenants }

/-- DEMAND_BACKING_DONE: the pages are backed and zeroed, and the command may rerun. R129 bounds the time from above
alone; while the scheduler processor restarts the backing waits (R542). -/
def onDemandBackingDone (ref : CmdRef) (s0 : State) : State :=
  if restarting s0 2 then s0
  else
    let s := raisedFor s0 ref
    match findInst s ref with
    | none => s
    | some q =>
      match q.inst.phase with
      | .backing _ => refresh (modInst s ref afterHold)
      | _ => s

def execDemandBackingDone (ref : CmdRef) (s : State) : Out := .next (onDemandBackingDone ref s)

/-- The step of a held command fails: FAULT_EVENT reports the same fault with outcome 1 (R152, R153; DEDUCED, log entry 23:
the fault keeps its id and is not counted again). -/
def failHeld (s : State) (h : HeldFault) (detail : Nat) : State :=
  let s := match findInst s { loop := h.loop, cmd := h.cmd, inst := h.inst } with
    | some q => faultReport s q h.id 1 h.va 1 detail
    | none => s
  failStep s h.loop stPageFault detail h.cmd

/-- FAULT_TIMEOUT: a command held past MMU_CONFIG.fault_timeout_ms fails its step (R152); the time of a restart of the
scheduler processor does not count (R542). -/
def onFaultTimeout (t id : Nat) (s : State) : State :=
  match (getTen s t).mem.held.find? fun h => h.id = id && decide (h.due ≤ s.now) && !restarting s 2 with
  | none => s
  | some h => failHeld s h dtFaultTimeout

def execFaultTimeout (tenant : Fin 16) (faultId : Word) (s : State) : Out :=
  .next (onFaultTimeout tenant.val faultId.toNat s)

def onFaultResume (rq : Req) (faultId action : Word) (s : State) : State :=
  take (.faultResume rq faultId action) s fun op t _ rq =>
    match (getTen s t).mem.held.find? fun h => h.id = faultId.toNat with
    | none => refuse s op rq (stBadParam, if 1 < action.toNat then dtValueRange else dtFaultIdUnknown)
    | some h =>
      if 1 < action.toNat then refuse s op rq (stBadParam, dtValueRange)
      else
        let s := replyOk s op rq []
        if action = 1 then failHeld s h dtFaultRefused
        else
          let s := modMem s t fun m => { m with held := m.held.erase h }
          refresh (modInst s { loop := h.loop, cmd := h.cmd, inst := h.inst } afterHold)

def execFaultResume (rq : Req) (faultId action : Word) (s : State) : Out :=
  .next (onFaultResume rq faultId action (hear rq s))

/-! ## Memory errors of commands (R155) -/

/-- A line of a tenant holds an uncorrectable error from now on. -/
def markBad (s : State) (t line : Nat) : State :=
  modMem s t fun m => { m with
    badLines := if m.badLines.elem line then m.badLines else m.badLines ++ [line],
    tainted := if m.tainted.elem (line / 4096 * 4096) then m.tainted else m.tainted ++ [line / 4096 * 4096] }

/-- A running instance meets an uncorrectable error in an HBM line. -/
def eccHbm (s : State) (q : Placed) (line : Nat) : State :=
  let s := countUncorr s
  if inPlace q.cmd.spec ∨ q.inst.eccLines.elem line then
    failStep (eccEvent s q 0 1 dtEccHbm line) q.ref.loop stEccUncorrectable dtEccHbm q.ref.cmd
  else
    killInsts (modInst (eccEvent s q 0 0 0 line) q.ref fun i => { i with eccLines := line :: i.eccLines })
      [q.ref] kcEcc

def eccPad (s : State) (q : Placed) : State :=
  let s := countUncorr s
  if inPlace q.cmd.spec then
    failStep (eccEvent s q 1 1 dtEccScratchpad 0) q.ref.loop stEccUncorrectable dtEccScratchpad q.ref.cmd
  else killInsts (eccEvent s q 1 0 0 0) [q.ref] kcEcc

/-- The rows of R155 for a command: where the error lies decides. -/
def eccOfCommand (s : State) (site : EccSite) : State :=
  match site with
  | .hbm ref va =>
    match findInst s ref with
    | some q =>
      let line := va.toNat / 64 * 64
      if isRun q.inst && q.cmd.spec.extents.any fun e => e.meets line 64 then
        eccHbm (markBad s q.loop.tenant line) q line
      else s
    | none => s
  | .scratchpad ref _ =>
    match findInst s ref with
    | some q => if isRun q.inst then eccPad s q else s
    | none => s
  | .tableOneCopy ref =>
    match findInst s ref with
    | some q => if isRun q.inst then eccEvent (countUncorr s) q 2 2 0 0 else s
    | none => s
  | .tableBothCopies ref =>
    match findInst s ref with
    | some q =>
      if isRun q.inst then failStep (countUncorr s) ref.loop stEccUncorrectable dtEccTable ref.cmd else s
    | none => s
  | _ => s

/-! ## The patrol scrub (R154) -/

def mapped (s : State) (t va : Nat) : Bool := (mapAt (getTen s t).mem.maps va).isSome

def scrubOne (s : State) (x : Fin 16 × DWord) : State :=
  let line := x.2.toNat / 64 * 64
  if mapped s x.1.val line then markBad (countUncorr s) x.1.val line else s

/-- PATROL_SCRUB: a pass over the whole stack, once every MMU_CONFIG.scrub_hours; DESIGN CHOICE (log entry 23): the period in
force as the last pass ended. -/
def onPatrolScrub (found : ScrubReport) (s : State) : State :=
  if !isRunning s || !s.chip.hbmReady || restarting s 0 || decide (s.now < s.chip.scrubDue) then s
  else
    let due := s.now + 3600 * secTicks * rField s aMmuConfig 23 16
    let s := { s with chip := { s.chip with
      scrubDue := due, eccCorr := satAdd s.chip.eccCorr found.corrected cap32 } }
    found.uncorrectable.foldl scrubOne s

def execPatrolScrub (found : ScrubReport) (s : State) : Out := .next (onPatrolScrub found s)

/-! ## Settling (R149, R150) -/

/-- KILLED_WRITES_SETTLED: every write of the killed run has landed or been dropped, and the rerun may
be dispatched. -/
def onKilledWritesSettled (ref : CmdRef) (s : State) : State :=
  match findInst s ref with
  | none => s
  | some q =>
    if q.inst.wasOn = [] then s
    else
      settleFuncs (refresh (modInst s ref fun i => { i with
        wasOn := [], phase := if isSettling i then .waiting else i.phase }))

def execKilledWritesSettled (ref : CmdRef) (s : State) : Out := .next (onKilledWritesSettled ref s)

end Sys2Proof.Machine
end

