-- ==== Sys2Proof/Machine/Loops.lean ====
section
/-! DEFINITION. Machine/Loops.lean: serving loops (R162 to R165), the step record and its checks (R166
to R170, R623, R141, R306, R307, R353, R359), and sequence loops (R197 to R199). -/

namespace Sys2Proof.Machine

open Sys2Proof

/-! ## The step record -/

/-- n command records off the front of a record, each as its bytes; none where it ends too soon
(R167, check 1 of R169). -/
def cutRecords : Nat → List Byte → Option (List (List Byte) × List Byte)
  | 0, l => some ([], l)
  | n + 1, l =>
    if l.length < 32 then none
    else
      let len := 32 + 24 * leAt l 1 1 + 8 * leAt l 3 1
      if l.length < len then none
      else
        match cutRecords n (l.drop len) with
        | none => none
        | some (rs, rest) => some (l.take len :: rs, rest)

def parseExtent (l : List Byte) : Extent :=
  { va := leAt l 0 8, rowBytes := leAt l 8 4, rows := leAt l 12 4, pitch := leAt l 16 4,
    read := bit (leAt l 20 4) 0, write := bit (leAt l 20 4) 1 }

def parseCmd (h : List Byte) : CmdRec :=
  let ne := leAt h 1 1
  { engine := leAt h 0 1, stripes := leAt h 4 2, program := leAt h 8 8, programBytes := leAt h 16 4,
    weightTag := leAt h 20 4,
    deps := (List.range (leAt h 2 1)).map fun k => leAt h (24 + k) 1,
    extents := (List.range ne).map fun k => parseExtent (h.drop (32 + 24 * k)),
    regions := (List.range (leAt h 3 1)).map fun k =>
      { offset := leAt h (32 + 24 * ne + 8 * k) 4, bytes := leAt h (36 + 24 * ne + 8 * k) 4 } }

/-- Shortest program of each engine (R167). -/
def headMin (engine stripes : Nat) : Nat :=
  match engine with
  | 0 => if 1 < stripes then 168 else 136
  | 1 => 52
  | 2 => 64
  | 3 => if 1 < stripes then 168 else 136
  | 4 => 16
  | 5 => 128
  | _ => 96

def regionOk (r : Region) : Bool :=
  r.offset % 64 = 0 && r.bytes % 64 = 0 && decide (64 ≤ r.bytes) && decide (r.bytes ≤ 0x300000)
  && decide (r.offset + r.bytes ≤ 0x300000)

/-- No two regions of a list overlap (R168). -/
def regionsApart : List Region → Bool
  | [] => true
  | r :: rest => rest.all (fun q => !overlap r.offset r.bytes q.offset q.bytes) && regionsApart rest

/-- A command record meets R167 and R168. -/
def cmdFormatOk (h : List Byte) : Bool :=
  let c := parseCmd h
  let nd := leAt h 2 1
  decide (c.engine ≤ 7) && decide (1 ≤ leAt h 1 1) && decide (leAt h 1 1 ≤ 16) && decide (nd ≤ 8)
  && decide (leAt h 3 1 ≤ if c.engine ≤ 4 then 8 else 0)
  && decide (1 ≤ c.stripes) && decide (c.stripes ≤ 128) && (decide (c.stripes = 1) || decide (c.engine ≤ 3))
  && leAt h 6 2 = 0 && decide (1 ≤ c.programBytes) && decide (c.programBytes ≤ 2 ^ 24)
  && decide (headMin c.engine c.stripes ≤ c.programBytes)
  && ((List.range (8 - nd)).all fun k => leAt h (24 + nd + k) 1 = 0xFF)
  && c.regions.all regionOk && regionsApart c.regions

/-- A step header meets R166. -/
def headFormatOk (l : List Byte) (lc : Bool) : Bool :=
  let n := leAt l 2 2
  let p := leAt l 4 1
  leAt l 0 2 = 1 && decide (1 ≤ n) && decide (n ≤ 256) && leAt l 5 3 = 0 && leAt l 20 4 = 0
  && (p = 0xFF || (lc && decide (p ≤ 7))) && (p ≠ 0xFF || leAt l 8 8 = 0)

/-! ### R141 -/

/-- Rule 1: access word and fields of R140. -/
def extentFault (h : List Byte) (k : Nat) : Option (Nat × Nat) :=
  let e := parseExtent (h.drop (32 + 24 * k))
  if 4 ≤ leAt h (32 + 24 * k + 20) 4 then some (stBadParam, dtReservedNonzero)
  else if vaEnd ≤ e.va ∨ e.rowBytes = 0 ∨ e.rows = 0 ∨ (!e.read && !e.write) ∨ (1 < e.rows ∧ e.pitch < e.rowBytes)
  then some (stBadParam, dtValueRange)
  else none

/-- Every byte of an extent lies in a mapping that satisfies p. -/
def extentIn (s : State) (t : Nat) (p : Mapping → Bool) (e0 : Extent) : Bool :=
  let e := e0.norm
  rangeOk s t p e.va ((e.rows - 1) * e.pitch + e.rowBytes)
  || allBelow (fun r => rangeOk s t p (e.va + r * e.pitch) e.rowBytes) e.rows

def permits (e : Extent) (m : Mapping) : Bool := (!e.read || m.read) && (!e.write || m.write)

/-- Rules 1 to 4 for one command. -/
def extentsFault (s : State) (t : Nat) (h : List Byte) : Option (Nat × Nat) :=
  let c := parseCmd h
  match (List.range c.extents.length).findSome? (extentFault h) with
  | some e => some e
  | none =>
    firstFault
      [ (!(c.extents.all (extentIn s t fun _ => true)), (stBadParam, dtSetUnmapped)),
        (!(c.extents.all fun e => extentIn s t (permits e) e), (stBadParam, dtSetPermission)),
        (inPlace c && !(c.extents.all (extentIn s t fun m => m.pinned)), (stBadParam, dtInplaceUnpinned)) ]

/-- What a step record holds. -/
structure StepRec where
  present    : Option Nat
  presentVa  : Nat
  deadlineNs : Nat
  seed       : Nat
  cmds       : List CmdRec
  deriving DecidableEq, Repr

def stepRecOf (l : List Byte) (rs : List (List Byte)) : StepRec :=
  { present := if leAt l 4 1 = 0xFF then none else some (leAt l 4 1), presentVa := leAt l 8 8,
    deadlineNs := leAt l 16 4, seed := leAt l 24 8, cmds := rs.map parseCmd }

/-- Checks 1 to 5 of R169, in order. -/
def parseStep (s : State) (t : Nat) (lc : Bool) (l : List Byte) : Except (Nat × Nat) StepRec :=
  match cutRecords (leAt l 2 2) (l.drop 32) with
  | none => .error (stBadLength, dtPayloadShort)
  | some (rs, rest) =>
    if rest ≠ [] then .error (stBadLength, dtPayloadLong)
    else if !headFormatOk l lc || !rs.all cmdFormatOk then .error (stBadParam, dtStepFormat)
    else if rs.zipIdx.any fun hk => (parseCmd hk.1).deps.any fun d => decide (hk.2 ≤ d) then
      .error (stBadParam, dtDepInvalid)
    else
      match rs.findSome? (extentsFault s t) with
      | some e => .error e
      | none =>
        if rs.all fun h => let c := parseCmd h; withinSet (readSet c) c.program c.programBytes then
          .ok (stepRecOf l rs)
        else .error (stBadParam, dtStepFormat)

/-! ### Presented buffers (R461, R306, R353) -/

/-- A register of a pipe as R461 takes it: in force, or pending while apply is 1. -/
def pipeVal (s : State) (p a : Nat) : Nat := if (getPipe s p).apply then pendW s a else regW s a

def presentPlane (s : State) (p : Nat) : Nat := bits (pipeVal s p (aPipe p 0)) 5 4
def presentSize (s : State) (p : Nat) : Nat := pipeVal s p (aPlane p (presentPlane s p) 0x04)
def presentBytes (s : State) (p : Nat) : Nat :=
  pipeVal s p (aPlane p (presentPlane s p) 0x0C) * bits (presentSize s p) 31 16

def stepWrites (x : StepRec) : List Extent := (x.cmds.map writeSet).flatten

/-- A range lies inside a write extent of the step, in a display-flagged mapping (R169, R306, R353). -/
def showable (s : State) (t : Nat) (x : StepRec) (va n : Nat) : Bool :=
  decide (n = 0) || ((stepWrites x).any (fun e => withinSet [e] va n) && inOneMapping s t (fun m => m.display) va n)

def fieldShowable (s : State) (t : Nat) (x : StepRec) (p va : Nat) : Bool :=
  motionOffset s p = 0
  || showable s t x (va + motionOffset s p) (fieldBytes (bits (presentSize s p) 15 0) (bits (presentSize s p) 31 16))

def subPitch (s : State) (p : Nat) : Nat := 65536 * rField s (aFg p 0x0C) 31 16

/-- Row 12 of R623: R306 for a bound loop, R353 for a motion field. -/
def subFramesOk (s : State) (t id : Nat) (x : StepRec) : Bool :=
  match boundPipe s id with
  | some p =>
    decide (x.present = some p) && (List.range (subFrames s p)).all fun k =>
      let va := x.presentVa + k * subPitch s p
      showable s t x va (presentBytes s p) && fieldShowable s t x p va
  | none =>
    match x.present with
    | some p => fieldShowable s t x p x.presentVa
    | none => true

/-- Row 13: ranges of bound pipes that no step of this loop may write (R307). -/
def fgReserved (s : State) (p id : Nat) : List (Nat × Nat) :=
  if (getPipe s p).fg.bound then
    [(fgInfo s p, 128), (fgCapBuf s p 0, 2 * capBytes s p), (fgBank s p 0, 2 * bankBytes s p)]
    ++ (if rField s (aFg p 4) 26 16 = id then [] else [(fgInfo s p + 128, 64), (fgBank s p 2, bankBytes s p)])
  else []

def galReserved (s : State) (p : Nat) : List (Nat × Nat) :=
  if bit (regW s (aGal p 0)) 31 then galOutputs s p else []

def reservedFault (s : State) (t id : Nat) (x : StepRec) : Option (Nat × Nat) :=
  if (pipesOf s t).any fun p => extentsMeet (stepWrites x) (fgReserved s p id) then some (stBadParam, dtFgReserved)
  else if (pipesOf s t).any fun p => extentsMeet (stepWrites x) (galReserved s p) then some (stBadParam, dtGalReserved)
  else none

/-- Rows 9 to 13 of R623. -/
def presentFault (s : State) (t id : Nat) (x : StepRec) : Option (Nat × Nat) :=
  match x.present with
  | none => if subFramesOk s t id x then reservedFault s t id x else some (stBadParam, dtStepFormat)
  | some p =>
    if !bit (regW s (aTen t 0x08)) p then some (stNotPermitted, dtPermissionClass)
    else if (getPipe s p).state ≠ 2 ∨ (getPipe s p).func.phase ≠ .enabled then some (stNotEnabled, dtPipeDisabled)
    else if presentBytes s p = 0 ∨ !showable s t x x.presentVa (presentBytes s p) ∨ !subFramesOk s t id x then
      some (stBadParam, dtStepFormat)
    else reservedFault s t id x

/-! ## STEP_SUBMIT (R170, R623) -/

def newCmd (c : CmdRec) : Cmd := { spec := c, insts := List.replicate c.stripes {} }

/-- Rows 1 to 6 of R623, for a loop of the caller. -/
def submitChecks (s : State) (t : Nat) (a : StepSubmitArgs) : Option (Nat × Nat) :=
  if a.reserved0 ≠ 0 ∨ a.reserved1 ≠ 0 then some (stBadParam, dtReservedNonzero)
  else
    match getLoop s a.loop.toNat with
    | none => some (stBadParam, dtLoopUnknown)
    | some l =>
      firstFault
        [ (decide (l.tenant ≠ t), (stBadParam, dtLoopUnknown)),
          (decide (a.length.toNat < 32) || decide (122912 < a.length.toNat), (stBadParam, dtValueRange)),
          (l.sequence.isSome, (stBadParam, dtLoopKind)),
          (decide (l.func.phase ≠ .enabled), (stNotEnabled, dtLoopDisabled)),
          (decide (l.depth ≤ l.queue.length), (stNoResource, dtQueueFull)),
          (!rangeOk s t (fun m => m.read) a.va.toNat a.length.toNat, (stBadParam, dtNotMapped)),
          ((firstBad s t a.va.toNat a.length.toNat).isSome, (stEccUncorrectable, dtEccHbm)) ]

/-- The step that a submission makes. -/
def newStep (l : Loop) (order : Nat) (r : Async) (x : StepRec) : Step :=
  { seq := l.nextSeq, order := order, tag := some r, present := x.present, presentVa := x.presentVa,
    deadlineNs := x.deadlineNs, seed := x.seed, cmds := x.cmds.map newCmd }

/-- A step joins the queue of its loop, in the command sequencer's order (R144, R173). -/
def enqueue (s : State) (id : Nat) (f : Loop → Nat → Step) : State :=
  let n := s.sched.nextOrder
  let s := { s with sched := { s.sched with nextOrder := n + 1 } }
  let s := modLoop s id fun l => { l with queue := l.queue ++ [f l n], nextSeq := (l.nextSeq + 1) % 2 ^ 32 }
  refresh (promote s id)

def lockCompat (s : State) : State := { s with sched := { s.sched with locked := true } }

def onStepSubmit (rq : Req) (a : StepSubmitArgs) (s : State) : State :=
  take (.stepSubmit rq a) s fun op t _ rq =>
    let id := a.loop.toNat
    match submitChecks s t a, getLoop s id with
    | some e, _ => refuse (if e.1 = stEccUncorrectable then countUncorr s else s) op rq e
    | none, none => s
    | none, some l =>
      match parseStep s t l.lc (hbmRead s t a.va.toNat a.length.toNat) with
      | .error e => refuse s op rq e
      | .ok x =>
        match presentFault s t id x with
        | some e => refuse s op rq e
        | none =>
          accept s op rq t stAccepted (le4 l.nextSeq) fun s r =>
            enqueue (lockCompat s) id fun l n => newStep l n r x

def execStepSubmit (rq : Req) (a : StepSubmitArgs) (s : State) : Out := .next (onStepSubmit rq a (hear rq s))

/-! ## LOOP_CREATE and LOOP_DESTROY (R163 to R165) -/

def loopFieldsOk (a : LoopCreateArgs) : Bool :=
  let p := a.pipe.toNat
  let ct := a.chunkTokens.toNat
  decide (a.cls.toNat ≤ 1) && decide (a.kind.toNat ≤ 1) && (a.kind = 0 || a.cls = 1)
  && decide (1 ≤ a.queueDepth.toNat) && decide (a.queueDepth.toNat ≤ 64)
  && (p = 0xFF || (a.cls = 0 && decide (p ≤ 7)))
  && (if a.kind = 0 then
        a.prefillVa = 0 && a.tokenVa = 0 && a.batchTableVa = 0 && ct = 0 && a.maxBatch = 0
      else
        a.batchTableVa.toNat % 4096 = 0
        && (ct = 0 || (decide (64 ≤ ct) && decide (ct ≤ 2048)))
        && decide (1 ≤ a.maxBatch.toNat) && decide (a.maxBatch.toNat ≤ 256))

/-- A template of a sequence loop: none where it fails the checks of R169. -/
def template (s : State) (t va n : Nat) : Option StepRec :=
  if n < 32 ∨ !rangeOk s t (fun m => m.read) va n then none
  else
    match parseStep s t false (hbmRead s t va n) with
    | .ok x => some x
    | .error _ => none

/-- A template record whose bytes hold an uncorrectable error, which is never passed on as data (R155; DESIGN CHOICE, log
entry 22: LOOP_CREATE is refused as STEP_SUBMIT is). -/
def templateBad (s : State) (t : Nat) (a : LoopCreateArgs) : Bool :=
  let bad (va n : Nat) : Bool := rangeOk s t (fun m => m.read) va n && (firstBad s t va n).isSome
  bad a.prefillVa.toNat a.prefillBytes.toNat || bad a.tokenVa.toNat a.tokenBytes.toNat

/-- Rows 5 and 6 of R164: the templates of a sequence loop. -/
def seqParams (s : State) (t : Nat) (a : LoopCreateArgs) : Except (Nat × Nat) (Option SeqParams) :=
  if a.kind = 0 then .ok none
  else if templateBad s t a then .error (stEccUncorrectable, dtEccHbm)
  else
    match template s t a.prefillVa.toNat a.prefillBytes.toNat, template s t a.tokenVa.toNat a.tokenBytes.toNat with
    | some x, some y =>
      if 256 < x.cmds.length + y.cmds.length then .error (stBadParam, dtStepFormat)
      else if !rangeOk s t (fun m => m.pinned && m.write) a.batchTableVa.toNat 8192 then
        .error (stBadParam, dtSetPermission)
      else
        .ok (some
          { prefill := x.cmds, token := y.cmds, seed := y.seed, tokenDeadline := y.deadlineNs,
            tableVa := a.batchTableVa.toNat,
            chunk := if a.chunkTokens = 0 then 512 else a.chunkTokens.toNat, maxBatch := a.maxBatch.toNat })
    | _, _ => .error (stBadParam, dtStepFormat)

def loopsOf (s : State) (t : Nat) : Nat := (s.sched.loops.filter fun p => p.2.tenant = t).length

def isForerunner (s : State) : Bool := bit (regW s aSysCompat) 0

def loopCreateChecks (s : State) (t : Nat) (a : LoopCreateArgs) : List (Bool × (Nat × Nat)) :=
  [ (a.reserved0 ≠ 0 || a.reserved1 ≠ 0 || decide (2 ≤ a.flags.toNat), (stBadParam, dtReservedNonzero)),
    (!loopFieldsOk a, (stBadParam, dtValueRange)),
    (a.pipe ≠ 0xFF && !bit (regW s (aTen t 0x08)) a.pipe.toNat, (stNotPermitted, dtPermissionClass)),
    (a.kind = 1 && isForerunner s, (stNotEnabled, dtForerunnerMode)),
    (decide (rField s (aTen t 0x04) 31 21 ≤ loopsOf s t), (stNoResource, dtLoopLimit)) ]

/-- The first free number at or after a start, counted round a range of n numbers from lo. -/
def firstFree (used : Nat → Bool) (lo n start : Nat) : Nat → Option Nat
  | 0 => none
  | k + 1 =>
    let x := lo + start % n
    if used x then firstFree used lo n (start + 1) k else some x

/-- The manual does not say which free id a loop takes: a free value picks it (log entry 7). -/
def newLoopId (s : State) : Option Nat :=
  firstFree (fun i => (getLoop s i).isSome) 1 1024 (Config.freeNat s.fresh) 1024

def onLoopCreate (rq : Req) (a : LoopCreateArgs) (s : State) : State :=
  take (.loopCreate rq a) s fun op t _ rq =>
    checked s op rq (loopCreateChecks s t a) (
      match seqParams s t a, newLoopId s with
      | .error e, _ => refuse (if e.1 = stEccUncorrectable then countUncorr s else s) op rq e
      | .ok _, none => refuse s op rq (stNoResource, dtLoopLimit)
      | .ok q, some id =>
        let l : Loop :=
          { tenant := t, lc := a.cls = 0, depth := a.queueDepth.toNat, notify := bit a.flags.toNat 0,
            pipe := if a.pipe = 0xFF then none else some a.pipe.toNat, sequence := q }
        replyOk (setLoop (draw s) id l) op rq (le4 id))

def execLoopCreate (rq : Req) (a : LoopCreateArgs) (s : State) : Out := .next (onLoopCreate rq a (hear rq s))

/-- A pipe's FG_LOOPS names the loop while FG_CONTROL.enable is 1. -/
def namedByFg (s : State) (t id : Nat) : Bool :=
  (pipesOf s t).any fun p => bit (regW s (aFg p 0)) 31
    && (rField s (aFg p 4) 10 0 == id || rField s (aFg p 4) 26 16 == id)

def onLoopDestroy (rq : Req) (loop : Word) (s : State) : State :=
  take (.loopDestroy rq loop) s fun op t _ rq =>
    let id := loop.toNat
    match getLoop s id with
    | none => refuse s op rq (stBadParam, dtLoopUnknown)
    | some l =>
      checked s op rq
        [ (decide (l.tenant ≠ t), (stBadParam, dtLoopUnknown)),
          (decide (l.queue ≠ []) || decide (l.seqs ≠ []), (stBusy, dtLoopActive)),
          (namedByFg s t id, (stBusy, dtFgEnabled)) ]
        (replyOk { s with sched := { s.sched with loops := tabErase s.sched.loops id } } op rq [])

def execLoopDestroy (rq : Req) (loop : Word) (s : State) : Out := .next (onLoopDestroy rq loop (hear rq s))

/-! ## Sequence loops (R197 to R199) -/

/-- The sequences of the next batch: those that decode, in arrival order, and the oldest that
prefills, with its chunk. -/
def nextBatch (q : SeqParams) (l : Loop) : List Seq × Option (Seq × Nat) :=
  let dec := (l.seqs.filter fun x => x.decoding).take q.maxBatch
  let started := l.seqs.filter fun x => x.started && !x.decoding
  let cand := match started with
    | x :: _ => some x
    | [] => if dec.length < q.maxBatch then l.seqs.find? fun x => !x.started else none
  (dec, cand.map fun x => (x, min q.chunk (x.prompt - x.position)))

/-- A template's commands, dependencies shifted by a count, each with the batch table in its read set
(R197, R198). -/
def shiftCmds (q : SeqParams) (entries n : Nat) (cs : List CmdRec) : List CmdRec :=
  cs.map fun c => { c with
    deps := c.deps.map fun d => d + n,
    extents := c.extents ++ [{ va := q.tableVa, rowBytes := 16 + 16 * entries, rows := 1, pitch := 0,
                               read := true, write := false }] }

/-- Form the next step of a sequence loop, when it runs none and has work (R197), and the scheduler processor, which forms
it, does not restart (R542). -/
def formStep (s : State) (id : Nat) : State :=
  match getLoop s id with
  | none => s
  | some l =>
    match l.sequence, l.queue with
    | some q, [] =>
      let (dec, pre) := nextBatch q l
      if (dec = [] ∧ pre.isNone) ∨ l.func.phase = .aborting ∨ restarting s 2 then s
      else
        let entries := dec.length + pre.toList.length
        let cmds := (match pre with | some _ => shiftCmds q entries 0 q.prefill | none => [])
          ++ shiftCmds q entries (if pre.isSome then q.prefill.length else 0) q.token
        let batch := (pre.toList.map fun x => (x.1.order, x.1.position, x.2))
          ++ dec.map fun x => (x.order, x.position, 1)
        let s := modLoop s id fun l => { l with
          seqs := l.seqs.map fun x => if (pre.any fun y => y.1.order = x.order) then { x with started := true } else x }
        enqueue s id fun l n =>
          { seq := l.nextSeq, order := n, tag := none, present := none, presentVa := 0,
            deadlineNs := q.tokenDeadline, seed := (q.seed + l.nextSeq) % 2 ^ 64, cmds := cmds.map newCmd,
            seqs := batch, prefill := pre.isSome }
    | _, _ => s

/-- Bytes of one prompt token (PRESUMED, log entry 31: the manual gives no size). -/
def tokenBytes : Nat := 4

def onSeqSubmit (rq : Req) (a : SeqSubmitArgs) (s : State) : State :=
  take (.seqSubmit rq a) s fun op t _ rq =>
    let id := a.loop.toNat
    match getLoop s id with
    | none => refuse s op rq (stBadParam, dtLoopUnknown)
    | some l =>
      let n := a.promptLength.toNat
      let m := a.maxNewTokens.toNat
      checked s op rq
        [ (decide (l.tenant ≠ t), (stBadParam, dtLoopUnknown)),
          (n = 0 || decide (65536 < n) || m = 0 || decide (65536 < m), (stBadParam, dtValueRange)),
          (l.sequence.isNone, (stBadParam, dtLoopKind)),
          (decide (l.func.phase ≠ .enabled), (stNotEnabled, dtLoopDisabled)),
          (decide (4096 ≤ l.seqs.length), (stNoResource, dtQueueFull)),
          (!rangeOk s t (fun m => m.read) a.promptVa.toNat (n * tokenBytes), (stBadParam, dtNotMapped)) ]
        (accept s op rq t stAccepted [] fun s r =>
          let s := modLoop s id fun l => { l with
            nextOrder := l.nextOrder + 1,
            seqs := l.seqs ++ [{ order := l.nextOrder, tag := a.seqTag.toNat, request := r,
                                 promptVa := a.promptVa.toNat, prompt := n, maxNew := m }] }
          formStep s id)

def execSeqSubmit (rq : Req) (a : SeqSubmitArgs) (s : State) : Out := .next (onSeqSubmit rq a (hear rq s))

/-- The batch table of a step, at the batch table's address (R198): entries of 16 bytes, the last 4 of which the rule leaves
unnamed and the model writes 0 (DESIGN CHOICE, log entry 31). -/
def batchTable (l : Loop) (st : Step) : List Byte :=
  le4 st.seq ++ le2 st.seqs.length ++ by1 (boolNat st.prefill) ++ zeros 9
  ++ (st.seqs.map fun e =>
      le4 (match l.seqs.find? fun x => x.order = e.1 with | some x => x.tag | none => 0)
      ++ le4 e.2.1 ++ le2 e.2.2 ++ zeros 2 ++ zeros 4).flatten

def endSeqPayload (x : Seq) : List Byte := le4 x.tag ++ le4 x.made

/-- A sequence ends: it leaves the loop, with its completion (R199). -/
def endSeq (s : State) (id : Nat) (x : Seq) (status detail : Nat) : State :=
  match getLoop s id with
  | none => s
  | some l =>
    let s := setLoop s id { l with seqs := l.seqs.filter fun y => y.order ≠ x.order }
    complete s l.tenant x.request status detail (endSeqPayload x)

/-- A step of a sequence loop commits: each of its sequences moves on, and those whose end flag is
set, or that reach their limit, end (R197, R199). -/
def commitSeqs (s : State) (id : Nat) (l : Loop) (st : Step) : State :=
  match l.sequence with
  | none => s
  | some q =>
    let s := st.seqs.zipIdx.foldl (fun s ek =>
      let e := ek.1
      modLoop s id fun l => { l with seqs := l.seqs.map fun x =>
        if x.order ≠ e.1 then x
        else if x.decoding then { x with position := x.position + 1, made := x.made + 1 }
        else { x with position := x.position + e.2.2, decoding := decide (x.prompt ≤ x.position + e.2.2) } }) s
    st.seqs.zipIdx.foldl (fun s ek =>
      let flags := hbmLe s l.tenant (q.tableVa + 16 + 16 * ek.2 + 10) 2
      match getLoop s id with
      | none => s
      | some l =>
        match l.seqs.find? fun x => x.order = ek.1.1 with
        | some x => if bit flags 0 ∨ x.maxNew ≤ x.made then endSeq s id x stOk 0 else s
        | none => s) s

/-- A step of a sequence loop fails: every sequence in it ends with the step's status (R199); a loop
that is being aborted ends them all (R192). -/
def failSeqs (s : State) (id : Nat) (l : Loop) (st : Step) (status detail : Nat) : State :=
  (l.seqs.filter fun x => l.func.phase = .aborting || st.seqs.any fun e => e.1 = x.order).foldl
    (fun s x => endSeq s id x status detail) s

end Sys2Proof.Machine
end

