-- ==== Sys2Proof/Machine/Philox.lean ====
section
/-! DEFINITION. Machine/Philox.lean: the generator Philox-4x32-10 and its counters (R524, R525). -/

namespace Sys2Proof.Machine

def philoxRounds : Nat → Nat → Nat → (Nat × Nat × Nat × Nat) → Nat × Nat × Nat × Nat
  | 0, _, _, x => x
  | n + 1, k0, k1, (x0, x1, x2, x3) =>
    let p0 := 0xD2511F53 * x0
    let p1 := 0xCD9E8D57 * x2
    philoxRounds n ((k0 + 0x9E3779B9) % 2 ^ 32) ((k1 + 0xBB67AE85) % 2 ^ 32)
      (p1 / 2 ^ 32 ^^^ x1 ^^^ k0, p1 % 2 ^ 32, p0 / 2 ^ 32 ^^^ x3 ^^^ k1, p0 % 2 ^ 32)

/-- The four words under a 64-bit seed, for a sample index, a stream id and an element index. -/
def philox (seed sample stream element : Nat) : Nat × Nat × Nat × Nat :=
  philoxRounds 10 (seed % 2 ^ 32) (seed / 2 ^ 32 % 2 ^ 32)
    (element % 2 ^ 32, stream % 2 ^ 32, sample % 2 ^ 32, sample / 2 ^ 32 % 2 ^ 32)

end Sys2Proof.Machine
end

