-- ==== Sys2Proof/Machine/FrameGen.lean ====
section
/-! DEFINITION. Machine/FrameGen.lean: binding a loop to a pipe (R308 to R310), the frame and adaptation
info blocks (R311, R324), eligibility of bound steps (R312, R317), reference captures (R318 to R323),
the verdict and the exchange of adapter banks (R325 to R327). -/

namespace Sys2Proof.Machine

open Sys2Proof

def getFg (s : State) (p : Nat) : FrameGen := (getPipe s p).fg
def modFg (s : State) (p : Nat) (f : FrameGen → FrameGen) : State := modPipe s p fun x => { x with fg := f x.fg }

def lcLoop (s : State) (p : Nat) : Nat := rField s (aFg p 4) 10 0
def adaptLoop (s : State) (p : Nat) : Nat := rField s (aFg p 4) 26 16
def fgSeed (s : State) (p : Nat) : Nat := regW s (aFg p 0x38) + regW s (aFg p 0x3C) * 2 ^ 32
def fgMissed (p : Nat) : Nat := aFg p 0x50
def fgPublished (p : Nat) : Nat := aFg p 0x54
def fgRolled (p : Nat) : Nat := aFg p 0x58
def fgPostponed (p : Nat) : Nat := aFg p 0x5C
def fgCapFailed (p : Nat) : Nat := aFg p 0x60

/-! ## Writes of the registers (R308, R309) -/

def fgPinned (s : State) (t va n align : Nat) : Bool :=
  va % align = 0 && liesIn s t (fun m => m.pinned && m.read) va n

/-- A loop of the caller that a rule of R309 accepts. -/
def loopIs (s : State) (t id : Nat) (ok : Loop → Bool) : Bool :=
  match getLoop s id with
  | some l => l.tenant = t && ok l
  | none => false

/-- The checks of R309, on the state that the write would leave. -/
def fgEnableFault (s : State) (t p : Nat) : Option (Nat × Nat) :=
  let adapt := bit (regW s (aFg p 0)) 30
  let lc := lcLoop s p
  let bank := rField s (aFg p 0x40) 15 0
  firstFault
    [ (!loopIs s t lc (fun l => l.lc && l.pipe = some p)
        || (List.range 8).any (fun q => q ≠ p && (getFg s q).bound && lcLoop s q = lc), (stBadParam, dtFgLoop)),
      (adapt && !loopIs s t (adaptLoop s p) (fun l => !l.lc && l.sequence.isNone), (stBadParam, dtFgLoop)),
      ((decide (1 < subFrames s p) && rField s (aFg p 0x0C) 31 16 = 0) || bank = 0 || decide (4096 < bank),
        (stBadParam, dtValueRange)),
      (!fgPinned s t (fgInfo s p) 4096 0x1000
        || (adapt && !(fgPinned s t (regPair s (aFg p 0x20)) 288 0x1000
            && fgPinned s t (fgCapBuf s p 0) (2 * capBytes s p) 0x10000
            && fgPinned s t (fgBank s p 0) (3 * bankBytes s p) 0x10000)), (stBadParam, dtFgRegion)) ]

/-- While enabled, a write may change enable and FG_TIMING alone. -/
def fgLocked (s : State) (p off old new : Nat) : Option (Nat × Nat) :=
  if bit (regW s (aFg p 0)) 31 ∧ off ≠ 8 ∧ (if off = 0 then old % 2 ^ 31 ≠ new % 2 ^ 31 else old ≠ new) then
    some (stBusy, dtFgEnabled)
  else none

/-- What forbids enabling, on the state s' that the whole request would leave. -/
def fgRelation (s' : State) (t p off old new : Nat) : Option (Nat × Nat) :=
  if off = 0 ∧ bit new 31 ∧ !bit old 31 then fgEnableFault s' t p else none

/-- Steps that wait at the head of a bound loop or of its adaptation loop are looked at again. -/
def rePromote (s : State) (p : Nat) : State := refresh (promote (promote s (lcLoop s p)) (adaptLoop s p))

/-- Enabling: counts from 0, bank 0 active; claims of steps already eligible stay (R309, R310). -/
def fgEnable (s : State) (p : Nat) : State :=
  let s := [0x50, 0x54, 0x58, 0x5C, 0x60].foldl (fun s o => setRegW s (aFg p o) 0) s
  modFg s p fun g => { bound := true, claims := g.claims }

/-- A step that is queued and not yet eligible. -/
def notEligible (s : State) (order : Nat) : Bool :=
  s.sched.loops.any fun l => l.2.queue.any fun st => st.order = order && st.eligible.isNone

/-- Disabling: the loop is unbound for steps not yet eligible, whose claims go, the capture buffers are free, a pending
publish is discarded and the active bank stays (R310). -/
def fgDisable (s : State) (p : Nat) : State :=
  rePromote (modFg s p fun g => { g with
    bound := false, cap0 := .free, cap1 := .free, capOrder := [], publish := 0, pubWait := [],
    claims := g.claims.filter fun c => !notEligible s c.step }) p

/-- What a write of FG_CONTROL does. -/
def fgEffect (s : State) (p old new : Nat) : State :=
  if bit new 31 then (if bit old 31 then s else fgEnable s p)
  else if bit old 31 then fgDisable s p else s

/-! ## Info blocks (R311, R324) -/

def ns32 (f : Frac) : List Byte := le4 ((frFloor f).toNat % 2 ^ 32)

/-- The frame info block of a step of a bound loop. -/
def frameInfo (st : Step) : List Byte :=
  le4 (st.frame0 % 2 ^ 32) ++ le4 (st.render % 2 ^ 32) ++ by1 st.rate ++ by1 (boolNat st.ref.isSome)
  ++ by1 (boolNat st.hist) ++ by1 st.bank ++ ns32 (st.deadline.map (·.2) |>.getD {}) ++ ns32 st.f0
  ++ ns32 st.eligibleAt ++ le4 ((st.ref.map (·.1)).getD 0 % 2 ^ 32) ++ zeros 36

def capOf (g : FrameGen) (b : Nat) : CapState := if b = 0 then g.cap0 else g.cap1
def setCap (g : FrameGen) (b : Nat) (c : CapState) : FrameGen := if b = 0 then { g with cap0 := c } else { g with cap1 := c }

def cropSize (s : State) (p : Nat) : Nat := 64 * 2 ^ rField s (aFg p 0x44) 17 16
def trainCrops (s : State) (p : Nat) : Nat := rField s (aFg p 0x44) 13 8
def heldCrops (s : State) (p : Nat) : Nat := rField s (aFg p 0x44) 5 0

/-- The adaptation info block: the oldest completed capture still held. -/
def adaptInfo (s : State) (p : Nat) : List Byte :=
  let g := getFg s p
  let b := g.capOrder.headD 0
  let ref := match capOf g b with | .held r => r | _ => 0
  le4 (ref % 2 ^ 32) ++ by1 b ++ by1 g.bank ++ zeros 2 ++ le8 (fgCapBuf s p b) ++ le8 (fgBank s p g.bank)
  ++ le8 (fgBank s p 2) ++ le8 (fgSeed s p) ++ le2 (cropSize s p) ++ by1 (trainCrops s p) ++ by1 (heldCrops s p)
  ++ zeros 20

/-- Before the first command of a step starts, its info block is written. -/
def writeInfo (s : State) (id : Nat) (l : Loop) (st : Step) : State :=
  let s := match st.fg with
    | some p => storeBytes s l.tenant (fgInfo s p) (frameInfo st)
    | none => s
  let s := (adaptPipes s id).foldl (fun s p => storeBytes s l.tenant (fgInfo s p + 64) (adaptInfo s p)) s
  match l.sequence with
  | some q => storeBytes s l.tenant q.tableVa (batchTable l st)
  | none => s

/-! ## Eligibility (R312, R317) -/

/-- Whether the step that becomes eligible is a reference step. -/
def takeReference (s : State) (p order frame0 r : Nat) : State × Option (Nat × Nat) :=
  let g := getFg s p
  if !bit (regW s (aFg p 0)) 30 || decide (frame0 + r - 1 < g.nextRef) then (s, none)
  else
    let buf := if g.cap0 = .free then some 0 else if g.cap1 = .free then some 1 else none
    match buf with
    | none => (incReg s (fgPostponed p) 1 cap32, none)
    | some b =>
      (modFg s p fun g => { setCap g b (.busy g.refCount order) with
        refCount := (g.refCount + 1) % 2 ^ 32, nextRef := frame0 + rField s (aFg p 0) 9 0 }, some (g.refCount, b))

/-- A step of the bound loop becomes eligible, with its claim of F0; on a pipe that shows no buffers it claims none and takes
the deadline of R174 (R467), and its frame start counts as that deadline (DESIGN CHOICE, log entry 33). From here on history
is valid, until a step fails (R311). -/
def fgEligible (s : State) (p id : Nat) (l : Loop) (st : Step) (c : Option Claim) : State :=
  let g := getFg s p
  let r := subFrames s p
  let (s, ref) := takeReference s p st.order g.nextIndex r
  let s := modFg s p fun x => { x with nextIndex := g.nextIndex + r, render := g.render + 1, histOk := true }
  let tb := rField s (aPipe p 0) 9 8
  let d := match c with
    | some c => some (tb, frSub c.fmax (usNs c.lead))
    | none => stepDeadline s l st
  let s := modHead s id fun x => { x with
    ref := ref, frame0 := g.nextIndex, subs := if c.isSome then r else 0, rate := r, fg := some p, render := g.render,
    bank := g.bank, hist := g.histOk, f0 := match c with | some c => c.fmax | none => (d.map (·.2)).getD {},
    eligibleAt := pipeNow s p }
  refresh (makeEligible s id l st d)

/-- FG_STEP_ELIGIBLE: the ready step of the bound loop becomes eligible at the commit deadline of F0
minus budget_us. On a pipe that shows no buffers there is no frame start to claim, and the step is
eligible at once. -/
def onFgStepEligible (p : Nat) (s : State) : State :=
  let id := lcLoop s p
  match getLoop s id with
  | none => s
  | some l =>
    match l.queue with
    | [] => s
    | st :: _ =>
      if !isRunning s || !(getFg s p).bound || st.ready.isNone || st.eligible.isSome || st.failing.isSome then s
      else
        match (getFg s p).claims.find? fun c => c.step = st.order ∧ c.sub = 0 with
        | some c =>
          if frLe (frSub (frSub c.fmax (usNs c.lead)) (budgetNs s p)) (pipeNow s p) then fgEligible s p id l st (some c)
          else s
        | none =>
          if (getPipe s p).state = 2 then claimFrames s p st.order (pipeNow s p)
          else fgEligible s p id l st none

def execFgStepEligible (pipe : Fin 8) (s : State) : Out := .next (onFgStepEligible pipe.val s)

/-! ## Captures (R318 to R323) -/

/-- The capture table keeps the rules of R318, for a crop size. -/
def tableOk (table : List Byte) (c : Nat) : Bool :=
  let n := leAt table 2 1
  let within (v : Nat) : Bool := decide (c ≤ v) && decide (v ≤ 16384)
  leAt table 0 2 = 1 && decide (1 ≤ n) && decide (n ≤ 8) && leAt table 3 1 = 0 && within (leAt table 4 2)
  && within (leAt table 6 2) && decide (leAt table 8 4 ≤ 16777216) && leAt table 12 4 = 0 && leAt table 24 8 = 0
  && (List.range n).all fun e =>
    let o := 32 + 32 * e
    let el := leAt table (o + 18) 1
    decide (1 ≤ leAt table (o + 16) 2) && decide (leAt table (o + 16) 2 ≤ 64) && (el = 1 || el = 2 || el = 4)
    && decide (leAt table (o + 19) 1 ≤ 3) && decide (leAt table (o + 20) 2 ≤ 64) && leAt table (o + 22) 10 = 0

/-- One entry of a capture table. -/
structure CapEntry where
  va       : Nat
  row      : Nat
  plane    : Nat
  channels : Nat
  elem     : Nat
  s        : Nat
  m        : Nat
  deriving DecidableEq, Repr

def capEntries (table : List Byte) : List CapEntry :=
  (List.range (leAt table 2 1)).map fun e =>
    let o := 32 + 32 * e
    { va := leAt table o 8, row := leAt table (o + 8) 4, plane := leAt table (o + 12) 4,
      channels := leAt table (o + 16) 2, elem := leAt table (o + 18) 1, s := leAt table (o + 19) 1,
      m := leAt table (o + 20) 2 }

def CapEntry.side (e : CapEntry) (c : Nat) : Nat := c / 2 ^ e.s + 2 * e.m
def CapEntry.rowBytes (e : CapEntry) (c : Nat) : Nat := roundUp (e.side c * e.elem) 64
def CapEntry.cropBytes (e : CapEntry) (c : Nat) : Nat := e.channels * e.side c * e.rowBytes c

def bytesPerCrop (table : List Byte) (c : Nat) : Nat := ((capEntries table).map fun e => e.cropBytes c).sum
def dataOffset (table : List Byte) : Nat := 4096 + roundUp (leAt table 8 4) 4096

/-- The origin of a crop (R319). -/
def cropOrigin (seed ref set j w h c : Nat) : Nat × Nat :=
  let r := philox seed ref set j
  (8 * (r.1 * ((w - c) / 8 + 1) / 2 ^ 32), 8 * (r.2.1 * ((h - c) / 8 + 1) / 2 ^ 32))

/-- Training crops, then held-out crops. -/
def cropOrigins (s : State) (p ref : Nat) (table : List Byte) : List (Nat × Nat) :=
  let o (set j : Nat) := cropOrigin (fgSeed s p) ref set j (leAt table 4 2) (leAt table 6 2) (cropSize s p)
  (List.range (trainCrops s p)).map (o 1) ++ (List.range (heldCrops s p)).map (o 2)

def clampPos (n : Nat) (i : Int) : Nat := (max 0 (min i ((n : Int) - 1))).toNat

/-- First and last source position of a crop that begins at v, on an axis of n positions (R320). -/
def cropSpan (n v : Nat) (c : Nat) (e : CapEntry) : Nat × Nat :=
  let a : Int := ((v / 2 ^ e.s : Nat) : Int) - e.m
  (clampPos n a, clampPos n (a + (e.side c : Nat) - 1))

/-- What a capture reads: the display list, and of each source image the windows of its crops (R320, R322). -/
def captureReads (table : List Byte) (c : Nat) (xs : List (Nat × Nat)) : List Extent :=
  let dl : List Extent :=
    if leAt table 8 4 = 0 then [] else
      [{ va := leAt table 16 8, rowBytes := leAt table 8 4, rows := 1, pitch := 0, read := true, write := false }]
  dl ++ ((capEntries table).map fun e => (xs.map fun xy =>
    let cx := cropSpan (leAt table 4 2 / 2 ^ e.s) xy.1 c e
    let cy := cropSpan (leAt table 6 2 / 2 ^ e.s) xy.2 c e
    (List.range e.channels).map fun ch =>
      ({ va := e.va + ch * e.plane + cy.1 * e.row + cx.1 * e.elem, rowBytes := (cx.2 + 1 - cx.1) * e.elem,
         rows := cy.2 + 1 - cy.1, pitch := e.row, read := true, write := false } : Extent)).flatten).flatten

/-- Nothing of R323 stands against a capture that reads given bytes. -/
def captureOk (s : State) (t p : Nat) (table : List Byte) (reads : List Extent) : Bool :=
  let c := cropSize s p
  tableOk table c
  && rangeOk s t (fun m => m.read) (regPair s (aFg p 0x20)) (32 + 32 * leAt table 2 1)
  && reads.all (extentIn s t fun m => m.read)
  && decide (dataOffset table + (trainCrops s p + heldCrops s p) * bytesPerCrop table c ≤ capBytes s p)

/-- One crop of one entry: channels ascending, rows top to bottom, each row with its padding (R320). -/
def cropData (s : State) (t : Nat) (table : List Byte) (c : Nat) (e : CapEntry) (xy : Nat × Nat) : List Byte :=
  let w := leAt table 4 2 / 2 ^ e.s
  let h := leAt table 6 2 / 2 ^ e.s
  let n := e.side c
  ((List.range e.channels).map fun ch => ((List.range n).map fun (r : Nat) =>
    let y := clampPos h (((xy.2 / 2 ^ e.s : Nat) : Int) - (e.m : Int) + (r : Int))
    fit (e.rowBytes c) ((List.range n).map fun (k : Nat) =>
      let x := clampPos w (((xy.1 / 2 ^ e.s : Nat) : Int) - (e.m : Int) + (k : Int))
      hbmRead s t (e.va + ch * e.plane + y * e.row + x * e.elem) e.elem).flatten).flatten).flatten

/-- A capture buffer's contents, as runs of bytes at offsets (R321). -/
def captureRuns (s : State) (t p ref lastFrame render : Nat) (table : List Byte) : List (Nat × List Byte) :=
  let c := cropSize s p
  let xs := cropOrigins s p ref table
  let bpc := bytesPerCrop table c
  let head := le4 (ref % 2 ^ 32) ++ le4 (lastFrame % 2 ^ 32) ++ le4 (render % 2 ^ 32) ++ le2 (leAt table 4 2)
    ++ le2 (leAt table 6 2) ++ le2 c ++ by1 (trainCrops s p) ++ by1 (heldCrops s p) ++ le4 (leAt table 8 4)
    ++ le4 (dataOffset table) ++ le4 bpc ++ le8 (fgSeed s p) ++ zeros 24
  (0, head ++ (xs.map fun xy => le2 xy.1 ++ le2 xy.2).flatten)
    :: (4096, hbmRead s t (leAt table 16 8) (leAt table 8 4))
    :: xs.zipIdx.map fun xk =>
      (dataOffset table + xk.2 * bpc, ((capEntries table).map fun e => cropData s t table c e xk.1).flatten)

def capFail (s : State) (p b : Nat) : State := incReg (modFg s p fun g => setCap g b .free) (fgCapFailed p) 1 cap32

/-- A capture, or a copy of the frame-generation block, that meets an uncorrectable error never passes the bytes on (R155); no
rule says what becomes of it (DESIGN CHOICE, log entry 33). -/
def captureBad (s : State) (t p : Nat) (table : List Byte) (reads : List Extent) : Bool :=
  (badLineIn s t (regPair s (aFg p 0x20)) (32 + 32 * leAt table 2 1)).isSome || badInExtents s t reads

/-- The commit of a reference step: its capture starts, with its table as read (R318, R322). -/
def startCapture (s : State) (t p : Nat) (st : Step) : State :=
  match st.ref with
  | none => s
  | some (ref, b) =>
    if capOf (getFg s p) b = .busy ref st.order then
      let table := hbmRead s t (regPair s (aFg p 0x20)) 288
      let reads := captureReads table (cropSize s p) (cropOrigins s p ref table)
      if captureBad s t p table reads then capFail (countUncorr s) p b
      else if captureOk s t p table reads then
        modFg s p fun g => setCap g b (.copying ref (st.frame0 + st.rate - 1) st.render table reads)
      else capFail s p b
    else s

/-- The capture under way that began first. -/
def openCapture (g : FrameGen) : Option (Nat × Nat × Nat × Nat × List Byte × List Extent) :=
  let of (b : Nat) (c : CapState) : List (Nat × Nat × Nat × Nat × List Byte × List Extent) :=
    match c with
    | .copying ref l r t x => [(b, ref, l, r, t, x)]
    | _ => []
  (of 0 g.cap0 ++ of 1 g.cap1).foldl (fun best x =>
    match best with
    | none => some x
    | some y => if x.2.1 < y.2.1 then some x else best) none

/-- CAPTURE_COMPLETE: the capture stands in its buffer, or is abandoned. The scheduler processor captures and publishes
(R530), and a restart of it holds both up (R542). -/
def onCaptureComplete (p : Nat) (s : State) : State :=
  match pipeHolder s p, openCapture (getFg s p) with
  | some t, some (b, ref, last, render, table, reads) =>
    if !isRunning s || restarting s 2 then s
    else if badInExtents s t reads then refresh (capFail (countUncorr s) p b)
    else if captureOk s t p table reads then
      let s := (captureRuns s t p ref last render table).foldl
        (fun s r => storeBytes s t (fgCapBuf s p b + r.1) r.2) s
      rePromote (modFg s p fun g => { setCap g b (.held ref) with capOrder := g.capOrder ++ [b] }) p
    else refresh (capFail s p b)
  | _, _ => s

def execCaptureComplete (pipe : Fin 8) (s : State) : Out := .next (onCaptureComplete pipe.val s)

/-! ## Verdicts (R325, R326) -/

/-- The gate: evaluated exactly. -/
def gatePasses (s : State) (p : Nat) (v : List Byte) : Bool :=
  leAt v 16 2 = heldCrops s p
  && (match f32 (leAt v 8 4), f32 (leAt v 12 4) with
      | .fin na a da, .fin nc c dc =>
        (!na || a = 0) && (!nc || c = 0)
        && decide (1024 * c * da ≤ a * dc * (1024 - rField s (aFg p 0x44) 31 24))
      | _, _ => false)

/-- A valid verdict that names a held capture: its buffer. -/
def verdictBuffer (g : FrameGen) (v : List Byte) : Option Nat :=
  let b := leAt v 3 1
  let named : Bool := match capOf g b with | .held ref => ref % 2 ^ 32 == leAt v 4 4 | _ => false
  if leAt v 0 2 = 1 ∧ leAt v 18 46 = 0 ∧ leAt v 2 1 ≤ 1 ∧ b ≤ 1 ∧ named then some b else none

/-- The commit of an adaptation step: its verdict is read and zeroed; one that an uncorrectable error touches is ignored. -/
def readVerdict (s : State) (t p : Nat) : State :=
  let va := fgInfo s p + 128
  let bad := (badLineIn s t va 64).isSome
  let v := if bad then [] else hbmRead s t va 64
  let s := storeBytes (if bad then countUncorr s else s) t va (zeros 64)
  match verdictBuffer (getFg s p) v with
  | none => s
  | some b =>
    let s := modFg s p fun g => { setCap g b .free with capOrder := g.capOrder.filter fun x => x ≠ b }
    if leAt v 2 1 = 0 then s
    else if gatePasses s p v then modFg s p fun g => { g with publish := 1 }
    else incReg s (fgRolled p) 1 cap32

/-! ## Publishing (R327) -/

/-- PUBLISH_COPY_START: every step eligible before the last exchange has committed or failed. -/
def onPublishCopyStart (p : Nat) (s : State) : State :=
  let g := getFg s p
  if isRunning s && !restarting s 2 && g.publish = 1 && g.pubWait = [] then modFg s p fun x => { x with publish := 2 } else s

/-- PUBLISH_COPY_DONE: the candidate stands in the inactive bank; the exchange waits for a frame start. A candidate that an
uncorrectable error touches is rolled back. -/
def onPublishCopyDone (p : Nat) (s : State) : State :=
  let g := getFg s p
  match pipeHolder s p with
  | some t =>
    if !isRunning s || restarting s 2 then s
    else if g.publish = 2 && (badLineIn s t (fgBank s p 2) (bankBytes s p)).isSome then
      incReg (modFg (countUncorr s) p fun x => { x with publish := 0 }) (fgRolled p) 1 cap32
    else if g.publish = 2 then
      modFg (storeBytes s t (fgBank s p (1 - g.bank)) (hbmRead s t (fgBank s p 2) (bankBytes s p))) p
        fun x => { x with publish := 3 }
    else s
  | none => s

def execPublishCopyStart (pipe : Fin 8) (s : State) : Out := .next (onPublishCopyStart pipe.val s)
def execPublishCopyDone (pipe : Fin 8) (s : State) : Out := .next (onPublishCopyDone pipe.val s)

/-- The exchange, at a frame start: steps of the bound loop already eligible keep the old bank. -/
def exchangeBanks (s : State) (p : Nat) : State :=
  if (getFg s p).publish = 3 then
    let old := match getLoop s (lcLoop s p) with
      | some l => (l.queue.filter fun st => st.eligible.isSome).map fun st => st.order
      | none => []
    rePromote (incReg (modFg s p fun g => { g with bank := 1 - g.bank, publish := 0, pubWait := old })
      (fgPublished p) 1 cap32) p
  else s

/-! ## What the end of a step means here -/

/-- A step of a loop has ended: a publish waits for it no longer, and where it failed the history of the loop's next step is
absent (R311, R327). -/
def settleStep (s : State) (id : Nat) (st : Step) (ok : Bool) : State :=
  match boundPipe s id with
  | some p => modFg s p fun g => { g with histOk := g.histOk && ok, pubWait := g.pubWait.filter fun o => o ≠ st.order }
  | none => s

/-- A step commits. -/
def fgCommit (s : State) (id : Nat) (l : Loop) (st : Step) : State :=
  let s := settleStep s id st true
  let s := match st.fg with
    | some p => startCapture s l.tenant p st
    | none => s
  (adaptPipes s id).foldl (fun s p => readVerdict s l.tenant p) s

/-- A step fails: a reference step takes no capture (R323). -/
def fgFail (s : State) (id : Nat) (st : Step) : State :=
  let s := settleStep s id st false
  match st.fg, st.ref with
  | some p, some (ref, b) => if capOf (getFg s p) b = .busy ref st.order then capFail s p b else s
  | _, _ => s

/-! ## Status (R328) -/

def isCopying (c : CapState) : Bool := match c with | .copying _ _ _ _ _ => true | _ => false

def fgStatus (s : State) (p : Nat) : Nat :=
  let g := getFg s p
  boolNat g.bound + 2 * boolNat (g.cap0 ≠ .free) + 4 * boolNat (g.cap1 ≠ .free) + 8 * g.bank
  + 16 * boolNat (g.publish ≠ 0) + 32 * boolNat (isCopying g.cap0 || isCopying g.cap1)

end Sys2Proof.Machine
end

