-- ==== Sys2Proof/Machine/Nvr.lean ====
section
/-! DEFINITION. Machine/Nvr.lean: the persistent register bank (R587 to R590), the owner credential in
it (R577, R580), and the identity key (R572). -/

namespace Sys2Proof.Machine

open Sys2Proof

/-! ## Identity (R572, R574) -/

/-- The identity key's secret half. -/
def identitySecret : List Byte := hkdf [] Config.deviceSecret (ascii "ALENSIA-IDENTITY") 32
def identityPublic : List Byte := edPublic identitySecret
def signIdentity (m : List Byte) : List Byte := edSign identitySecret m

/-- A word of the device certificate (R574): the signing key's index, the serial number, the issue date and the signature
are the device's own. -/
def certificateWord (w : Nat) : Word :=
  if w = 0 then 0x4E444345
  else if w = 1 then BitVec.ofNat 32 (1 + bits (Config.factoryWord 1).toNat 23 16 * 65536)
  else if w < 6 then BitVec.ofNat 32 (leAt partNumber (4 * (w - 2)) 4)
  else if w = 8 then BitVec.ofNat 32 Config.siliconRevision.toNat
  else if w < 10 then Config.factoryWord w
  else if w < 16 then 0
  else if w < 24 then BitVec.ofNat 32 (leAt identityPublic (4 * (w - 16)) 4)
  else if w < 32 then 0
  else Config.factoryWord w

/-! ## Words -/

/-- The bank as the part leaves the factory: the certificate, the MAC addresses and the boot count
slots are the device's own; the rest reads 0 (DESIGN CHOICE, log entry 50). -/
def nvrShipped (w : Nat) : Word :=
  if w < 48 then certificateWord w
  else if w < 56 then BitVec.ofNat 32 (leAt (macBytes ((w - 48) / 2)) (4 * (w % 2)) 4)
  else if w < 64 then Config.factoryWord w
  else 0

def nvrWord (s : State) (w : Nat) : Nat := (tabGet s.nvr.words (nvrShipped w) w).toNat
def nvrWrites (s : State) (w : Nat) : Nat := tabGet s.nvr.wear 0 w

/-- Writes that wear a word out (R589). -/
def nvrLife : Nat := 100000
def nvrWorn (s : State) (w : Nat) : Bool := decide (nvrLife ≤ nvrWrites s w)
def wornWords (s : State) : Nat := (s.nvr.wear.filter fun p => decide (nvrLife ≤ p.2)).length

/-- One word is stored, and the write counts. -/
def nvrStore (s : State) (w v : Nat) : State :=
  { s with nvr := { s.nvr with
    words := tabPut s.nvr.words (nvrShipped w) w (BitVec.ofNat 32 v),
    wear := tabPut s.nvr.wear 0 w (nvrWrites s w + 1) } }

def nvrBusy (s : State) : Bool := s.nvr.queue ≠ []

/-! ## The owner credential -/

def ownerEnrolled (s : State) : Bool := bit (nvrWord s 66) 0
/-- First word of a copy of the owner credential. -/
def ownerCopy (k : Nat) : Nat := 68 + 8 * k
def activeCopy (s : State) : Nat := bits (nvrWord s 66) 1 1

/-- TEN_CRED of tenant 0. -/
def ownerWord (s : State) (k : Nat) : Nat :=
  if ownerEnrolled s then nvrWord s (ownerCopy (activeCopy s) + k) else 0

/-- A tenant's credential key. -/
def credential (s : State) (t : Nat) : List Byte :=
  ((List.range 8).map fun k => le4 (if t = 0 then ownerWord s k else regW s (aTen t (0x20 + 4 * k)))).flatten

/-- The nine words that a new owner credential writes, with their values: the inactive copy, then the
owner state (R580). -/
def ownerWrites (s : State) (key : List Byte) : List (Nat × Nat) :=
  let copy := 1 - activeCopy s
  ((List.range 8).map fun k => (ownerCopy copy + k, leAt key (4 * k) 4)) ++ [(66, 1 + 2 * copy)]

/-! ## Writes in turn (R588) -/

/-- 25 µs. -/
def nvrTicks : Nat := 10000

/-- In the queue, words 2048 + k stand for the k-th word of an OWNER_CHANGE or an enrolment: which copy is inactive
is known only when its turn comes. -/
def ownerSlot : Nat := 2048

/-- Word and value of the head of the queue. -/
def nvrTarget (s : State) (w v : Nat) : Nat × Nat :=
  if w < ownerSlot then (w, v)
  else
    let copy := 1 - activeCopy s
    if w = ownerSlot + 8 then (66, 1 + 2 * copy) else (ownerCopy copy + (w - ownerSlot), v)

/-- The words that must not be worn before the head of the queue is written: itself, or all nine of
a new owner credential that begins. -/
def nvrGuard (s : State) (w v : Nat) : List Nat :=
  if w = ownerSlot then (ownerWrites s []).map fun x => x.1 else [(nvrTarget s w v).1]

/-- Stands for no request: writes that no request asked for end without a completion. -/
def noRequest : Async := { session := 0, op := 0, tag := 0 }

/-- What the completion of a REG_WRITE carries beside its status: address, count and index (R91). -/
def nvrPayload (a : Async) (addr count index : Nat) : List Byte :=
  if a.op = opRegWrite then le4 addr ++ le2 count ++ le2 index else []

def endJob (s : State) (job status index count : Nat) : State :=
  match tabFind s.nvr.jobs job with
  | none => s
  | some (t, a, _, addr) =>
    complete { s with nvr := { s.nvr with jobs := tabErase s.nvr.jobs job } } t a status 0
      (nvrPayload a addr count index)

/-- Writes of a worn word end their request with WORN at once (R589). -/
def nvrRefuse : Nat → State → State
  | 0, s => s
  | k + 1, s =>
    match s.nvr.queue with
    | [] => s
    | (w, v, job) :: _ =>
      if (nvrGuard s w v.toNat).any (nvrWorn s) then
        let left := (s.nvr.queue.filter fun q => q.2.2 = job).length
        let done := match tabFind s.nvr.jobs job with | some (_, _, n, _) => n | none => 0
        let s := { s with nvr := { s.nvr with queue := s.nvr.queue.filter fun q => q.2.2 ≠ job } }
        nvrRefuse k (endJob s job stWorn done (done + left))
      else s

/-- The words of a new owner credential as they join the queue (R580). -/
def ownerQueue (key : List Byte) : List (Nat × Nat) :=
  ((List.range 8).map fun k => (ownerSlot + k, leAt key (4 * k) 4)) ++ [(ownerSlot + 8, 0)]

/-- A request's words join the queue. -/
def nvrEnqueue (s : State) (t : Nat) (a : Async) (addr : Nat) (ws : List (Nat × Nat)) : State :=
  let job := s.nvr.nextJob
  let due := if s.nvr.queue = [] then s.now + nvrTicks else s.nvr.due
  let s := { s with nvr := { s.nvr with
    queue := s.nvr.queue ++ ws.map fun w => (w.1, BitVec.ofNat 32 w.2, job),
    due := due, nextJob := job + 1, jobs := tabSet s.nvr.jobs job (t, a, 0, addr) } }
  nvrRefuse (s.nvr.queue.length + 1) s

/-- The word at the head of the queue is non-volatile, and the next one's write begins. -/
def storeNvrWord (s : State) : State :=
  match s.nvr.queue with
  | [] => s
  | (w, v, job) :: rest =>
    if !isRunning s || decide (s.now < s.nvr.due) then s
    else
      let x := nvrTarget s w v.toNat
      let s := nvrStore { s with nvr := { s.nvr with queue := rest, due := s.nvr.due + nvrTicks } } x.1 x.2
      let s := match tabFind s.nvr.jobs job with
        | some (t, a, n, addr) =>
          { s with nvr := { s.nvr with jobs := tabSet s.nvr.jobs job (t, a, n + 1, addr) } }
        | none => s
      let s := if rest.any fun q => q.2.2 = job then s
        else
          let n := match tabFind s.nvr.jobs job with | some (_, _, n, _) => n | none => 0
          endJob s job stOk 0 n
      nvrRefuse (rest.length + 1) s

/-! ## Boot count (R590) -/

def slotValues (s : State) : List Nat := (List.range 8).map fun k => nvrWord s (56 + k)

/-- Boot count written at a reset: the slot of the new value, or the next that is not worn; none
where all are. -/
def bootSlot (s : State) (v : Nat) : Option Nat :=
  ((List.range 8).map fun k => 56 + (v + k) % 8).find? fun w => !nvrWorn s w

/-- Every boot count slot is worn (R591). -/
def slotsWorn (s : State) : Bool := (List.range 8).all fun k => nvrWorn s (56 + k)

/-- The boot count's write is in the bank: the ports come up after it (R608). -/
def bootPending (s : State) : Bool := s.nvr.queue.any fun q => decide (56 ≤ q.1) && decide (q.1 < 64)

/-- The boot ROM raises the boot count: the bank begins to write it, and the beacons, which follow that write, bear
the new value. -/
def raiseBoot (s : State) : State :=
  let old := (slotValues s).foldl max 0
  let v := (old + 1) % 2 ^ 32
  match bootSlot s v with
  | some w => nvrEnqueue { s with chip := { s.chip with boot := v } } 0 noRequest 0 [(w, v)]
  | none => { s with chip := { s.chip with boot := old }, sec := { s.sec with bootWorn := true } }

end Sys2Proof.Machine
end

