-- ==== Sys2Proof/Machine/Ethernet.lean ====
section
/-! DEFINITION. Machine/Ethernet.lean: the class of a received frame (R484), and the stream filters, gates and meters
that it passes (R492). -/

namespace Sys2Proof.Machine

open Sys2Proof

/-! ## Received frames (R484, R492) -/

def frameClass (f : FrameInfo) : Nat :=
  match f.pcp with
  | none => 1
  | some c => pcpClass c.val

/-- A filter matches a frame. -/
def filterMatches (e : List Byte) (f : FrameInfo) : Bool :=
  bit (leAt e 11 1) 0 && leAt e 0 6 = f.dstMac.toNat
  && (leAt e 6 2 = 0xFFFF || leAt e 6 2 % 4096 = f.vlan.toNat)
  && (leAt e 8 1 = 0xFF || (match f.pcp with | some c => leAt e 8 1 = c.val | none => false))

/-- Tokens are counted in 1/400,000 bit, so that a rate in kbit/s adds whole tokens each cycle. -/
def tokenScale : Nat := 400000

/-- A frame of some bits passes a meter: whether it may go on, and the buckets after it. -/
def meterFrame (e : List Byte) (b : Nat × Nat × Nat) (now bitsN : Nat) : Bool × (Nat × Nat × Nat) :=
  let cbs := leAt e 4 3 * 8 * tokenScale
  let ebs := leAt e 12 3 * 8 * tokenScale
  let dt := now - b.2.2
  let c := b.1 + leAt e 0 4 * dt
  let spill := c - cbs
  let x := b.2.1 + leAt e 8 4 * dt + if bit (leAt e 7 1) 0 then spill else 0
  let c := min c cbs
  let x := min x ebs
  let need := bitsN * tokenScale
  if need ≤ c then (true, (c - need, x, now))
  else if need ≤ x then (!bit (leAt e 7 1) 1, (c, x - need, now))
  else (false, (c, x, now))

def fullBucket (s : State) (e : List Byte) : Nat × Nat × Nat :=
  (leAt e 4 3 * 8 * tokenScale, leAt e 12 3 * 8 * tokenScale, s.now)

/-- What the tables of a port make of a frame: the state after its meter, and its class, or none where
it is dropped. -/
def qci (s : State) (p : Nat) (f : FrameInfo) : State × Option Nat :=
  let x := getPort s p
  match (List.range 32).findSome? fun i =>
      match tabFind x.filters i with
      | some e => if filterMatches e f then some e else none
      | none => none with
  | none => (s, some (frameClass f))
  | some e =>
    let sdu := leAt e 12 2
    let gate := leAt e 9 1
    let g := tabGet x.gates (zeros 16) gate
    let meter := leAt e 10 1
    if sdu ≠ 0 ∧ sdu < f.length then (s, none)
    else if gate ≠ 0xFF ∧ leAt g 0 1 = 0 then (s, none)
    else
      let cls := if gate ≠ 0xFF ∧ leAt g 1 1 ≠ 0xFF then leAt g 1 1 else frameClass f
      if meter = 0xFF then (s, some cls)
      else
        let m := tabGet x.meters (zeros 16) meter
        let r := meterFrame m (tabGet x.buckets (fullBucket s m) meter) s.now (8 * f.length)
        (setPort s p { x with buckets := tabSet x.buckets meter r.2 }, if r.1 then some cls else none)

/-- The source id of received frames of a class on a port (R484). -/
def frameSource (p c : Nat) : Nat := 0x3000 ||| (p * 8 + c)

/-- A received frame counts in its class, and stands there with its source id, its sequence number and its stamp in a time
base (R484, R493). -/
def countIn (s : State) (p c b : Nat) : State :=
  modPort s p fun x =>
    let n := (x.received.getD c 0 + 1) % 2 ^ 32
    { x with received := x.received.set c n,
             stamps := tabSet x.stamps c { source := frameSource p c, seq := n, stamp := macStamp (getBase s b).t } }

/-- A received frame other than gPTP: its stamp counts in tsn_time_base. -/
def countClass (s : State) (p c : Nat) : State := countIn s p c (tsnBase s p)

/-- A gPTP frame is untagged, in class 1, and its stamp counts in ptp_time_base. -/
def countGptp (s : State) (p : Nat) : State := if isRunning s && (getPort s p).link then countIn s p 1 (ptpBase s p) else s

/-- The frame of a row that names its port beside it. -/
def frameOn (p : Fin 4) (f : FrameInfo) : FrameInfo := { f with eth := p }

/-- The longest frame that a port accepts (R481). -/
def maxFrame : Nat := 9216

/-- A frame other than gPTP arrives on a port: it is dropped and counted, or counts in its class and
goes on. One longer than a port accepts is lost uncounted (DEDUCED, log entry 44). -/
def receiveFrame (s : State) (f : FrameInfo) (k : State → State) : State :=
  let p := f.eth.val
  if !isRunning s || !(getPort s p).link || decide (maxFrame < f.length) then s
  else
    match qci s p f with
    | (s, none) => incReg s (aPort p 0x50) 1 cap32
    | (s, some c) => k (countClass s p c)

end Sys2Proof.Machine
end

