-- ==== Sys2Proof/Machine/Wall.lean ====
section
/-! DEFINITION. Machine/Wall.lean: wall synchronisation (R457, R504 to R512): the line grid, the
messages, candidates, agreement and election. -/

namespace Sys2Proof.Machine

open Sys2Proof

def wallCfg (s : State) (hi lo : Nat) : Nat := rField s (aWall 0) hi lo
def wallOn (s : State) : Bool := wallCfg s 31 31 = 1
def wallIndex (s : State) : Nat := wallCfg s 5 0
def wallBase (s : State) : Nat := wallCfg s 27 26
def wallPort (s : State) : Nat := wallCfg s 29 28
/-- The member takes part: enabled, and no index conflict (R510). -/
def wallLive (s : State) : Bool := wallOn s && !s.net.wall.conflict
def isMember (s : State) (i : Nat) : Bool := bit (regW s (aWall 8) + regW s (aWall 12) * 2 ^ 32) i
def modWall (s : State) (f : Wall → Wall) : State := setWall s (f s.net.wall)

/-- Pipes in sync mode 3. -/
def wallPipes (s : State) : List Nat :=
  (List.range 8).filter fun p => (getPipe s p).state ≠ 0 && (timing s p).sync = 3

/-! ## The line grid (R504) -/

/-- Distance in ns of an instant from the nearest grid instant. -/
def gridPhase (t : Timing) (f : Frac) : Int :=
  let k := gridIndex t f
  let up := frFloor (frSub f (frOf (gridInstant t k : Nat)))
  let down := frFloor (frSub f (frOf (gridInstant t (k - 1) : Nat)))
  if down ≤ -up then down else up

/-- The candidate of a pipe that is ready at r: R454 with the margin added, on the grid (R457). -/
def wallCandidate (s : State) (p : Nat) (r : Frac) : Frac :=
  let t := timing s p
  let x := (getPipe s p).time
  let need := frAdd (frAdd r (marginNs s p)) (frScale t.line ((t.vmin : Int) - t.vstart))
  let k0 := gridIndex t x.last
  let k := max (k0 + t.vmin) (gridIndex t need)
  frMin (frOf (gridInstant t k : Nat)) x.fmax

/-- Three frames of the longest length, and one. -/
def wallPeriods (s : State) (n : Nat) : Option Frac :=
  match wallPipes s with
  | p :: _ => some (frScale (timing s p).line ((timing s p).vmax * n))
  | [] => none

/-! ## Messages (R505) -/

def wkReady : Nat := 1
def wkAgree : Nat := 2
def wkClaim : Nat := 3

def wallNonce (index kind boot counter : Nat) : List Byte := by1 index ++ by1 kind ++ zeros 2 ++ le4 boot ++ le4 counter

/-- Send a wall message; bytes 24 to 47 travel encrypted (DEDUCED, log entry 45: R505 names bytes 0 to 23 as the
additional data). -/
def sendWall (s : State) (kind frame a b : Nat) : State :=
  match s.net.wall.key with
  | none => s
  | some key =>
    let w := s.net.wall
    let head := le2 0x4E57 ++ by1 1 ++ by1 kind ++ le2 (rField s (aWall 4) 15 0) ++ by1 (wallIndex s)
      ++ by1 (wallCfg s 23 16) ++ le4 s.chip.boot ++ le4 w.counter ++ le4 frame ++ zeros 4
    let x := gcmSeal key (wallNonce (wallIndex s) kind s.chip.boot w.counter) head (le8 a ++ le8 b ++ zeros 8)
    out (setWall s { w with counter := (w.counter + 1) % 2 ^ 32 }) (.wall kind (wallWire s (wallPort s) (wallCfg s 30 30 = 1) (head ++ x.1 ++ x.2)))

/-- WALL_EVENT (R512). -/
def wallEvent (s : State) (change member : Nat) : State :=
  event s 0 opWallEvent stOk 0 (by1 change ++ by1 member ++ by1 s.net.wall.leader ++ zeros 1
    ++ le4 (tbStamp s (wallBase s)) ++ le4 s.net.wall.frame ++ zeros 4)

/-- The leaderless state of the wall shows on its pipes. -/
def setLeaderless (s : State) (v : Bool) : State :=
  (wallPipes s).foldl (fun s p => modPipe s p fun x => { x with time := { x.time with leaderless := v } })
    (modWall s fun w => { w with leaderless := v })

/-! ## Agreement (R508) -/

def membersPresent (s : State) : List Nat := (tabKeys s.net.wall.members).filter fun i => isMember s i && i ≠ wallIndex s
def readyOf (s : State) (i : Nat) : Option Nat :=
  match tabFind s.net.wall.members i with
  | some m => m.ready
  | none => none

/-- Every wall pipe still waits for an agreement. -/
def unagreed (s : State) : Bool :=
  wallPipes s ≠ [] && (wallPipes s).all fun p => (getPipe s p).time.agreed.isNone && (getPipe s p).time.next.isNone

/-- The wall pipes start at an agreed instant. -/
def takeAgreed (s : State) (at_ : Nat) : State :=
  (wallPipes s).foldl (fun s p => modPipe s p fun x => { x with time := { x.time with
    agreed := some (frOf (at_ : Nat)) } }) (modWall s fun w => { w with agreed := some at_ })

/-- The leader agrees a frame start: the latest candidate, and never later than F^max. -/
def sendAgree (s : State) : State :=
  match wallPipes s with
  | [] => s
  | p :: _ =>
    let w := s.net.wall
    let fmax := (frFloor (getPipe s p).time.fmax).toNat
    let own := w.candidate.getD fmax
    let counted := (membersPresent s).filter fun i => (readyOf s i).isSome
    let at_ := min fmax ((counted.filterMap (readyOf s)).foldl max own)
    let frame := (w.frame + 1) % 2 ^ 32
    let bitmap := (((wallIndex s :: counted).eraseDups).map fun i => 2 ^ i).sum
    let s := modWall s fun w => { w with
      frame := frame, candidate := none, members := tabMap (fun _ m => { m with ready := none }) w.members }
    takeAgreed (sendWall s wkAgree frame at_ bitmap) at_

/-- The leader agrees once every present member is ready. -/
def checkAgree (s : State) : State :=
  if wallLive s && s.net.wall.isLeader && unagreed s && s.net.wall.candidate.isSome
     && (membersPresent s).all fun i => (readyOf s i).isSome then sendAgree s
  else s

/-- The candidate of each wall pipe, once known: its ready instant, or F^max from its deadline on. -/
def pipeCandidate (s : State) (p : Nat) : Option Frac :=
  let x := (getPipe s p).time
  match x.ready with
  | some r => if frLe r x.deadline then some (wallCandidate s p r) else some x.fmax
  | none => if frLe x.deadline (pipeNow s p) then some x.fmax else none

/-- A member sends READY as soon as its candidate is known (R507). -/
def wallReady (s : State) : State :=
  if !wallLive s || !unagreed s || s.net.wall.candidate.isSome then s
  else
    let cs := (wallPipes s).map (pipeCandidate s)
    if cs.any fun c => c.isNone then s
    else
      let c := (frFloor ((cs.filterMap id).foldl frMax {})).toNat
      let fmax := match wallPipes s with | p :: _ => (frFloor (getPipe s p).time.fmax).toNat | [] => 0
      let s := modWall s fun w => { w with candidate := some c }
      checkAgree (sendWall s wkReady ((s.net.wall.frame + 1) % 2 ^ 32) c fmax)

/-- AGREE_FALLBACK_TIMEOUT: 100 µs before the agreement is missed, the leader agrees with the
candidates it has. -/
def onAgreeFallback (s : State) : State :=
  match wallPipes s with
  | [] => s
  | p :: _ =>
    let lim := frSub (frSub (getPipe s p).time.fmax (marginNs s p)) (usNs 100)
    if isRunning s && wallLive s && s.net.wall.isLeader && unagreed s && frLe lim (pipeNow s p) then sendAgree s else s

/-! ## A missing agreement and election (R457, R509) -/

/-- WALL_AGREEMENT_MISSING: the member starts at F^max and sets wall_missed; one that does not lead
declares the leader lost. -/
def onAgreementMissing (s : State) : State :=
  let due (p : Nat) : Bool :=
    let x := (getPipe s p).time
    x.agreed.isNone && x.next.isNone && (!x.leaderless || regW s (aPipe p 0x4C) = 0)
    && frLe (frSub x.fmax (marginNs s p)) (pipeNow s p)
  let ps := (wallPipes s).filter due
  if !isRunning s || ps = [] then s
  else
    let s := ps.foldl (fun s p =>
      setRegW (modPipe s p fun x => { x with time := { x.time with next := some x.time.fmax } })
        (aPipe p 0x50) (regW s (aPipe p 0x50) ||| 8)) s
    if wallOn s && !s.net.wall.isLeader && !s.net.wall.leaderless then
      wallEvent (setLeaderless (modWall s fun w => { w with joined := false }) true) 4 (wallIndex s)
    else s

/-- At a frame start of a wall pipe: the candidate of the frame before goes, and a member without a
leader sends CLAIM. -/
def wallFrame (s : State) (p : Nat) : State :=
  if (timing s p).sync ≠ 3 then s
  else
    let s := modWall s fun w => { w with candidate := none }
    if wallLive s && s.net.wall.leaderless && (wallPipes s).head? = some p then
      let s := modWall s fun w => { w with claimAt := some (w.claimAt.getD (tbNs s (wallBase s))) }
      sendWall s wkClaim s.net.wall.frame 0 0
    else s

/-- WALL_ELECTION_TIMEOUT: a period after the first CLAIM, the lowest claimant leads. -/
def onElection (s : State) : State :=
  let w := s.net.wall
  match w.claimAt, wallPeriods s 1 with
  | some c, some per =>
    let now := (getBase s (wallBase s)).t
    if isRunning s && wallLive s && w.leaderless && frLe (frAdd (frOf (c : Nat)) per) now then
      let rank (prio i : Nat) : Nat := prio * 64 + i
      let heard := (w.members.filter fun m => match m.2.claim with | some t => decide (c ≤ t) | none => false).map
        fun m => rank m.2.priority m.1
      let own := rank (wallCfg s 23 16) (wallIndex s)
      let s := modWall s fun w => { w with claimAt := none, members := tabMap (fun _ m => { m with claim := none }) w.members }
      if heard.all fun r => decide (own < r) then
        let s := setLeaderless (modWall s fun w => { w with isLeader := true, joined := true, leader := wallIndex s }) false
        checkAgree (wallReady (wallEvent s 0 (wallIndex s)))
      else s
    else s
  | _, _ => s

def execAgreeFallbackTimeout (s : State) : Out := .next (onAgreeFallback s)
def execWallAgreementMissing (s : State) : Out := .next (onAgreementMissing s)
def execWallElectionTimeout (s : State) : Out := .next (onElection s)

/-! ## Received messages (R505, R507 to R510) -/

structure WallMsg where
  index    : Nat
  priority : Nat
  boot     : Nat
  counter  : Nat
  frame    : Nat
  a        : Nat
  b        : Nat
  deriving DecidableEq, Repr

/-- A datagram of a kind that passes the checks of R505. -/
def wallMsg (s : State) (kind : Nat) (d : WallDatagram) : Option WallMsg :=
  let h := d.bytes.take 24
  let i := leAt h 6 1
  let boot := leAt h 8 4
  let counter := leAt h 12 4
  match s.net.wall.key with
  | none => none
  | some key =>
    if d.bytes.length ≠ 64 ∨ leAt h 0 2 ≠ 0x4E57 ∨ leAt h 2 1 ≠ 1 ∨ leAt h 3 1 ≠ kind then none
    else
      match gcmOpen key (wallNonce i kind boot counter) h (sliceAt d.bytes 24 24) (d.bytes.drop 48) with
      | none => none
      | some m =>
        let fresh := match tabFind s.net.wall.seen i with
          | some x => decide (x.1 < boot) || (decide (x.1 = boot) && newer counter x.2)
          | none => true
        if leAt h 4 2 ≠ rField s (aWall 4) 15 0 ∨ 63 < i ∨ !fresh
           ∨ ownAddress s (wallPort s) d.src.v6 d.src.ip.toNat then none
        else some { index := i, priority := leAt h 7 1, boot := boot, counter := counter, frame := leAt h 16 4,
                    a := leAt m 0 8, b := leAt m 8 8 }

/-- Take a wall message: one that carries the member's own index is a conflict (R510); any other makes
its sender present. -/
def takeWall (s : State) (kind : Nat) (d : WallDatagram) (k : State → WallMsg → State) : State :=
  receiveFrame s d.frame fun s =>
    if !wallLive s || d.frame.eth.val ≠ wallPort s then s
    else
      match wallMsg s kind d with
      | none => s
      | some m =>
        let s := modWall s fun w => { w with seen := tabSet w.seen m.index (m.boot, m.counter) }
        if m.index = wallIndex s then
          wallEvent (setLeaderless (modWall s fun w => { w with
            conflict := true, isLeader := false, joined := false }) true) 3 m.index
        else
          let old := tabFind s.net.wall.members m.index
          let x : WallMember := { last := tbNs s (wallBase s), boot := m.boot, counter := m.counter, priority := m.priority,
                                  ready := match old with | some o => o.ready | none => none,
                                  claim := match old with | some o => o.claim | none => none }
          let s := modWall s fun w => { w with members := tabSet w.members m.index x }
          k (if old.isNone then wallEvent s 1 m.index else s) m

def modMember (s : State) (i : Nat) (f : WallMember → WallMember) : State :=
  modWall s fun w => { w with members := tabMap (fun j m => if j = i then f m else m) w.members }

/-- READY: a candidate for a frame start that is not agreed yet. -/
def onWallReady (d : WallDatagram) (s : State) : State :=
  takeWall s wkReady d fun s m =>
    if newer m.frame s.net.wall.frame then checkAgree (modMember s m.index fun x => { x with ready := some m.a }) else s

/-- AGREE: its sender leads, and the wall pipes start at the agreed frame start. -/
def onWallAgree (d : WallDatagram) (s : State) : State :=
  takeWall s wkAgree d fun s m =>
    let w := s.net.wall
    let changed := !w.joined || w.leader ≠ m.index
    let s := modWall s fun w => { w with
      joined := true, leader := m.index, isLeader := false, frame := m.frame, candidate := none, claimAt := none,
      members := tabMap (fun _ x => { x with claim := none, ready := none }) w.members }
    let s := takeAgreed (setLeaderless s false) m.a
    if changed then wallEvent s 0 m.index else s

/-- CLAIM: heard for an election. -/
def onWallClaim (d : WallDatagram) (s : State) : State :=
  takeWall s wkClaim d fun s m => modMember s m.index fun x => { x with claim := some (tbNs s (wallBase s)) }

/-- WALL_MEMBER_LOST: no message from a member within three periods (R507). -/
def onMemberLost (i : Nat) (s : State) : State :=
  match tabFind s.net.wall.members i, wallPeriods s 3 with
  | some m, some per =>
    if isRunning s && wallLive s && frLe (frAdd (frOf (m.last : Nat)) per) (getBase s (wallBase s)).t then
      checkAgree (wallEvent (modWall s fun w => { w with members := tabErase w.members i }) 2 i)
    else s
  | _, _ => s

def execWallReady (d : WallDatagram) (s : State) : Out := .next (onWallReady d s)
def execWallAgree (d : WallDatagram) (s : State) : Out := .next (onWallAgree d s)
def execWallClaim (d : WallDatagram) (s : State) : Out := .next (onWallClaim d s)
def execWallMemberLost (index : Fin 64) (s : State) : Out := .next (onMemberLost index.val s)

/-! ## Key, enable and registers (R506, R511) -/

def onWallKey (rq : Req) (key : List Byte) (s : State) : State :=
  take (.wallKey rq key) s fun op t _ rq =>
    if t ≠ 0 then refuse s op rq (stNotPermitted, dtPermissionClass)
    else modWall (replyOk s op rq []) fun w => { w with key := some (fit 32 key) }

def execWallKey (rq : Req) (key : List Byte) (s : State) : Out := .next (onWallKey rq key (hear rq s))

/-- SEC_WALL_KEY_ID. -/
def wallKeyId (s : State) : Nat := match s.net.wall.key with | some k => leAt (sha512 k) 0 4 | none => 0

/-- What forbids a write of NET_WALL_CONFIG or NET_WALL_GROUP (R511), on the words that the whole
request leaves. -/
def wallRelation (s s' : State) (off new : Nat) : Option (Nat × Nat) :=
  if off = 0 ∧ !wallOn s ∧ bit new 31 then
    if !isMember s' (bits new 5 0) then some (stBadParam, dtValueRange)
    else none
  else none

/-- A member over IPv6 joins the wall-sync group on its port (R482). -/
def joinGroup (s : State) : State :=
  if wallOn s && wallCfg s 30 30 = 1 && (getPort s (wallPort s)).link then out s (.mldReport (wallPort s) true) else s

/-- Enabling or disabling forgets members, leader, claims and conflict; the counter runs on, and
what was received from each member stays known (R505). A member that is enabled
joins its group. -/
def wallEffect (s : State) (off old new : Nat) : State :=
  if off = 0 ∧ bit old 31 ≠ bit new 31 then
    joinGroup (setLeaderless (setWall s { key := s.net.wall.key, counter := s.net.wall.counter, seen := s.net.wall.seen }) false)
  else s

def wallStatusReg (s : State) : Nat :=
  let w := s.net.wall
  (if wallOn s then w.members.length + 1 else 0) * 2 ^ 16 + w.leader * 256 + 8 * boolNat w.conflict
  + 4 * boolNat w.leaderless + 2 * boolNat w.isLeader + boolNat w.joined

end Sys2Proof.Machine
end

