-- ==== Sys2Proof/Machine/Galliard.lean ====
section
/-! DEFINITION. Machine/Galliard.lean: what the presented plane shows at a frame start (R313, R314,
R351, R453), and the extrapolation of the anchor (R352 to R358). -/

namespace Sys2Proof.Machine

open Sys2Proof

def getGal (s : State) (p : Nat) : GalRun := (getPipe s p).gal
def modGal (s : State) (p : Nat) (f : GalRun → GalRun) : State := modPipe s p fun x => { x with gal := f x.gal }
def galErr (s : State) (p bitNo : Nat) : State :=
  setRegW s (aGal p 0x1C) (regW s (aGal p 0x1C) ||| 2 ^ bitNo)
def aGalExtra (p : Nat) : Nat := aGal p 0x20
def aGalHeld (p : Nat) : Nat := aGal p 0x24

/-- The channel is suppressed while the pipe's tenant is ORPHANED or FALLBACK (R360). -/
def suppressed (s : State) (p : Nat) : Bool :=
  match pipeHolder s p with
  | some t => (getTen s t).state = .orphaned || (getTen s t).state = .fallback
  | none => false

/-! ## Formats (R459) -/

def fmtBytes (f : Nat) : Nat := match f with | 0 => 2 | 1 => 3 | _ => 4

/-- Channel fields of a format, alpha first where it has one. -/
def fmtFields (f : Nat) : List (Nat × Nat) :=
  match f with
  | 0 => [(15, 11), (10, 5), (4, 0)]
  | 3 => [(31, 24), (23, 16), (15, 8), (7, 0)]
  | 4 => [(31, 30), (29, 20), (19, 10), (9, 0)]
  | _ => [(23, 16), (15, 8), (7, 0)]

/-- A plane's source: size, format, pitch and where it starts. -/
structure Source2 where
  va    : Nat
  w     : Nat
  h     : Nat
  fmt   : Nat
  pitch : Nat
  deriving DecidableEq, Repr

def planeSource (s : State) (p k va : Nat) : Source2 :=
  let size := regW s (aPlane p k 0x04)
  { va := va, w := bits size 15 0, h := bits size 31 16, fmt := rField s (aPlane p k 0) 26 24,
    pitch := regW s (aPlane p k 0x0C) }

def pixelWord (s : State) (t : Nat) (x : Source2) (i j : Nat) : Nat :=
  hbmLe s t (x.va + j * x.pitch + i * fmtBytes x.fmt) (fmtBytes x.fmt)

/-! ## Pass 1 (R355) -/

structure MotionEntry where
  valid  : Bool
  static : Bool
  dx     : Int        -- displacement in 1/16 pixel, snapped and clamped
  dy     : Int
  depth  : Nat        -- FP16 code
  deriving DecidableEq, Repr

/-- A displacement in 1/16 pixel, ties to even, within the limit. R355 states none for a NaN: a free
value (log entry 7). -/
def dispOf (s : State) (place : List Nat) (code a limit : Nat) : Int :=
  let lim : Int := 16 * limit
  let v := f32 (rn32 ((decodeFmt fp16 code).mul (.fin false a 16)))
  match v with
  | .fin neg n d => max (-lim) (min lim (sgn neg (roundHalfEven (16 * n) d)))
  | .inf neg => if neg then -lim else lim
  | .nan => max (-lim) (min lim (sInt 32 (Config.freeAt s.fresh place).toNat))

def motionVa (s : State) (p va w bx by_ : Nat) : Nat := va + motionOffset s p + by_ * fieldPitch w + 8 * bx

/-- An entry of a motion field; one that an uncorrectable error touches is invalid (R358). -/
def motionEntry (s : State) (t p va w a bx by_ : Nat) : MotionEntry :=
  let e := hbmRead s t (motionVa s p va w bx by_) 8
  let bad := (getGal s p).badBlocks.elem (by_ * ceilDiv w 8 + bx)
    || (badLineIn s t (motionVa s p va w bx by_) 8).isSome
  let limit := rField s (aGal p 8) 25 16
  { valid := bit (leAt e 6 2) 0 && !bad, static := bit (leAt e 6 2) 1, dx := dispOf s [bx, by_, 0] (leAt e 0 2) a limit,
    dy := dispOf s [bx, by_, 1] (leAt e 2 2) a limit, depth := leAt e 4 2 }

def MotionEntry.move (e : MotionEntry) : Int × Int := if e.static then (0, 0) else (e.dx, e.dy)

def nearer (a b : Nat) : Bool := decide (extCmp (decodeFmt fp16 a) (decodeFmt fp16 b) < 0)
    && !(decodeFmt fp16 a).isNan && !(decodeFmt fp16 b).isNan

/-- The target map after one block: the strict test keeps the earlier of two at one depth. -/
def splat (bw bh : Nat) (m : Tab (Int × Int × Nat)) (e : MotionEntry) (bx by_ : Nat) : Tab (Int × Int × Nat) :=
  if !e.valid then m
  else
    let d := e.move
    let tx := (16 * (8 * (bx : Int) + 4) + d.1) / 128
    let ty := (16 * (8 * (by_ : Int) + 4) + d.2) / 128
    if tx < 0 ∨ ty < 0 ∨ (bw : Int) ≤ tx ∨ (bh : Int) ≤ ty then m
    else
      let k := ty.toNat * bw + tx.toNat
      match tabFind m k with
      | some c => if nearer e.depth c.2.2 then tabSet m k (-d.1, -d.2, e.depth) else m
      | none => tabSet m k (-d.1, -d.2, e.depth)

/-- The whole field, in block raster order. -/
def readField (s : State) (t p va w h a : Nat) : List (List MotionEntry) :=
  (List.range (ceilDiv h 8)).map fun by_ => (List.range (ceilDiv w 8)).map fun bx => motionEntry s t p va w a bx by_

def splatAll (bw bh : Nat) (field : List (List MotionEntry)) : Tab (Int × Int × Nat) :=
  field.zipIdx.foldl (fun m ry => ry.1.zipIdx.foldl (fun m ex => splat bw bh m ex.1 ex.2 ry.2) m) []

/-! ## Pass 2 (R356) -/

/-- The offset of a block's pixels. -/
def blockOffset (bw : Nat) (m : Tab (Int × Int × Nat)) (field : List (List MotionEntry)) (bx by_ : Nat) : Int × Int :=
  match tabFind m (by_ * bw + bx) with
  | some c => (c.1, c.2.1)
  | none =>
    match (field.getD by_ [])[bx]? with
    | some e => if e.valid && !e.static then (-e.dx, -e.dy) else (0, 0)
    | none => (0, 0)

/-- The anchor rows that an output row samples. -/
def sampledRows (h : Nat) (y : Nat) (offs : List (Int × Int)) : List Nat :=
  ((offs.map fun o => let v := (16 * (y : Int) + o.2) / 16; [clampPos h v, clampPos h (v + 1)]).flatten).eraseDups

/-- One output pixel: the four neighbours weighted in 1/256, each channel rounded to nearest even. -/
def samplePixel (s : State) (t : Nat) (x : Source2) (i j : Nat) (o : Int × Int) : List Byte :=
  let px := 16 * (i : Int) + o.1
  let py := 16 * (j : Int) + o.2
  let fx := (px % 16).toNat
  let fy := (py % 16).toNat
  let at_ (a b : Int) : Nat := pixelWord s t x (clampPos x.w (px / 16 + a)) (clampPos x.h (py / 16 + b))
  let (c00, c10, c01, c11) := (at_ 0 0, at_ 1 0, at_ 0 1, at_ 1 1)
  let w := (fmtFields x.fmt).foldl (fun acc f =>
    let v (c : Nat) : Nat := bits c f.1 f.2
    let sum := (16 - fx) * (16 - fy) * v c00 + fx * (16 - fy) * v c10 + (16 - fx) * fy * v c01 + fx * fy * v c11
    acc + roundHalfEven sum 256 * 2 ^ f.2) 0
  if x.fmt = 2 then leBytes 3 w ++ [(Config.freeAt s.fresh [i, j]).setWidth 8] else leBytes (fmtBytes x.fmt) w

/-- A 10-bit colour as a word of a plane format: its top bits, opaque. -/
def colourWord (fmt r g b : Nat) : Nat :=
  let put (acc : Nat) (fv : (Nat × Nat) × Nat) : Nat :=
    acc + fv.2 / 2 ^ (10 - (fv.1.1 + 1 - fv.1.2)) * 2 ^ fv.1.2
  let chans := if fmt = 3 ∨ fmt = 4 then [1023, r, g, b] else [r, g, b]
  ((fmtFields fmt).zip chans).foldl put 0

def fallbackRow (s : State) (p : Nat) (x : Source2) : List Byte :=
  let c := regW s (aPipe p 0x24)
  (List.replicate x.w (leBytes (fmtBytes x.fmt) (colourWord x.fmt (bits c 29 20) (bits c 19 10) (bits c 9 0)))).flatten

def anchorRowBad (s : State) (t p : Nat) (x : Source2) (y : Nat) : Bool :=
  (getGal s p).badRows.elem y || (badLineIn s t (x.va + y * x.pitch) (x.w * fmtBytes x.fmt)).isSome

/-- The output rows, top to bottom, and whether any met an error in an anchor line (R358). -/
def galRows (s : State) (t p : Nat) (x : Source2) (field : List (List MotionEntry)) : List (List Byte) × Bool :=
  let bw := ceilDiv x.w 8
  let m := splatAll bw (ceilDiv x.h 8) field
  let r := (List.range x.h).foldl (fun (acc : List (List Byte) × Bool) y =>
    let offs := (List.range bw).map fun bx => blockOffset bw m field bx (y / 8)
    if (sampledRows x.h y offs).any (anchorRowBad s t p x) then
      (acc.1.headD (fallbackRow s p x) :: acc.1, true)
    else
      (((List.range x.w).map fun i => samplePixel s t x i y (offs.getD (i / 8) (0, 0))).flatten :: acc.1, acc.2))
    ([], false)
  (r.1.reverse, r.2)

/-! ## The decision (R351, R354) -/

/-- CORE cycles of pass 1 and of n output rows, in ns: 1.2 cycles a nanosecond (R357). -/
def galNs (x : Source2) (rows : Nat) : Frac :=
  fr ((5 * (ceilDiv (ceilDiv x.w 8 * ceilDiv x.h 8) 2 + rows * ceilDiv x.w 16) : Nat) : Int) 6

/-- Span in sixteenths of a period, ties to even, within max_span. -/
def spanOf (s : State) (p : Nat) (f : Frac) : Nat :=
  let per := (timing s p).period
  let d := frSub f (getGal s p).anchorAt
  min (roundHalfEven (d.num.toNat * 16 * per.den) (d.den * max per.num.toNat 1)) (rField s (aGal p 8) 7 0)

/-- Why Galliard holds instead of extrapolating: 0 max_chain, 1 no anchor or field, 2 out_small. Whether pass 1 and 8 rows
are done at F is seen at F. -/
def holdReason (s : State) (p : Nat) : Option Nat :=
  let g := getGal s p
  if rField s (aGal p 0) 15 8 < g.chain + 1 then some 0
  else if g.anchor.isNone || motionOffset s p = 0 then some 1
  else if 65536 * rField s (aGal p 0x14) 15 0 < planeBytes s p (presentedPlane s p) then some 2
  else none

/-- A decision without a new buffer, with its trace record (trace point 6). -/
def decideAs (s : State) (p kind : Nat) (d : Decision) : State :=
  trace (modPipe s p fun x => { x with decided := some d }) 6 ((pipeHolder s p).getD 0xFF) [p, kind, (getGal s p).chain]

/-- A frame start that Galliard holds: the frame shown last repeats, counted (R354, R361); 3 is lead_short. -/
def holdFrame (s : State) (p reason : Nat) : State :=
  let s := modPipe (incReg s (aGalHeld p) 1 cap32) p fun x => { x with source := 1 }
  match reason with
  | 0 => modGal s p fun g => { g with holding := true }
  | 2 => galErr s p 4
  | 3 => galErr s p 3
  | _ => s

/-- A frame start f that shows Galliard's frame, unless pass 1 and the first 8 rows are not done (R354). -/
def galliardFrame (s : State) (p buffer : Nat) (began done f : Frac) : State :=
  if frLt f done then holdFrame s p 3
  else
    incReg (modPipe s p fun x => { x with
      source := 2, gal := { x.gal with showing := true, buffer := buffer, began := began, chain := x.gal.chain + 1 } })
      (aGalExtra p) 1 cap32

/-- Extrapolate: the output buffer that is not scanned takes the whole frame. -/
def extrapolate (s : State) (p t va : Nat) (at_ f : Frac) : State :=
  let x := planeSource s p (presentedPlane s p) va
  let a := spanOf s p f
  let b := 1 - (getGal s p).buffer
  let field := readField s t p va x.w x.h a
  let rows := galRows s t p x field
  let out := (galOutputs s p).headD (0, 0)
  let badMotion := (List.range (ceilDiv x.h 8)).any fun by_ => (List.range (ceilDiv x.w 8)).any fun bx =>
    (getGal s p).badBlocks.elem (by_ * ceilDiv x.w 8 + bx) || (badLineIn s t (motionVa s p va x.w bx by_) 8).isSome
  let s := rows.1.zipIdx.foldl (fun s ry =>
    storeBytes s t (out.1 + b * (out.2 / 2) + ry.2 * x.pitch) ry.1) (draw s)
  let s := if badMotion then galErr s p 0 else s
  let s := if rows.2 then galErr s p 1 else s
  decideAs s p 1 (.extrapolate a b at_ (frAdd at_ (galNs x (min 8 x.h))))

/-- The buffer of a claimed sub-frame, committed in time. -/
def claimedBuffer (x : Pipe) (cut : Frac) (c : Claim) : Option Cand :=
  (x.cands.find? fun b => b.order = c.step && decide (0 < b.subs) && frLe b.at_ cut).map fun b =>
    { b with va := b.va + c.sub * b.pitch }

/-- The committed buffer due for the next frame start, at or before a moment: the last committed of
those that a claim or an unbound step presents (R313, R453). -/
def dueBuffer (x : Pipe) (cut : Frac) : Option Cand :=
  let bound := ((nextClaim x.fg.claims).map fun c => (claimedBuffer x cut c).toList).getD []
  let free := x.cands.filter fun b => b.subs = 0 && frLe b.at_ cut
  (free ++ bound).foldl (fun best b =>
    match best with
    | none => some b
    | some a => if frLe a.at_ b.at_ then some b else best) none

/-- The presented plane's content for a frame start f, decided at a moment. -/
def decideFrame (s : State) (p : Nat) (at_ f : Frac) : State :=
  let x := getPipe s p
  let cut := frMin x.time.deadline at_
  let claim := nextClaim x.fg.claims
  let met := match claim with | some c => (claimedBuffer x cut c).isSome | none => false
  let s := if (x.fg.bound || claim.isSome) && !met then incReg s (fgMissed p) 1 cap32 else s
  let s := modPipe s p fun y => { y with cands := y.cands.filter fun b => !(b.subs = 0 && frLe b.at_ cut) }
  match dueBuffer x cut with
  | some b =>
    let s := modPipe s p fun y => { y with decided := some (.show b.va b.order) }
    trace (modGal s p fun g => { g with
        anchor := some b.va, old := g.anchor.toList ++ g.old, badBlocks := [], badRows := [] })
      6 ((pipeHolder s p).getD 0xFF) [p, 0, (getGal s p).chain]
  | none =>
    if bit (regW s (aGal p 0)) 31 && !suppressed s p then
      match holdReason s p, (getGal s p).anchor, pipeHolder s p with
      | some r, _, _ => decideAs s p 2 (.hold r)
      | none, some va, some t => extrapolate s p t va at_ f
      | none, _, _ => decideAs s p 2 (.hold 1)
    else decideAs s p 2 .repeat_

/-- GALLIARD_DECISION: at the commit deadline of the next frame start of an ACTIVE pipe. A wall member
without a buffer knows its candidate then (R507). -/
def onGalliardDecision (p : Nat) (s : State) : State :=
  let x := getPipe s p
  if !isRunning s then s
  else if x.state = 2 && x.decided.isNone && frLe x.time.deadline (pipeNow s p) then
    wallReady (decideFrame s p x.time.deadline ((nextStart s p).getD x.time.fmax))
  else wallReady s

def execGalliardDecision (pipe : Fin 8) (s : State) : Out := .next (onGalliardDecision pipe.val s)

/-! ## Registers (R361, R362) -/

def galEnableFault (s : State) (t p : Nat) : Option (Nat × Nat) :=
  let va := regPair s (aGal p 0x0C)
  let n := 2 * rField s (aGal p 0x14) 15 0 * 65536
  if va % 0x10000 = 0 ∧ liesIn s t (fun m => m.pinned && m.display && m.read && m.write) va n then none
  else some (stBadParam, dtGalRegion)

/-- A lead that is not below the nominal frame period (R466). -/
def leadTooLong (s : State) (p lead : Nat) : Bool := frLe (timing s p).period (usNs lead)

/-- While enabled, a write may not change the output buffers. -/
def galLocked (s : State) (p off : Nat) : Option (Nat × Nat) :=
  if bit (regW s (aGal p 0)) 31 ∧ (off = 0x0C ∨ off = 0x10 ∨ off = 0x14) then some (stBusy, dtGalEnabled) else none

/-- What forbids a write of a Galliard register, on the state s' that the whole request would leave. -/
def galRelation (s s' : State) (t p off old new : Nat) : Option (Nat × Nat) :=
  if off = 0 then (if bit new 31 && !bit old 31 then galEnableFault s' t p else none)
  else if off = 4 then
    (if (getPipe s p).state ≠ 0 && leadTooLong s' p (bits new 15 0) then some (stBadParam, dtDspLead) else none)
  else none

/-- What a write of a Galliard register does: enabling counts from 0 with no anchor, the one before held until a newer
buffer has been shown, and the frame on screen stays (R359); a new lead applies to frame starts more than 10,000 µs away, the next
one among them, unless they are claimed (R362). -/
def galEffect (s : State) (p off old new : Nat) : State :=
  if off = 0 then
    if bit new 31 && !bit old 31 then
      modGal (setRegW (setRegW s (aGalExtra p) 0) (aGalHeld p) 0) p fun g => { g with
        anchor := none, old := g.anchor.toList ++ g.old, chain := 0 }
    else s
  else if off = 4 then
    let now := pipeNow s p
    let s := modPipe s p fun x => { x with time := { x.time with
      leads := (x.time.leads.filter fun w => frLe now (frAdd w.1 (usNs 10000))) ++ [(now, bits old 15 0)] } }
    if (getPipe s p).decided.isNone then
      modPipe s p fun x => { x with time := { x.time with deadline := deadlineAt s p x.time.fmax } }
    else s
  else s

def galStatus (s : State) (p : Nat) : Nat :=
  let g := getGal s p
  boolNat g.anchor.isSome + 2 * boolNat g.showing + 4 * boolNat (suppressed s p) + 8 * boolNat g.holding
  + 256 * min g.chain 255

end Sys2Proof.Machine
end

