-- ==== Sys2Proof/Machine/Links.lean ====
section
/-! DEFINITION. Machine/Links.lean: display transmitters, their links and sinks (R444 to R448, R472 to
R478), and the fallback image store (R465). -/

namespace Sys2Proof.Machine

open Sys2Proof

/-! ## Which transmitter a pipe names (R442) -/

/-- The transmitter that an output word names: 0 to 3 DisplayPort, 4 and 5 DSI. -/
def outputTx (w : Nat) : Nat := if bit w 12 then 4 + bits w 9 8 else bits w 9 8
def pipeTx (s : State) (p : Nat) : Nat := outputTx (regW s (aPipe p 8))

/-- The stream that an output word names. -/
def outputStream (w : Nat) : Nat × Nat := (outputTx w, bits w 4 4)

def pipeOn (s : State) (p : Nat) : Bool := (getPipe s p).state ≠ 0
def routedTo (s : State) (x : Nat) : List Nat := (List.range 8).filter fun p => pipeTx s p = x
def liveOn (s : State) (x : Nat) : List Nat := (routedTo s x).filter (pipeOn s)

/-! ## Link capacity (R448), in kbit/s -/

def isDsi (x : Nat) : Bool := decide (4 ≤ x)
def txOn (s : State) (x : Nat) : Bool := decide (x < 6) && bit (regW s (aTx x 0)) 9

def lanesOf (code : Nat) : Nat := 2 ^ code

/-- Payload per lane in Mbit/s, by rate code. -/
def lanePayload (rate : Nat) (fec : Bool) : Nat :=
  match rate with
  | 0 => if fec then 6324 else 6480
  | 1 => 9697
  | 2 => 13091
  | _ => 19394

def sinkMst (s : State) (x : Nat) : Bool := match (getTx s x).sink with | some c => c.mst | none => true

def mstMode (s : State) (x : Nat) : Bool := !isDsi x && bit (regW s (aTx x 0)) 8 && sinkMst s x

/-- Rate and lane codes: as trained, or as configured. -/
def linkCodes (s : State) (x : Nat) : Nat × Nat :=
  (getTx s x).trained.getD (rField s (aTx x 0) 2 0, rField s (aTx x 0) 5 4)

def linkCapacity (s : State) (x : Nat) (fec : Bool) : Frac :=
  let w := regW s (aTx x 0)
  if isDsi x then frOf (((bits w 7 6 + 1) * bits w 5 0 * 90000 : Nat) : Int)
  else
    let (r, l) := linkCodes s x
    let c := frOf ((lanePayload r fec * 1000 * lanesOf l : Nat) : Int)
    if mstMode s x then frMul c (fr 63 64) else c

/-- Bits per pixel of a stream. -/
def streamBits (v : Nat → Nat) (p : Nat) : Frac :=
  let o := v (aPipe p 8)
  if bit o 0 then fr (bits (v (aPipe p 0x28)) 25 16 : Int) 16 else frOf (if bit o 1 then 30 else 24)

/-- B of R448. -/
def streamNeed (v : Nat → Nat) (p : Nat) : Frac :=
  let t := timingOf v p
  frMul (fr ((t.khz * t.hactive : Nat) : Int) (max t.htotal 1)) (streamBits v p)

/-- The output port of the branch device that a stream goes to: stream 0 takes the lowest-numbered one with a sink,
stream 1 the next (R445). -/
def streamPort (s : State) (x n : Nat) : Option Nat :=
  match (getTx s x).sink with
  | some c => if mstMode s x then ((List.range 16).filter fun i => c.ports.any fun q => q.val = i)[n]? else none
  | none => none

/-- A stream that the link carries: in MST mode it needs a port. -/
def hasPort (s : State) (p : Nat) : Bool :=
  let st := outputStream (regW s (aPipe p 8))
  !mstMode s st.1 || (streamPort s st.1 st.2).isSome

/-- A pipe's stream fits its link; stream 1 exists in MST mode alone. -/
def streamFits (s : State) (v : Nat → Nat) (p : Nat) : Bool :=
  let x := outputTx (v (aPipe p 8))
  let others := if mstMode s x then (liveOn s x).filter fun q => q ≠ p else []
  let fec := bit (v (aPipe p 8)) 0 || others.any fun q => bit (regW s (aPipe q 8)) 0
  let need := others.foldl (fun n q => frAdd n (streamNeed (regW s) q)) (streamNeed v p)
  frLe need (linkCapacity s x fec) && (mstMode s x || !bit (v (aPipe p 8)) 4)

/-! ## Link events and states (R476, R477) -/

def kindUnit (x : Nat) : List Byte := by1 (boolNat (isDsi x)) ++ by1 (if isDsi x then x - 4 else x)

def rateLanes (s : State) (x : Nat) : List Byte :=
  let w := regW s (aTx x 0)
  if isDsi x then by1 (bits w 5 0) ++ by1 (bits w 7 6 + 1)
  else match (getTx s x).trained with
    | some (r, l) => by1 r ++ by1 (lanesOf l)
    | none => zeros 2

/-- DSP_LINK_EVENT, to the owner and to each tenant with a pipe routed to the transmitter. -/
def linkEvent (s : State) (x change pipe : Nat) : State :=
  let ts := (0 :: (routedTo s x).filterMap (pipeHolder s)).eraseDups
  let body := kindUnit x ++ by1 change ++ rateLanes s x ++ by1 pipe ++ zeros 2 ++ le4 (tbStamp s 0) ++ zeros 4
  ts.foldl (fun s t => event s t opDspLinkEvent stOk 0 body) s

def dspErr (s : State) (p bitNo : Nat) : State :=
  setRegW s (aPipe p 0x50) (regW s (aPipe p 0x50) ||| 2 ^ bitNo)

/-- The link no longer carries anything. -/
def loseLink (s : State) (x : Nat) : State :=
  (liveOn s x).foldl (fun s p => modPipe (dspErr s p 2) p fun y => { y with carried := false }) s

/-- A transmitter's link is up: a DSI link runs whenever it is on and its reference is there (R599). -/
def linkTrained (s : State) (x : Nat) : Bool :=
  if isDsi x then txOn s x && bit s.chip.clk 5 else (getTx s x).trained.isSome

/-- Streams that the trained link cannot carry stay idle, each reported as it becomes so. -/
def refreshIdle (s : State) (x : Nat) : State :=
  if linkTrained s x then
    let idle := (liveOn s x).filter fun p => !streamFits s (regW s) p
    let new := idle.filter fun p => !(getTx s x).idle.elem p
    new.foldl (fun s p => linkEvent (modPipe s p fun y => { y with carried := false }) x 7 p)
      (setTx s x { getTx s x with idle := idle })
  else s

/-- The state of a transmitter (R473). -/
def txState (s : State) (x : Nat) : Nat :=
  let y := getTx s x
  if !txOn s x then 0
  else if isDsi x then (if linkTrained s x then 3 else 2)
  else if !y.hpd then 1
  else if y.trained.isSome then 3
  else if y.failed then 4
  else 2

/-- A transmitter whose state differs from the one before takes the time of the change (R473). -/
def stampTx (old s : State) (x : Nat) : State :=
  if txState s x = txState old x then s else setTx s x { getTx s x with changed := tbStamp s 0 }

/-- Training begins when the transmitter is on and a sink is there (R445). -/
def startTraining (s : State) (x : Nat) : State :=
  if txOn s x && !isDsi x && (getTx s x).hpd then
    setTx s x { getTx s x with training := true, trained := none, failed := false, idle := [] }
  else s

/-- HPD_CHANGE: a sink is attached, with what its DPCD and EDID say, or detached. -/
def onHpdChange (x : Nat) (sink : Option SinkCaps) (s : State) : State :=
  if !isRunning s then s
  else
    match sink with
    | some c =>
      stampTx s (startTraining (linkEvent (setTx s x { getTx s x with hpd := true, sink := some c }) x 0 0xFF) x) x
    | none =>
      if !(getTx s x).hpd then s
      else
        stampTx s (linkEvent (loseLink (setTx s x { getTx s x with
          hpd := false, sink := none, training := false, trained := none, failed := false, idle := [] }) x) x 1 0xFF) x

/-- IRQ_HPD: lost link status draws a retrain. -/
def onIrqHpd (x : Nat) (lost : Bool) (s : State) : State :=
  if isRunning s && lost && (getTx s x).trained.isSome then
    stampTx s (startTraining (linkEvent (loseLink s x) x 4 0xFF) x) x
  else s

/-- What training may reach: within the configuration and the sink. -/
def resultPossible (s : State) (x rate lanes : Nat) : Bool :=
  let w := regW s (aTx x 0)
  decide (rate ≤ bits w 2 0) && decide (lanes ≤ bits w 5 4)
  && (match (getTx s x).sink with
      | some c => decide (rate ≤ c.maxRate.val) && decide (lanes ≤ c.maxLanes.val)
      | none => false)

/-- LINK_TRAINING_DONE: training waits while the display processor restarts (R542). -/
def onLinkTrainingDone (x : Nat) (r : TrainResult) (s : State) : State :=
  if !isRunning s || !(getTx s x).training || restarting s 4 then s
  else
    match r with
    | .trained rate lanes =>
      if bit s.chip.clk 4 && resultPossible s x rate.val lanes.val then
        refreshIdle (stampTx s (linkEvent (setTx s x { getTx s x with
          training := false, trained := some (rate.val, lanes.val) }) x 2 0xFF) x) x
      else s
    | .failed => stampTx s (linkEvent (setTx s x { getTx s x with training := false, failed := true }) x 3 0xFF) x

def execHpdChange (tx : Fin 4) (sink : Option SinkCaps) (s : State) : Out := .next (onHpdChange tx.val sink s)
def execIrqHpd (tx : Fin 4) (linkLost : Bool) (s : State) : Out := .next (onIrqHpd tx.val linkLost s)
def execLinkTrainingDone (tx : Fin 4) (result : TrainResult) (s : State) : Out :=
  .next (onLinkTrainingDone tx.val result s)

/-! ## DSP_TX_CONFIG and DSP_TX_STATUS (R478) -/

def txRelation (s : State) (x old new : Nat) : Option (Nat × Nat) :=
  if putBits old 9 9 0 ≠ putBits new 9 9 0 ∧ liveOn s x ≠ [] then some (stBusy, dtResourceEnabled) else none

def txEffect (s : State) (x old new : Nat) : State :=
  if bit new 9 && !bit old 9 then startTraining (setTx s x { getTx s x with changed := tbStamp s 0 }) x
  else if bit old 9 && !bit new 9 then
    let was := if isDsi x then bit s.chip.clk 5 else (getTx s x).trained.isSome
    let s := loseLink (setTx s x { getTx s x with
      training := false, trained := none, failed := false, idle := [], changed := tbStamp s 0 }) x
    if was then linkEvent s x 4 0xFF else s
  else s

def txStatusWord (s : State) (x : Nat) : Nat :=
  let fec := (liveOn s x).any fun p => bit (regW s (aPipe p 8)) 0
  let up := linkTrained s x
  let cap := if up then (frFloor (linkCapacity s x fec)).toNat / 10000 else 0
  let w := regW s (aTx x 0)
  if isDsi x then cap * 2 ^ 16 + (if up then bits w 7 6 * 2 ^ 6 + 2 else 0) + 4 * boolNat (txOn s x)
  else
    let (r, l) := (getTx s x).trained.getD (0, 0)
    cap * 2 ^ 16 + l * 2 ^ 6 + r * 2 ^ 3 + 4 * boolNat (getTx s x).hpd + 2 * boolNat up

/-! ## DSP_SCAN (R473) -/

def sinkFeatures (s : State) (x : Nat) : Nat :=
  match (getTx s x).sink with
  | some c => boolNat c.dsc + 2 * boolNat c.adaptiveSync + 4 * boolNat c.mst
  | none => 0

def scanEntry (s : State) (x : Nat) : List Byte :=
  kindUnit x ++ by1 (txState s x) ++ rateLanes s x ++ by1 (sinkFeatures s x)
  ++ by1 ((liveOn s x).foldl (fun m p => m + 2 ^ p) 0) ++ zeros 1
  ++ le2 (match (getTx s x).sink with | some c => c.edidBytes.toNat | none => 0) ++ zeros 2
  ++ le4 (getTx s x).changed

def dspScanReply (s : State) : List Byte := le2 6 ++ zeros 2 ++ ((List.range 6).map (scanEntry s)).flatten

def onDspScan (rq : Req) (s : State) : State :=
  take (.dspScan rq) s fun op _ _ rq => replyOk s op rq (dspScanReply s)

def execDspScan (rq : Req) (s : State) : Out := .next (onDspScan rq (hear rq s))

/-! ## DSP_AUX and DSP_DSI_CMD (R472, R474, R475) -/

/-- The owner, or a tenant that owns a pipe routed to the transmitter. -/
def mayUseTx (s : State) (t x : Nat) : Bool := t = 0 || (routedTo s x).any fun p => pipeHolder s p = some t

def auxFieldsOk (a : DspAuxArgs) : Bool :=
  let n := a.length.toNat
  decide (a.unit.toNat ≤ 3) && decide (a.op.toNat ≤ 2) && decide (1 ≤ n)
  && (if a.op = 2 then decide (n ≤ 256) && decide (a.address.toNat ≤ 32767)
      else decide (n ≤ 16) && decide (a.address.toNat ≤ 0xFFFFF))

def onDspAux (rq : Req) (a : DspAuxArgs) (s : State) : State :=
  take (.dspAux rq a) s fun op t _ rq =>
    checked s op rq
      [ (!auxFieldsOk a, (stBadParam, dtValueRange)),
        (!mayUseTx s t a.unit.toNat || (a.op = 1 && decide (t ≠ 0)), (stNotPermitted, dtPermissionClass)) ]
      (accept s op rq t stAccepted [] fun s r =>
        let x := a.unit.toNat
        setTx s x { getTx s x with aux := (getTx s x).aux ++ [(t, r, a)] })

/-- AUX_DONE: the transfer in front ends; during link training, and while the transmitters' reference is lost (R45), it
waits. -/
def onAuxDone (x : Nat) (r : LinkReply) (s : State) : State :=
  match (getTx s x).aux with
  | [] => s
  | (t, q, a) :: rest =>
    if !isRunning s || restarting s 4 || (getTx s x).training || ((getTx s x).hpd && !bit s.chip.clk 4) then s
    else
      let s := setTx s x { getTx s x with aux := rest }
      let head := b32 a.address ++ b16 a.length ++ zeros 2
      if !(getTx s x).hpd then complete s t q stNotEnabled 0 head
      else
        match r with
        | .acknowledged d => complete s t q stOk 0 (head ++ if a.op = 1 then [] else fit a.length.toNat d)
        | .noAcknowledge => complete s t q stTimeout 0 head

def dsiFieldsOk (a : DsiCmdArgs) : Bool :=
  let ty := a.dataType.toNat
  let rd := ty = 0x06
  decide (a.unit.toNat ≤ 1) && (ty = 0x05 || ty = 0x15 || ty = 0x39 || rd) && decide (a.length.toNat ≤ 256)
  && (if rd then decide (1 ≤ a.readLength.toNat) && decide (a.readLength.toNat ≤ 64) else a.readLength = 0)

def onDspDsiCmd (rq : Req) (a : DsiCmdArgs) (s : State) : State :=
  take (.dspDsiCmd rq a) s fun op t _ rq =>
    let x := 4 + a.unit.toNat
    checked s op rq
      [ (a.reserved ≠ 0, (stBadParam, dtReservedNonzero)),
        (!dsiFieldsOk a, (stBadParam, dtValueRange)),
        (!mayUseTx s t x, (stNotPermitted, dtPermissionClass)) ]
      (accept s op rq t stAccepted [] fun s r =>
        setTx s x { getTx s x with dsi := (getTx s x).dsi ++ [(t, r, a, none)] })

/-- The line that a pipe scans, by the time since its frame start (R451); none before the first. -/
def lineNow (s : State) (p : Nat) : Nat :=
  if !(getPipe s p).time.started then 0
  else
  let l := (timing s p).line
  let d := frSub (pipeNow s p) (getPipe s p).time.last
  d.num.toNat * l.den / (d.den * max l.num.toNat 1)

def inVblank (s : State) (p : Nat) : Bool := !(getPipe s p).time.started || decide ((timing s p).vactive ≤ lineNow s p)

def dsiData (a : DsiCmdArgs) (d : List Byte) : List Byte := if a.dataType = 0x06 then fit a.readLength.toNat d else []

/-- DSI_CMD_SEND: in vertical blanking of the pipe routed here, or at once when none is; while the transmitters'
reference is lost it waits (R45). A panel that does not acknowledge has 20 ms. -/
def onDsiCmdSend (u : Nat) (r : LinkReply) (s : State) : State :=
  let x := 4 + u
  match (getTx s x).dsi with
  | [] => s
  | (t, q, a, due) :: rest =>
    if !isRunning s || restarting s 4 || !bit s.chip.clk 5 || !((liveOn s x).all (inVblank s)) then s
    else
      let s := if due.isNone then out s (.dsiSend u a) else s
      match r with
      | .acknowledged d => complete (setTx s x { getTx s x with dsi := rest }) t q stOk 0 (dsiData a d)
      | .noAcknowledge =>
        setTx s x { getTx s x with dsi := (t, q, a, some (due.getD (s.now + 20 * msTicks))) :: rest }

/-- DSI_CMD_TIMEOUT. -/
def onDsiCmdTimeout (u : Nat) (s : State) : State :=
  let x := 4 + u
  match (getTx s x).dsi with
  | (t, q, _, some due) :: rest =>
    if isRunning s && decide (due ≤ s.now) then
      complete (setTx s x { getTx s x with dsi := rest }) t q stTimeout 0 []
    else s
  | _ => s

def execDspAux (rq : Req) (a : DspAuxArgs) (s : State) : Out := .next (onDspAux rq a (hear rq s))
def execAuxDone (tx : Fin 4) (result : LinkReply) (s : State) : Out := .next (onAuxDone tx.val result s)
def execDspDsiCmd (rq : Req) (a : DsiCmdArgs) (s : State) : Out := .next (onDspDsiCmd rq a (hear rq s))
def execDsiCmdSend (unit : Fin 2) (result : LinkReply) (s : State) : Out := .next (onDsiCmdSend unit.val result s)
def execDsiCmdTimeout (unit : Fin 2) (s : State) : Out := .next (onDsiCmdTimeout unit.val s)

/-! ## Fallback images (R465) -/

def fallbackBytes (a : FallbackArgs) : Nat := a.pitch.toNat * a.height.toNat

def fallbackFieldsOk (a : FallbackArgs) : Bool :=
  let dim (v : Nat) : Bool := decide (1 ≤ v) && decide (v ≤ 8192)
  decide (a.format.toNat ≤ 4) && decide (1 ≤ a.factor.toNat) && decide (a.factor.toNat ≤ 8)
  && dim a.width.toNat && dim a.height.toNat

def fallbackSizeOk (a : FallbackArgs) : Bool :=
  decide (fallbackBytes a ≤ 16777216) && a.pitch.toNat % 64 = 0
  && decide (a.width.toNat * fmtBytes a.format.toNat ≤ a.pitch.toNat)

/-- A VA of 0 removes the image: only the pipe is looked at. -/
def fallbackChecks (s : State) (t : Nat) (a : FallbackArgs) : List (Bool × (Nat × Nat)) :=
  let set := a.va ≠ 0
  [ (a.reserved0 ≠ 0 || a.reserved1 ≠ 0, (stBadParam, dtReservedNonzero)),
    (decide (7 < a.pipe.toNat) || (set && !fallbackFieldsOk a), (stBadParam, dtValueRange)),
    (pipeHolder s a.pipe.toNat ≠ some t && !(t = 0 && pipeTenant s a.pipe.toNat = 0), (stNotPermitted, dtPermissionClass)),
    (set && !fallbackSizeOk a, (stBadParam, dtFallbackSize)),
    (set && !liesIn s t (fun m => m.read) a.va.toNat (fallbackBytes a), (stBadParam, dtDspRegion)) ]

def fallbackImage (s : State) (t : Nat) (a : FallbackArgs) : Option FallbackImage :=
  if a.va = 0 then none
  else some { format := a.format.toNat, factor := a.factor.toNat, width := a.width.toNat,
              height := a.height.toNat, pitch := a.pitch.toNat, bytes := hbmRead s t a.va.toNat (fallbackBytes a) }

def onDspFallbackSet (rq : Req) (a : FallbackArgs) (s : State) : State :=
  take (.dspFallbackSet rq a) s fun op t _ rq =>
    checked s op rq (fallbackChecks s t a)
      (accept s op rq t stAccepted [] fun s r =>
        let im := fallbackImage s t a
        let good : Bool := a.va = 0 || (firstBad s t a.va.toNat (fallbackBytes a)).isNone
        modPipe s a.pipe.toNat fun x => { x with storing := x.storing ++ [(t, r, good, im)] })

/-- FALLBACK_COPY_DONE: the image stands in the pipe's store. An uncorrectable error in it is never passed on as data
(R155; DESIGN CHOICE, log entry 35: the store stays, and the completion says so). -/
def onFallbackCopyDone (p : Nat) (s : State) : State :=
  match (getPipe s p).storing with
  | [] => s
  | (t, r, good, im) :: rest =>
    if !isRunning s || restarting s 4 then s
    else if good then complete (modPipe s p fun x => { x with stored := im, storing := rest }) t r stOk 0 []
    else complete (modPipe (countUncorr s) p fun x => { x with storing := rest }) t r stEccUncorrectable dtEccHbm []

def execDspFallbackSet (rq : Req) (a : FallbackArgs) (s : State) : Out := .next (onDspFallbackSet rq a (hear rq s))
def execFallbackCopyDone (pipe : Fin 8) (s : State) : Out := .next (onFallbackCopyDone pipe.val s)

end Sys2Proof.Machine
end

