-- ==== Sys2Proof/Machine/Display.lean ====
section
/-! DEFINITION. Machine/Display.lean: pipes: what enabling and apply check (R450, R458, R466), frame
starts (R451 to R457, R462 to R464), tearing effect (R456), scan-out and composition (R459, R460, R464,
R465, R468, R469), and memory sleep (R470, R471). -/

namespace Sys2Proof.Machine

open Sys2Proof

/-! ## The checks of R466 -/

/-- R450, with vtotal_max not below vtotal_min (R449). -/
def timingValid (t : Timing) : Bool :=
  decide (64 ≤ t.hactive) && decide (t.hactive ≤ 8192) && t.hactive % 4 = 0
  && decide (t.hactive + 64 ≤ t.htotal) && decide (t.htotal ≤ 16384) && t.htotal % 4 = 0
  && decide (t.hactive ≤ t.hstart) && decide (4 ≤ t.hwidth) && decide (t.hstart + t.hwidth ≤ t.htotal)
  && decide (64 ≤ t.vactive) && decide (t.vactive ≤ 8192)
  && decide (t.vactive + 1 ≤ t.vstart) && decide (1 ≤ t.vwidth)
  && decide (t.vstart + t.vwidth + 1 ≤ t.vmin) && decide (t.vmin ≤ 16384) && decide (t.vmin ≤ t.vmax)

def planeOn (v : Nat → Nat) (p k : Nat) : Bool := bit (v (aPlane p k 0)) 31
def planeFactor (v : Nat → Nat) (p k : Nat) : Nat := bits (v (aPlane p k 0)) 22 20 + 1
def planeVa (v : Nat → Nat) (p k : Nat) : Nat := v (aPlane p k 0x10) + bits (v (aPlane p k 0x14)) 15 0 * 2 ^ 32

/-- R458 for an enabled plane; the presented plane takes no address from its registers. -/
def planeValid (v : Nat → Nat) (t : Timing) (p k : Nat) : Bool :=
  let size := v (aPlane p k 0x04)
  let pos := v (aPlane p k 0x08)
  let (w, h) := (bits size 15 0, bits size 31 16)
  let f := planeFactor v p k
  let pitch := v (aPlane p k 0x0C)
  decide (1 ≤ w) && decide (w ≤ 8192) && decide (1 ≤ h) && decide (h ≤ 8192)
  && decide (bits pos 15 0 + w * f ≤ t.hactive) && decide (bits pos 31 16 + h * f ≤ t.vactive)
  && pitch % 64 = 0 && decide (w * fmtBytes (bits (v (aPlane p k 0)) 26 24) ≤ pitch)
  && (bits (v (aPipe p 0)) 5 4 = k || planeVa v p k % 64 = 0)

/-- R447. -/
def dscValid (v : Nat → Nat) (t : Timing) (p : Nat) : Bool :=
  let o := v (aPipe p 8)
  let d := v (aPipe p 0x28)
  let n := 2 ^ bits d 1 0
  let sh := bits d 15 4
  !bit o 0 || (t.hactive % n = 0 && decide (t.hactive / n ≤ 5120) && decide (8 ≤ sh) && t.vactive % sh = 0
    && decide (96 ≤ bits d 25 16) && decide (bits d 25 16 ≤ 48 * (if bit o 1 then 10 else 8) - 1))

def valuesValid (v : Nat → Nat) (p : Nat) : Bool :=
  let t := timingOf v p
  timingValid t && ((List.range 4).all fun k => !planeOn v p k || planeValid v t p k) && dscValid v t p

/-- A pipe in sync mode 3 belongs to an enabled wall, in its time base (R511). -/
def wallModeOk (s : State) (t : Timing) : Bool := t.sync ≠ 3 || (wallOn s && t.base = wallBase s)

/-- Check 2. -/
def modeValid (s : State) (v : Nat → Nat) (p : Nat) : Bool :=
  let x := outputTx (v (aPipe p 8))
  let m := (timingOf v p).sync
  let caps := if (getTx s x).trained.isSome then (getTx s x).sink else none
  wallModeOk s (timingOf v p) && !((m = 1 || m = 3) && isDsi x) && !(m = 2 && !(isDsi x && bit (regW s (aTx x 0)) 8))
  && (match caps with
      | some c => (c.adaptiveSync || !(m = 1 || m = 3)) && (c.dsc || !bit (v (aPipe p 8)) 0)
      | none => true)

def planeShowable (s : State) (t : Nat) (v : Nat → Nat) (p k : Nat) : Bool :=
  liesIn s t (fun m => m.pinned && m.display && m.read) (planeVa v p k)
    (v (aPlane p k 0x0C) * bits (v (aPlane p k 0x04)) 31 16)

def othersOn (s : State) (p : Nat) : List Nat := (List.range 8).filter fun q => q ≠ p && pipeOn s q

/-- The register values that a pipe has, and those that it takes at its next frame start once apply is set: no two pipes
may come to name one stream, nor the pixel rates to pass their limit (R442, R443). -/
def comingValues (s : State) (q : Nat) : List (Nat → Nat) :=
  if (getPipe s q).apply then [regW s, pendW s] else [regW s]

/-- Checks 4 and 5: what a pipe shares with the others that are not OFF. -/
def sharedFaults (s : State) (v : Nat → Nat) (p : Nat) : List (Bool × (Nat × Nat)) :=
  [ ((othersOn s p).any fun q => (comingValues s q).any fun w => outputStream (w (aPipe q 8)) = outputStream (v (aPipe p 8)),
      (stBusy, dtOutputInUse)),
    (decide (16000000 < (timingOf v p).khz + ((othersOn s p).map fun q =>
      ((comingValues s q).map fun w => (timingOf w q).khz).foldl max 0).sum), (stNoResource, dtPixelBudget)) ]

/-- The checks of R466 in order: the first two, or all seven. -/
def pipeFault (s : State) (v : Nat → Nat) (p : Nat) (all : Bool) : Option (Nat × Nat) :=
  let t := timingOf v p
  let rest : List (Bool × (Nat × Nat)) :=
    [ (frLe t.period (usNs (rField s (aGal p 4) 15 0)), (stBadParam, dtDspLead)) ] ++ sharedFaults s v p ++
    [ (!txOn s (outputTx (v (aPipe p 8))) || !streamFits s v p, (stNoResource, dtLinkBudget)),
      ((List.range 4).any fun k => planeOn v p k && k ≠ bits (v (aPipe p 0)) 5 4
          && !planeShowable s (pipeTenant s p) v p k, (stBadParam, dtDspRegion)) ]
  firstFault ([ (!valuesValid v p, (stBadParam, dtValueRange)), (!modeValid s v p, (stBadParam, dtDspMode)) ]
    ++ if all then rest else [])

/-! ## Enabling, blanking, stopping (R466, R467) -/

/-- The anchor goes; holding stays until a new one is shown (R354). -/
def noAnchor (g : GalRun) : GalRun := { buffer := g.buffer, holding := g.holding }

/-- FUNC_ENABLE of target 2: the pipe becomes ACTIVE, with its first frame start vtotal_min lines
away, or at the first agreed frame start in wall mode. -/
def enablePipe (s : State) (p : Nat) : State :=
  let t := timing s p
  let now := pipeNow s p
  let s := setRegW (setRegW s (aPipe p 0x4C) 0) (aPipe p 0x54) 0
  let s := modPipe s p fun x => { x with
    state := 2, decided := none, cands := [], shown := none, transparent := true, fallback := false, resume := false,
    line := 0, prevLines := [], func := {}, source := 1, floor := s.sched.nextOrder, gal := noAnchor x.gal, fg := { x.fg with claims := [] },
    time := { x.time with
      last := now, started := false, leaderless := t.sync = 3 && s.net.wall.leaderless, next := if t.sync = 3 then none else some (frAdd now t.period), ready := none,
      period := t.period, teEdges := [], agreed := none } }
  refreshIdle (armNext s p (if t.sync = 3 then gridAfter t now t.vmax else frAdd now t.period)) (pipeTx s p)

/-- A pipe that blanks goes over to fixed blanking, but for wall mode: its next frame start is vtotal_min lines after the
last, or, once those have passed, at the next line (DESIGN CHOICE, log entry 34). -/
def armBlank (s : State) (p : Nat) : State :=
  let t := timing s p
  let x := (getPipe s p).time
  if t.sync = 3 ∨ t.sync = 0 then s
  else
    let late := frSub (pipeNow s p) x.last
    let n := max (t.vmin : Int) (frCeil (fr (late.num * t.line.den) (late.den * max t.line.num.toNat 1)))
    armNext (modPipe s p fun y => { y with time := { y.time with next := none, ready := none } }) p
      (frAdd x.last (frScale t.line n))

/-- The pipe becomes BLANK: committed buffers that no frame has shown are discarded. -/
def blankPipe (s : State) (p : Nat) : State :=
  armBlank (modPipe s p fun x => { x with
    state := 1, decided := none, cands := [], shown := none, transparent := true, source := 3, gal := noAnchor x.gal }) p

/-- DSP_CONTROL.stop on a BLANK pipe. -/
def stopPipe (s : State) (p : Nat) : State :=
  if (getPipe s p).state = 1 then
    let s := modPipe s p fun x => { x with state := 0, carried := false, source := 0, line := 0, prevLines := [],
                                           fallback := false, resume := false, fg := { x.fg with claims := [] },
                                           time := { leads := x.time.leads, frameTime := x.time.frameTime } }
    refreshIdle s (pipeTx s p)
  else s

/-- The pipe's registers return to reset and its store is emptied: bit p has left TEN_PIPES (R449,
R465). -/
def resetPipe (s : State) (p : Nat) : State :=
  let out (a : Nat) : Bool := decide (a < aPipe p 0) || decide (aPipe p 0x1000 ≤ a)
  let s := { s with regs := s.regs.filter fun r => out r.1, pend := s.pend.filter fun r => out r.1 }
  modPipe s p fun x => { x with stored := none, image := none, colour := 0, apply := false,
                                time := { x.time with frameTime := {} } }

/-! ## Pending values (R462, R463) -/

/-- What an applied change discards buffers for. -/
def geometry (s : State) (p : Nat) : Timing × Nat × Nat × Nat :=
  let k := presentedPlane s p
  ({ timing s p with base := 0, sync := 0 }, rField s (aPlane p k 0) 26 24, regW s (aPlane p k 4), regW s (aPlane p k 0x0C))

def pendOf (s : State) (p : Nat) : Tab Word := s.pend.filter fun r => decide (aPipe p 0 ≤ r.1) && decide (r.1 < aPipe p 0x1000)

/-- A loop presents to the pipe, or a queued step does. -/
def presentedTo (s : State) (p : Nat) : Bool :=
  s.sched.loops.any fun l => l.2.pipe = some p || l.2.queue.any fun st => st.present = some p

/-- A pipe that runs goes over to another time base: its times, and those of steps that it shows, count in the new one
(DEDUCED, log entry 42, from R451). -/
def rebase (s : State) (p : Nat) (d : Frac) : State :=
  let b := rField s (aPipe p 0) 9 8
  let move (l : Loop) (st : Step) : Step :=
    if (st.present <|> l.pipe) = some p then
      { st with deadline := st.deadline.map fun x => (b, frAdd x.2 d), ready := st.ready.map (frAdd d),
                f0 := frAdd st.f0 d, eligibleAt := frAdd st.eligibleAt d }
    else st
  let s := modPipe s p (shiftPipe d)
  { s with sched := { s.sched with loops := tabMap (fun _ l => { l with queue := l.queue.map (move l) }) s.sched.loops } }

/-- Every pending value of the pipe takes effect together. -/
def applyPending (s : State) (p : Nat) : State :=
  let before := geometry s p
  let tx := pipeTx s p
  let base := rField s (aPipe p 0) 9 8
  let now := pipeNow s p
  let s := (pendOf s p).foldl (fun s r => setRegW s r.1 r.2.toNat) s
  let s := { s with pend := s.pend.filter fun r => !(decide (aPipe p 0 ≤ r.1) && decide (r.1 < aPipe p 0x1000)) }
  let s := modPipe s p fun x => { x with apply := false }
  let s := if rField s (aPipe p 0) 9 8 = base ∨ (getPipe s p).state = 0 then s else rebase s p (frSub (pipeNow s p) now)
  let s := if geometry s p = before then s
    else modPipe s p fun x => { x with
      floor := x.applyOrder, cands := x.cands.filter fun b => decide (x.applyOrder ≤ b.order), shown := none,
      transparent := true, prevLines := [], gal := noAnchor x.gal }
  let s := if presentedTo s p then s else modPipe s p fun x => { x with resume := true }
  let s := refreshIdle s (pipeTx s p)
  if tx = pipeTx s p then s else refreshIdle s tx

/-- The ready instant of R454: the first moment at which a buffer is due or apply is set. -/
def updateReady (s : State) (p : Nat) (at_ : Frac) : State :=
  let x := getPipe s p
  if x.time.ready.isNone && (x.apply || (dueBuffer x x.time.deadline).isSome) then
    modPipe s p fun y => { y with time := { y.time with ready := some at_ } }
  else s

/-- DSP_COMMIT.apply, once checked. -/
def applyEffect (s : State) (p : Nat) : State :=
  let s := modPipe s p fun x => { x with apply := true, applyOrder := s.sched.nextOrder }
  if (getPipe s p).state = 0 then applyPending s p else wallReady (updateReady s p (pipeNow s p))

/-- An output stream or a pixel rate that is written while apply is set joins what the next frame start applies: checks 4
and 5 of R466 hold for it too, so that no two pipes come to name one stream, nor the pixel rates to pass their limit
(R442, R443; DEDUCED, log entry 35). -/
def armedFault (s s' : State) (p off : Nat) : Option (Nat × Nat) :=
  if (off = 8 ∨ off = 0x0C) ∧ (getPipe s p).apply then firstFault (sharedFaults s' (pendW s') p) else none

/-- vtotal_max does not lie below vtotal_min (R449), among the values that the request leaves pending. -/
def vrrFault (s' : State) (p off : Nat) : Option (Nat × Nat) :=
  let t := timingOf (pendW s') p
  if off = 0x20 ∧ t.vmax < t.vmin then some (stBadParam, dtValueRange) else none

/-- What forbids a write of a pipe register. -/
def pipeRelation (s s' : State) (p off new : Nat) : Option (Nat × Nat) :=
  if off = 4 ∧ bit new 0 then pipeFault s' (pendW s') p ((getPipe s p).state ≠ 0)
  else armedFault s s' p off <|> vrrFault s' p off

/-- A DSI output names unit 0 or 1; stream 1 exists in MST mode alone (R442, R449). -/
def outputWordOk (s : State) (w : Nat) : Bool :=
  (!bit w 12 || decide (bits w 9 8 ≤ 1)) && (!bit w 4 || mstMode s (outputTx w))

/-! ## Frame starts -/

/-- What the presented plane shows from a frame start on: what was decided, or the frame shown last; for a tenant that is
orphaned or fell back, the last committed one (R122). -/
def showDecided (s : State) (p : Nat) (f : Frac) : State :=
  let x := getPipe s p
  let s := modPipe s p fun y => { y with decided := none }
  match x.decided with
  | some (.show va order) =>
    if order < x.floor then s
    else modPipe s p fun y => { y with
      shown := some va, transparent := false, source := 0,
      gal := { y.gal with anchor := some va, old := [], anchorAt := f, chain := 0, holding := false, showing := false } }
  | some (.extrapolate _ b began done) =>
    if x.shown.isNone then modPipe s p fun y => { y with source := 1 } else galliardFrame s p b began done f
  | some (.hold r) => holdFrame s p r
  | some .repeat_ => modPipe s p fun y => { y with
      source := 1, gal := if suppressed s p then { y.gal with showing := false } else y.gal }
  | none => s

/-- A step of the bound loop whose frame starts have moved (R455). -/
def shiftDeadline (left : List Claim) (by_ : Frac) (st : Step) : Step :=
  if left.any fun c => c.step = st.order ∧ c.sub = 0 then
    { st with deadline := st.deadline.map fun d => (d.1, frSub d.2 by_), f0 := frSub st.f0 by_ }
  else st

/-- Claims of this frame start go; a frame start before its latest time moves the later ones. -/
def passClaims (s : State) (p : Nat) (fmax f : Frac) : State :=
  let early := frSub fmax f
  let left := shiftClaims (getFg s p).claims early
  let s := modPipe s p fun x => { x with
    fg := { x.fg with claims := left },
    cands := x.cands.filter fun b => b.subs = 0 || left.any fun c => c.step = b.order }
  { s with sched := { s.sched with loops := tabMap (fun _ l =>
      { l with queue := l.queue.map (shiftDeadline left early) }) s.sched.loops } }

/-- A tenant's pipes show the fallback image (R464): FALLBACK, or no partition. -/
def tenantGone (s : State) (p : Nat) : Bool :=
  match pipeHolder s p with
  | some t => (getTen s t).state ≠ .active && (getTen s t).state ≠ .orphaned
  | none => true

def updateFallback (s : State) (p : Nat) : State :=
  let x := getPipe s p
  if x.state ≠ 2 then s
  else if tenantGone s p then modPipe s p fun y => { y with fallback := true, resume := false, source := 3 }
  else if x.fallback ∧ !x.resume then modPipe s p fun y => { y with source := 3 }
  else modPipe s p fun y => { y with fallback := false, resume := false }

/-- A pipe whose DRAIN ends at this frame start blanks, and the disable completes (R193, R467). -/
def drainPipe (s : State) (p : Nat) : State :=
  if (getPipe s p).state = 3 then
    let (s, f) := endFunc (blankPipe s p) 2 p (getPipe s p).func
    modPipe s p fun x => { x with func := f }
  else s

/-- Errors that a frame start itself shows: a missed agreement, a missing edge. -/
def frameErrors (s : State) (p : Nat) : State :=
  let x := getPipe s p
  match syncMode s p with
  | 2 => if (getTx s (pipeTx s p)).teLost then dspErr s p 4 else s
  | 3 => if x.time.agreed.isNone && !x.time.leaderless then dspErr s p 3 else s
  | _ => s

def teDelay (s : State) (p : Nat) : Frac := frScale (timing s p).line (bits (regW s (aPipe p 0x2C)) 27 16)

/-- Where the next frame start stands once this one has begun: a tearing effect that is lost goes on
at P, and the first edge accepted whose frame start is still to come fixes the next. -/
def nextFixed (s : State) (p : Nat) (f : Frac) : Option Frac :=
  if syncMode s p = 2 then
    let t := timing s p
    if (getTx s (pipeTx s p)).teLost then some (frAdd f t.period)
    else
      (((getPipe s p).time.teEdges.reverse).map (frAdd (teDelay s p))).find? (frLt f)
  else none

/-- The decision of a frame start whose edge was accepted before this one began took place at that edge (R456): it takes the
buffers that had been committed then (DEDUCED, log entry 36: what it reads, it reads now). -/
def edgeDecision (s : State) (p : Nat) : State :=
  let x := (getPipe s p).time
  match x.next with
  | some n =>
    let e := frSub n (teDelay s p)
    if syncMode s p = 2 ∧ (getPipe s p).state = 2 ∧ x.teEdges.elem e ∧ frLt e x.deadline then decideFrame s p e n else s
  | none => s

/-- Where a wall pipe's lines stand against the grid from this frame start on (R504). -/
def wallLine (s : State) (p : Nat) (f : Frac) : State :=
  if (timing s p).sync ≠ 3 then s
  else
    let d := gridPhase (timing s p) f
    modPipe s p fun y => { y with time := { y.time with phase := d, locked := decide (-50 ≤ d ∧ d ≤ 50) } }

/-! ### The DSC stream (R447). VESA DSC 1.2a, which R447 names, stands outside the manual: what an encoder puts into a
line is free (log entry 36), as many bytes as the bits per pixel give; of the picture parameter set the fields that R447
gives stand where that standard has them (PRESUMED, log entry 36), and the rest is free. -/

def sliceWidth (v : Nat → Nat) (p : Nat) : Nat := (timingOf v p).hactive / 2 ^ bits (v (aPipe p 0x28)) 1 0
/-- Bytes of one line of one slice. -/
def chunkBytes (v : Nat → Nat) (p : Nat) : Nat := ceilDiv (sliceWidth v p * bits (v (aPipe p 0x28)) 25 16) 128
def dscLineBytes (v : Nat → Nat) (p : Nat) : Nat := 2 ^ bits (v (aPipe p 0x28)) 1 0 * chunkBytes v p

def ppsBytes (s : State) (p : Nat) : List Byte :=
  let v := regW s
  let d := v (aPipe p 0x28)
  let free := fit 128 (Config.freeBytes s.fresh)
  let bpc := if bit (v (aPipe p 8)) 1 then 10 else 8
  by1 0x12 ++ zeros 2 ++ by1 (bpc * 16 + leAt free 3 1 % 16) ++ beBytes 2 (0x3000 + bits d 25 16)
  ++ beBytes 2 (timingOf v p).vactive ++ beBytes 2 (timingOf v p).hactive ++ beBytes 2 (bits d 15 4)
  ++ beBytes 2 (sliceWidth v p) ++ beBytes 2 (chunkBytes v p) ++ free.drop 16

def portOf (s : State) (p : Nat) : Option Nat :=
  let st := outputStream (regW s (aPipe p 8))
  streamPort s st.1 st.2

/-- The picture parameter set goes to the sink with each frame (PRESUMED, log entry 36). -/
def sendPps (s : State) (p : Nat) : State :=
  if (getPipe s p).carried && bit (regW s (aPipe p 8)) 0 then draw (out s (.pps p (portOf s p) (ppsBytes s p))) else s

/-- A line as it leaves: its pixels, or, compressed, as many bytes as the bits per pixel give. -/
def sendLine (s : State) (p n : Nat) (pixels : List Nat) : State :=
  if bit (regW s (aPipe p 8)) 0 then
    draw (out s (.dscLine p n (portOf s p) (fit (dscLineBytes (regW s) p) (Config.freeBytes s.fresh))))
  else out s (.line p n (portOf s p) pixels)

/-- The frame start of a pipe at an instant f (R451). -/
def startFrame (s : State) (p : Nat) (f : Frac) : State :=
  let s := if (getPipe s p).state = 2 ∧ (getPipe s p).decided.isNone then decideFrame s p f f else s
  let s := frameErrors s p
  let x := getPipe s p
  let now := pipeNow s p
  let s := if x.apply then applyPending s p else s
  let f := frAdd f (frSub (pipeNow s p) now)
  let s := if x.state = 2 then showDecided s p f else s
  let s := passClaims s p (getPipe s p).time.fmax f
  let s := drainPipe (exchangeBanks s p) p
  let s := modPipe s p fun y => { y with
    line := 0, carried := linkTrained s (pipeTx s p) && !(getTx s (pipeTx s p)).idle.elem p && hasPort s p,
    image := y.stored, colour := regW s (aPipe p 0x24) % 2 ^ 30,
    time := { y.time with
      period := frSub f y.time.last, last := f, started := true, frameTime := f, agreed := none, ready := none } }
  let s := modPipe s p fun y => { y with time := { y.time with next := nextFixed s p f } }
  let s := armNext (wallLine s p f) p (latestAfter s p f)
  let s := setRegW s (aPipe p 0x4C) ((regW s (aPipe p 0x4C) + 1) % 2 ^ 32)
  let s := edgeDecision (wallReady (updateReady (wallFrame (updateFallback s p) p) p f)) p
  let s := sendPps s p
  trace (refresh s) 5 ((pipeHolder s p).getD 0xFF) [p, regW s (aPipe p 0x4C), (getPipe s p).source]

/-- FRAME_START: once the next frame start has come. -/
def onFrameStart (p : Nat) (s : State) : State :=
  if !isRunning s || !pipeOn s p then s
  else
    match nextStart s p with
    | some f => if frLe f (pipeNow s p) then startFrame s p f else s
    | none => s

def execFrameStart (pipe : Fin 8) (s : State) : Out := .next (onFrameStart pipe.val s)

/-! ## A step presents (R148, R313) -/

/-- A bound step that commits past its last claimed deadline claims the first frame start whose
deadline follows. -/
def lateClaim (s : State) (p : Nat) (st : Step) (now : Frac) : State :=
  let x := getPipe s p
  if x.fg.claims.any fun c => c.step = st.order && frLe now (frSub c.fmax (usNs c.lead)) then s
  else
    let ok (n : Nat) (f : Frac) : Bool := afterClaims x.fg.claims n && frLe now (frSub f (usNs (leadFor s p f)))
    let f := firstFrame s p ok frameFuel 0 x.time.fmax
    modPipe s p fun y => { y with fg := { y.fg with claims := y.fg.claims ++ claimRun s p st.order 1 (st.subs - 1) f.1 f.2 } }

/-- A committed step's buffer goes to its pipe; a pipe that shows its fallback image may return to
the tenant's content. -/
def presentCommit (s : State) (id : Nat) (l : Loop) (st : Step) : State :=
  let s := if (getTen s l.tenant).state = .active then
      (pipesOf s l.tenant).foldl (fun s p => modPipe s p fun x => { x with resume := x.fallback }) s
    else s
  match st.present with
  | none => s
  | some p =>
    let x := getPipe s p
    if x.state = 2 ∧ x.func.phase = .enabled ∧ x.floor ≤ st.order then
      let now := pipeNow s p
      let subs := if st.fg = some p then st.subs else 0
      let s := if 0 < subs then lateClaim s p st now else s
      let b : Cand := { va := st.presentVa, loop := id, order := st.order, at_ := now, subs := subs, pitch := subPitch s p }
      updateReady (modPipe s p fun y => { y with cands := y.cands ++ [b] }) p now
    else s

/-! ## Tearing effect (R456) -/

/-- The pipe that a DSI transmitter's tearing effect starts. -/
def tePipe (s : State) (u : Nat) : Option Nat := (liveOn s (4 + u)).find? fun p => syncMode s p = 2

def teAccepted (s : State) (p : Nat) (now : Frac) : Bool :=
  match (getPipe s p).time.teEdges with
  | [] => true
  | e :: _ => frLe (frDivNat (timing s p).period 2) (frSub now e)

/-- The last nine edges, and those whose frame starts are still to come. -/
def keptEdges (last delay : Frac) (l : List Frac) : List Frac :=
  (l.zipIdx.filter fun e => decide (e.2 < 9) || frLt last (frAdd e.1 delay)).map fun e => e.1

/-- TE_EDGE: an edge of the selected polarity. -/
def onTeEdge (u : Nat) (rising : Bool) (s : State) : State :=
  match tePipe s u with
  | none => s
  | some p =>
    let now := pipeNow s p
    if !isRunning s || rising = bit (regW s (aPipe p 0x2C)) 0 || !teAccepted s p now then s
    else
      let f := frAdd now (teDelay s p)
      let x := getPipe s p
      let lost := (getTx s (4 + u)).teLost
      let s := modPipe s p fun y => { y with time := { y.time with
        teEdges := keptEdges y.time.last (teDelay s p) (now :: y.time.teEdges), next := some (if lost then f else y.time.next.getD f) } }
      let s := if lost then
          linkEvent (setTx s (4 + u) { getTx s (4 + u) with teLost := false }) (4 + u) 6 p
        else s
      if x.state = 2 && x.decided.isNone && frLt now x.time.deadline && (lost || x.time.next.isNone) then decideFrame s p now f else s

/-- TE_TIMEOUT: no accepted edge within 1.5 × P. -/
def onTeTimeout (p : Nat) (s : State) : State :=
  let x := getPipe s p
  let from_ := x.time.teEdges.headD x.time.last
  let limit := frAdd from_ (fr ((timing s p).period.num * 3) ((timing s p).period.den * 2))
  let u := pipeTx s p
  if isRunning s && pipeOn s p && syncMode s p = 2 && x.time.next.isNone && !(getTx s u).teLost
      && frLe limit (pipeNow s p) then
    let s := modPipe (dspErr s p 4) p fun y => { y with time := { y.time with next := some (frAdd limit (teDelay s p)) } }
    linkEvent (setTx s u { getTx s u with teLost := true }) u 5 p
  else s

def execTeEdge (unit : Fin 2) (rising : Bool) (s : State) : Out := .next (onTeEdge unit.val rising s)
def execTeTimeout (pipe : Fin 8) (s : State) : Out := .next (onTeTimeout pipe.val s)

/-! ## Scan-out (R459, R460, R464, R465, R469) -/

/-- A code of n bits at 10 bits, by bit replication. -/
def widen (n v : Nat) : Nat :=
  match n with
  | 2 => v * 341
  | 5 => v * 32 + v
  | 6 => v * 16 + v / 4
  | 8 => v * 4 + v / 64
  | _ => v

/-- A pixel at 10 bits per channel: alpha, red, green, blue. -/
structure Pix where
  a : Nat
  r : Nat
  g : Nat
  b : Nat
  deriving DecidableEq, Repr

def pixOf (fmt w : Nat) : Pix :=
  match (fmtFields fmt).map fun f => widen (f.1 + 1 - f.2) (bits w f.1 f.2) with
  | [a, r, g, b] => ⟨a, r, g, b⟩
  | [r, g, b] => ⟨1023, r, g, b⟩
  | _ => ⟨0, 0, 0, 0⟩

def Pix.code (x : Pix) : Nat := x.a * 2 ^ 30 + x.r * 2 ^ 20 + x.g * 2 ^ 10 + x.b
def pixDecode (c : Nat) : Pix := ⟨bits c 39 30, bits c 29 20, bits c 19 10, bits c 9 0⟩

/-- A source pixel over what lies below it, with the plane's global alpha. -/
def blend (g : Nat) (sp d : Pix) : Pix :=
  let f (v : Nat) : Nat := (v * g + 511) / 1023
  let o (sv dv : Nat) : Nat := min 1023 (f sv + (dv * (1023 - f sp.a) + 511) / 1023)
  ⟨1023, o sp.r d.r, o sp.g d.g, o sp.b d.b⟩

/-- The fallback colour as of the last frame start (R449). -/
def fallbackPix (s : State) (p : Nat) : Pix := pixDecode (1023 * 2 ^ 30 + (getPipe s p).colour)

/-- Where the presented plane's row comes from: the buffer shown, or, while a Galliard frame shows, its
output buffer; a row that Galliard has not completed comes from the anchor (R357). -/
def presentedRow (s : State) (p : Nat) (x : Source2) (j : Nat) (at_ : Frac) : Nat × Bool :=
  let g := getGal s p
  if g.showing then
    if frLe (frAdd g.began (galNs x (j + 1))) at_ then
      (regPair s (aGal p 0x0C) + 65536 * g.buffer * rField s (aGal p 0x14) 15 0, false)
    else (x.va, true)
  else (x.va, false)

/-- One plane's row for an output line, as pixel codes; none where the plane does not cover the line or
is transparent; whether it was repaired, and a row taken from the anchor. -/
structure PlaneLine where
  row    : Option (List Nat) := none
  repair : Bool := false
  error  : Option Nat := none     -- bit of DSP_ERRORS
  late   : Bool := false
  ecc    : Bool := false          -- an uncorrectable error, which MMU_ECC_UNCORR counts (R158)
  deriving DecidableEq, Repr

/-- The line of a plane. A fetch error counts once for each output line in MMU_ECC_UNCORR, also where a corrupt table is behind
it (DESIGN CHOICE, log entry 23: R469 names both causes and R158 no count of its own for the walk). -/
def planeLine (s : State) (p k n : Nat) (fetch : LineFetch) (at_ : Frac) : PlaneLine :=
  let v := regW s
  let x := getPipe s p
  let pres := k = presentedPlane s p
  let f := planeFactor v p k
  let y := bits (v (aPlane p k 8)) 31 16
  let src := planeSource s p k (if pres then x.shown.getD 0 else planeVa v p k)
  if !planeOn v p k ∨ n < y ∨ y + src.h * f ≤ n ∨ (pres ∧ (x.transparent ∨ x.shown.isNone)) then {}
  else
    let j := (n - y) / f
    let t := pipeTenant s p
    let (va, late) := if pres then presentedRow s p src j at_ else (src.va, false)
    let bad := (badLineIn s t (va + j * src.pitch) (src.w * fmtBytes src.fmt)).isSome
    if fetch ≠ .ready ∨ bad then
      { row := if n = y then none else x.prevLines[k]?, repair := true,
        error := some (if fetch = .underflow then 0 else 1), ecc := bad || decide (fetch = .fetchError) }
    else
      { row := some ((List.range src.w).map fun i => (pixOf src.fmt (pixelWord s t { src with va := va } i j)).code),
        late := late }

/-- Put a row of source pixels over a line, replicated from a column. -/
def overlay (g f x0 : Nat) (row : List Nat) (line : List Pix) : List Pix :=
  line.zipIdx.map fun d =>
    if d.2 < x0 then d.1
    else match row[(d.2 - x0) / f]? with
      | some c => blend g (pixDecode c) d.1
      | none => d.1

/-- The fallback image centred in the active area, replicated and clipped, over the fallback colour. -/
def fallbackLine (s : State) (p n : Nat) : List Pix :=
  let t := timing s p
  let bg := fallbackPix s p
  match (getPipe s p).image with
  | none => List.replicate t.hactive bg
  | some im =>
    let x0 := ((t.hactive : Int) - (im.width * im.factor : Nat)) / 2
    let y0 := ((t.vactive : Int) - (im.height * im.factor : Nat)) / 2
    let j := ((n : Int) - y0) / im.factor
    (List.range t.hactive).map fun (c : Nat) =>
      let i := ((c : Int) - x0) / im.factor
      if 0 ≤ i ∧ i < im.width ∧ 0 ≤ j ∧ j < im.height then
        let o := j.toNat * im.pitch + i.toNat * fmtBytes im.format
        blend 1023 (pixOf im.format (leAt im.bytes o (fmtBytes im.format))) bg
      else bg

/-- A pixel as sent: 10 or 8 bits per component. -/
def sentPixel (ten : Bool) (x : Pix) : Nat :=
  let f (v : Nat) : Nat := if ten then v else (v * 255 + 511) / 1023
  f x.r * 2 ^ 20 + f x.g * 2 ^ 10 + f x.b

/-- The line as composed, with what its planes' fetches left behind. -/
def composeLine (s : State) (p n : Nat) (fetch : List LineFetch) : List Pix × List PlaneLine :=
  let t := timing s p
  let bg := List.replicate t.hactive (fallbackPix s p)
  let x := getPipe s p
  if x.state = 2 ∨ x.state = 3 then
    if x.fallback then (fallbackLine s p n, [])
    else
      let at_ := frAdd x.time.last (frScale t.line n)
      let pls := (List.range 4).map fun k => planeLine s p k n (fetch.getD k .ready) at_
      (pls.zipIdx.foldl (fun line pk =>
        match pk.1.row with
        | some row =>
          overlay (rField s (aPlane p pk.2 0) 9 0) (planeFactor (regW s) p pk.2)
            (rField s (aPlane p pk.2 8) 15 0) row line
        | none => line) bg, pls)
  else (bg, [])

/-- LINE_START: the scan of the next line begins, once its time has come; its pixels go out on a link
that carries the stream. -/
def onLineStart (p : Nat) (fetch : List LineFetch) (s : State) : State :=
  let x := getPipe s p
  let t := timing s p
  let n := x.line
  if !isRunning s || !pipeOn s p || decide (t.vactive ≤ n) || regW s (aPipe p 0x4C) = 0
      || frLt (pipeNow s p) (frAdd x.time.last (frScale t.line n)) then s
  else
    let (line, pls) := composeLine s p n fetch
    let s := pls.foldl (fun s q =>
      let s := if q.repair then incReg s (aPipe p 0x54) 1 cap32 else s
      let s := match q.error with | some e => dspErr s p e | none => s
      let s := if q.ecc then countUncorr s else s
      if q.late then galErr s p 2 else s) s
    let prev := pls.map fun q => q.row.getD []
    let s := modPipe s p fun y => { y with line := n + 1, prevLines := prev }
    if x.carried then sendLine s p n (line.map (sentPixel (bit (regW s (aPipe p 8)) 1))) else s

def execLineStart (pipe : Fin 8) (fetch : List LineFetch) (s : State) : Out := .next (onLineStart pipe.val fetch s)

/-! ## Latency tolerance and memory sleep (R468, R470, R471) -/

/-- The first output line that a plane's fetch buffer does not hold: it holds the first 3 source lines of a frame, and,
once a line n is scanned, that line and the next 3. -/
def firstUnfetched (s : State) (p k : Nat) (scanned : Option Nat) : Option Nat :=
  let v := regW s
  if !planeOn v p k then none
  else
    let f := planeFactor v p k
    let y := bits (v (aPlane p k 8)) 31 16
    let h := bits (v (aPlane p k 4)) 31 16
    let l := match scanned with
      | some n => if n < y then y + 3 * f else y + ((n - y) / f + 4) * f
      | none => y + 3 * f
    if l < y + h * f then some l else none

/-- The first line of any plane that is not in the fetch buffer. -/
def nextFetch (s : State) (p : Nat) (scanned : Option Nat) : Option Nat :=
  ((List.range 4).filterMap fun k => firstUnfetched s p k scanned).min?

/-- Where vsync starts: a fixed number of lines before the next frame start, the latest one while that is open (DEDUCED, log
entry 36: the extra lines of R454 lengthen the front porch). -/
def vsyncStart (s : State) (p : Nat) : Frac :=
  let t := timing s p
  frSub ((nextStart s p).getD (getPipe s p).time.fmax) (frScale t.line ((t.vmin : Int) - t.vstart))

/-- tolerance_ns: the time until the pipe would begin a line that is not in its fetch buffer. While it holds all that is left
of the frame, the next fetch begins at vsync start; from then on, and before the first frame, it holds the first 3 lines of
each plane. -/
def toleranceNs (s : State) (p : Nat) : Nat :=
  let x := getPipe s p
  let t := timing s p
  let n := lineNow s p
  let now := pipeNow s p
  if x.state = 0 then 0
  else if x.state = 1 ∨ x.fallback ∨ (List.range 4).all fun k => !planeOn (regW s) p k then cap32
  else
    let v := vsyncStart s p
    let due :=
      if x.time.started && n < t.vactive then
        match nextFetch s p (some n) with
        | some l => frAdd x.time.last (frScale t.line l)
        | none => v
      else if x.time.started && frLt now v then v
      else
        let f := (nextStart s p).getD x.time.fmax
        match nextFetch s p none with
        | some l => frAdd f (frScale t.line l)
        | none => frAdd f (frScale t.line t.vstart)
    min cap32 (frFloor (frSub due now)).toNat

/-- Pass 2 of a Galliard frame runs. -/
def galBusy (s : State) (p : Nat) : Bool :=
  match (getPipe s p).decided with
  | some (.extrapolate _ _ _ _) => true
  | _ => (getGal s p).showing
      && frLt (pipeNow s p) (frAdd (getGal s p).began (galNs (planeSource s p (presentedPlane s p) 0)
        (bits (regW s (aPlane p (presentedPlane s p) 4)) 31 16)))

/-- Nothing needs the HBM (R471). The copies of an adapter bank and of a fallback image count as register DMA (DEDUCED, log
entry 36: the manual says nowhere else what that is). -/
def sleepAllowed (s : State) : Bool :=
  bit (regW s aMemSleep) 0
  && ((allInsts s).all fun q => !onCore q.inst)
  && (s.sched.loops.all fun l => eligibleInsts s l.1 l.2 = [])
  && ((List.range 48).all fun c => (getCtx s c).current.isNone)
  && ((List.range 8).all fun l => (getLane s l).job.isNone)
  && ((List.range 8).all fun p => !galBusy s p && !isCopying (getFg s p).cap0 && !isCopying (getFg s p).cap1
        && (getFg s p).publish ≠ 2 && (getPipe s p).storing = []
        && (!pipeOn s p || decide (3000 ≤ toleranceNs s p)))

/-- MEM_SLEEP_ENTER. -/
def onMemSleepEnter (s : State) : State :=
  if isRunning s && s.chip.hbmReady && !s.disp.asleep && sleepAllowed s then
    incReg { s with disp := { s.disp with asleep := true } } aMemSleeps 1 cap32
  else s

/-- MEM_SLEEP_EXIT: it changes timing only. -/
def onMemSleepExit (s : State) : State := { s with disp := { s.disp with asleep := false } }

def execMemSleepEnter (s : State) : Out := .next (onMemSleepEnter s)
def execMemSleepExit (s : State) : Out := .next (onMemSleepExit s)

/-! ## Status words (R479, R480) -/

def pipeStatusWord (s : State) (p : Nat) : Nat :=
  let x := getPipe s p
  if x.state = 0 then 0
  else
    lineNow s p % 2 ^ 16 * 2 ^ 16 + x.source * 16 + 2 * boolNat (inVblank s p)
    + boolNat (x.carried && linkTrained s (pipeTx s p))

def wallStatusWord (s : State) (p : Nat) : Nat :=
  let t := (getPipe s p).time
  uCode 16 t.phase * 2 ^ 16 + 2 * boolNat t.leaderless + boolNat t.locked

def bandwidthWord (s : State) : Nat :=
  ceilDiv (((List.range 8).filter (pipeOn s)).map fun p => (timing s p).khz).sum 1000

end Sys2Proof.Machine
end

