-- ==== Sys2Proof/Machine/Codec.lean ====
section
/-! DEFINITION. Machine/Codec.lean: the feature-map codec (R275 to R279): blocks of 64 sixteen-bit
codes, encoded to 64 bytes at 2:1 or 32 bytes at 4:1. -/

namespace Sys2Proof.Machine

/-- Bits of a payload field: 7 at 2:1, 3 at 4:1 (R276). -/
def codecQ (four : Bool) : Nat := if four then 3 else 7
/-- Codes that a SPARSE block holds at most. -/
def codecCap (four : Bool) : Nat := if four then 8 else 24
/-- Bytes of an encoded block, its 8-byte header included. -/
def blockBytes (four : Bool) : Nat := if four then 32 else 64

def codeMag (v : Nat) : Nat := v % 2 ^ 15
def codeNeg (v : Nat) : Bool := bit v 15

/-- The smallest shift that brings the widest offset within the levels (R277). -/
def shiftFor (mx base b : Nat) : Nat :=
  if mx = 0 then 0
  else ((List.range 16).find? fun s => decide ((mx - base) / 2 ^ s ≤ 2 ^ b - 2)).getD 15

def codecLevel (m base s : Nat) : Nat := if m = 0 then 0 else 1 + (m - base) / 2 ^ s
def levelMag (r base s : Nat) : Nat := if r = 0 then 0 else base + (r - 1) * 2 ^ s

/-- Fields of a width, lowest first, as one number. -/
def packFields (w : Nat) : List Nat → Nat
  | [] => 0
  | x :: r => x + 2 ^ w * packFields w r

def maxOf (l : List Nat) : Nat := l.foldl max 0

structure Lossy where
  uns    : Bool
  byRow  : Bool
  base   : Nat
  shift  : Nat
  shifts : List Nat
  deriving DecidableEq, Repr

/-- The shift of element i of a lossy block. -/
def Lossy.shiftAt (x : Lossy) (i : Nat) : Nat := if x.byRow then x.shifts.getD (i / 8) 0 else x.shift

/-- How a block that is neither uniform nor sparse is encoded (R277). -/
def lossyOf (four : Bool) (c : List Nat) : Lossy :=
  let uns := c.all fun v => !codeNeg v
  let b := if uns then codecQ four else codecQ four - 1
  let mags := c.map codeMag
  let base := ((mags.filter fun m => m ≠ 0).min?).getD 0
  let sb := shiftFor (maxOf mags) base b
  let sr := (List.range 8).map fun j => shiftFor (maxOf ((mags.drop (8 * j)).take 8)) base b
  let err := fun (sh : Nat → Nat) => (mags.zipIdx.map fun mi =>
    mi.1 - levelMag (codecLevel mi.1 base (sh mi.2)) base (sh mi.2)).sum
  { uns := uns, byRow := decide (err (fun i => sr.getD (i / 8) 0) < err fun _ => sb), base := base,
    shift := sb, shifts := sr }

/-- fmc_encode: the header word and payload of a block of 64 codes (R276, R277), with its mode. -/
def encodeBlock (four : Bool) (c : List Nat) : Nat × List Byte :=
  let q := codecQ four
  let pay := blockBytes four - 8
  let first := c.getD 0 0
  let nz := c.filter fun v => v ≠ 0
  if c.all fun v => v = first then (0, leBytes 8 (first * 2 ^ 8) ++ zeros pay)
  else if nz.length ≤ codecCap four then
    let mask := packFields 1 (c.map fun v => boolNat (decide (v ≠ 0)))
    (1, leBytes 8 (1 + nz.length * 2 ^ 8) ++ fit pay (leBytes 8 mask ++ (nz.map (leBytes 2)).flatten))
  else
    let x := lossyOf four c
    let mode := (if x.uns then 4 else 2) + boolNat x.byRow
    let hdr := mode + x.base * 2 ^ 8
      + (if x.byRow then packFields 4 x.shifts * 2 ^ 27 else x.shift * 2 ^ 23)
    let fields := c.zipIdx.map fun vi =>
      codecLevel (codeMag vi.1) x.base (x.shiftAt vi.2)
        + (if x.uns then 0 else boolNat (codeNeg vi.1) * 2 ^ (q - 1))
    (mode, leBytes 8 hdr ++ leBytes pay (packFields q fields))

/-- A block written in an exact mode (R283). -/
def exactMode (m : Nat) : Bool := m ≤ 1

/-- The codes of a SPARSE block: 0, or the next stored code where the mask says so. -/
def sparseCodes (mask : Nat) (codes : List Nat) : Nat → Nat → List Nat
  | 0, _ => []
  | k + 1, i =>
    if bit mask i then codes.headD 0 :: sparseCodes mask (codes.drop 1) k (i + 1)
    else 0 :: sparseCodes mask codes k (i + 1)

def decodeSparse (four : Bool) (hdr : Nat) (pay : List Byte) : Option (List Nat) :=
  let n := bits hdr 15 8
  let mask := leAt pay 0 8
  let codes := (List.range n).map fun k => leAt pay (8 + 2 * k) 2
  let ones := ((List.range 64).filter (bit mask)).length
  if hdr ≠ 1 + n * 2 ^ 8 ∨ codecCap four < n ∨ n ≠ ones ∨ codes.any (fun v => v = 0)
      ∨ leNat (pay.drop (8 + 2 * n)) ≠ 0 then none
  else some (sparseCodes mask codes 64 0)

def decodeLossy (four : Bool) (hdr : Nat) (pay : List Byte) : Option (List Nat) :=
  let q := codecQ four
  let mode := bits hdr 2 0
  let uns := decide (4 ≤ mode)
  let byRow := mode = 3 || mode = 5
  let base := bits hdr 22 8
  let p := leNat pay
  let expected := mode + base * 2 ^ 8
    + (if byRow then bits hdr 58 27 * 2 ^ 27 else bits hdr 26 23 * 2 ^ 23)
  let elems := (List.range 64).map fun i =>
    let f := bits p (q * i + q - 1) (q * i)
    let r := if uns then f else f % 2 ^ (q - 1)
    let neg := !uns && bit f (q - 1)
    let s := if byRow then bits hdr (30 + 4 * (i / 8)) (27 + 4 * (i / 8)) else bits hdr 26 23
    (r, levelMag r base s, neg)
  if hdr ≠ expected ∨ (base = 0 ∧ elems.any fun e => e.1 ≠ 0) ∨ elems.any (fun e => decide (0x7FFF < e.2.1)) then none
  else some (elems.map fun e => e.2.1 + boolNat e.2.2 * 2 ^ 15)

/-- The 64 codes of an encoded block, or none where it fails to decode (R278). -/
def decodeBlock (four : Bool) (l : List Byte) : Option (List Nat) :=
  let hdr := leAt l 0 8
  let pay := fit (blockBytes four - 8) (l.drop 8)
  match bits hdr 2 0 with
  | 0 =>
    if hdr ≠ bits hdr 23 8 * 2 ^ 8 ∨ leNat pay ≠ 0 then none
    else some (List.replicate 64 (bits hdr 23 8))
  | 1 => decodeSparse four hdr pay
  | 6 => none
  | 7 => none
  | _ => decodeLossy four hdr pay

/-! ## Planes (R275) -/

/-- Element (y, x) of a plane of rows of codes; what lies past its edge is 0. -/
def planeAt (rows : List (List Nat)) (y x : Nat) : Nat := (rows.getD y []).getD x 0

/-- The 64 codes of the block whose top-left element is (y, x). -/
def blockCodes (at_ : Nat → Nat → Nat) (y x : Nat) : List Nat :=
  (List.range 64).map fun i => at_ (y + i / 8) (x + i % 8)

/-- Encode the blocks of a plane of width × height: each block's offset, its mode and its bytes. -/
def encodePlane (four : Bool) (at_ : Nat → Nat → Nat) (width height pitch : Nat) : List (Nat × Nat × List Byte) :=
  ((List.range (ceilDiv height 8)).map fun by_ => (List.range (ceilDiv width 8)).map fun bx =>
    let e := encodeBlock four (blockCodes at_ (8 * by_) (8 * bx))
    (by_ * pitch + bx * blockBytes four, e.1, e.2)).flatten

end Sys2Proof.Machine
end

