-- ==== Sys2Proof/Machine/Engines.lean ====
section
/-! DEFINITION. Machine/Engines.lean: what the multiply cells compute (R213 to R223, R247), the checks
of the arithmetic control word (R225, R250), the work that a run of an engine does, and the matrix
engine (R226, R227). -/

namespace Sys2Proof.Machine

open Sys2Proof

/-! ## The work of a run -/

/-- One access of a tenant's memory. -/
structure Access where
  va    : Nat
  n     : Nat
  write : Bool
  deriving DecidableEq, Repr

/-- What a run of one stripe instance does: its accesses in order, the failure it ends in, what it
writes, and the blocks it encodes. -/
structure Work where
  hbm    : List Access := []
  bad    : Option Nat := none                 -- BAD_PARAM detail that the run meets after its accesses
  stores : List (Nat × List Byte) := []       -- tenant address and bytes
  pads   : List (Nat × Nat × List Byte) := [] -- core, address and bytes
  exact  : Nat := 0
  lossy  : Nat := 0
  deriving DecidableEq, Repr

/-- Every byte of a scratchpad range lies in the command's regions; an empty range lies anywhere. -/
def inRegions (rs : List Region) (a n : Nat) : Bool :=
  n = 0 || inExtents (rs.map fun r =>
    ({ va := r.offset, rowBytes := r.bytes, rows := 1, pitch := r.bytes, read := true, write := true } : Extent))
    (rs.length + 1) a (a + n)

/-- Rows of an instance: R rows from the first, divided among S instances (R285). -/
def shareOf (r s i : Nat) : Nat × Nat := (i * r / s, (i + 1) * r / s)

/-! ## Expansion (R213, R247) -/

def popParity (n : Nat) : Bool := ((List.range 8).filter (bit n)).length % 2 == 1

/-- expand_rotated: one full group of exact values under its scale, as E5M6 codes. -/
def expandRotated (v : List Ext) (scale : Nat) : List Nat :=
  let s := decodeFmt bf16 scale
  let bad := fun x : Ext => match x with | .fin _ _ _ => false | _ => true
  if bad s || v.any bad then v.map fun _ => 0x7E0
  else
    let m := if v.length = 128 then 16 else 8
    (List.range v.length).map fun i =>
      let acc := extSum (v.zipIdx.map fun xj => if popParity (i &&& xj.2) then xj.1.neg else xj.1)
      match (acc.mul s).mul (.fin false 1 m) with
      | .fin t n d => if n = 0 then 0 else roundFmt (.fin t n d) e5m6 .sat
      | _ => 0x7E0

/-- Group size of a group code (R224). -/
def groupSize (c : Nat) : Nat := match c with | 0 => 0 | 1 => 32 | 2 => 64 | _ => 128

/-- A list cut into pieces of n. -/
def pieces (n : Nat) (l : List Nat) : List (List Nat) :=
  (List.range (ceilDiv l.length (max n 1))).map fun k => (l.drop (k * n)).take n

/-- One operand along its reduction, as the cells see it: 16-bit and FP32 values as they are, narrow
codes expanded with the scale of their group (R216, R238, R239). -/
def operandValues (f g : Nat) (rot : Bool) (scale : Nat → Nat) (codes : List Nat) : List Ext :=
  if !isNarrow f then codes.map (decodeCode f)
  else if g = 0 then codes.map fun c => decodeFmt e5m6 (expandCode f c bf16One)
  else if rot then
    ((pieces g codes).zipIdx.map fun pk =>
      (expandRotated (pk.1.map (decodeCode f)) (scale pk.2)).map (decodeFmt e5m6)).flatten
  else codes.zipIdx.map fun ck => decodeFmt e5m6 (expandCode f ck.1 (scale (ck.2 / g)))

/-! ## Accumulation (R218 to R221) -/

inductive CellMode where
  | single | pair | split
  deriving DecidableEq, Repr

def accPair (acc : Nat) : List Ext → Nat
  | [] => acc
  | [t] => rn32Sum [f32 acc, t]
  | t :: u :: r => accPair (rn32Sum [f32 acc, t, u]) r

def accSingle (acc : Nat) (l : List Ext) : Nat := l.foldl (fun a t => rn32Sum [f32 a, t]) acc

def accumulate (m : CellMode) (init : Nat) (terms : List Ext) : Nat :=
  match m with
  | .pair => accPair init terms
  | _ => accSingle init terms

/-- Split mode: the high and low BF16 parts of an FP32 value (R218). -/
def splitParts (a : Ext) : Ext × Ext :=
  match a with
  | .fin _ _ _ =>
    let hi := decodeFmt bf16 (roundFmt a bf16 .sat)
    let d := extSum [a, hi.neg]
    (hi, decodeFmt bf16 (roundFmt (sumZeroRule [a, hi.neg] d) bf16 .sat))
  | x => (x, .fin false 0 1)

/-- The terms of one output element, in the canonical order (R215, R218, R220). -/
def cellTerms (m : CellMode) (a b : List Ext) : List Ext :=
  match m with
  | .split =>
    ((a.zip b).map fun xy =>
      let x := splitParts xy.1
      let y := splitParts xy.2
      [x.2.mul y.1, x.1.mul y.2, x.1.mul y.1]).flatten
  | _ => (a.zip b).map fun xy => xy.1.mul xy.2

/-! ## The control word (R224, R225, R250) -/

structure Ctl where
  aFmt : Nat
  bFmt : Nat
  oFmt : Nat
  aGrp : Nat
  bGrp : Nat
  aRot : Bool
  bRot : Bool
  split : Bool
  sat : Bool
  act : Nat
  bias : Bool
  accum : Bool
  deriving DecidableEq, Repr

def ctlOf (w : Nat) : Ctl :=
  { aFmt := bits w 23 20, bFmt := bits w 19 16, oFmt := bits w 15 12, aGrp := bits w 11 10,
    bGrp := bits w 9 8, aRot := bit w 7, bRot := bit w 6, split := bit w 5, sat := bit w 4,
    act := bits w 3 2, bias := bit w 1, accum := bit w 0 }

def is16 (f : Nat) : Bool := f = 1 || f = 2

def cellMode (c : Ctl) : CellMode :=
  if c.split then .split else if isNarrow c.aFmt && isNarrow c.bFmt then .pair else .single

/-- Rows 1 to 5 of R225 and rows 6 and 7 of R250, for an engine of R167 and a reduction length. -/
def ctlFault (engine w k : Nat) : Option (Nat × Nat) :=
  let c := ctlOf w
  let ga := groupSize c.aGrp
  let gb := groupSize c.bGrp
  firstFault
    [ (decide (2 ^ 24 ≤ w), (stBadParam, dtReservedNonzero)),
      (decide (9 ≤ c.aFmt) || decide (9 ≤ c.bFmt) || decide (9 ≤ c.oFmt) || c.act = 3, (stBadParam, dtValueRange)),
      ((is16 c.aFmt && is16 c.bFmt && c.aFmt ≠ c.bFmt) || ((c.aFmt = 0 || c.bFmt = 0) && !c.split)
        || (c.split && (c.aFmt ≠ 0 || c.bFmt ≠ 0)), (stBadParam, dtFormatPair)),
      ((engine = 3 && (isNarrow c.aFmt || isNarrow c.bFmt || c.split)) || (engine = 0 && c.split),
        (stBadParam, dtFormatEngine)),
      ((c.aGrp ≠ 0 && !isNarrow c.aFmt) || (c.bGrp ≠ 0 && !isNarrow c.bFmt), (stBadParam, dtGroupSize)),
      (decide (5 ≤ c.oFmt) || (c.accum && c.oFmt ≠ 0), (stBadParam, dtFormatOutput)),
      ((c.aRot && c.aGrp = 0) || (c.bRot && c.bGrp = 0), (stBadParam, dtRotateOperand)),
      ((c.aRot && k % ga ≠ 0) || (c.bRot && k % gb ≠ 0), (stBadParam, dtRotateShape)) ]

/-! ## Drain (R223) -/

/-- Activation of an FP32 value. -/
def activate (act lo hi v : Nat) : Nat :=
  if f32Nan v then nan32
  else if act = 1 then (if f32Le v 0 then 0 else v)
  else if act = 2 then f32Min (f32Max v lo) hi
  else v

/-- Conversion of an FP32 value to the output format. -/
def outCode (c : Ctl) (v : Nat) : Nat :=
  encodeCode c.oFmt (if c.sat || c.oFmt = 3 || c.oFmt = 4 then .sat else .ieee) (f32 v)

def drain (c : Ctl) (lo hi : Nat) (bias : Option Nat) (acc : Nat) : Nat :=
  outCode c (activate c.act lo hi (match bias with | some b => f32Add acc b | none => acc))

/-- Clamp bounds that a head may name (R226, R260). -/
def clampOk (act lo hi : Nat) : Bool := act ≠ 2 || (!f32Nan lo && !f32Nan hi && !f32Below hi lo)

/-! ## The matrix engine (R226, R227) -/

structure MeHead where
  ctl : Nat
  op : Nat
  m : Nat
  n : Nat
  k : Nat
  a : Nat
  b : Nat
  c : Nat
  aScale : Nat
  bScale : Nat
  bias : Nat
  lo : Nat
  hi : Nat
  deriving DecidableEq, Repr

def meHead (p : List Byte) : MeHead :=
  { ctl := leAt p 0 4, op := leAt p 4 1, m := leAt p 8 4, n := leAt p 12 4, k := leAt p 16 4,
    a := leAt p 20 4, b := leAt p 24 4, c := leAt p 28 4, aScale := leAt p 32 4, bScale := leAt p 36 4,
    bias := leAt p 40 4, lo := leAt p 44 4, hi := leAt p 48 4 }

/-- A row-major matrix in scratchpad: rows on 64-byte boundaries. -/
def matPitch (f cols : Nat) : Nat := roundUp (rowBytes f cols) 64
def matBytes (f rows cols : Nat) : Nat := (rows - 1) * matPitch f cols + rowBytes f cols

/-- A and B as stored (R226), and their scale tensors (R241): rows and columns. -/
def MeHead.aT (h : MeHead) : Bool := h.op = 1 || h.op = 3
def MeHead.bT (h : MeHead) : Bool := h.op = 2 || h.op = 3
def MeHead.aDims (h : MeHead) (k : Nat) : Nat × Nat := if h.aT then (k, h.m) else (h.m, k)
def MeHead.bDims (h : MeHead) (k : Nat) : Nat × Nat := if h.bT then (h.n, k) else (k, h.n)

/-- Scratchpad areas that a matrix command names (R226, R241, R243). -/
def meAreas (h : MeHead) : List (Nat × Nat) :=
  let c := ctlOf h.ctl
  let da := h.aDims h.k
  let db := h.bDims h.k
  let sa := h.aDims (ceilDiv h.k (max (groupSize c.aGrp) 1))
  let sb := h.bDims (ceilDiv h.k (max (groupSize c.bGrp) 1))
  [ (h.a, matBytes c.aFmt da.1 da.2), (h.b, matBytes c.bFmt db.1 db.2), (h.c, matBytes c.oFmt h.m h.n) ]
  ++ (if c.aGrp = 0 then [] else [(h.aScale, matBytes 2 sa.1 sa.2)])
  ++ (if c.bGrp = 0 then [] else [(h.bScale, matBytes 2 sb.1 sb.2)])
  ++ (if c.bias then [(h.bias, 4 * h.n)] else [])

/-- R226 after rows 1 to 7, and R285. -/
def meFault (p : List Byte) (stripes : Nat) : Option (Nat × Nat) :=
  let h := meHead p
  let c := ctlOf h.ctl
  match ctlFault 1 h.ctl h.k with
  | some e => some e
  | none =>
    firstFault
      [ (leAt p 5 3 ≠ 0, (stBadParam, dtReservedNonzero)),
        (decide (4 ≤ h.op) || h.m = 0 || decide (4096 < h.m) || h.n = 0 || decide (4096 < h.n) || h.k = 0
          || decide (65536 < h.k) || (c.aGrp = 0 && h.aScale ≠ 0) || (c.bGrp = 0 && h.bScale ≠ 0)
          || (!c.bias && h.bias ≠ 0) || !clampOk c.act h.lo h.hi
          || [h.a, h.b, h.c, h.aScale, h.bScale, h.bias].any (fun x => x % 64 ≠ 0) || decide (h.m < stripes),
          (stBadParam, dtValueRange)) ]

/-- One row of a stored matrix, as codes. -/
def matRow (s : State) (core addr f cols r : Nat) : List Nat :=
  let row := padRead s core (addr + r * matPitch f cols) (rowBytes f cols)
  (List.range cols).map (elemAt f row)

/-- One element of a stored matrix. -/
def matElem (s : State) (core addr f cols r j : Nat) : Nat :=
  elemAt f (padRead s core (addr + r * matPitch f cols) (rowBytes f cols)) j

/-- Row i of A' as the cells see it. -/
def meA (s : State) (core : Nat) (h : MeHead) (i : Nat) : List Ext :=
  let c := ctlOf h.ctl
  let ng := ceilDiv h.k (max (groupSize c.aGrp) 1)
  operandValues c.aFmt (groupSize c.aGrp) c.aRot
    (fun g => if h.aT then matElem s core h.aScale 2 h.m g i else matElem s core h.aScale 2 ng i g)
    (if h.aT then (List.range h.k).map fun k => matElem s core h.a c.aFmt h.m k i
     else matRow s core h.a c.aFmt h.k i)

/-- Column j of B' as the cells see it. -/
def meB (s : State) (core : Nat) (h : MeHead) (j : Nat) : List Ext :=
  let c := ctlOf h.ctl
  let ng := ceilDiv h.k (max (groupSize c.bGrp) 1)
  operandValues c.bFmt (groupSize c.bGrp) c.bRot
    (fun g => if h.bT then matElem s core h.bScale 2 ng j g else matElem s core h.bScale 2 h.n g j)
    (if h.bT then matRow s core h.b c.bFmt h.k j
     else (List.range h.k).map fun k => matElem s core h.b c.bFmt h.n k j)

/-- Output element (i, j): its code. -/
def meElem (s : State) (core : Nat) (h : MeHead) (a : List Ext) (i j : Nat) : Nat :=
  let c := ctlOf h.ctl
  let init := if c.accum then matElem s core h.c 0 h.n i j else 0
  let bias := if c.bias then some (leNat (padRead s core (h.bias + 4 * j) 4)) else none
  drain c h.lo h.hi bias (accumulate (cellMode c) init (cellTerms (cellMode c) a (meB s core h j)))

/-- What a run of a matrix command does: rows of C in its share. -/
def meWork (s : State) (q : Placed) : Work :=
  let h := meHead (progBytes s q.loop.tenant q.cmd.spec 0 52)
  let core := q.inst.core
  let sh := shareOf h.m q.cmd.spec.stripes q.ref.inst
  { pads := (upFrom sh.1 (sh.2 - sh.1)).map fun i =>
      let a := meA s core h i
      (core, h.c + i * matPitch (ctlOf h.ctl).oFmt h.n,
        packRow (ctlOf h.ctl).oFmt ((List.range h.n).map fun j => meElem s core h a i j)) }

end Sys2Proof.Machine
end

