-- ==== Sys2Proof/Machine/Access.lean ====
section
/-! DEFINITION. Machine/Access.lean: how a run's accesses of HBM are checked (R143, R151, R155), what
stops it, and the byte ranges of rows. -/

namespace Sys2Proof.Machine

open Sys2Proof

/-- What an access meets. -/
inductive Stop where
  | set (va : Nat)        -- outside the declared sets
  | demand (va : Nat)     -- first touch of a demand page
  | bad (line : Nat)      -- a line with an uncorrectable error
  deriving DecidableEq, Repr

/-- The first byte from x up to stop that no extent holds. -/
def firstOutside (es : List Extent) : Nat → Nat → Nat → Option Nat
  | 0, x, stop => if x < stop then some x else none
  | k + 1, x, stop =>
    if stop ≤ x then none
    else
      match es.findSome? fun e => e.rowEnd x with
      | none => some x
      | some y => firstOutside es k y stop

def accessExtent (a : Access) : Extent :=
  { va := a.va, rowBytes := a.n, rows := 1, pitch := a.n, read := !a.write, write := a.write }

/-- The lowest address of an access that meets trouble, and what it meets there. -/
def accessStop (s : State) (q : Placed) (a : Access) : Option Stop :=
  let t := q.loop.tenant
  let set := if a.write then writeSet q.cmd.spec else readSet q.cmd.spec
  let out := if vaEnd < a.va + a.n then some (min a.va vaEnd) else firstOutside set (a.n + 1) a.va (a.va + a.n)
  let dem := ((unbacked (getTen s t) [accessExtent a]).map fun p => max p.1 a.va).min?
  let bad := if a.write then partialBad s t a.va a.n else firstBad s t a.va a.n
  let cands : List (Nat × Stop) :=
    (out.toList.map fun x => (x, Stop.set x)) ++ (dem.toList.map fun x => (x, Stop.demand x))
    ++ (bad.toList.map fun l => (max l a.va, Stop.bad l))
  (cands.foldl (fun (b : Option (Nat × Stop)) c =>
    match b with
    | none => some c
    | some x => if c.1 < x.1 then some c else b) none).map fun x => x.2

/-- The first stop of a list of accesses, in order. -/
def firstStop (s : State) (q : Placed) (l : List Access) : Option Stop := l.findSome? (accessStop s q)

/-- A scratchpad access outside the command's regions (R146, R226, R231): no tenant address is at
fault. -/
def padViolation (s : State) (q : Placed) : State := faultFail s q 2 0 dtSetViolation

/-- A run ends in what an access meets. -/
def stopRun (s : State) (q : Placed) (x : Stop) : State :=
  match x with
  | .set va => faultFail s q 2 va dtSetViolation
  | .demand va => demandFault s q va
  | .bad line => eccHbm s q line

/-- A command fails its step and is never rerun. -/
def badParam (s : State) (q : Placed) (detail : Nat) : State := failStep s q.ref.loop stBadParam detail q.ref.cmd

/-- Apply what a run writes. -/
def applyStores (s : State) (t : Nat) (l : List (Nat × List Byte)) : State :=
  l.foldl (fun s w => storeBytes s t w.1 w.2) s

def applyPads (s : State) (l : List (Nat × Nat × List Byte)) : State :=
  l.foldl (fun s w => padWrite s w.1 w.2.1 w.2.2) s

/-- Run an instance's work to its end: the first access that meets trouble ends it, then a failure of
its own; otherwise everything it writes lands and k goes on. -/
def runWork (s : State) (q : Placed) (w : Work) (k : State → State) : State :=
  match firstStop s q w.hbm with
  | some x => stopRun s q x
  | none =>
    match w.bad with
    | some d => badParam s q d
    | none => k (applyPads (applyStores s q.loop.tenant w.stores) w.pads)

end Sys2Proof.Machine
end

