-- ==== Sys2Proof/Machine/Window.lean ====
section
/-! DEFINITION. Machine/Window.lean: the window engines and Minuet (R256 to R281): head, geometry,
checks, and what a run computes, with halo pairs (R287 to R289). -/

namespace Sys2Proof.Machine

open Sys2Proof

/-! ## The head (R260) -/

structure WinHead where
  ctl : Nat
  op : Nat
  outMode : Nat
  upMode : Nat
  fx : Nat
  fy : Nat
  kx : Nat
  ky : Nat
  sx : Nat
  sy : Nat
  dx : Nat
  dy : Nat
  inInter : Nat
  outInter : Nat
  c : Nat
  o : Nat
  inW : Nat
  inH : Nat
  pads : List Nat          -- top, bottom, left, right
  pvs : List Nat
  inSpace : Nat
  inCodec : Nat
  outSpace : Nat
  outCodec : Nat
  inAddr : Nat
  outAddr : Nat
  inRow : Nat
  inPlane : Nat
  outRow : Nat
  outPlane : Nat
  weight : Nat
  wScale : Nat
  aScale : Nat
  bias : Nat
  lo : Nat
  hi : Nat
  lb : Nat
  stage : Nat
  lbRows : Nat
  row0 : Nat
  rows : Nat
  col0 : Nat
  cols : Nat
  deriving DecidableEq, Repr

def winHead (p : List Byte) : WinHead :=
  { ctl := leAt p 0 4, op := leAt p 4 1, outMode := leAt p 5 1, upMode := leAt p 6 1,
    fx := leAt p 7 1 % 16, fy := leAt p 7 1 / 16, kx := leAt p 8 1, ky := leAt p 9 1, sx := leAt p 10 1,
    sy := leAt p 11 1, dx := leAt p 12 1, dy := leAt p 13 1, inInter := leAt p 14 1, outInter := leAt p 15 1,
    c := leAt p 16 4, o := leAt p 20 4, inW := leAt p 24 2, inH := leAt p 26 2,
    pads := [leAt p 28 2, leAt p 30 2, leAt p 32 2, leAt p 34 2],
    pvs := [leAt p 36 4, leAt p 40 4, leAt p 44 4, leAt p 48 4],
    inSpace := leAt p 52 1, inCodec := leAt p 53 1, outSpace := leAt p 54 1, outCodec := leAt p 55 1,
    inAddr := leAt p 56 8, outAddr := leAt p 64 8, inRow := leAt p 72 4, inPlane := leAt p 76 4,
    outRow := leAt p 80 4, outPlane := leAt p 84 4, weight := leAt p 88 4, wScale := leAt p 92 4,
    aScale := leAt p 96 4, bias := leAt p 100 4, lo := leAt p 104 4, hi := leAt p 108 4, lb := leAt p 112 4,
    stage := leAt p 116 4, lbRows := leAt p 120 2, row0 := leAt p 124 2, rows := leAt p 126 2,
    col0 := leAt p 128 2, cols := leAt p 130 2 }

def WinHead.pad (h : WinHead) (k : Nat) : Nat := h.pads.getD k 0
def WinHead.ctlw (h : WinHead) : Ctl := ctlOf h.ctl
def WinHead.ga (h : WinHead) : Nat := groupSize h.ctlw.aGrp
def WinHead.gb (h : WinHead) : Nat := groupSize h.ctlw.bGrp
def WinHead.upW (h : WinHead) : Nat := h.inW * h.fx
def WinHead.upH (h : WinHead) : Nat := h.inH * h.fy
def WinHead.conv (h : WinHead) : Bool := h.op = 0
def WinHead.argmax (h : WinHead) : Bool := h.outMode = 1
def WinHead.isInter (h : WinHead) : Bool := h.inInter = 1
def WinHead.outIs (h : WinHead) : Bool := h.outInter = 1

/-- Output size on one axis, which may be 0 or less (R262). -/
def outSize (len pads d k st : Nat) : Int := ((len : Int) + pads - d * (k - 1 : Nat) - 1) / (st : Int) + 1
def WinHead.outW (h : WinHead) : Int := outSize h.upW (h.pad 2 + h.pad 3) h.dx h.kx h.sx
def WinHead.outH (h : WinHead) : Int := outSize h.upH (h.pad 0 + h.pad 1) h.dy h.ky h.sy

/-- Rows and columns that the command computes. -/
def WinHead.nRows (h : WinHead) : Nat := if h.rows = 0 then h.outH.toNat - h.row0 else h.rows
def WinHead.nCols (h : WinHead) : Nat := if h.cols = 0 then h.outW.toNat - h.col0 else h.cols

/-- Output rows of an instance: whole rows, or whole bands of 8 under a codec (R285). -/
def instRows (h : WinHead) (s i : Nat) : Nat × Nat :=
  if h.outCodec = 0 then
    let r := shareOf h.nRows s i
    (h.row0 + r.1, h.row0 + r.2)
  else
    let b := shareOf (ceilDiv h.nRows 8) s i
    (h.row0 + min (8 * b.1) h.nRows, h.row0 + min (8 * b.2) h.nRows)

/-! ## The input column span and the ring (R265) -/

/-- Source columns of the span: from, and up to but not including. -/
def colSpan (h : WinHead) : Nat × Nat :=
  let first : Int := (h.col0 : Int) * h.sx - h.pad 2
  let last : Int := ((h.col0 : Int) + h.nCols - 1) * h.sx + (h.kx - 1) * h.dx - h.pad 2
  let b : Int := if h.upMode = 2 then 1 else 0
  let lo := first / (h.fx : Int) - b
  let hi := last / (h.fx : Int) + b
  let xs := (max lo 0).toNat
  let xe := (min (hi + 1) h.inW).toNat
  (xs, max xe xs)

def ringRow (h : WinHead) : Nat :=
  let n := (colSpan h).2 - (colSpan h).1
  if h.isInter then n * h.c * (fmtBits h.ctlw.aFmt / 8) else h.c * roundUp (rowBytes h.ctlw.aFmt n) 64

def minRing (h : WinHead) : Nat :=
  ceilDiv ((h.ky - 1) * h.dy + h.sy) (max h.fy 1) + 2 + (if h.inCodec = 0 then 0 else 7)

/-! ## Checks (R267, R285, R289) -/

def inRange (v lo hi : Nat) : Bool := decide (lo ≤ v) && decide (v ≤ hi)

def factorOk (h : WinHead) : Bool :=
  let ok := fun f => if h.upMode = 2 then f = 1 || f = 2 || f = 4 || f = 8 else inRange f 1 8
  if h.upMode = 0 then h.fx = 1 && h.fy = 1 else ok h.fx && ok h.fy

def planeOk (codec inter addr row plane width : Nat) (four : Bool) : Bool :=
  if codec = 0 then inter = 1 || (row % 64 = 0 && plane % 64 = 0)
  else
    let b := blockBytes four
    (inter = 1 || (row % 64 = 0 && plane % 64 = 0))
    && addr % b = 0 && row % b = 0 && plane % b = 0 && decide (ceilDiv width 8 * b ≤ row)

/-- Row 8: every field within its rule. -/
def winFieldsOk (h : WinHead) : Bool :=
  let c := h.ctlw
  decide (h.op ≤ 1) && decide (h.outMode ≤ 1) && decide (h.upMode ≤ 2) && factorOk h
  && inRange h.kx 1 15 && inRange h.ky 1 15 && inRange h.sx 1 8 && inRange h.sy 1 8
  && inRange h.dx 1 64 && inRange h.dy 1 64 && decide (h.inInter ≤ 1) && decide (h.outInter ≤ 1)
  && inRange h.c 1 65536 && inRange h.o 1 65536 && decide (1 ≤ h.inW) && decide (h.upW ≤ 16384)
  && decide (1 ≤ h.inH) && decide (h.upH ≤ 16384) && h.pads.all (fun p => decide (p ≤ 1023))
  && decide (h.inSpace ≤ 1) && decide (h.outSpace ≤ 1)
  && (h.inCodec = 0 || h.inCodec = 3 || h.inCodec = 4) && decide (h.outCodec ≤ 2)
  && (!h.isInter || h.inPlane = 0) && (!(h.outIs || h.argmax) || h.outPlane = 0)
  && (c.bGrp ≠ 0 || h.wScale = 0) && (c.aGrp ≠ 0 || h.aScale = 0) && (c.bias || h.bias = 0)
  && (h.outCodec ≠ 0 || h.stage = 0) && h.wScale % 64 = 0 && h.aScale % 64 = 0
  && (!h.conv || h.weight % 64 = 0) && clampOk c.act h.lo h.hi
  && planeOk h.inCodec h.inInter h.inAddr h.inRow h.inPlane h.inW (h.inCodec = 4)
  && planeOk h.outCodec h.outInter h.outAddr h.outRow h.outPlane h.outW.toNat (h.outCodec = 2)

def operationOk (h : WinHead) : Bool :=
  let c := h.ctlw
  !(h.upMode ≠ 0 && isNarrow c.aFmt)
  && (h.conv || (h.o = h.c && c.bFmt = c.aFmt && c.bGrp = 0 && !c.bRot && !c.bias))
  && (!h.argmax || (decide (h.o ≤ 65535) && !c.accum))
  && (h.inCodec = 0 || (is16 c.aFmt && h.inSpace = 0 && !h.isInter))
  && (h.outCodec = 0 || (is16 c.oFmt && h.outSpace = 0 && !h.outIs && h.row0 % 8 = 0 && h.col0 % 8 = 0
      && (h.rows % 8 = 0 || ((h.row0 + h.rows : Nat) : Int) = h.outH)
      && (h.cols % 8 = 0 || ((h.col0 + h.cols : Nat) : Int) = h.outW)))
  && (c.aGrp = 0 || h.inSpace = 1)

/-- Rows 1 to 12, and R285. -/
def winHeadFault (p : List Byte) (engine stripes : Nat) : Option (Nat × Nat) :=
  let h := winHead p
  match ctlFault engine h.ctl h.c with
  | some e => some e
  | none =>
    firstFault
      [ (leAt p 122 2 ≠ 0 || leAt p 132 4 ≠ 0, (stBadParam, dtReservedNonzero)),
        (!winFieldsOk h, (stBadParam, dtValueRange)),
        (decide (h.outW ≤ 0) || decide (h.outH ≤ 0), (stBadParam, dtOutputEmpty)),
        (decide (h.outH.toNat ≤ h.row0) || decide (h.outW.toNat ≤ h.col0)
          || decide (h.outH.toNat < h.row0 + h.rows) || decide (h.outW.toNat < h.col0 + h.cols),
          (stBadParam, dtValueRange)),
        ((engine = 0 && (h.isInter || h.outIs)) || (engine = 3 && decide (8 < h.c) && decide (8 < h.o))
          || (h.isInter && decide (8 < h.c)) || (h.outIs && decide (8 < h.o)), (stBadParam, dtLayoutChannels)),
        (!operationOk h, (stBadParam, dtOperationForm)),
        (decide (h.lbRows < minRing h) || (h.outCodec ≠ 0 && h.stage = 0), (stBadParam, dtLineBuffer)),
        (decide (h.nRows < stripes) || (h.outCodec ≠ 0 && decide (ceilDiv h.nRows 8 < stripes)),
          (stBadParam, dtValueRange)) ]

/-! ### Halo pairs -/

structure StripeBlock where
  producer : Nat
  slots    : Nat
  above    : Nat
  below    : Nat
  rowBytes : Nat
  deriving DecidableEq, Repr

def stripeBlock (p : List Byte) : StripeBlock :=
  { producer := leAt p 136 2, slots := leAt p 138 1, above := leAt p 140 4, below := leAt p 144 4,
    rowBytes := leAt p 148 4 }

/-- Bytes of one halo row: the ring row, and its rows of scales (R287). -/
def haloRowBytes (h : WinHead) : Nat :=
  ringRow h + (if h.ctlw.aGrp = 0 then 0
    else ceilDiv h.c (max h.ga 1) * roundUp (2 * ((colSpan h).2 - (colSpan h).1)) 64)

/-- Input rows that instance i of a consumer needs: first and last, clipped (R288). -/
def inputRows (h : WinHead) (s i : Nat) : Nat × Nat :=
  let r := instRows h s i
  let b : Int := if h.upMode = 2 then 1 else 0
  let f : Int := ((r.1 : Int) * h.sy - h.pad 0) / (max h.fy 1 : Nat) - b
  let l : Int := (((r.2 : Int) - 1) * h.sy + (h.ky - 1) * h.dy - h.pad 0) / (max h.fy 1 : Nat) + b
  ((max f 0).toNat, (min (max l 0) ((h.inH : Int) - 1)).toNat)

/-- Rows of the halo above and below of a consumer instance: how many, and the first of each. -/
def haloRows (h ph : WinHead) (s i : Nat) (dir : HaloDir) : Nat × Nat :=
  let n := inputRows h s i
  let pr := instRows ph s i
  match dir with
  | .above => (pr.1 - n.1, n.1)
  | .below => (n.2 + 1 - pr.2, pr.2)

def winProgram (s : State) (t : Nat) (c : CmdRec) : List Byte := progBytes s t c 0 (if 1 < c.stripes then 168 else 136)

/-- Rows 13 to 15. -/
def haloFault (s : State) (q : Placed) (p : List Byte) : Option (Nat × Nat) :=
  let b := stripeBlock p
  let h := winHead p
  let n := q.cmd.spec.stripes
  if leAt p 139 1 ≠ 0 ∨ leNat ((p.drop 152).take 16) ≠ 0 then some (stBadParam, dtReservedNonzero)
  else if b.producer = 0xFFFF then (if b.slots = 0 then none else some (stBadParam, dtValueRange))
  else if b.slots = 0 ∨ 16 < b.slots ∨ b.rowBytes ≠ haloRowBytes h then some (stBadParam, dtValueRange)
  else
    match q.step.cmds[b.producer]? with
    | none => some (stBadParam, dtHaloPair)
    | some pc =>
      let ph := winHead (winProgram s q.loop.tenant pc.spec)
      let others := (q.step.cmds.zipIdx.filter fun cj =>
        decide (cj.2 < q.ref.cmd) && haloNamed s q.loop.tenant cj.1.spec = some b.producer)
      if q.ref.cmd ≤ b.producer ∨ (pc.spec.engine ≠ 0 ∧ pc.spec.engine ≠ 3) ∨ pc.spec.stripes ≠ n
          ∨ ph.outSpace = 0 ∨ ph.outMode = 1 ∨ ph.outInter = 1 ∨ h.inSpace = 0 ∨ h.inAddr ≠ ph.outAddr
          ∨ h.ctlw.aFmt ≠ ph.ctlw.oFmt ∨ (h.inW : Int) ≠ ph.outW ∨ (h.inH : Int) ≠ ph.outH
          ∨ q.cmd.spec.deps.elem b.producer ∨ others ≠ [] then some (stBadParam, dtHaloPair)
      else if (List.range n).any fun i =>
          let a := (haloRows h ph n i .above).1
          let z := (haloRows h ph n i .below).1
          let share := fun j => (instRows ph n j).2 - (instRows ph n j).1
          decide (255 < a) || decide (255 < z)
          || decide ((if i = 0 then 0 else share (i - 1)) < a)
          || decide ((if i + 1 = n then 0 else share (i + 1)) < z) then some (stBadParam, dtHaloSpan)
      else none

def winFault (s : State) (q : Placed) : Option (Nat × Nat) :=
  let c := q.cmd.spec
  let p := winProgram s q.loop.tenant c
  match winHeadFault p c.engine c.stripes with
  | some e => some e
  | none => if 1 < c.stripes then haloFault s q p else none

/-! ## Input rows that taps read (R264) -/

/-- Up-sampled rows that the taps of output rows read. -/
def upRows (h : WinHead) (y0 y1 : Nat) : List Nat :=
  ((upFrom y0 (y1 - y0)).map fun (y : Nat) => (List.range (if h.conv then h.ky else 1)).filterMap fun ky =>
      let yi : Int := (y : Int) * h.sy + ky * h.dy - h.pad 0
      if 0 ≤ yi ∧ yi < h.upH then some yi.toNat else none).flatten.eraseDups

/-- One axis of bilinear sampling: the two source indices, and the weight of the second in units of
1 / 2f (R272). -/
def blAxis (o f n : Nat) : Nat × Nat × Nat :=
  let num : Int := 2 * o + 1 - f
  let b := num / (2 * f : Nat)
  let cl := fun v : Int => (max 0 (min v ((n : Int) - 1))).toNat
  (cl b, cl (b + 1), (num - 2 * f * b).toNat)

/-- Source rows of up-sampled rows. -/
def srcRows (h : WinHead) (rows : List Nat) : List Nat :=
  (rows.map fun u =>
    if h.upMode = 0 then [u]
    else if h.upMode = 1 then [u / h.fy]
    else
      let x := blAxis u h.fy h.inH
      if x.2.2 = 0 then [x.1] else [x.1, x.2.1]).flatten.eraseDups

/-! ## Reading the input -/

/-- Input rows that a halo consumer's own core holds: its producer instance's share (R288, R295). -/
def localRows (s : State) (q : Placed) : Option (Nat × Nat) :=
  match haloProducer s q.loop.tenant q.step q.ref.cmd with
  | none => none
  | some k =>
    match q.step.cmds[k]? with
    | none => none
    | some pc => some (instRows (winHead (winProgram s q.loop.tenant pc.spec)) pc.spec.stripes q.ref.inst)

/-- A row that comes over the Reel. -/
def isHaloRow (own : Option (Nat × Nat)) (y : Nat) : Bool :=
  match own with
  | some r => decide (y < r.1) || decide (r.2 ≤ y)
  | none => false

/-- Bytes of the input: HBM or scratchpad. -/
def spaceBytes (s : State) (q : Placed) (space core a n : Nat) : List Byte :=
  if space = 0 then hbmRead s q.loop.tenant a n else padRead s core a n

/-- Codes of a bit-packed row from column x0, n of them. -/
def packedSlice (f : Nat) (read : Nat → Nat → List Byte) (x0 n : Nat) : List Nat :=
  let unit := if f = 7 then 4 else if f = 5 ∨ f = 8 then 2 else 1
  let u0 := x0 / unit * unit
  let row := read (rowBytes f u0) (rowBytes f (x0 + n) - rowBytes f u0)
  (List.range n).map fun k => elemAt f row (x0 - u0 + k)

/-- The block of a compressed plane that holds (y, x), decoded. -/
def codecBlock (s : State) (t : Nat) (h : WinHead) (c by_ bx : Nat) : Option (List Nat) :=
  let four := h.inCodec = 4
  decodeBlock four (hbmRead s t (h.inAddr + c * h.inPlane + by_ * h.inRow + bx * blockBytes four) (blockBytes four))

/-- Codes of channel c, source row y, over the span, where the input lies; a core for a scratchpad input. -/
def srcRow (s : State) (q : Placed) (h : WinHead) (core c y : Nat) : List Nat :=
  let sp := colSpan h
  let n := sp.2 - sp.1
  let f := h.ctlw.aFmt
  if h.inCodec ≠ 0 then
    (List.range n).map fun k =>
      let x := sp.1 + k
      ((codecBlock s q.loop.tenant h c (y / 8) (x / 8)).getD []).getD (8 * (y % 8) + x % 8) 0
  else if h.isInter then
    let e := fmtBits f / 8
    (List.range n).map fun k =>
      leNat (spaceBytes s q h.inSpace core (h.inAddr + y * h.inRow + ((sp.1 + k) * h.c + c) * e) e)
  else
    packedSlice f (fun off len => spaceBytes s q h.inSpace core (h.inAddr + c * h.inPlane + y * h.inRow + off) len)
      sp.1 n

/-! ### The line-buffer ring (R265, R266) -/

/-- Where a source row lies in the ring; row y takes ring row y mod lb_rows (DESIGN CHOICE, log entry 29). -/
def ringPos (h : WinHead) (y : Nat) : Nat := h.lb + y % max h.lbRows 1 * ringRow h

/-- Bytes of one channel's segment of a planar ring row. -/
def segBytes (h : WinHead) : Nat := roundUp (rowBytes h.ctlw.aFmt ((colSpan h).2 - (colSpan h).1)) 64

def segOf (h : WinHead) (codes : List Nat) : List Byte := fit (segBytes h) (packRow h.ctlw.aFmt codes)

/-- A ring row, from the codes of each channel. -/
def ringImage (h : WinHead) (rows : List (List Nat)) : List Byte :=
  if h.isInter then
    ((List.range ((colSpan h).2 - (colSpan h).1)).map fun x =>
      (rows.map fun r => leBytes (fmtBits h.ctlw.aFmt / 8) (r.getD x 0)).flatten).flatten
  else (rows.map (segOf h)).flatten

/-- Codes of channel c of a row that stands in the ring. -/
def ringCodes (s : State) (core : Nat) (h : WinHead) (c y : Nat) : List Nat :=
  let n := (colSpan h).2 - (colSpan h).1
  if h.isInter then
    let e := fmtBits h.ctlw.aFmt / 8
    (List.range n).map fun k => leNat (padRead s core (ringPos h y + (k * h.c + c) * e) e)
  else
    let row := padRead s core (ringPos h y + c * segBytes h) (segBytes h)
    (List.range n).map (elemAt h.ctlw.aFmt row)

/-- A plane of source codes as read once: channel, row, codes. -/
abbrev Fetched := List (Nat × Nat × List Nat)

/-- Rows as the taps read them: from the ring, which holds each until every tap that reads it has been applied (R266). -/
def fetchInput (s : State) (q : Placed) (h : WinHead) (rows : List Nat) : Fetched :=
  ((List.range h.c).map fun c => rows.map fun y => (c, y, ringCodes s q.inst.core h c y)).flatten

def srcCode (h : WinHead) (fe : Fetched) (c y x : Nat) : Nat :=
  match fe.find? fun e => e.1 = c && e.2.1 = y with
  | some e => e.2.2.getD (x - (colSpan h).1) 0
  | none => 0

/-- The value at an up-sampled position of a 16-bit input, as a code (R271, R272). -/
def upCode (h : WinHead) (fe : Fetched) (c y x : Nat) : Nat :=
  if h.upMode = 0 then srcCode h fe c y x
  else if h.upMode = 1 then srcCode h fe c (y / h.fy) (x / h.fx)
  else
    let ay := blAxis y h.fy h.inH
    let ax := blAxis x h.fx h.inW
    let dy := 2 * h.fy
    let dx := 2 * h.fx
    let terms := [(dy - ay.2.2, dx - ax.2.2, ay.1, ax.1), (dy - ay.2.2, ax.2.2, ay.1, ax.2.1),
      (ay.2.2, dx - ax.2.2, ay.2.1, ax.1), (ay.2.2, ax.2.2, ay.2.1, ax.2.1)]
    let vals := (terms.filter fun t => t.1 * t.2.1 ≠ 0).map fun t =>
      (decodeCode h.ctlw.aFmt (srcCode h fe c t.2.2.1 t.2.2.2)).mul (.fin false (t.1 * t.2.1) (dy * dx))
    encodeCode h.ctlw.aFmt .ieee (sumZeroRule vals (extSum vals))

/-- Scale of channel group g at (y, x) (R241). -/
def actScale (s : State) (q : Placed) (h : WinHead) (y x g : Nat) : Nat :=
  leNat (padRead s q.inst.core (h.aScale + (g * h.inH + y) * roundUp (2 * h.inW) 64 + 2 * x) 2)

/-- The channels at one position, as the cells see them (R239). -/
def actValues (s : State) (q : Placed) (h : WinHead) (fe : Fetched) (y x : Nat) : List Ext :=
  operandValues h.ctlw.aFmt h.ga h.ctlw.aRot (actScale s q h y x)
    ((List.range h.c).map fun c => upCode h fe c y x)

/-- The pad value of a side, rounded once (R249, R263). -/
def padValue (h : WinHead) (k : Nat) : Ext :=
  let f := h.ctlw.aFmt
  let v := f32 (h.pvs.getD k 0)
  if isNarrow f then decodeFmt e5m6 (roundFmt v e5m6 .sat) else decodeCode f (encodeCode f .sat v)

/-- The channels of one tap of one output pixel (R262, R263). -/
def tapValues (s : State) (q : Placed) (h : WinHead) (fe : Fetched) (y x ky kx : Nat) : List Ext :=
  let yi : Int := (y : Int) * h.sy + ky * h.dy - h.pad 0
  let xi : Int := (x : Int) * h.sx + kx * h.dx - h.pad 2
  let all := fun k => List.replicate h.c (padValue h k)
  if yi < 0 then all 0
  else if (h.upH : Int) ≤ yi then all 1
  else if xi < 0 then all 2
  else if (h.upW : Int) ≤ xi then all 3
  else actValues s q h fe yi.toNat xi.toNat

def taps (h : WinHead) : List (Nat × Nat) :=
  ((List.range h.ky).map fun ky => (List.range h.kx).map fun kx => (ky, kx)).flatten

/-- Interleave tap vectors into the canonical order: channel outermost (R220). -/
def channelMajor (c : Nat) (vs : List (List Ext)) : List Ext :=
  ((List.range c).map fun k => vs.map fun v => v.getD k (.fin false 0 1)).flatten

/-- Weights of output channel o, in the canonical order (R239, R241). -/
def weightValues (s : State) (core : Nat) (h : WinHead) (o : Nat) : List Ext :=
  let c := h.ctlw
  let kk := h.ky * h.kx
  let row := padRead s core (h.weight + o * matPitch c.bFmt (h.c * kk)) (rowBytes c.bFmt (h.c * kk))
  let ng := ceilDiv h.c (max h.gb 1)
  let scales := h.wScale + o * roundUp (2 * ng * kk) 64
  channelMajor h.c ((List.range kk).map fun t =>
    operandValues c.bFmt h.gb c.bRot (fun g => leNat (padRead s core (scales + 2 * (g * kk + t)) 2))
      ((List.range h.c).map fun ch => elemAt c.bFmt row (ch * kk + t)))

/-! ## Output -/

/-- Address of output element (o, y, x) in bytes (R261). -/
def outElemAddr (h : WinHead) (o y x : Nat) : Nat :=
  let e := fmtBits h.ctlw.oFmt / 8
  if h.outIs then h.outAddr + y * h.outRow + (x * h.o + o) * e
  else h.outAddr + o * h.outPlane + y * h.outRow + x * e

/-- One pixel of a convolution: the codes of all output channels. -/
def convPixel (s : State) (q : Placed) (h : WinHead) (fe : Fetched) (ws : List (List Ext)) (y x : Nat) : List Nat :=
  let c := h.ctlw
  let a := channelMajor h.c ((taps h).map fun t => tapValues s q h fe y x t.1 t.2)
  ws.zipIdx.map fun wo =>
    let init := if c.accum then leNat (spaceBytes s q h.outSpace q.inst.core (outElemAddr h wo.2 y x) 4) else 0
    let bias := if c.bias then some (leNat (padRead s q.inst.core (h.bias + 4 * wo.2) 4)) else none
    drain c h.lo h.hi bias (accumulate (cellMode c) init (cellTerms (cellMode c) a wo.1))

/-- One pixel of a RESAMPLE: the position of tap (0, 0), padding included (R262, R263, R273). -/
def resamplePixel (s : State) (q : Placed) (h : WinHead) (fe : Fetched) (y x : Nat) : List Nat :=
  (tapValues s q h fe y x 0 0).map fun v => drain h.ctlw h.lo h.hi none (rn32 v)

/-- Index of the largest channel (R274). -/
def argmaxOf (f : Nat) (codes : List Nat) : Nat :=
  (codes.zipIdx.foldl (fun (best : Option (Ext × Nat)) ci =>
    let v := decodeCode f ci.1
    if v.isNan then best
    else
      match best with
      | none => some (v, ci.2)
      | some b => if 0 < extCmp v b.1 then some (v, ci.2) else best) none).elim 0xFFFF fun b => b.2

/-- The pixels of an output row, each as the codes of all output channels. -/
def rowPixels (s : State) (q : Placed) (h : WinHead) (y : Nat) : List (List Nat) :=
  let fe := fetchInput s q h (srcRows h (upRows h y (y + 1)))
  let ws := if h.conv then (List.range h.o).map (weightValues s q.inst.core h) else []
  (upFrom h.col0 h.nCols).map fun x =>
    if h.conv then convPixel s q h fe ws y x else resamplePixel s q h fe y x

/-- Planes that are written, and bytes of one element: argmax writes one plane of u16 indices (R274). -/
def WinHead.planes (h : WinHead) : Nat := if h.argmax then 1 else h.o
def WinHead.outE (h : WinHead) : Nat := if h.argmax then 2 else fmtBits h.ctlw.oFmt / 8

def planeCodes (h : WinHead) (codes : List Nat) : List Nat := if h.argmax then [argmaxOf h.ctlw.oFmt codes] else codes

def planeAddr (h : WinHead) (o y x : Nat) : Nat := h.outAddr + o * h.outPlane + y * h.outRow + x * h.outE

/-- Bytes of the staging area (R281). -/
def stagingBytes (h : WinHead) (engine : Nat) : Nat := 8 * h.nCols * (if engine = 3 then 8 else 32) * 2

/-- What an output row without a codec writes, by channel (R258, R266). -/
def rowStores (h : WinHead) (y : Nat) (px : List (List Nat)) : List WinStore :=
  if h.outIs ∧ !h.argmax then
    [{ at_ := outElemAddr h 0 y h.col0, bytes := (px.map fun codes => (codes.map (leBytes h.outE)).flatten).flatten }]
  else
    (List.range h.planes).map fun o =>
      { at_ := planeAddr h o y h.col0, bytes := (px.map fun codes => leBytes h.outE ((planeCodes h codes).getD o 0)).flatten }

/-- What a band of up to 8 output rows writes through the encoder, by channel (R281). -/
def bandStores (h : WinHead) (band : List (Nat × List (List Nat))) : List WinStore :=
  let four := h.outCodec = 2
  let y0 := (band.map (·.1)).headD 0
  (List.range h.planes).map fun o =>
    let plane := band.map fun r => r.2.map fun codes => (planeCodes h codes).getD o 0
    let bs := encodePlane four (planeAt plane) h.nCols band.length h.outRow
    { at_ := h.outAddr + o * h.outPlane + y0 / 8 * h.outRow + h.col0 / 8 * blockBytes four,
      modes := bs.map fun b => b.2.1, bytes := (bs.map fun b => b.2.2).flatten }

/-! ## Areas and accesses -/

/-- What one fill descriptor brings: a row, or a band of 8 rows under a codec, and its channel (R266). -/
def fillUnits (h : WinHead) (rows : List Nat) : List (Nat × Nat) :=
  if (colSpan h).2 ≤ (colSpan h).1 then []
  else
    let us := if h.inCodec ≠ 0 then (rows.map fun y => y / 8).eraseDups else rows
    (us.map fun u => (List.range (if h.isInter then 1 else h.c)).map fun c => (u, c)).flatten

def fillAccess (h : WinHead) (u : Nat × Nat) : Access :=
  let sp := colSpan h
  if h.inCodec ≠ 0 then
    let bb := blockBytes (h.inCodec = 4)
    { va := h.inAddr + u.2 * h.inPlane + u.1 * h.inRow + sp.1 / 8 * bb,
      n := ((sp.2 - 1) / 8 + 1 - sp.1 / 8) * bb, write := false }
  else if h.isInter then
    let e := h.c * (fmtBits h.ctlw.aFmt / 8)
    { va := h.inAddr + u.1 * h.inRow + sp.1 * e, n := (sp.2 - sp.1) * e, write := false }
  else
    let f := h.ctlw.aFmt
    let unit := if f = 7 then 4 else if f = 5 ∨ f = 8 then 2 else 1
    let u0 := rowBytes f (sp.1 / unit * unit)
    { va := h.inAddr + u.2 * h.inPlane + u.1 * h.inRow + u0, n := rowBytes f sp.2 - u0, write := false }

/-- Reads of the input, in the order the ring fills (R264, R266, R281). -/
def winReads (h : WinHead) (rows : List Nat) : List Access := (fillUnits h rows).map (fillAccess h)

/-- Output ranges of an instance's rows, as address and bytes. -/
def winOutRanges (h : WinHead) (y0 y1 : Nat) : List (Nat × Nat) :=
  let rows := upFrom y0 (y1 - y0)
  if h.outCodec ≠ 0 then
    let bb := blockBytes (h.outCodec = 2)
    ((upFrom (y0 / 8) (ceilDiv y1 8 - y0 / 8)).map fun b => (List.range h.planes).map fun o =>
      (h.outAddr + o * h.outPlane + b * h.outRow + h.col0 / 8 * bb, ceilDiv h.nCols 8 * bb)).flatten
  else if h.outIs ∧ !h.argmax then rows.map fun y => (outElemAddr h 0 y h.col0, h.nCols * h.o * h.outE)
  else (rows.map fun y => (List.range h.planes).map fun o => (planeAddr h o y h.col0, h.nCols * h.outE)).flatten

/-- Scratchpad areas that the program names, its own output and input among them where they lie
there; a halo consumer's input is its producer's (R168, R243, R265, R281, R287). -/
def winAreas (p : List Byte) (engine stripes i : Nat) : List (Nat × Nat) :=
  let h := winHead p
  let c := h.ctlw
  let kk := h.ky * h.kx
  let r := instRows h stripes i
  let b := stripeBlock p
  let halo := decide (1 < stripes) && b.producer ≠ 0xFFFF
  [(h.lb, h.lbRows * ringRow h)]
  ++ (if h.conv then [(h.weight, matBytes c.bFmt h.o (h.c * kk))] else [])
  ++ (if c.bGrp = 0 then []
      else
        let n := 2 * ceilDiv h.c (max h.gb 1) * kk
        [(h.wScale, (h.o - 1) * roundUp n 64 + n)])
  ++ (if c.aGrp = 0 then []
      else [(h.aScale, (ceilDiv h.c (max h.ga 1) * h.inH - 1) * roundUp (2 * h.inW) 64 + 2 * h.inW)])
  ++ (if c.bias then [(h.bias, 4 * h.o)] else [])
  ++ (if h.outCodec = 0 then [] else [(h.stage, stagingBytes h engine)])
  ++ (if h.outSpace = 1 then winOutRanges h r.1 r.2 else [])
  ++ (if h.inSpace = 1 ∧ !halo then (winReads h (srcRows h (upRows h r.1 r.2))).map fun a => (a.va, a.n) else [])
  ++ (if halo then [(b.above, b.slots * (64 + b.rowBytes)), (b.below, b.slots * (64 + b.rowBytes))] else [])

/-- A compressed block of a fill that fails to decode (R278). -/
def fillBad (s : State) (q : Placed) (h : WinHead) (u : Nat × Nat) : Bool :=
  let sp := colSpan h
  h.inCodec ≠ 0 && (upFrom (sp.1 / 8) ((sp.2 - 1) / 8 + 1 - sp.1 / 8)).any fun bx =>
    (codecBlock s q.loop.tenant h u.2 u.1 bx).isNone

end Sys2Proof.Machine
end

