-- ==== Sys2Proof/Machine/Drain.lean ====
section
/-! DEFINITION. Machine/Drain.lean: how a run of a WE or Minuet instance goes on (R258, R264 to R266, R281, R286, R295): fill
descriptors bring source rows into the ring, output rows drain as soon as their inputs are there, write
descriptors take them to HBM. When that happens is timing, and the model lets it happen at the commands that show it
(DESIGN CHOICE, log entry 29). -/

namespace Sys2Proof.Machine

open Sys2Proof

/-! ## What is there -/

def winHeadOf (s : State) (q : Placed) : WinHead := winHead (winProgram s q.loop.tenant q.cmd.spec)

/-- Output rows of the instance: the first, and one past the last. -/
def rowsOf (q : Placed) (h : WinHead) : Nat × Nat := instRows h q.cmd.spec.stripes q.ref.inst

/-- Source rows of the whole run, in the order the ring takes them. -/
def runRows (q : Placed) (h : WinHead) : List Nat := let r := rowsOf q h; srcRows h (upRows h r.1 r.2)

/-- Fills of a run, in order; an input in scratchpad needs none. -/
def runFills (q : Placed) (h : WinHead) : List (Nat × Nat) := if h.inSpace = 0 then fillUnits h (runRows q h) else []

/-- Every fill of a row has completed. -/
def rowFilled (q : Placed) (h : WinHead) (y : Nat) : Bool :=
  let u := if h.inCodec ≠ 0 then y / 8 else y
  (runFills q h).zipIdx.all fun x => x.1.1 ≠ u || decide (x.2 < q.inst.win.filled)

/-- A halo consumer has taken every row from above: rows come into its ring in ascending order (DESIGN CHOICE, log entry
29: of R294's order the rule states that of one direction). -/
def aboveTaken (s : State) (q : Placed) (h : WinHead) : Bool :=
  match localRows s q with
  | some own => decide (own.1 ≤ (inputRows h q.cmd.spec.stripes q.ref.inst).1 + q.inst.above.taken)
  | none => true

/-- A source row is there: filled, in scratchpad, drained by the producer on this core, or taken from its slot (R264,
R266, R294, R295). -/
def rowHere (s : State) (q : Placed) (h : WinHead) (y : Nat) : Bool :=
  match haloProducer s q.loop.tenant q.step q.ref.cmd, localRows s q with
  | some k, some own =>
    if y < own.1 then decide (y < (inputRows h q.cmd.spec.stripes q.ref.inst).1 + q.inst.above.taken)
    else if own.2 ≤ y then aboveTaken s q h && decide (y < own.2 + q.inst.below.taken)
    else aboveTaken s q h && match findInst s { q.ref with cmd := k } with
      | some f => isDone f.inst || decide (y < own.1 + f.inst.win.rows)
      | none => false
  | _, _ => h.inSpace ≠ 0 || rowFilled q h y

/-- The first source row that an output row not yet drained reads. -/
def firstNeed (q : Placed) (h : WinHead) : Option Nat :=
  let r := rowsOf q h
  (srcRows h (upRows h (r.1 + q.inst.win.rows) r.2)).min?

/-- A row may come into the ring: the row whose place it takes is no longer read (R266). -/
def ringFree (q : Placed) (h : WinHead) (y : Nat) : Bool :=
  match firstNeed q h with
  | some n => decide (y < n + h.lbRows)
  | none => true

/-! ## Draining -/

/-- Source rows of an output row that the engine itself copies into the ring: those that lie in scratchpad on its own
core, and that no row before has read (R266, R295). -/
def copyRows (s : State) (q : Placed) (h : WinHead) (y : Nat) : State :=
  if h.inSpace = 0 then s
  else
    let own := localRows s q
    let before := srcRows h (upRows h (rowsOf q h).1 y)
    ((srcRows h (upRows h y (y + 1))).filter fun r => !isHaloRow own r && !before.elem r).foldl (fun s r =>
      padWrite s q.inst.core (ringPos h r)
        (ringImage h ((List.range h.c).map fun c => srcRow s q h q.inst.core c r))) s

def modWin (s : State) (r : CmdRef) (f : WinRun → WinRun) : State := modInst s r fun i => { i with win := f i.win }

/-- An output row has drained: it stands in scratchpad, waits for its write descriptors, or joins its band in the
staging area, whose layout the spec does not give (free values, log entry 7). -/
def putRow (s : State) (q : Placed) (h : WinHead) (y : Nat) (px : List (List Nat)) : State :=
  if h.outCodec ≠ 0 then
    let band := q.inst.win.staged ++ [(y, px)]
    let s := draw (padWrite s q.inst.core h.stage (fit (stagingBytes h q.cmd.spec.engine) (Config.freeBytes s.fresh)))
    if y % 8 = 7 ∨ y + 1 = (rowsOf q h).2 then
      modWin s q.ref fun w => { w with rows := w.rows + 1, staged := [], out := w.out ++ bandStores h band }
    else modWin s q.ref fun w => { w with rows := w.rows + 1, staged := band }
  else if h.outSpace = 0 then
    modWin s q.ref fun w => { w with rows := w.rows + 1, out := w.out ++ rowStores h y px }
  else
    modWin ((rowStores h y px).foldl (fun s o => padWrite s q.inst.core o.at_ o.bytes) s) q.ref fun w =>
      { w with rows := w.rows + 1 }

/-- Output pixels and channels of one tile of the engine (R258, R268). -/
def tileOf (engine : Nat) : Nat × Nat := if engine = 3 then (64, 8) else (32, 32)

/-- Pieces of at most n of a range of m, from first to last: where each starts, and how long it is. -/
def piecesOf (m n : Nat) : List (Nat × Nat) := (List.range (ceilDiv m n)).map fun k => (k * n, min n (m - k * n))

/-- Reads of the sums that an output row accumulates onto, tile by tile: a block of channels, and in it each block of pixels
(R223, R258, R268). Within a tile the rule gives no order: by channel, or by pixel where channels lie together (DESIGN
CHOICE, log entry 29). -/
def accumReads (h : WinHead) (engine y : Nat) : List Access :=
  if h.ctlw.accum ∧ h.outSpace = 0 then
    ((piecesOf h.o (tileOf engine).2).map fun oc => ((piecesOf h.nCols (tileOf engine).1).map fun xc =>
      if h.outIs then (upFrom xc.1 xc.2).map fun x =>
        ({ va := outElemAddr h oc.1 y (h.col0 + x), n := oc.2 * h.outE, write := false } : Access)
      else (upFrom oc.1 oc.2).map fun o =>
        ({ va := outElemAddr h o y (h.col0 + xc.1), n := xc.2 * h.outE, write := false } : Access)).flatten).flatten
  else []

/-- One output row drains. -/
def drainRow (s : State) (q : Placed) (h : WinHead) (y : Nat) : State :=
  let s := copyRows s q h y
  runWork s q { hbm := accumReads h q.cmd.spec.engine y } fun s => putRow s q h y (rowPixels s q h y)

/-- Output rows drain, in order, as far as their inputs are there. -/
def drainRows : Nat → State → CmdRef → State
  | 0, s, _ => s
  | n + 1, s, r =>
    match findInst s r with
    | none => s
    | some q =>
      let h := winHeadOf s q
      let y := (rowsOf q h).1 + q.inst.win.rows
      if !isRun q.inst || decide ((rowsOf q h).2 ≤ y) || !(srcRows h (upRows h y (y + 1))).all (rowHere s q h) then s
      else drainRows n (drainRow s q h y) r

/-- An instance goes as far as it can, its halo producers on the same core first; a step has at most 256 commands
(R166). -/
def pump : Nat → State → CmdRef → State
  | 0, s, _ => s
  | n + 1, s, r =>
    match findInst s r with
    | none => s
    | some q =>
      let s := match haloProducer s q.loop.tenant q.step q.ref.cmd with
        | some k => pump n s { r with cmd := k }
        | none => s
      let h := winHeadOf s q
      drainRows ((rowsOf q h).2 - (rowsOf q h).1) s r

def isWindow (q : Placed) : Bool := q.cmd.spec.engine = 0 || q.cmd.spec.engine = 3

def pumpRun (s : State) (r : CmdRef) : State :=
  match findInst s r with
  | some q => if isWindow q && isRun q.inst then pump 256 s r else s
  | none => s

/-- All output rows have drained, and what goes to HBM is there. -/
def winDone (s : State) (q : Placed) : Bool :=
  let h := winHeadOf s q
  decide ((rowsOf q h).2 ≤ (rowsOf q h).1 + q.inst.win.rows) && q.inst.win.out = [] && q.inst.dma.jobs = []

/-! ## Fill and write descriptors (R23, R266) -/

def dmaJobs (s : State) (r : CmdRef) (j : DmaJob) : State :=
  modInst s r fun i => { i with dma := { i.dma with next := i.dma.next + 1, jobs := i.dma.jobs ++ [j] } }

/-- An access that lies outside the declared sets, as its descriptor starts (R143). -/
def outside (q : Placed) (a : Access) : Option Nat :=
  let set := if a.write then writeSet q.cmd.spec else readSet q.cmd.spec
  if vaEnd < a.va + a.n then some (min a.va vaEnd) else firstOutside set (a.n + 1) a.va (a.va + a.n)

/-- The engine issues its next descriptor: a write of drained output before a fill (DESIGN CHOICE, log entry 29), at most
8 of each outstanding. -/
def winIssue (s : State) (q : Placed) : State :=
  let h := winHeadOf s q
  let w := q.inst.win
  let writes := (q.inst.dma.jobs.filter fun j => j.out.isSome).length
  let fills := q.inst.dma.jobs.length - writes
  match (if writes < 8 then w.out else []) with
  | o :: r =>
      match outside q { va := o.at_, n := o.bytes.length, write := true } with
      | some va => faultFail s q 2 va dtSetViolation
      | none => dmaJobs (modWin s q.ref fun w => { w with out := r }) q.ref { index := q.inst.dma.next, out := some o }
  | [] =>
    match (runFills q h)[w.issued]? with
    | none => s
    | some u =>
      let last := if h.inCodec ≠ 0 then min (8 * u.1 + 7) (h.inH - 1) else u.1
      if fills < 8 ∧ ringFree q h last then
        match outside q (fillAccess h u) with
        | some va => faultFail s q 2 va dtSetViolation
        | none => dmaJobs (modWin s q.ref fun w => { w with issued := w.issued + 1 }) q.ref { index := q.inst.dma.next }
      else s

/-- What a fill puts into the ring: a row, or one channel's segment of it, or of each row of a band. -/
def fillRing (s : State) (q : Placed) (h : WinHead) (u : Nat × Nat) : State :=
  if h.isInter then
    padWrite s q.inst.core (ringPos h u.1) (ringImage h ((List.range h.c).map fun c => srcRow s q h q.inst.core c u.1))
  else
    let rows := if h.inCodec ≠ 0 then upFrom (8 * u.1) (min 8 (h.inH - 8 * u.1)) else [u.1]
    rows.foldl (fun s y =>
      padWrite s q.inst.core (ringPos h y + u.2 * segBytes h) (segOf h (srcRow s q h q.inst.core u.2 y))) s

def dropJob (s : State) (r : CmdRef) : State :=
  modInst s r fun i => { i with dma := { i.dma with jobs := i.dma.jobs.drop 1 } }

/-- The oldest descriptor of a WE or Minuet run completes: a fill decodes as it fills (R281). -/
def winFinish (s : State) (q : Placed) (j : DmaJob) : State :=
  let h := winHeadOf s q
  match j.out with
  | some o =>
    runWork s q { hbm := [{ va := o.at_, n := o.bytes.length, write := true }], stores := [(o.at_, o.bytes)] } fun s =>
      modInst (dropJob s q.ref) q.ref fun i => { i with dma := { i.dma with
        exact := i.dma.exact + (o.modes.filter exactMode).length,
        lossy := i.dma.lossy + (o.modes.filter fun m => !exactMode m).length } }
  | none =>
    match (runFills q h)[q.inst.win.filled]? with
    | none => dropJob s q.ref
    | some u =>
      runWork s q { hbm := [fillAccess h u], bad := if fillBad s q h u then some dtCodecBlock else none } fun s =>
        pumpRun (modWin (dropJob (fillRing s q h u) q.ref) q.ref fun w => { w with filled := w.filled + 1 }) q.ref

end Sys2Proof.Machine
end

