-- ==== Sys2Proof/Machine/Dma.lean ====
section
/-! DEFINITION. Machine/Dma.lean: DMA descriptors (R145, R146, R275, R280, R622) and DMA commands
(R147). -/

namespace Sys2Proof.Machine

open Sys2Proof

structure Desc where
  src : Nat
  dst : Nat
  rowBytes : Nat
  rows : Nat
  srcPitch : Nat
  dstPitch : Nat
  srcSpace : Nat
  dstSpace : Nat
  remote : Nat
  codec : Nat
  layout : Nat
  elem : Nat
  channels : Nat
  control : Nat
  reserved : Nat
  deriving DecidableEq, Repr

def descOf (l : List Byte) : Desc :=
  { src := leAt l 0 8, dst := leAt l 8 8, rowBytes := leAt l 16 4, rows := leAt l 20 4, srcPitch := leAt l 24 4,
    dstPitch := leAt l 28 4, srcSpace := leAt l 32 1, dstSpace := leAt l 33 1, remote := leAt l 34 2,
    codec := leAt l 36 1, layout := leAt l 37 1, elem := leAt l 38 1, channels := leAt l 39 1,
    control := leAt l 40 4, reserved := leAt l 44 4 }

def Desc.encode (d : Desc) : Bool := d.codec = 1 || d.codec = 2
def Desc.decode (d : Desc) : Bool := d.codec = 3 || d.codec = 4
def Desc.four (d : Desc) : Bool := d.codec = 2 || d.codec = 4
/-- Elements of a row of a plane under the codec. -/
def Desc.width (d : Desc) : Nat := d.rowBytes / 2
/-- Pixels of a row under a layout (R622). -/
def Desc.pixels (d : Desc) : Nat := d.rowBytes / (max d.channels 1 * max d.elem 1)

/-! ## Field rules (R146) -/

def codecOk (d : Desc) : Bool :=
  let b := blockBytes d.four
  let addr := if d.encode then d.dst else d.src
  let pitch := if d.encode then d.dstPitch else d.srcPitch
  d.codec = 0 ||
  (decide (d.codec ≤ 4) && (if d.encode then d.dstSpace = 0 else d.srcSpace = 0) && d.layout = 0 && d.elem = 2
    && d.rowBytes % 2 = 0 && addr % b = 0 && pitch % b = 0 && decide (ceilDiv d.width 8 * b ≤ pitch))

def layoutOk (d : Desc) : Bool :=
  let px := d.channels * d.elem
  let ip := if d.layout = 1 then d.srcPitch else d.dstPitch
  let pp := if d.layout = 1 then d.dstPitch else d.srcPitch
  d.layout = 0 ||
  (d.rowBytes % max px 1 = 0 && (decide (d.rows ≤ 1) || decide (d.rowBytes ≤ ip))
    && decide (d.pixels * d.elem ≤ pp))

def valuesOk (d : Desc) : Bool :=
  decide (1 ≤ d.rowBytes) && decide (1 ≤ d.rows) && decide (d.srcSpace ≤ 2) && decide (d.dstSpace ≤ 2)
  && (if d.srcSpace = 2 ∨ d.dstSpace = 2 then decide (d.remote ≤ 127) else d.remote = 0)
  && decide (d.layout ≤ 2) && (d.elem = 1 || d.elem = 2 || d.elem = 4)
  && (if d.layout = 0 then d.channels = 0 else decide (1 ≤ d.channels)) && layoutOk d

/-- The detail under which a descriptor fails its command; none for a valid one. -/
def descFault (d : Desc) : Option Nat :=
  if d.reserved ≠ 0 ∨ 4 ≤ d.control then some dtReservedNonzero
  else if !codecOk d then some dtCodecDescriptor
  else if !valuesOk d then some dtValueRange
  else none

/-! ## Byte ranges of a side -/

/-- Rows of bytes at a pitch. -/
def rowRanges (addr n rows pitch : Nat) : List (Nat × Nat) := (List.range rows).map fun r => (addr + r * pitch, n)

def planarRanges (d : Desc) (addr pitch : Nat) : List (Nat × Nat) :=
  rowRanges addr (d.pixels * d.elem) (d.channels * d.rows) pitch

def blockRanges (d : Desc) (addr pitch : Nat) : List (Nat × Nat) :=
  rowRanges addr (ceilDiv d.width 8 * blockBytes d.four) (ceilDiv d.rows 8) pitch

def Desc.srcRanges (d : Desc) : List (Nat × Nat) :=
  if d.decode then blockRanges d d.src d.srcPitch
  else if d.layout = 2 then planarRanges d d.src d.srcPitch
  else rowRanges d.src d.rowBytes d.rows d.srcPitch

def Desc.dstRanges (d : Desc) : List (Nat × Nat) :=
  if d.encode then blockRanges d d.dst d.dstPitch
  else if d.layout = 1 then planarRanges d d.dst d.dstPitch
  else rowRanges d.dst d.rowBytes d.rows d.dstPitch

/-- A scratchpad range that a descriptor of a command may touch: its own regions, or, on another
core, a region assigned to a command of the same step there (R146). -/
def padAllowed (s : State) (q : Placed) (space remote : Nat) (r : Nat × Nat) : Bool :=
  if space = 1 then inRegions q.cmd.spec.regions r.1 r.2
  else (stepInsts q.ref.loop q.loop q.step).any fun p =>
    onCore p.inst && p.inst.core = remote && inRegions p.cmd.spec.regions r.1 r.2 && (findInst s p.ref).isSome

def sideCore (q : Placed) (space remote : Nat) : Nat := if space = 2 then remote else q.inst.core

/-! ## The transfer -/

def readSide (s : State) (q : Placed) (d : Desc) (a n : Nat) : List Byte :=
  if d.srcSpace = 0 then hbmRead s q.loop.tenant a n else padRead s (sideCore q d.srcSpace d.remote) a n

/-- Channel c of pixel x in row r on the interleaved and on the planar side (R622). -/
def interOff (d : Desc) (pitch r x c : Nat) : Nat := r * pitch + (x * d.channels + c) * d.elem
def planarOff (d : Desc) (pitch r x c : Nat) : Nat := (c * d.rows + r) * pitch + x * d.elem

/-- The bytes a descriptor moves, as destination address and bytes, with the modes of the blocks it
encodes; none where a block it reads fails to decode (R278). -/
def transfer (s : State) (q : Placed) (d : Desc) : Option (List (Nat × List Byte) × List Nat) :=
  let rd := readSide s q d
  if d.encode then
    let at_ := fun y x => if y < d.rows ∧ x < d.width then leNat (rd (d.src + y * d.srcPitch + 2 * x) 2) else 0
    let bs := encodePlane d.four at_ d.width d.rows d.dstPitch
    some (bs.map fun b => (d.dst + b.1, b.2.2), bs.map fun b => b.2.1)
  else if d.decode then
    let bb := blockBytes d.four
    let blocks := ((List.range (ceilDiv d.rows 8)).map fun y => (List.range (ceilDiv d.width 8)).map fun x =>
      (y, x, decodeBlock d.four (rd (d.src + y * d.srcPitch + x * bb) bb))).flatten
    if blocks.any fun b => b.2.2.isNone then none
    else
      some ((blocks.map fun b =>
        (List.range (min 8 (d.rows - 8 * b.1))).map fun r =>
          (d.dst + (8 * b.1 + r) * d.dstPitch + 16 * b.2.1,
            (((b.2.2.getD []).drop (8 * r)).take (min 8 (d.width - 8 * b.2.1))).map (leBytes 2) |>.flatten)).flatten, [])
  else if d.layout = 0 then
    some ((List.range d.rows).map fun r => (d.dst + r * d.dstPitch, rd (d.src + r * d.srcPitch) d.rowBytes), [])
  else
    let so := fun r x c => if d.layout = 1 then interOff d d.srcPitch r x c else planarOff d d.srcPitch r x c
    let o := fun r x c => if d.layout = 1 then planarOff d d.dstPitch r x c else interOff d d.dstPitch r x c
    some (((List.range d.rows).map fun r => (List.range d.pixels).map fun x => (List.range d.channels).map fun c =>
      (d.dst + o r x c, rd (d.src + so r x c) d.elem)).flatten.flatten, [])

/-! ## Descriptors of a running command -/

/-- The HBM accesses of a descriptor. -/
def Desc.hbm (d : Desc) : List Access :=
  (if d.srcSpace = 0 then d.srcRanges.map fun r => ({ va := r.1, n := r.2, write := false } : Access) else [])
  ++ (if d.dstSpace = 0 then d.dstRanges.map fun r => ({ va := r.1, n := r.2, write := true } : Access) else [])

/-- Its scratchpad accesses stay in the regions that R146 allows. -/
def descPadsOk (s : State) (q : Placed) (d : Desc) : Bool :=
  (d.srcSpace = 0 || d.srcRanges.all (padAllowed s q d.srcSpace d.remote))
  && (d.dstSpace = 0 || d.dstRanges.all (padAllowed s q d.dstSpace d.remote))

/-- A descriptor starts: its fields and then its addresses are checked (R143, R146, R147); a valid one is outstanding
from now on, and k goes on. -/
def startDesc (s : State) (q : Placed) (index group : Nat) (bytes : List Byte) (k : State → State) : State :=
  let d := descOf bytes
  match descFault d with
  | some e => badParam s q e
  | none =>
    match d.hbm.findSome? (outside q) with
    | some va => faultFail s q 2 va dtSetViolation
    | none =>
      if !descPadsOk s q d then padViolation s q
      else
        k (modInst s q.ref fun i => { i with dma := { i.dma with
          next := index + 1, jobs := i.dma.jobs ++ [{ index := index, group := group, desc := bytes }] } })

/-- The oldest outstanding descriptor of a command completes: its accesses are made, and what it moves lands (R23). -/
def finishDesc (s : State) (q : Placed) (j : DmaJob) : State :=
  let d := descOf j.desc
  match transfer s q d with
  | none => runWork s q { hbm := d.hbm, bad := some dtCodecBlock } id
  | some (ws, modes) =>
    let w : Work :=
      { hbm := d.hbm,
        stores := if d.dstSpace = 0 then ws else [],
        pads := if d.dstSpace = 0 then [] else ws.map fun x => (sideCore q d.dstSpace d.remote, x.1, x.2) }
    runWork s q w fun s =>
      modInst s q.ref fun i => { i with dma := { i.dma with
        jobs := i.dma.jobs.drop 1, done := i.dma.done ++ [j.index],
        exact := i.dma.exact + (modes.filter exactMode).length,
        lossy := i.dma.lossy + (modes.filter fun m => !exactMode m).length } }

/-! ## DMA commands (R147) -/

def dmaCount (s : State) (t : Nat) (c : CmdRec) : Nat := progLe s t c 4 4

/-- The head check of a DMA command. -/
def dmaFault (s : State) (q : Placed) : Option (Nat × Nat) :=
  let p := progBytes s q.loop.tenant q.cmd.spec 0 16
  let n := leAt p 4 4
  if leAt p 0 2 ≠ 1 ∨ leAt p 2 2 ≠ 0 ∨ leAt p 8 8 ≠ 0 ∨ n = 0 ∨ 349525 < n ∨ q.cmd.spec.programBytes ≠ 16 + 48 * n
  then some (stBadParam, dtDmaProgram) else none

/-- The next descriptor of a running DMA command starts, while fewer than 64 are outstanding and, under control bit 1,
once every earlier one has completed. -/
def dmaNext (s : State) (q : Placed) : State :=
  let i := q.inst.dma.next
  let bytes := progBytes s q.loop.tenant q.cmd.spec (16 + 48 * i) 48
  if q.cmd.spec.engine ≠ 4 || decide (dmaCount s q.loop.tenant q.cmd.spec ≤ i)
      || decide (64 ≤ q.inst.dma.jobs.length) || (bit (leAt bytes 40 4) 1 && q.inst.dma.jobs ≠ []) then s
  else startDesc s q i 0 bytes id

/-- DMA_DESCRIPTOR_START: the next descriptor of a running DMA, WE or Minuet command (R147, R266). -/
def onDmaStart (ref : CmdRef) (s : State) : State :=
  if !isRunning s then s
  else
    let s := pumpRun s ref
    match findInst s ref with
    | none => s
    | some q =>
      if !isRun q.inst then s
      else if isWindow q then winIssue s q
      else dmaNext s q

/-- DMA_DESCRIPTOR_DONE: a descriptor completes, the oldest of its command first. -/
def onDmaDone (ref : CmdRef) (index : Nat) (s : State) : State :=
  match findInst s ref with
  | none => s
  | some q =>
    match q.inst.dma.jobs with
    | j :: _ =>
      if isRunning s && isRun q.inst && j.index = index then
        if isWindow q then winFinish s q j else finishDesc s q j
      else s
    | [] => s

def execDmaDescriptorStart (ref : CmdRef) (s : State) : Out := .next (onDmaStart ref s)
def execDmaDescriptorDone (ref : CmdRef) (index : Nat) (s : State) : Out := .next (onDmaDone ref index s)

end Sys2Proof.Machine
end

