-- ==== Sys2Proof/Machine/Raster.lean ====
section
/-! DEFINITION. Machine/Raster.lean: raster commands (R329 to R349): the program head, display-list
packets, clipping and setup, coverage, shading, blending, and the tiles a run writes. Coordinates are
in 1/256 pixel; colours, depths and attributes are FP32 codes. -/

namespace Sys2Proof.Machine

open Sys2Proof

/-! ## The head (R330, R331) -/

structure RasHead where
  owners : Nat
  fmt    : Nat
  load   : Bool
  outputs : Nat
  w      : Nat
  h      : Nat
  dlBytes : Nat
  dl     : Nat
  color  : Nat
  cRow   : Nat
  cPlane : Nat
  depth  : Nat
  dRow   : Nat
  motion : Nat
  mRow   : Nat
  mPlane : Nat
  sigIn  : Nat
  sigOut : Nat
  tex    : Nat
  texN   : Nat
  clearD : Nat
  clearC : List Nat
  bin    : Nat
  deriving DecidableEq, Repr

def rasHead (p : List Byte) : RasHead :=
  { owners := leAt p 2 1, fmt := leAt p 3 1, load := leAt p 4 1 = 1, outputs := leAt p 5 1, w := leAt p 8 2,
    h := leAt p 10 2, dlBytes := leAt p 12 4, dl := leAt p 16 8, color := leAt p 24 8, cRow := leAt p 32 4,
    cPlane := leAt p 36 4, depth := leAt p 40 8, dRow := leAt p 48 4, motion := leAt p 56 8, mRow := leAt p 64 4,
    mPlane := leAt p 68 4, sigIn := leAt p 72 8, sigOut := leAt p 80 8, tex := leAt p 88 8, texN := leAt p 96 4,
    clearD := leAt p 100 4, clearC := (List.range 4).map fun k => leAt p (104 + 4 * k) 4, bin := leAt p 120 4 }

def RasHead.hasDepth (h : RasHead) : Bool := bit h.outputs 0
def RasHead.hasMotion (h : RasHead) : Bool := bit h.outputs 1
def RasHead.hasSig (h : RasHead) : Bool := bit h.outputs 2
def RasHead.skip (h : RasHead) : Bool := bit h.outputs 3

def rasHeadOf (s : State) (q : Placed) : RasHead := rasHead (progBytes s q.loop.tenant q.cmd.spec 0 128)

def rasFieldsOk (p : List Byte) : Bool :=
  let h := rasHead p
  leAt p 0 2 = 1 && decide (1 ≤ h.owners) && decide (h.owners ≤ 128) && decide (h.fmt ≤ 4) && decide (leAt p 4 1 ≤ 1)
  && decide (1 ≤ h.w) && decide (h.w ≤ 16384) && decide (1 ≤ h.h) && decide (h.h ≤ 16384)
  && decide (16 ≤ h.dlBytes) && decide (h.dlBytes ≤ 16777216) && h.dlBytes % 8 = 0
  && h.cRow % 64 = 0 && h.cPlane % 64 = 0 && (decide (h.fmt ≤ 1) || h.cPlane = 0)
  && (h.hasDepth || h.depth = 0) && h.dRow % 64 = 0 && (h.hasMotion || h.motion = 0) && h.mRow % 64 = 0
  && h.mPlane % 64 = 0 && (h.skip || h.sigIn = 0) && (h.hasSig || h.sigOut = 0) && (h.texN ≠ 0 || h.tex = 0)
  && decide (h.texN ≤ 256) && decide (65536 ≤ h.bin) && decide (h.bin ≤ 2097152) && h.bin % 64 = 0

structure Tex where
  va : Nat
  w  : Nat
  h  : Nat
  fmt : Nat
  rep : Bool
  pitch : Nat
  deriving DecidableEq, Repr

def texOf (l : List Byte) : Tex :=
  { va := leAt l 0 8, w := leAt l 8 2, h := leAt l 10 2, fmt := leAt l 12 1, rep := leAt l 13 1 = 1, pitch := leAt l 16 4 }

def texOk (l : List Byte) : Bool :=
  let t := texOf l
  decide (1 ≤ t.w) && decide (t.w ≤ 16384) && decide (1 ≤ t.h) && decide (t.h ≤ 16384) && decide (t.fmt ≤ 2)
  && decide (leAt l 13 1 ≤ 1) && leAt l 14 2 = 0 && leNat ((l.drop 20).take 12) = 0

def texEntry (s : State) (t : Nat) (h : RasHead) (k : Nat) : List Byte := hbmRead s t (h.tex + 32 * k) 32

/-- The read of the texture table: by the check of its entries, and by every run. -/
def tableReads (h : RasHead) : List Access := if h.texN = 0 then [] else [{ va := h.tex, n := 32 * h.texN, write := false }]

/-- The checks of the head at first dispatch (R331). -/
def rasHeadFault (s : State) (q : Placed) : Option (Nat × Nat) :=
  let p := progBytes s q.loop.tenant q.cmd.spec 0 128
  let h := rasHead p
  firstFault
    [ (decide (16 ≤ h.outputs) || leAt p 6 2 ≠ 0 || leAt p 52 4 ≠ 0 || leAt p 124 4 ≠ 0, (stBadParam, dtReservedNonzero)),
      (!rasFieldsOk p, (stBadParam, dtValueRange)),
      (h.skip && !h.hasSig, (stBadParam, dtRasterForm)) ]

/-- The check of the texture entries, once the table has been read. -/
def texFault (s : State) (q : Placed) : Option (Nat × Nat) :=
  let h := rasHeadOf s q
  if (List.range h.texN).all fun k => texOk (texEntry s q.loop.tenant h k) then none else some (stBadParam, dtRasterForm)

/-! ## The STATE body (R334) -/

def stBlend (b : List Byte) : Nat := leAt b 0 1
def stDepthTest (b : List Byte) : Nat := leAt b 1 1
def stDepthWrite (b : List Byte) : Bool := leAt b 2 1 = 1
def stMotionWrite (b : List Byte) : Bool := leAt b 3 1 = 1
def stFill (b : List Byte) : Nat := leAt b 4 1
def stTexture (b : List Byte) : Nat := leAt b 5 1
def stBilinear (b : List Byte) : Bool := leAt b 6 1 = 1
def stAttribs (b : List Byte) : Nat := leAt b 7 1
def stScissor (b : List Byte) (k : Nat) : Nat := leAt b (8 + 4 * k) 4

def stateOk (h : RasHead) (b : List Byte) : Bool :=
  let sc := stScissor b
  decide (stBlend b ≤ 2) && decide (stDepthTest b ≤ 2) && decide (leAt b 2 1 ≤ 1) && decide (leAt b 3 1 ≤ 1)
  && decide (stFill b ≤ 1) && (stFill b = 0 || decide (stTexture b < h.texN)) && decide (leAt b 6 1 ≤ 1)
  && stAttribs b = (if stFill b = 1 then 6 else 4)
  && f32Le 0 (sc 0) && f32Le (sc 0) (sc 2) && f32Le (sc 2) one32
  && f32Le 0 (sc 1) && f32Le (sc 1) (sc 3) && f32Le (sc 3) one32

/-! ## Clipping and setup (R339) -/

/-- A vertex in clip space: current and previous position, then attributes, as FP32 codes. -/
abbrev ClipVertex := List Nat

def cv (v : ClipVertex) (k : Nat) : Nat := v.getD k 0
def four32 : Nat := 0x40800000

/-- Signed distance of a vertex from clip plane k, inside where it is not negative. -/
def clipDist (k : Nat) (v : ClipVertex) : Nat :=
  let w := cv v 3
  let w4 := f32Mul w four32
  match k with
  | 0 => f32Sub w 0x37800000        -- w ≥ 2^−16
  | 1 => cv v 2
  | 2 => f32Sub w (cv v 2)
  | 3 => f32Add (cv v 0) w4
  | 4 => f32Sub w4 (cv v 0)
  | 5 => f32Add (cv v 1) w4
  | _ => f32Sub w4 (cv v 1)

/-- The point of an edge on the plane: t = d0 / (d0 − d1). -/
def clipPoint (a b : ClipVertex) (d0 d1 : Nat) : ClipVertex :=
  let t := f32Div d0 (f32Sub d0 d1)
  (a.zip b).map fun xy => f32Add xy.1 (f32Mul t (f32Sub xy.2 xy.1))

/-- One plane: edges in vertex order. -/
def clipPlane (k : Nat) (poly : List ClipVertex) : List ClipVertex :=
  (poly.zip (poly.drop 1 ++ poly.take 1)).map (fun ab =>
    let d0 := clipDist k ab.1
    let d1 := clipDist k ab.2
    let i0 := f32Le 0 d0
    let i1 := f32Le 0 d1
    (if i0 then [ab.1] else []) ++ (if i0 != i1 then [clipPoint ab.1 ab.2 d0 d1] else [])) |>.flatten

def clipAll (poly : List ClipVertex) : List ClipVertex := (List.range 7).foldl (fun p k => clipPlane k p) poly

/-- A coordinate snapped to 1/256 pixel, ties to even; one with no finite value is free (log entry 7), by its place in
the list and its code, so that equal runs give equal bits (R513). -/
def snap (place : List Nat) (v : Nat) : Int :=
  match f32 v with
  | .fin neg n d => sgn neg (roundHalfEven (256 * n) d)
  | _ => sInt 32 (Config.rasCorner (v :: place)).toNat

def two32 : Nat := 0x40000000
def natF32 (n : Nat) : Nat := rn32 (.fin false n 1)
/-- 1/256 pixel as an FP32 number of pixels. -/
def px32 (i : Int) : Nat := rn32 (.fin (decide (i < 0)) i.natAbs 256)

def screenX (h : RasHead) (x w : Nat) : Nat := f32Div (f32Mul (f32Add (f32Div x w) one32) (natF32 h.w)) two32
def screenY (h : RasHead) (y w : Nat) : Nat := f32Div (f32Mul (f32Sub one32 (f32Div y w)) (natF32 h.h)) two32

/-- Setup of one vertex: snapped position, depth, w, motion and attributes (R339, R341). -/
def setupVertex (place : List Nat) (h : RasHead) (v : ClipVertex) : RasVertex :=
  let sx := snap (0 :: place) (screenX h (cv v 0) (cv v 3))
  let sy := snap (1 :: place) (screenY h (cv v 1) (cv v 3))
  let px := snap (2 :: place) (screenX h (cv v 4) (cv v 7))
  let py := snap (3 :: place) (screenY h (cv v 5) (cv v 7))
  { x := sx, y := sy, z := f32Div (cv v 2) (cv v 3), w := cv v 3, mx := px32 (sx - px), my := px32 (sy - py),
    attrs := v.drop 8 }

/-- A fan from the first vertex. -/
def fanOf (seq : Nat) (st : List Byte) (vs : List RasVertex) : List RasPrim :=
  match vs with
  | [] => []
  | a :: r => (r.zip (r.drop 1)).map fun bc => { seq := seq, state := st, verts := [a, bc.1, bc.2] }

def readVertex (l : List Byte) (n : Nat) : ClipVertex := (List.range n).map fun k => leAt l (4 * k) 4

/-- The pieces of triangle k of a packet body. -/
def triPieces (h : RasHead) (st body : List Byte) (seq k : Nat) : List RasPrim :=
  let n := 8 + stAttribs st
  let vs := (List.range 3).map fun j => readVertex (body.drop (8 + (3 * k + j) * 4 * n)) n
  fanOf seq st ((clipAll vs).zipIdx.map fun v => setupVertex [seq, v.2] h v.1)

/-- A rectangle: its two corners (R336, R339). -/
def rectPrim (h : RasHead) (st body : List Byte) (seq k : Nat) : RasPrim :=
  let r := fun j => leAt body (8 + 48 * k + 4 * j) 4
  let corner := fun i x y as_ =>
    let sx := snap [0, seq, i] (f32Mul x (natF32 h.w))
    let sy := snap [1, seq, i] (f32Mul y (natF32 h.h))
    let px := snap [2, seq, i] (f32Mul (f32Sub x (r 5)) (natF32 h.w))
    let py := snap [3, seq, i] (f32Mul (f32Sub y (r 6)) (natF32 h.h))
    ({ x := sx, y := sy, z := r 4, w := one32, mx := px32 (sx - px), my := px32 (sy - py), attrs := as_ } : RasVertex)
  { seq := seq, state := st,
    verts := if stFill st = 0 then [corner 0 (r 0) (r 1) [r 8, r 9, r 10, r 11], corner 1 (r 2) (r 3) [r 8, r 9, r 10, r 11]]
      else [corner 0 (r 0) (r 1) [r 8, r 9], corner 1 (r 2) (r 3) [r 10, r 11]] }

/-! ## Coverage (R340) -/

/-- Edge function of the edge from a to b at a point. -/
def edge (a b : RasVertex) (x y : Int) : Int := (b.x - a.x) * (y - a.y) - (b.y - a.y) * (x - a.x)

def topLeft (a b : RasVertex) : Bool :=
  (decide (b.y = a.y) && decide (a.x < b.x)) || decide (b.y < a.y)

/-- The three edge functions of a triangle at a pixel centre, opposite each vertex, with positive
area, when the centre is covered. -/
def triEdges (a b c : RasVertex) (px py : Nat) : Option (Int × Int × Int) :=
  let x : Int := 256 * px + 128
  let y : Int := 256 * py + 128
  let area := edge a b c.x c.y
  if area = 0 then none
  else
    let e := if 0 < area then (edge b c x y, edge c a x y, edge a b x y)
      else (edge c b x y, edge a c x y, edge b a x y)
    let t := if 0 < area then (topLeft b c, topLeft c a, topLeft a b) else (topLeft c b, topLeft a c, topLeft b a)
    let ok := fun (v : Int) (tl : Bool) => decide (0 < v) || (decide (v = 0) && tl)
    if ok e.1 t.1 && ok e.2.1 t.2.1 && ok e.2.2 t.2.2 then some e else none

/-- The pixel lies within the scissor. -/
def inScissor (h : RasHead) (st : List Byte) (px py : Nat) : Bool :=
  let le := fun (f v n : Nat) =>      -- f × n ≤ v + 0.5
    match f32 f with
    | .fin _ a d => decide (2 * a * n ≤ (2 * v + 1) * d)
    | _ => false
  le (stScissor st 0) px h.w && !le (stScissor st 2) px h.w && le (stScissor st 1) py h.h && !le (stScissor st 3) py h.h

/-! ## Interpolation (R341) -/

/-- A sum by fma in vertex order. -/
def fmaSum (l : List (Nat × Nat)) : Nat := l.foldl (fun acc xy => f32Fma xy.1 xy.2 acc) 0

/-- What a primitive gives a covered pixel: depth, motion and attributes. -/
structure Frag where
  z : Nat
  mx : Nat
  my : Nat
  attrs : List Nat
  deriving DecidableEq, Repr

def triFrag (vs : List RasVertex) (e : Int × Int × Int) : Frag :=
  let sum := e.1 + e.2.1 + e.2.2
  let lam := [e.1, e.2.1, e.2.2].map fun v => rn32 (.fin false v.natAbs sum.natAbs)
  let lv := lam.zip vs
  let den := fmaSum (lv.map fun x => (x.1, f32Div one32 x.2.w))
  let attr := fun (g : RasVertex → Nat) => f32Div (fmaSum (lv.map fun x => (x.1, f32Div (g x.2) x.2.w))) den
  { z := fmaSum (lv.map fun x => (x.1, x.2.z)), mx := attr fun v => v.mx, my := attr fun v => v.my,
    attrs := (List.range ((vs.map fun v => v.attrs.length).headD 0)).map fun k => attr fun v => v.attrs.getD k 0 }

/-- A value that runs linearly from a at p to b at q, at x: one rounding. -/
def linear (a b : Nat) (p q x : Int) : Nat :=
  if p = q then a
  else
    let w0 := Ext.fin (decide ((q - x) * (q - p) < 0)) (q - x).natAbs (q - p).natAbs
    let w1 := Ext.fin (decide ((x - p) * (q - p) < 0)) (x - p).natAbs (q - p).natAbs
    if a = b then a else rn32Sum [(f32 a).mul w0, (f32 b).mul w1]

def rectFrag (fill : Nat) (a b : RasVertex) (px py : Nat) : Frag :=
  let x : Int := 256 * px + 128
  let y : Int := 256 * py + 128
  { z := a.z, mx := linear a.mx b.mx a.x b.x x, my := linear a.my b.my a.y b.y y,
    attrs := if fill = 0 then a.attrs
      else [linear (a.attrs.getD 0 0) (b.attrs.getD 0 0) a.x b.x x, linear (a.attrs.getD 1 0) (b.attrs.getD 1 0) a.y b.y y,
        one32, one32, one32, one32] }

def between (a b v : Int) : Bool := decide (min a b ≤ v) && decide (v < max a b)

/-- What a primitive gives a pixel, where it covers it. -/
def fragOf (h : RasHead) (p : RasPrim) (px py : Nat) : Option Frag :=
  if !inScissor h p.state px py then none
  else
    match p.verts with
    | [a, b] =>
      if between a.x b.x (256 * px + 128) && between a.y b.y (256 * py + 128) then
        some (rectFrag (stFill p.state) a b px py) else none
    | [a, b, c] => (triEdges a b c px py).map (triFrag [a, b, c])
    | _ => none

/-! ## Textures (R337, R342) -/

/-- The integer part of an FP32 value, and the rest in units of 1/65536 of its exact fraction: as an
exact fraction; a free integer where it has no finite value (log entry 7). -/
def floorOf (place : List Nat) (v : Nat) : Int × (Nat × Nat) :=
  match f32 v with
  | .fin neg n d =>
    let i := sgn neg n / (d : Int)
    (i, ((sgn neg n - i * d).toNat, d))
  | _ => (sInt 32 (Config.rasCorner (v :: place)).toNat, (0, 1))

def texIndex (rep : Bool) (n : Nat) (i : Int) : Nat :=
  if rep then (i % (n : Int)).toNat else (max 0 (min i ((n : Int) - 1))).toNat

def texelBytes (t : Tex) : Nat := match t.fmt with | 0 => 4 | 1 => 8 | _ => 1
def texelAddr (t : Tex) (x y : Nat) : Nat := t.va + y * t.pitch + x * texelBytes t

def unorm (n c : Nat) : Nat := rn32 (.fin false c (2 ^ n - 1))

/-- A texel as R, G, B, A. -/
def texelColor (t : Tex) (l : List Byte) : List Nat :=
  match t.fmt with
  | 0 => [leAt l 2 1, leAt l 1 1, leAt l 0 1, leAt l 3 1].map (unorm 8)
  | 1 => (List.range 4).map fun k => rn32 (decodeFmt fp16 (leAt l (2 * k) 2))
  | _ => List.replicate 4 (unorm 8 (leAt l 0 1))

/-- The texels of a sample, each with its weight. -/
def texTaps (place : List Nat) (t : Tex) (bilinear : Bool) (u v : Nat) : List (Nat × Nat × Nat) :=
  let half := 0x3F000000
  let cx := f32Sub (f32Mul u (natF32 t.w)) half
  let cy := f32Sub (f32Mul v (natF32 t.h)) half
  let fx := floorOf (0 :: place) cx
  let fy := floorOf (1 :: place) cy
  let ix := fun i => texIndex t.rep t.w i
  let iy := fun i => texIndex t.rep t.h i
  if bilinear then
    let wt := fun (a b : Nat) => rn32 (.fin false (roundHalfEven (256 * a * b) (fx.2.2 * fy.2.2)) 256)
    let x1 := fx.2.1
    let y1 := fy.2.1
    let x0 := fx.2.2 - x1
    let y0 := fy.2.2 - y1
    [(ix fx.1, iy fy.1, wt x0 y0), (ix (fx.1 + 1), iy fy.1, wt x1 y0), (ix fx.1, iy (fy.1 + 1), wt x0 y1),
      (ix (fx.1 + 1), iy (fy.1 + 1), wt x1 y1)]
  else
    let near := fun (f : Int × (Nat × Nat)) => if f.2.2 ≤ 2 * f.2.1 then f.1 + 1 else f.1
    [(ix (near fx), iy (near fy), one32)]

/-- The colour of a fragment, and the texels it reads. -/
def fragColor (s : State) (q : Placed) (h : RasHead) (place : List Nat) (st : List Byte) (f : Frag) : List Nat × List Access :=
  if stFill st = 0 then (f.attrs, [])
  else
    let t := texOf (texEntry s q.loop.tenant h (stTexture st))
    let taps := texTaps place t (stBilinear st) (f.attrs.getD 0 0) (f.attrs.getD 1 0)
    let cols := taps.map fun x => (x.2.2, texelColor t (hbmRead s q.loop.tenant (texelAddr t x.1 x.2.1) (texelBytes t)))
    let sample := (List.range 4).map fun k =>
      if stBilinear st then fmaSum (cols.map fun c => (c.1, c.2.getD k 0)) else (cols.map fun c => c.2.getD k 0).headD 0
    ((List.range 4).map fun k => f32Mul (sample.getD k 0) (f.attrs.getD (2 + k) 0),
      taps.map fun x => { va := texelAddr t x.1 x.2.1, n := texelBytes t, write := false })

/-! ## Blending and tiles (R344, R345) -/

structure Pixel where
  c : List Nat
  z : Nat
  mx : Nat
  my : Nat
  acc : List Access
  deriving DecidableEq, Repr

def depthPass (test a b : Nat) : Bool :=
  match test with
  | 0 => true
  | 1 => f32Lt a b
  | _ => f32Le a b

def blendOp (mode : Nat) (src dst : List Nat) : List Nat :=
  match mode with
  | 0 => src
  | 1 => (List.range 4).map fun k => f32Fma (dst.getD k 0) (f32Sub one32 (src.getD 3 0)) (src.getD k 0)
  | _ => (List.range 4).map fun k => f32Add (dst.getD k 0) (src.getD k 0)

def applyPrim (s : State) (q : Placed) (h : RasHead) (px py : Nat) (x : Pixel) (p : RasPrim) : Pixel :=
  match fragOf h p px py with
  | none => x
  | some f =>
    if depthPass (stDepthTest p.state) f.z x.z then
      let col := fragColor s q h [p.seq, px, py] p.state f
      { c := blendOp (stBlend p.state) col.1 x.c,
        z := if stDepthWrite p.state then f.z else x.z,
        mx := if stMotionWrite p.state then f.mx else x.mx,
        my := if stMotionWrite p.state then f.my else x.my,
        acc := x.acc ++ col.2 }
    else x

/-- Bytes of a packed pixel, or of one channel of a plane. -/
def pixBytes (h : RasHead) : Nat := if h.fmt ≤ 1 then 2 else 4
def planesOf (h : RasHead) : Nat := match h.fmt with | 0 => 3 | 1 => 4 | _ => 1
def colorAddr (h : RasHead) (k x y : Nat) : Nat := h.color + k * h.cPlane + y * h.cRow + x * pixBytes h

def unormCode (n c : Nat) : Nat :=
  match f32 c with
  | .nan => 0
  | .inf neg => if neg then 0 else 2 ^ n - 1
  | .fin neg a d => if neg then 0 else if d ≤ a then 2 ^ n - 1 else roundHalfEven (a * (2 ^ n - 1)) d

/-- The stored code of plane k of a pixel. -/
def resolve (h : RasHead) (c : List Nat) (k : Nat) : Nat :=
  let u := fun n j => unormCode n (c.getD j 0)
  match h.fmt with
  | 0 => roundFmt (f32 (c.getD k 0)) fp16 .sat
  | 1 => roundFmt (f32 (c.getD k 0)) fp16 .sat
  | 2 => 0xFF * 2 ^ 24 + u 8 0 * 2 ^ 16 + u 8 1 * 2 ^ 8 + u 8 2
  | 3 => u 8 3 * 2 ^ 24 + u 8 0 * 2 ^ 16 + u 8 1 * 2 ^ 8 + u 8 2
  | _ => u 2 3 * 2 ^ 30 + u 10 0 * 2 ^ 20 + u 10 1 * 2 ^ 10 + u 10 2

/-- The colour that a stored pixel loads as. -/
def loadColor (h : RasHead) (codes : List Nat) : List Nat :=
  let w := codes.getD 0 0
  match h.fmt with
  | 0 => (codes.map fun c => rn32 (decodeFmt fp16 c)) ++ [one32]
  | 1 => codes.map fun c => rn32 (decodeFmt fp16 c)
  | 2 => [unorm 8 (bits w 23 16), unorm 8 (bits w 15 8), unorm 8 (bits w 7 0), one32]
  | 3 => [unorm 8 (bits w 23 16), unorm 8 (bits w 15 8), unorm 8 (bits w 7 0), unorm 8 (bits w 31 24)]
  | _ => [unorm 10 (bits w 29 20), unorm 10 (bits w 19 10), unorm 10 (bits w 9 0), unorm 2 (bits w 31 30)]

def depthAddr (h : RasHead) (x y : Nat) : Nat := h.depth + y * h.dRow + 4 * x
def motionAddr (h : RasHead) (k x y : Nat) : Nat := h.motion + k * h.mPlane + y * h.mRow + 2 * x

/-- A working pixel before the first primitive. -/
def startPixel (s : State) (t : Nat) (h : RasHead) (x y : Nat) : Pixel :=
  if h.load then
    let codes := (List.range (planesOf h)).map fun k => hbmLe s t (colorAddr h k x y) (pixBytes h)
    let m := fun k => if h.hasMotion then rn32 (decodeFmt fp16 (hbmLe s t (motionAddr h k x y) 2)) else 0
    { c := loadColor h codes, z := if h.hasDepth then hbmLe s t (depthAddr h x y) 4 else h.clearD, mx := m 0,
      my := m 1, acc := [] }
  else { c := h.clearC, z := h.clearD, mx := 0, my := 0, acc := [] }

/-- Tiles of the target: columns, rows. -/
def tileCols (h : RasHead) : Nat := ceilDiv h.w 32
def tileRows (h : RasHead) : Nat := ceilDiv h.h 32

/-- Pixels of tile t, row by row: x from, width, y from, height. -/
def tileRect (h : RasHead) (t : Nat) : Nat × Nat × Nat × Nat :=
  let x := 32 * (t % tileCols h)
  let y := 32 * (t / tileCols h)
  (x, min 32 (h.w - x), y, min 32 (h.h - y))

def tilePixels (s : State) (q : Placed) (h : RasHead) (prims : List RasPrim) (t : Nat) : List (List Pixel) :=
  let r := tileRect h t
  (upFrom r.2.2.1 r.2.2.2).map fun y => (upFrom r.1 r.2.1).map fun x =>
    prims.foldl (applyPrim s q h x y) (startPixel s q.loop.tenant h x y)

/-! ## Signatures (R347) -/

def crc64Step (poly : Nat) : Nat → Nat → Nat
  | 0, c => c
  | k + 1, c => crc64Step poly k (if bit c 63 then (2 * c % 2 ^ 64) ^^^ poly else 2 * c % 2 ^ 64)

/-- CRC-64/ECMA-182. -/
def crc64 (l : List Byte) : Nat :=
  l.foldl (fun c b => crc64Step 0x42F0E1EBA9EA3693 8 (c ^^^ (b.toNat * 2 ^ 56))) 0

/-- Colour bytes of a tile, plane by plane and row by row. -/
def tileColor (h : RasHead) (px : List (List Pixel)) : List (List (List Byte)) :=
  (List.range (planesOf h)).map fun k => px.map fun row =>
    (row.map fun p => leBytes (pixBytes h) (resolve h p.c k)).flatten

/-- What one tile writes, its accesses, and whether its colour is skipped. -/
structure TileOut where
  acc    : List Access
  stores : List (Nat × List Byte)
  skipped : Bool
  deriving DecidableEq, Repr

def rowAccess (write : Bool) (st : Nat × List Byte) : Access := { va := st.1, n := st.2.length, write := write }

def tileOut (s : State) (q : Placed) (h : RasHead) (prims : List RasPrim) (t : Nat) : TileOut :=
  let r := tileRect h t
  let px := tilePixels s q h prims t
  let planes := tileColor h px
  let sig := crc64 (planes.map fun p => p.flatten).flatten
  let old := if h.skip then hbmLe s q.loop.tenant (h.sigIn + 8 * t) 8 else 0
  let skip := h.skip && old ≠ 0 && old = sig
  let color := (planes.zipIdx.map fun pk => pk.1.zipIdx.map fun ry =>
    (colorAddr h pk.2 r.1 (r.2.2.1 + ry.2), ry.1)).flatten
  let depth := if h.hasDepth then px.zipIdx.map fun ry =>
      (depthAddr h r.1 (r.2.2.1 + ry.2), (ry.1.map fun p => le4 p.z).flatten) else []
  let motion := if h.hasMotion then ((List.range 2).map fun k => px.zipIdx.map fun ry =>
      (motionAddr h k r.1 (r.2.2.1 + ry.2),
        (ry.1.map fun p => le2 (roundFmt (f32 (if k = 0 then p.mx else p.my)) fp16 .sat)).flatten)).flatten else []
  let sigs := if h.hasSig then [(h.sigOut + 8 * t, le8 sig)] else []
  let wr := (if skip then [] else color) ++ depth ++ motion ++ sigs
  let loads := if h.load then (color ++ depth ++ motion).map (rowAccess false) else []
  { acc := loads ++ (px.flatten.map fun p => p.acc).flatten
      ++ (if h.skip then [{ va := h.sigIn + 8 * t, n := 8, write := false }] else []) ++ wr.map (rowAccess true),
    stores := wr, skipped := skip }

/-! ## Binning (R343, R346) -/

/-- Scissor pixels on one axis: first, and one past the last. -/
def scissorSpan (h : RasHead) (st : List Byte) (axis : Nat) : Nat × Nat :=
  let n := if axis = 0 then h.w else h.h
  let up := fun f => match f32 f with
    | .fin _ a d => ((2 * a * n : Nat) : Int) / (2 * d : Nat) + (if (2 * a * n) % (2 * d) * 2 ≤ 2 * d then 0 else 1)
    | _ => 0
  (min (up (stScissor st axis)).toNat n, min (up (stScissor st (2 + axis))).toNat n)

def minI (l : List Int) : Int := (l.min?).getD 0
def maxI (l : List Int) : Int := (l.max?).getD 0

/-- Tiles on one axis that the snapped bounding box meets within the scissor. -/
def binSpan (h : RasHead) (p : RasPrim) (axis : Nat) : List Nat :=
  let cs := p.verts.map fun v => if axis = 0 then v.x else v.y
  let sc := scissorSpan h p.state axis
  if sc.2 ≤ sc.1 then []
  else
    let lo := max (minI cs) ((256 * sc.1 : Nat) : Int)
    let hi := min (maxI cs) ((256 * sc.2 - 1 : Nat) : Int)
    if hi < lo then [] else upFrom (lo / 8192).toNat (hi / 8192 - lo / 8192 + 1).toNat

def primTiles (h : RasHead) (p : RasPrim) : List Nat :=
  ((binSpan h p 1).map fun ty => (binSpan h p 0).map fun tx => ty * tileCols h + tx).flatten

/-- Bytes of an owner slot's bin region. -/
def binBytes (h : RasHead) (prims : List RasPrim) (slot : Nat) : Nat :=
  let owned := ((List.range (tileCols h * tileRows h)).filter fun t => t % h.owners = slot).length
  16 * owned + (prims.map fun p =>
    let n := ((primTiles h p).filter fun t => t % h.owners = slot).length
    if n = 0 then 0 else 64 + 4 * n).sum

def binOverflow (h : RasHead) (prims : List RasPrim) : Bool :=
  (List.range h.owners).any fun o => decide (h.bin < binBytes h prims o)

/-! ## Display-list packets (R332, R333, R338) -/

/-- A packet meets the checks of its type. -/
def packetOk (h : RasHead) (st : List Byte) (pos ty size : Nat) (body : List Byte) : Bool :=
  match ty with
  | 1 => size = 32 && stateOk h body
  | 2 => leAt body 4 4 = 0 && size = 16 + 3 * leAt body 0 4 * (32 + 4 * stAttribs st)
  | 3 => leAt body 4 4 = 0 && size = 16 + 48 * leAt body 0 4
      && (List.range (leAt body 0 4)).all fun k => leAt body (8 + 48 * k + 28) 4 = 0
  | 4 => size = 8 && pos + 8 = h.dlBytes
  | 5 => true
  | _ => false

/-- The front end parses the next packet of a running raster command, which is of a type: k gives its
effect from its body. A packet of another known type is another step. -/
def parsePacket (ty : Nat) (ref : CmdRef) (s : State) (k : Placed → RasHead → List Byte → State) : State :=
  match findInst s ref with
  | none => s
  | some q =>
    if !isRunning s || !isRun q.inst || q.cmd.spec.engine ≠ 5 || q.inst.ras.ended then s
    else
      let h := rasHeadOf s q
      let pos := q.inst.ras.pos
      let hdr := hbmRead s q.loop.tenant (h.dl + pos) 8
      let t := leAt hdr 0 2
      let size := leAt hdr 4 4
      if h.dlBytes ≤ pos then badParam s q dtDlPacket
      else if t ≠ ty ∧ 1 ≤ t ∧ t ≤ 5 then s
      else
        match firstStop s q [{ va := h.dl + pos, n := min 8 (h.dlBytes - pos), write := false }] with
        | some x => stopRun s q x
        | none =>
          if leAt hdr 2 2 ≠ 0 ∨ size < 8 ∨ size % 8 ≠ 0 ∨ h.dlBytes < pos + size then
            badParam s q dtDlPacket
          else
            match firstStop s q [{ va := h.dl + pos, n := size, write := false }] with
            | some x => stopRun s q x
            | none =>
              let body := hbmRead s q.loop.tenant (h.dl + pos + 8) (size - 8)
              if !packetOk h q.inst.ras.state pos t size body then badParam s q dtDlPacket
              else
                modInst (k q h body) ref fun i =>
                  if isRun i then { i with ras := { i.ras with pos := pos + size } } else i

def modRas (s : State) (ref : CmdRef) (f : RasRun → RasRun) : State := modInst s ref fun i => { i with ras := f i.ras }

/-- Primitives join the bins, or overflow them. -/
def addPrims (s : State) (q : Placed) (h : RasHead) (n : Nat) (ps : List RasPrim) : State :=
  let all := ps.reverse ++ q.inst.ras.prims
  if binOverflow h all then failStep s q.ref.loop stLimitExceeded dtBinOverflow q.ref.cmd
  else modRas s q.ref fun r => { r with prims := all, count := r.count + n }

def onDlState (ref : CmdRef) (s : State) : State :=
  parsePacket 1 ref s fun _ _ body => modRas s ref fun r => { r with state := body }

def onDlTriangles (ref : CmdRef) (s : State) : State :=
  parsePacket 2 ref s fun q h body =>
    let n := leAt body 0 4
    let r := q.inst.ras
    addPrims s q h n ((List.range n).map fun k => triPieces h r.state body (r.count + k) k).flatten

def onDlRects (ref : CmdRef) (s : State) : State :=
  parsePacket 3 ref s fun q h body =>
    let n := leAt body 0 4
    let r := q.inst.ras
    addPrims s q h n ((List.range n).map fun k => rectPrim h r.state body (r.count + k) k)

def onDlEnd (ref : CmdRef) (s : State) : State :=
  parsePacket 4 ref s fun q h _ =>
    if binOverflow h q.inst.ras.prims then failStep s q.ref.loop stLimitExceeded dtBinOverflow q.ref.cmd
    else modRas s ref fun r => { r with ended := true }

def onDlNop (ref : CmdRef) (s : State) : State := parsePacket 5 ref s fun _ _ _ => s

def execDlState (ref : CmdRef) (s : State) : Out := .next (onDlState ref s)
def execDlTriangles (ref : CmdRef) (s : State) : Out := .next (onDlTriangles ref s)
def execDlRects (ref : CmdRef) (s : State) : Out := .next (onDlRects ref s)
def execDlEnd (ref : CmdRef) (s : State) : Out := .next (onDlEnd ref s)
def execDlNop (ref : CmdRef) (s : State) : Out := .next (onDlNop ref s)

/-! ## A run -/

/-- What a raster command writes once its list has ended: every tile (R344, R345). -/
def rasWork (s : State) (q : Placed) : Work × Nat × Nat :=
  let h := rasHeadOf s q
  let prims := q.inst.ras.prims.reverse
  let outs := (List.range (tileCols h * tileRows h)).map (tileOut s q h prims)
  ({ hbm := tableReads h ++ (outs.map fun o => o.acc).flatten, stores := (outs.map fun o => o.stores).flatten },
    (outs.filter fun o => !o.skipped).length, (outs.filter fun o => o.skipped).length)

end Sys2Proof.Machine
end

