-- ==== Sys2Proof/Machine/Reel.lean ====
section
/-! DEFINITION. Machine/Reel.lean: chains of cores (R284), the halo protocol over Reel links (R292 to
R296), its timeouts and errors, and pairs that rerun on a new chain (R297 to R300). -/

namespace Sys2Proof.Machine

open Sys2Proof

/-! ## Chains (R284) -/

/-- The core at a serpentine position. -/
def serpCore (k : Nat) : Nat :=
  let row := k / 16
  16 * row + (if row % 2 = 0 then k % 16 else 15 - k % 16)

/-- The serpentine position of a core. -/
def serpPos (c : Nat) : Nat := serpCore c

/-- Commands of a step tied by halo pairs to one of them. -/
def pairSet (s : State) (t : Nat) (st : Step) : Nat → List Nat → List Nat
  | 0, ks => ks
  | n + 1, ks =>
    let more := ks.map fun k => (haloProducer s t st k).toList ++ (haloConsumer s t st k).toList
    let new := more.flatten.eraseDups.filter fun k => !ks.elem k
    if new = [] then ks else pairSet s t st n (ks ++ new)

/-- Every uncommitted instance of a pair, and of any chained pair. -/
def pairRefs (s : State) (q : Placed) : List CmdRef :=
  let ks := pairSet s q.loop.tenant q.step 256 [q.ref.cmd]
  (stepInsts q.ref.loop q.loop q.step).filterMap fun p =>
    if ks.elem p.ref.cmd ∧ !isDone p.inst then some p.ref else none

/-- Instances no longer belong to the cores they ran on. -/
def unbind (s : State) (rs : List CmdRef) : State := rs.foldl (fun s r => modInst s r fun i => { i with bound := none }) s

/-- Every uncommitted instance of a pair, and of any chained pair, stops, to rerun on a new chain (R299). -/
def rechain (s : State) (q : Placed) (cause : Nat) : State := unbind (killInsts s (pairRefs s q) cause) (pairRefs s q)

/-- What goes when an instance leaves its core for parking or a lowered limit: the whole pair, or it alone (R188, R299). -/
def leavers (s : State) (q : Placed) : List CmdRef := if inPair s q then pairRefs s q else [q.ref]

/-- It may go: nothing protected or in place goes with it (R186, R188). -/
def mayMove (s : State) (q : Placed) : Bool := killOk s true (leavers s q)

/-- An instance leaves its core, and reruns elsewhere. -/
def leaveCore (s : State) (q : Placed) (cause : Nat) : State := unbind (killInsts s (leavers s q) cause) (leavers s q)

/-! ## The stream of a direction -/

def haloOf (i : Inst) (d : HaloDir) : Halo := match d with | .above => i.above | .below => i.below
def setHalo (i : Inst) (d : HaloDir) (h : Halo) : Inst := match d with | .above => { i with above := h } | .below => { i with below := h }

/-- A running consumer instance, its head, its stripe block, and the producer instance that sends in
a direction. -/
structure HaloCtx where
  q    : Placed
  h    : WinHead
  b    : StripeBlock
  from_ : Placed
  sent : Nat              -- first output row of that producer instance
  rows : Nat × Nat        -- rows of the direction, and the first of them
  deriving DecidableEq, Repr

def haloCtx (s : State) (ref : CmdRef) (d : HaloDir) : Option HaloCtx :=
  if !isRunning s then none
  else
    match findInst s ref with
    | none => none
    | some q =>
      match haloProducer s q.loop.tenant q.step q.ref.cmd with
      | none => none
      | some k =>
        let j := match d with | .above => q.ref.inst - 1 | .below => q.ref.inst + 1
        match findInst s { loop := ref.loop, cmd := k, inst := j } with
        | none => none
        | some f =>
          if !isRun q.inst ∨ (d = .above ∧ q.ref.inst = 0) then none
          else
            let p := winProgram s q.loop.tenant q.cmd.spec
            let ph := winHead (winProgram s q.loop.tenant f.cmd.spec)
            some { q := q, h := winHead p, b := stripeBlock p, from_ := f,
                   sent := (instRows ph f.cmd.spec.stripes j).1,
                   rows := haloRows (winHead p) ph q.cmd.spec.stripes q.ref.inst d }

def slotAddr (x : HaloCtx) (d : HaloDir) (n : Nat) : Nat :=
  (match d with | .above => x.b.above | .below => x.b.below) + (n - 1) % max x.b.slots 1 * (64 + x.b.rowBytes)

/-- Rows of scales of a halo row, and where one of them lies in the scale tensor of a core (R241, R287). -/
def scaleRows (h : WinHead) : Nat := if h.ctlw.aGrp = 0 then 0 else ceilDiv h.c (max h.ga 1)
def scaleAt (h : WinHead) (g y : Nat) : Nat := h.aScale + (g * h.inH + y) * roundUp (2 * h.inW) 64 + 2 * (colSpan h).1
def spanScaleBytes (h : WinHead) : Nat := 2 * ((colSpan h).2 - (colSpan h).1)

/-- A halo row as it is sent from a core: as the ring holds it, with its rows of scales (R265, R287). -/
def haloRowData (s : State) (x : HaloCtx) (y : Nat) : List Byte :=
  let core := x.from_.inst.core
  ringImage x.h ((List.range x.h.c).map fun c => srcRow s x.q x.h core c y)
  ++ ((List.range (scaleRows x.h)).map fun g =>
      fit (roundUp (spanScaleBytes x.h) 64) (padRead s core (scaleAt x.h g y) (spanScaleBytes x.h))).flatten

/-- What the consumer copies from a slot: the row into its ring, its scales into its scale tensor (R241, R294; where the
scales go is DEDUCED, log entry 29). -/
def takeHaloRow (s : State) (x : HaloCtx) (slot y : Nat) : State :=
  let core := x.q.inst.core
  let s' := padWrite s core (ringPos x.h y) (padRead s core (slot + 64) (ringRow x.h))
  (List.range (scaleRows x.h)).foldl (fun s1 g =>
    padWrite s1 core (scaleAt x.h g y)
      (padRead s core (slot + 64 + ringRow x.h + g * roundUp (spanScaleBytes x.h) 64) (spanScaleBytes x.h))) s'

/-- The halo timeout in ticks, and when a wait that begins now times out. -/
def haloTicks (s : State) : Nat := usTicks * rField s aReelConfig 15 0
def haloDue (s : State) : Nat := s.now + haloTicks s

/-- The sender's next row of a direction has drained from the producer engine. -/
def rowDrained (x : HaloCtx) (n : Nat) : Bool := decide (x.rows.2 + n < x.sent + x.from_.inst.win.rows)

/-- The sender's next row goes into its slot where a credit is held; without one the sender waits (R292, R293, R297). -/
def sendHaloRow (s : State) (x : HaloCtx) (d : HaloDir) : State :=
  let r := haloOf x.q.inst d
  if x.rows.1 ≤ r.sent ∨ !rowDrained x r.sent then s
  else if r.credits = 0 then
    modInst s x.q.ref fun i => setHalo i d { r with waitCredit := some (r.waitCredit.getD (haloDue s)) }
  else
    let n := r.sent + 1
    let y := x.rows.2 + r.sent
    let a := slotAddr x d n
    let s' := padWrite s x.q.inst.core (a + 64) (fit x.b.rowBytes (haloRowData s x y))
    let s' := padWrite s' x.q.inst.core a (le4 n ++ le4 y ++ by1 1 ++ zeros 55)
    modInst s' x.q.ref fun i => setHalo i d { r with sent := n, credits := r.credits - 1, waitCredit := none }

/-- The producer instance that sends in a direction goes as far as it can, while it runs. -/
def pumpSender (s : State) (ref : CmdRef) (d : HaloDir) : State :=
  match haloCtx s ref d with
  | some x => pumpRun s x.from_.ref
  | none => s

/-- HALO_ROW_SEND: the next halo row of a direction, as soon as it has drained. -/
def onHaloRowSend (ref : CmdRef) (d : HaloDir) (s : State) : State :=
  let s := pumpSender s ref d
  match haloCtx s ref d with
  | none => s
  | some x => sendHaloRow s x d

/-- The consumer takes the row it expects next from its slot, frees the slot and sends a credit; until the row is there
it stalls (R294, R297). It comes to a row once the ring has room for it, and to rows from below once it has taken all
from above: rows come into the ring in ascending order. -/
def readHaloSlot (s : State) (x : HaloCtx) (d : HaloDir) : State :=
  let r := haloOf x.q.inst d
  let y := x.rows.2 + r.taken
  if x.rows.1 ≤ r.taken ∨ !ringFree x.q x.h y ∨ (d = .below ∧ !aboveTaken s x.q x.h) then s
  else
    let n := r.taken + 1
    let a := slotAddr x d n
    let c := x.q.inst.core
    if leNat (padRead s c (a + 8) 1) = 1 ∧ leNat (padRead s c a 4) = n then
      modInst (padWrite (takeHaloRow s x a y) c (a + 8) [0]) x.q.ref fun i =>
        setHalo i d { r with taken := n, waitSlot := none }
    else
      modInst s x.q.ref fun i => setHalo i d { r with waitSlot := some (r.waitSlot.getD (s.now, haloTicks s)) }

/-- HALO_SLOT_READ: the consumer has come to its next halo row of a direction. -/
def onHaloSlotRead (ref : CmdRef) (d : HaloDir) (s : State) : State :=
  let s := pumpRun s ref
  match haloCtx s ref d with
  | none => s
  | some x => readHaloSlot s x d

/-- HALO_CREDIT: a credit that a slot read sent reaches the sender (R294). -/
def onHaloCredit (ref : CmdRef) (d : HaloDir) (s : State) : State :=
  match haloCtx s ref d with
  | none => s
  | some x =>
    let r := haloOf x.q.inst d
    if r.credits + r.sent < r.taken + x.b.slots then
      modInst s ref fun i => setHalo i d { r with credits := r.credits + 1, waitCredit := none }
    else s

/-! ## Timeouts and errors (R297, R299, R300) -/

/-- The link that a direction's rows cross, as its two cores. -/
def haloLink (x : HaloCtx) : Nat × Nat := (min x.q.inst.core x.from_.inst.core, max x.q.inst.core x.from_.inst.core)

/-- A halo timeout across a link: the waiting consumer instance and the producer instance are killed;
after three in a row across that link in the step, the pair reruns on a chain without it (R297, R299). -/
def haloTimeout (s : State) (x : HaloCtx) : State :=
  let link := haloLink x
  let n := match x.q.step.link with | some l => if l.1 = link then l.2 + 1 else 1 | none => 1
  let s := trace (incReg s aReelTimeouts 1 cap32) 10 x.q.loop.tenant [x.q.ref.loop, x.q.ref.cmd, x.q.inst.core]
  let s := modHead s x.q.ref.loop fun st => { st with link := some (link, n) }
  if 3 ≤ n then
    let ks := pairSet s x.q.loop.tenant x.q.step 256 [x.q.ref.cmd]
    let s := rechain s x.q kcHalo
    let s := modHead s x.q.ref.loop fun st => { st with link := none }
    ks.foldl (fun s k => modCmd s x.q.ref.loop k fun c => { c with avoid := some link }) s
  else killInsts s [x.q.ref, x.from_.ref] kcHalo

/-- A wait has run out. The timer of a wait for a row runs only while the producer instance runs, a later run of which goes on
with what is left; that of a wait for a credit while the consumer instance does (R297). -/
def haloOver (s : State) (x : HaloCtx) (d : HaloDir) (w : HaloWait) : Bool :=
  let r := haloOf x.q.inst d
  match w with
  | .slot => match r.waitSlot with
    | some v => isRun x.from_.inst && decide (v.2 ≤ s.now - max v.1 x.from_.inst.since)
    | none => false
  | .credit => match r.waitCredit with
    | some t => decide (t ≤ s.now)
    | none => false

/-- HALO_TIMEOUT: a wait that has run out kills both sides. -/
def onHaloTimeout (ref : CmdRef) (d : HaloDir) (w : HaloWait) (s : State) : State :=
  match haloCtx s ref d with
  | none => s
  | some x => if haloOver s x d w then haloTimeout s x else s

/-- REEL_ECC_ERROR: a corrected word is counted; an uncorrectable one kills the receiving consumer, or, where it is in
place, fails its step as a scratchpad error would (R142; DESIGN CHOICE, log entry 30: no rule names the detail). -/
def onReelEccError (ref : CmdRef) (corrected : Bool) (s : State) : State :=
  match findInst s ref with
  | none => s
  | some q =>
    if !isRunning s || !isRun q.inst || (haloProducer s q.loop.tenant q.step q.ref.cmd).isNone then s
    else
      let w := regW s aReelEcc
      if corrected then setRegW s aReelEcc (putBits w 15 0 (satAdd (bits w 15 0) 1 0xFFFF))
      else
        let s1 := setRegW s aReelEcc (putBits w 31 16 (satAdd (bits w 31 16) 1 0xFFFF))
        if inPlace q.cmd.spec then
          failStep (eccEvent s1 q 1 1 dtEccScratchpad 0) ref.loop stEccUncorrectable dtEccScratchpad ref.cmd
        else killInsts s1 [ref] kcEcc

def execHaloRowSend (ref : CmdRef) (dir : HaloDir) (s : State) : Out := .next (onHaloRowSend ref dir s)
def execHaloSlotRead (ref : CmdRef) (dir : HaloDir) (s : State) : Out := .next (onHaloSlotRead ref dir s)
def execHaloCredit (ref : CmdRef) (dir : HaloDir) (s : State) : Out := .next (onHaloCredit ref dir s)
def execHaloTimeout (ref : CmdRef) (dir : HaloDir) (wait : HaloWait) (s : State) : Out :=
  .next (onHaloTimeout ref dir wait s)
def execReelEccError (ref : CmdRef) (corrected : Bool) (s : State) : Out := .next (onReelEccError ref corrected s)

/-- All halo rows of an instance have been taken. -/
def haloDone (s : State) (q : Placed) : Bool :=
  [HaloDir.above, HaloDir.below].all fun d =>
    match haloCtx s q.ref d with
    | none => true
    | some x => decide (x.rows.1 ≤ (haloOf q.inst d).taken)

end Sys2Proof.Machine
end

