-- ==== Sys2Proof/Machine/Ve.lean ====
section
/-! DEFINITION. Machine/Ve.lean: the vector engine (R228 to R235): program head and checks, groups and
fills, lane operations, scratchpad accesses, dispatch-wide reductions (R518 to R521). The rows of the
instruction table are in Machine/VeOps.lean. -/

namespace Sys2Proof.Machine

open Sys2Proof

/-! ## The program head (R229) -/

structure VeHead where
  format   : Nat
  contexts : Nat
  threads  : Nat         -- threads_m1 + 1
  code     : Nat
  codeBytes : Nat
  storage  : Nat
  desc     : Nat
  descs    : Nat
  values   : Nat
  op       : Nat
  reduceVa : Nat
  resultVa : Nat
  deriving DecidableEq, Repr

def veHead (p : List Byte) : VeHead :=
  { format := leAt p 0 2, contexts := leAt p 2 2, threads := leAt p 4 4 + 1, code := leAt p 8 4,
    codeBytes := leAt p 12 4, storage := leAt p 16 4, desc := leAt p 20 4, descs := leAt p 24 2,
    values := leAt p 26 1, op := leAt p 27 1, reduceVa := leAt p 32 8, resultVa := leAt p 40 8 }

/-- Groups of the dispatch. -/
def VeHead.groups (h : VeHead) : Nat := ceilDiv h.threads 64

def veHeadOf (s : State) (q : Placed) : VeHead := veHead (progBytes s q.loop.tenant q.cmd.spec 0 64)

def veHeadOk (p : List Byte) (programBytes : Nat) : Bool :=
  let h := veHead p
  h.format = 1 && decide (64 ≤ h.contexts) && decide (h.contexts ≤ 2048) && h.contexts % 64 = 0
  && h.code % 8 = 0 && decide (64 ≤ h.code) && decide (8 ≤ h.codeBytes) && decide (h.codeBytes ≤ 16777216)
  && h.codeBytes % 8 = 0 && decide (h.code + h.codeBytes ≤ programBytes) && h.storage % 64 = 0
  && decide (h.descs ≤ 4096) && h.desc % 8 = 0 && (h.descs ≠ 0 || h.desc = 0)
  && decide (h.desc + 48 * h.descs ≤ programBytes) && decide (h.values ≤ 64) && decide (h.op ≤ 2)
  && (h.values ≠ 0 || (h.op = 0 && h.resultVa = 0)) && leAt p 28 4 = 0 && leNat ((p.drop 48).take 16) = 0

/-! ## Instruction words (R231) -/

/-- An instruction of a program: its byte offset in the code, operation and fields. -/
structure VeWord where
  off : Nat
  op  : Nat
  f   : VeFields
  deriving DecidableEq, Repr

def veWord (code : List Byte) (off : Nat) : VeWord :=
  let w := leAt code off 8
  { off := off, op := bits w 63 56,
    f := { d := BitVec.ofNat 6 (bits w 55 50), a := BitVec.ofNat 6 (bits w 49 44), b := BitVec.ofNat 6 (bits w 43 38),
           c := BitVec.ofNat 6 (bits w 37 32), p := BitVec.ofNat 3 (bits w 31 29), n := bit w 28, lit := bit w 27,
           imm := BitVec.ofNat 24 w,
           literal := BitVec.ofNat 32 (if bit w 27 then leAt code (off + 8) 4 else 0) } }

/-- Bytes of an instruction: a literal word follows where lit is set. -/
def veLen (f : VeFields) : Nat := if f.lit then 16 else 8

/-- The instructions of a program, in order. -/
def veWords (code : List Byte) : Nat → Nat → List VeWord
  | 0, _ => []
  | k + 1, off =>
    if code.length ≤ off then []
    else
      let w := veWord code off
      w :: veWords code k (off + veLen w.f)

def veCode (s : State) (q : Placed) : List Byte :=
  let h := veHeadOf s q
  progBytes s q.loop.tenant q.cmd.spec h.code h.codeBytes

def veProgram (s : State) (q : Placed) : List VeWord :=
  let c := veCode s q
  veWords c (c.length / 8) 0

/-- Which fields an operation uses: destination (0 none, 1 register, 2 predicate), a, b, c (0 none,
1 register, 2 predicate) and the bits of imm. -/
structure VeUse where
  d : Nat := 0
  a : Bool := false
  b : Bool := false
  c : Nat := 0
  imm : Nat := 0
  deriving DecidableEq, Repr

def veUse (op : Nat) (f : VeFields) : Option VeUse :=
  let all := 0xFFFFFF
  if op = 0x00 ∨ op = 0x72 ∨ op = 0x73 ∨ op = 0x76 then some {}
  else if op = 0x04 then some { d := 1, a := true, b := true, c := 1 }
  else if op = 0x07 ∨ op = 0x08 then some { d := 1, a := true }
  else if 0x01 ≤ op ∧ op ≤ 0x09 then some { d := 1, a := true, b := true }
  else if 0x10 ≤ op ∧ op ≤ 0x17 then some { d := 2, a := true, b := true }
  else if op = 0x18 then some { d := 1, a := true, b := true, c := 2 }
  else if 0x20 ≤ op ∧ op ≤ 0x2E then some { d := 1, a := true, b := true }
  else if op = 0x2F then some { d := 1, b := true }
  else if op = 0x30 then some { d := 1, a := true, b := bit f.imm.toNat 8, imm := 0x1FF }
  else if op = 0x31 then some { d := 1, a := true, c := 1, imm := 0x1F1F }
  else if op = 0x32 then some { d := 1, a := true, imm := 0x11F1F }
  else if op = 0x41 then some { d := 1, a := true, b := true }
  else if 0x40 ≤ op ∧ op ≤ 0x4B then some { d := 1, a := true }
  else if op = 0x50 then some { d := 1, a := true, b := true }
  else if op = 0x51 then some { d := 1, a := true, imm := 0x3F }
  else if op = 0x52 then some { d := 1, a := true, imm := 0x3 }
  else if op = 0x53 then some { a := true, imm := 0x3F }
  else if 0x60 ≤ op ∧ op ≤ 0x62 then some { d := 1, a := true, imm := all }
  else if 0x63 ≤ op ∧ op ≤ 0x65 then some { a := true, b := true, imm := all }
  else if 0x68 ≤ op ∧ op ≤ 0x6E then some { d := 1, a := true, b := true, imm := all }
  else if op = 0x6F then some { d := 1, a := true, b := true, c := 1, imm := all }
  else if op = 0x70 ∨ op = 0x71 then some { imm := all }
  else if op = 0x74 then some { a := true, b := true, imm := all }
  else if op = 0x75 then some { imm := all }
  else none

/-- Format pairs that CVT takes (R230): FP32 to and from FP16, BF16, i32 and u32; FP32 to narrow. -/
def cvtPairOk (imm : Nat) : Bool :=
  let src := bits imm 7 4
  let dst := bits imm 3 0
  let wide := fun x => x = 1 || x = 2 || x = 10 || x = 11
  (src = 0 && (wide dst || isNarrow dst) && (!bit imm 8 || isNarrow dst)) || (dst = 0 && wide src && !bit imm 8)

/-- Bytes from the start of the code of the instruction that lies k instructions after one; none
outside the code. A literal word counts with its instruction. -/
def veTarget (ws : List VeWord) (off : Nat) (k : Int) : Option Nat :=
  match ws.findIdx? fun w => w.off = off with
  | none => none
  | some i =>
    let j : Int := (i : Int) + k
    if j < 0 then none else (ws[j.toNat]?).map fun w => w.off

def veImm (f : VeFields) : Int := sInt 24 f.imm.toNat

def fieldWidthOk (imm : Nat) : Bool := decide (bits imm 12 8 + bits imm 4 0 + 1 ≤ 32)

/-- One instruction passes the checks of R231. -/
def veWordOk (h : VeHead) (code : List Byte) (ws : List VeWord) (w : VeWord) : Bool :=
  let f := w.f
  let imm := f.imm.toNat
  match veUse w.op f with
  | none => false
  | some u =>
    bits (leAt code w.off 8) 26 24 = 0
    && (u.d ≠ 0 || f.d = 0) && (u.d ≠ 2 || (decide (f.d.toNat < 8) && f.d ≠ 0))
    && (u.a || f.a = 0) && (u.b || (f.b = 0 && !f.lit)) && (u.c ≠ 0 || f.c = 0)
    && (u.c ≠ 2 || decide (f.c.toNat < 8)) && imm &&& (0xFFFFFF - u.imm) = 0
    && (!f.lit || (decide (w.off + 16 ≤ code.length) && leAt code (w.off + 12) 4 = 0))
    && (w.op ≠ 0x30 || cvtPairOk imm) && ((w.op ≠ 0x31 && w.op ≠ 0x32) || fieldWidthOk imm)
    && (w.op ≠ 0x52 || imm ≠ 3) && (w.op ≠ 0x53 || decide (imm < h.values))
    && ((w.op ≠ 0x70 && w.op ≠ 0x71) || (veTarget ws w.off (veImm f)).isSome)
    && (w.op ≠ 0x74 || decide (imm < h.descs)) && (w.op ≠ 0x75 || imm = 0xFFFFFF || decide (imm < h.descs))

/-- The checks of a vector command at first dispatch (R231, R285, R519). -/
def veFault (s : State) (q : Placed) : Option (Nat × Nat) :=
  let p := progBytes s q.loop.tenant q.cmd.spec 0 64
  let h := veHead p
  if !veHeadOk p q.cmd.spec.programBytes then some (stBadParam, dtVeProgram)
  else
    let code := veCode s q
    let ws := veProgram s q
    if !ws.all (veWordOk h code ws) then some (stBadParam, dtVeProgram)
    else if h.threads < q.cmd.spec.stripes then some (stBadParam, dtValueRange)
    else if 2 ≤ q.step.level ∧ h.values ≠ 0 ∧ (h.reduceVa = 0
        ∨ !withinSet (writeSet q.cmd.spec) h.reduceVa (4 * h.groups * h.values)) then some (stBadParam, dtReduceBuffer)
    else none

/-- The thread storage (R229). -/
def veAreas (p : List Byte) : List (Nat × Nat) :=
  let h := veHead p
  [(h.storage, h.contexts * 256)]

/-! ## Groups and fills -/

/-- Threads of an instance (R285). -/
def veThreads (h : VeHead) (q : Placed) : Nat × Nat := shareOf h.threads q.cmd.spec.stripes q.ref.inst
/-- Dispatch-wide groups of an instance: first, and one past the last. -/
def veGroups (h : VeHead) (q : Placed) : Nat × Nat :=
  let t := veThreads h q
  (t.1 / 64, ceilDiv t.2 64)

/-- Dispatch-wide indices of the groups of the fill that starts after a number of groups. -/
def veFill (h : VeHead) (q : Placed) (first : Nat) : List Nat :=
  let g := veGroups h q
  upFrom (g.1 + first) (min (h.contexts / 64) (g.2 - g.1 - first))

/-- Where a register of a thread lies: 256 bytes of the thread storage for each resident context (R228, R229). -/
def regAddr (h : VeHead) (k lane r : Nat) : Nat := h.storage + (64 * k + lane) * 256 + 4 * r

/-- The registers of the threads of a fill at their start: 0, but 61 to 63, which hold the thread index and the seed
(R229, R527). -/
def initRegs (s : State) (h : VeHead) (core seed : Nat) (gids : List Nat) : State :=
  gids.zipIdx.foldl (fun s gk =>
    (List.range 64).foldl (fun s l =>
      padWrite s core (regAddr h gk.2 l 61) (le4 (64 * gk.1 + l) ++ leBytes 8 seed)) s)
    (padZero s core h.storage (16384 * gids.length))

/-- A fill of an instance begins. -/
def beginFill (s : State) (q : Placed) (first : Nat) : State :=
  let h := veHeadOf s q
  let gids := veFill h q first
  let s := modInst s q.ref fun i => { i with ve := { i.ve with first := first, groups := gids.map fun _ => {} } }
  initRegs s h q.inst.core q.step.seed gids

/-- A vector instance starts: P of its command is the number of ONLINE cores now, at the first dispatch and at a rerun,
which finds the same number where the capacity has not changed (R520, R522). -/
def veBegin (s : State) (q : Placed) : State :=
  let n := onlineCores s
  let s := modCmd s q.ref.loop q.ref.cmd fun c => { c with parts := n }
  beginFill (modInst s q.ref fun i => { i with ve := { loaded := true } }) q 0

/-- All groups of the instance have exited. -/
def veDone (s : State) (q : Placed) : Bool :=
  let g := veGroups (veHeadOf s q) q
  q.inst.ve.loaded && q.inst.ve.groups.all (fun x => x.exited)
    && decide (g.2 - g.1 ≤ q.inst.ve.first + q.inst.ve.groups.length)

/-! ## One instruction of one group -/

/-- What an instruction sees: the command, its program, the scratchpad as it finds it, the group, the active lanes,
and those in which the guard holds. -/
structure VeCtx where
  q      : Placed
  head   : VeHead
  pad    : Memory
  grp    : VeGroup
  k      : Nat           -- place in the fill
  gid    : Nat           -- dispatch-wide index
  active : List Nat
  lanes  : List Nat
  deriving DecidableEq, Repr

def pred (g : VeGroup) (lane p : Nat) : Bool := p = 0 || g.preds.elem (8 * lane + p)
def guardHolds (g : VeGroup) (f : VeFields) (lane : Nat) : Bool := pred g lane f.p.toNat != f.n

/-- The vector command that runs on a core. -/
def veOn (s : State) (core : Nat) : Option Placed :=
  (allInsts s).find? fun p => isRun p.inst && p.cmd.spec.engine = 2 && p.inst.core = core

/-- The context of a group whose next instruction has this operation and these fields; none otherwise, and none while the
group waits or has ended. A group that is cut between two stripe instances runs whole on the core of each, since R301
asks for the bits of one stripe and R286 lets the instances exchange nothing (DESIGN CHOICE, log entry 29). -/
def veCtx (s : State) (v : VeAt) (op : Nat) (f : VeFields) : Option VeCtx :=
  if !isRunning s then none
  else
    match veOn s v.core.val with
    | none => none
    | some q =>
      match q.inst.ve.groups[v.group.val]? with
      | none => none
      | some g =>
        let w := veWord (veCode s q) g.pc
        if g.exited || g.barrier || w.op ≠ op || w.f ≠ f then none
        else
          let h := veHeadOf s q
          let gid := (veGroups h q).1 + q.inst.ve.first + v.group.val
          let act := (List.range 64).filter fun l => decide (64 * gid + l < h.threads)
          some { q := q, head := h, pad := s.pad, grp := g, k := v.group.val, gid := gid, active := act,
                 lanes := act.filter (guardHolds g f) }

/-- An instruction takes effect on its group; any other command is no step the engine can take. -/
def veAt (op : Nat) (v : VeAt) (f : VeFields) (s : State) (k : VeCtx → State) : State :=
  match veCtx s v op f with
  | none => s
  | some x => k x

/-- A register of a lane, as the instruction finds it. -/
def VeCtx.reg (x : VeCtx) (lane r : Nat) : Nat :=
  leNat (memReads x.pad (padKey x.q.inst.core (regAddr x.head x.k lane r)) 4)

/-- Write a register of a lane. -/
def setReg (s : State) (x : VeCtx) (lane r v : Nat) : State :=
  if r < 64 then padWrite s x.q.inst.core (regAddr x.head x.k lane r) (le4 v) else s

/-- Write register d of each lane of a list. -/
def setRegs (s : State) (x : VeCtx) (lanes : List Nat) (d : Nat) (fn : Nat → Nat) : State :=
  lanes.foldl (fun s l => setReg s x l d (fn l)) s

def setPred (g : VeGroup) (lane p : Nat) (v : Bool) : VeGroup :=
  let rest := g.preds.filter fun x => x ≠ 8 * lane + p
  { g with preds := if v then (8 * lane + p) :: rest else rest }

/-- Operands of a lane. -/
def VeCtx.a (x : VeCtx) (f : VeFields) (l : Nat) : Nat := x.reg l f.a.toNat
def VeCtx.b (x : VeCtx) (f : VeFields) (l : Nat) : Nat := if f.lit then f.literal.toNat else x.reg l f.b.toNat
def VeCtx.c (x : VeCtx) (f : VeFields) (l : Nat) : Nat := x.reg l f.c.toNat

/-- A group's partials go behind those that finished before it (R521). -/
def finishPartials (r : VeRun) (gid : Nat) : VeRun :=
  { r with partials := r.partials.filter (fun p => p.group ≠ gid) ++ r.partials.filter fun p => p.group = gid }

/-- When every group of a fill has exited, the next fill begins (R229). -/
def nextFill (s : State) (r : CmdRef) : State :=
  match findInst s r with
  | none => s
  | some q =>
    let n := q.inst.ve.first + q.inst.ve.groups.length
    if (q.inst.ve.groups.all fun g => g.exited) && veFill (veHeadOf s q) q n ≠ [] then beginFill s q n else s

/-- Put a group back; it exits when it has run past its last instruction. -/
def putGroup (s : State) (x : VeCtx) (g : VeGroup) : State :=
  let g := if x.head.codeBytes ≤ g.pc then { g with exited := true } else g
  let s := modInst s x.q.ref fun i =>
    let r := { i.ve with groups := listMod i.ve.groups x.k fun _ => g }
    { i with ve := if g.exited then finishPartials r x.gid else r }
  if g.exited then nextFill s x.q.ref else s

/-- The group goes on to its next instruction. -/
def veNext (s : State) (x : VeCtx) (f : VeFields) (g : VeGroup) : State := putGroup s x { g with pc := g.pc + veLen f }

/-- A lane operation: register d of every lane in which the guard holds. -/
def veLanes (op : Nat) (v : VeAt) (f : VeFields) (s : State) (fn : VeCtx → Nat → Nat) : State :=
  veAt op v f s fun x => veNext (setRegs s x x.lanes f.d.toNat (fn x)) x f x.grp

def veAlu3 (op : Nat) (fn : Nat → Nat → Nat → Nat) (v : VeAt) (f : VeFields) (s : State) : State :=
  veLanes op v f s fun x l => fn (x.a f l) (x.b f l) (x.c f l)
def veAlu2 (op : Nat) (fn : Nat → Nat → Nat) (v : VeAt) (f : VeFields) (s : State) : State :=
  veLanes op v f s fun x l => fn (x.a f l) (x.b f l)
def veAlu1 (op : Nat) (fn : Nat → Nat) (v : VeAt) (f : VeFields) (s : State) : State :=
  veLanes op v f s fun x l => fn (x.a f l)

/-- A compare: predicate d of every lane in which the guard holds. -/
def veCmp (op : Nat) (fn : Nat → Nat → Bool) (v : VeAt) (f : VeFields) (s : State) : State :=
  veAt op v f s fun x =>
    veNext s x f (x.lanes.foldl (fun g l => setPred g l f.d.toNat (fn (x.a f l) (x.b f l))) x.grp)

/-! ## Integer operations (R230, R231) -/

def wrap (i : Int) : Nat := uCode 32 i
def iMulHiS (a b : Nat) : Nat := wrap (sInt 32 a * sInt 32 b / 2 ^ 32)
def iMulHiU (a b : Nat) : Nat := a * b / 2 ^ 32
def iShl (a b : Nat) : Nat := a * 2 ^ (b % 32) % 2 ^ 32
def iShr (a b : Nat) : Nat := a / 2 ^ (b % 32)
def iSra (a b : Nat) : Nat := wrap (sInt 32 a / 2 ^ (b % 32))
def sLt (a b : Nat) : Bool := decide (sInt 32 a < sInt 32 b)
def sMin (a b : Nat) : Nat := if sLt b a then b else a
def sMax (a b : Nat) : Nat := if sLt a b then b else a

/-! ## Conversion and bit fields (R230, R231) -/

/-- CVT from format imm[7:4] to imm[3:0]; imm[8] divides by the BF16 scale in b first. A quotient
that has no value is free. -/
def cvt (imm a b : Nat) : Nat :=
  let src := bits imm 7 4
  let dst := bits imm 3 0
  let v := if src = 10 then extOfInt (sInt 32 a) else if src = 11 then extOfInt (a : Nat) else decodeCode src a
  if dst = 10 then wrap (extToSInt 32 v)
  else if dst = 11 then extToUInt 32 v
  else if isNarrow dst then
    if bit imm 8 then
      match v.div (decodeFmt bf16 (b % 2 ^ 16)) with
      | some x => encodeCode dst .sat x
      | none => (Config.divCorner (BitVec.ofNat 32 a) (BitVec.ofNat 32 b)).toNat % 2 ^ fmtBits dst
    else encodeCode dst .sat v
  else encodeCode dst .ieee v

def bfi (imm a c : Nat) : Nat :=
  let w := bits imm 4 0 + 1
  let k := bits imm 12 8
  putBits c (k + w - 1) k a

def bfx (imm a : Nat) : Nat :=
  let w := bits imm 4 0 + 1
  let k := bits imm 12 8
  let v := bits a (k + w - 1) k
  if bit imm 16 then wrap (sInt w v) else v

/-! ## Reductions (R234, R518, R520, R521) -/

def redOp (op a b : Nat) : Nat :=
  match op with
  | 0 => f32Add a b
  | 1 => f32Min a b
  | _ => f32Max a b

def redId (op : Nat) : Nat := match op with | 0 => 0x80000000 | 1 => 0x7F800000 | _ => 0xFF800000

/-- One pairwise stage; a value without a partner passes on. -/
def redStage (f : Nat → Nat → Nat) : List Nat → List Nat
  | a :: b :: r => f a b :: redStage f r
  | l => l

/-- Pairwise stages until one value is left. -/
def redTree (f : Nat → Nat → Nat) : Nat → List Nat → List Nat
  | 0, l => l
  | k + 1, l => if l.length ≤ 1 then l else redTree f k (redStage f l)

def pairwise (op : Nat) (l : List Nat) : Nat := (redTree (redOp op) 40 l).headD (redId op)

/-- What the lanes give to a reduction: a lane in which the guard does not hold gives the identity (R234). -/
def laneValues (op : Nat) (x : VeCtx) (f : VeFields) : List Nat :=
  (List.range 64).map fun l => if x.lanes.elem l then x.a f l else redId op

/-- Group reduce (R234). -/
def groupReduce (op : Nat) (x : VeCtx) (f : VeFields) : Nat := pairwise op (laneValues op x f)

/-- Left fold from the first value. -/
def sequential (op : Nat) (l : List Nat) : Nat :=
  match l with
  | [] => redId op
  | a :: r => r.foldl (redOp op) a

/-- The partial of value v of group g, the identity where none was made (R231); a group that two instances ran counts
once. -/
def partialOf (op : Nat) (runs : List VeRun) (v g : Nat) : Nat :=
  match (runs.map fun r => r.partials.filter fun p => p.value = v && p.group = g).flatten with
  | [] => redId op
  | p :: _ => pairwise op (p.lanes.map fun w => w.toNat)

/-- Groups whose partials of a value a run counts, in finishing order: a group cut between instances counts for the
first. -/
def ownGroups (runs : List VeRun) (i v : Nat) : List Nat :=
  match runs[i]? with
  | none => []
  | some r =>
    ((r.partials.filter fun p => p.value = v).map fun p => p.group).filter fun g =>
      !((runs.take i).any fun e => e.partials.any fun p => p.value = v && p.group = g)

/-- A list in an order that the manual leaves open (a free value, log entry 7): that of value v of the command. -/
def freeOrder (fresh v : Nat) : Nat → List Nat → List Nat
  | 0, l => l
  | k + 1, l =>
    if l.length ≤ 1 then l
    else
      let i := (Config.freeAt fresh [v, k]).toNat % l.length
      l.getD i 0 :: freeOrder fresh v k (l.eraseIdx i)

/-- The dispatch-wide value v of a command whose instances have all exited, by level; at level 1 over P partitions. -/
def reduceValue (s : State) (h : VeHead) (level parts : Nat) (runs : List VeRun) (v : Nat) : Nat :=
  let op := h.op
  let part := partialOf op runs v
  if 2 ≤ level then pairwise op ((List.range h.groups).map part)
  else if level = 1 then
    let p := max parts 1
    sequential op ((List.range p).filterMap fun i =>
      let r := shareOf h.groups p i
      if r.2 ≤ r.1 then none else some (sequential op ((upFrom r.1 (r.2 - r.1)).map part)))
  else
    let sums := (((List.range runs.length).map fun i => ownGroups runs i v).filter fun gs => gs ≠ []).map fun gs =>
      sequential op (gs.map part)
    sequential op (freeOrder s.fresh v sums.length sums)

/-- What a reducing command writes last: the reduction buffer at level 2, then its results. -/
def reduceStores (s : State) (h : VeHead) (level parts : Nat) (runs : List VeRun) : List (Nat × List Byte) :=
  if h.values = 0 then []
  else
    (if 2 ≤ level then ((List.range h.groups).map fun g => (List.range h.values).map fun v =>
        (h.reduceVa + 4 * (g * h.values + v), le4 (partialOf h.op runs v g))).flatten else [])
    ++ (List.range h.values).map fun v => (h.resultVa + 4 * v, le4 (reduceValue s h level parts runs v))

/-! ## Scratchpad accesses (R230, R231, R235) -/

/-- The address of a lane's access: low bits below the access size play no part. -/
def laneAddr (x : VeCtx) (f : VeFields) (n l : Nat) : Nat :=
  wrap (x.a f l + veImm f) / n * n

def lanesIn (x : VeCtx) (f : VeFields) (n : Nat) : Bool :=
  x.lanes.all fun l => inRegions x.q.cmd.spec.regions (laneAddr x f n l) n

/-- A load of n bytes into consecutive registers. -/
def veLoad (op n : Nat) (v : VeAt) (f : VeFields) (s : State) : State :=
  veAt op v f s fun x =>
    if !lanesIn x f n then padViolation s x.q
    else
      veNext (x.lanes.foldl (fun s1 l =>
        (List.range (n / 4)).foldl (fun s1 k =>
          setReg s1 x l (f.d.toNat + k) (leNat (padRead s v.core.val (laneAddr x f n l + 4 * k) 4))) s1) s) x f x.grp

/-- The words that a store writes. A register beyond 63, or one after a literal, has no stated value: a free value (log
entry 7), which is the thread's, the instruction's and the first word's, so that equal runs store equal bits (R513). -/
def storeWord (x : VeCtx) (f : VeFields) (l k : Nat) : Nat :=
  if k = 0 then x.b f l
  else if f.lit ∨ 64 ≤ f.b.toNat + k then (Config.storeCorner [64 * x.gid + l, x.grp.pc, x.b f l, k]).toNat
  else x.reg l (f.b.toNat + k)

/-- A store of n bytes; lanes act in ascending order, so the highest lane's value stays. -/
def veStore (op n : Nat) (v : VeAt) (f : VeFields) (s : State) : State :=
  veAt op v f s fun x =>
    if !lanesIn x f n then padViolation s x.q
    else
      let s' := x.lanes.foldl (fun s1 l =>
        padWrite s1 v.core.val (laneAddr x f n l)
          (((List.range (n / 4)).map fun k => le4 (storeWord x f l k)).flatten)) s
      veNext s' x f x.grp

/-- An atomic: lanes in ascending order; d takes the old word, and fn gives the new one from the old,
b and c. -/
def veAtomic (op : Nat) (fn : Nat → Nat → Nat → Nat) (v : VeAt) (f : VeFields) (s : State) : State :=
  veAt op v f s fun x =>
    if !lanesIn x f 4 then padViolation s x.q
    else
      let r := x.lanes.foldl (fun (sg : State × List (Nat × Nat)) l =>
        let a := laneAddr x f 4 l
        let old := leNat (padRead sg.1 v.core.val a 4)
        (padWrite sg.1 v.core.val a (le4 (fn old (x.b f l) (x.c f l))), sg.2 ++ [(l, old)])) (s, [])
      veNext (r.2.foldl (fun s1 lo => setReg s1 x lo.1 f.d.toNat lo.2) r.1) x f x.grp

/-! ## Control (R231) -/

def veBranch (op : Nat) (take : VeCtx → Bool) (v : VeAt) (f : VeFields) (s : State) : State :=
  veAt op v f s fun x =>
    if take x then
      match veTarget (veProgram s x.q) x.grp.pc (veImm f) with
      | some off => putGroup s x { x.grp with pc := off }
      | none => veNext s x f x.grp
    else veNext s x f x.grp

/-- All groups of the fill that reach a dispatch barrier leave it together. -/
def veBarrier (op : Nat) (v : VeAt) (f : VeFields) (s : State) : State :=
  veAt op v f s fun x =>
    if x.lanes = [] then veNext s x f x.grp
    else
      let code := veCode s x.q
      let s := modInst s x.q.ref fun i =>
        let gs := listMod i.ve.groups x.k fun g => { g with barrier := true }
        if gs.all fun g => g.barrier then
          { i with ve := { i.ve with groups := gs.map fun g =>
              let pc := g.pc + veLen (veWord code g.pc).f
              { g with barrier := false, pc := pc, exited := g.exited || decide (x.head.codeBytes ≤ pc) } } }
        else { i with ve := { i.ve with groups := gs } }
      nextFill s x.q.ref

/-- DMA_ISSUE: once per group, from the lowest active lane in which the guard holds; it waits while
the command holds 16 outstanding descriptors. -/
def veDmaStart (op : Nat) (v : VeAt) (f : VeFields) (s : State) : State :=
  veAt op v f s fun x =>
    match x.lanes with
    | [] => veNext s x f x.grp
    | l :: _ =>
      if 16 ≤ x.q.inst.dma.jobs.length then s
      else
        let d := progBytes s x.q.loop.tenant x.q.cmd.spec (x.head.desc + 48 * f.imm.toNat) 48
        let d := le8 (leAt d 0 8 + x.a f l) ++ le8 (leAt d 8 8 + x.b f l) ++ d.drop 16
        startDesc s x.q f.imm.toNat x.gid d fun s => veNext s x f x.grp

/-- What DMA_WAIT waits for has completed. -/
def veWaitOver (x : VeCtx) (imm : Nat) : Bool :=
  let r := x.q.inst.dma
  if imm = 0xFFFFFF then !r.jobs.any fun j => j.group = x.gid
  else r.done.elem imm && !r.jobs.any fun j => j.index = imm

def veDmaHold (op : Nat) (v : VeAt) (f : VeFields) (s : State) : State :=
  veAt op v f s fun x =>
    if x.lanes = [] ∨ veWaitOver x f.imm.toNat then veNext s x f x.grp else s

def veEnd (op : Nat) (v : VeAt) (f : VeFields) (s : State) : State :=
  veAt op v f s fun x =>
    if x.lanes = [] then veNext s x f x.grp else putGroup s x { x.grp with exited := true }

/-- DRED: the group's partial of a value, the last one kept (R231). -/
def vePartial (op : Nat) (v : VeAt) (f : VeFields) (s : State) : State :=
  veAt op v f s fun x =>
    let n := f.imm.toNat % 64
    let p : VePart := { value := n, group := x.gid, core := v.core.val,
                        lanes := (laneValues x.head.op x f).map (BitVec.ofNat 32) }
    veNext (modInst s x.q.ref fun i => { i with ve := { i.ve with
      partials := i.ve.partials.filter (fun e => !(e.value = n && e.group = x.gid)) ++ [p] } }) x f x.grp

end Sys2Proof.Machine
end

