-- ==== Sys2Proof/Machine/Vision.lean ====
section
/-! DEFINITION. Machine/Vision.lean: the stereo and flow engines (R363 to R385): head and checks,
pyramids, search, confidence, tests and fill, the maps a run writes, and streaming into a core. -/

namespace Sys2Proof.Machine

open Sys2Proof

structure VisHead where
  kind : Nat
  levels : Nat
  window : Nat
  radius : Nat
  inFmt : Nat
  channels : Nat
  w : Nat
  h : Nat
  rx : Nat
  ry : Nat
  early : Nat
  fill : Nat
  fillLevel : Nat
  threshold : Nat
  refine : Nat
  check : Nat
  tolerance : Nat
  texture : Nat
  src0 : Nat
  row : Nat
  plane : Nat
  src1 : Nat
  out : Nat
  outRow : Nat
  earlyRow : Nat
  earlyVa : Nat
  consumer : Nat
  slots : Nat
  maps : Nat
  streamAddr : Nat
  deriving DecidableEq, Repr

def visHead (p : List Byte) : VisHead :=
  { kind := leAt p 2 1, levels := leAt p 3 1, window := leAt p 4 1, radius := leAt p 5 1, inFmt := leAt p 6 1,
    channels := leAt p 7 1, w := leAt p 8 2, h := leAt p 10 2, rx := leAt p 12 2, ry := leAt p 14 2,
    early := leAt p 16 1, fill := leAt p 17 1, fillLevel := leAt p 18 1, threshold := leAt p 19 1,
    refine := leAt p 20 1, check := leAt p 21 1, tolerance := leAt p 22 2, texture := leAt p 24 4,
    src0 := leAt p 32 8, row := leAt p 40 4, plane := leAt p 44 4, src1 := leAt p 48 8, out := leAt p 56 8,
    outRow := leAt p 64 4, earlyRow := leAt p 68 4, earlyVa := leAt p 72 8, consumer := leAt p 80 2,
    slots := leAt p 82 1, maps := leAt p 83 1, streamAddr := leAt p 84 4 }

def visHeadOf (s : State) (t : Nat) (c : CmdRec) : VisHead := visHead (progBytes s t c 0 96)

def VisHead.stereo (h : VisHead) : Bool := h.kind = 0
def VisHead.streams (h : VisHead) : Bool := h.consumer ≠ 0xFFFF
/-- Size of level l. -/
def VisHead.wl (h : VisHead) (l : Nat) : Nat := ceilDiv h.w (2 ^ l)
def VisHead.hl (h : VisHead) (l : Nat) : Nat := ceilDiv h.h (2 ^ l)
/-- Largest magnitude of a candidate at level l on each axis (R370). -/
def VisHead.cx (h : VisHead) (l : Nat) : Nat := ceilDiv h.rx (2 ^ l)
def VisHead.cy (h : VisHead) (l : Nat) : Nat := ceilDiv h.ry (2 ^ l)

/-! ## Checks (R366, R367, R381) -/

def visFieldsOk (p : List Byte) : Bool :=
  let h := visHead p
  leAt p 0 2 = 1 && decide (h.kind ≤ 1) && decide (1 ≤ h.levels) && decide (h.levels ≤ 6)
  && (h.window = 3 || h.window = 5 || h.window = 7 || h.window = 9) && decide (1 ≤ h.radius) && decide (h.radius ≤ 4)
  && decide (h.inFmt ≤ 2) && decide (1 ≤ h.channels) && decide (h.channels ≤ 4)
  && decide (16 ≤ h.w) && decide (h.w ≤ 8192) && decide (16 ≤ h.h) && decide (h.h ≤ 8192)
  && (if h.stereo then decide (1 ≤ h.rx) && decide (h.rx ≤ 1023) && h.ry = 0 else decide (h.rx ≤ 512) && decide (h.ry ≤ 256))
  && (if h.fill = 0 then h.fillLevel = 0 else decide (1 ≤ h.fillLevel))
  && decide (h.refine ≤ if h.stereo then 32 else 8) && decide (h.check ≤ 1) && decide (h.tolerance ≤ 255)
  && h.outRow % 64 = 0 && h.earlyRow % 64 = 0 && (h.earlyVa ≠ 0 || h.earlyRow = 0)
  && (if h.streams then decide (1 ≤ h.slots) && decide (h.slots ≤ 8) else h.slots = 0) && decide (h.maps ≤ 2)

def coarsestCount (h : VisHead) : Nat :=
  let l := h.levels - 1
  if h.stereo then h.cx l + 1 else (2 * h.cx l + 1) * (2 * h.cy l + 1)

/-- Bytes of an entry, of a row of a map in a band, and of a slot (R377, R381). -/
def entryBytes (h : VisHead) : Nat := if h.stereo then 4 else 8
def bandRow (h : VisHead) (l : Nat) : Nat := roundUp (h.wl l * entryBytes h) 64
def slotBytes (h : VisHead) : Nat :=
  64 + max (if h.maps = 1 then 0 else min 64 h.h * bandRow h 0)
    (if h.maps = 0 then 0 else min (64 / 2 ^ h.early) (h.hl h.early) * bandRow h h.early)

/-- The rules of R381 that hold before the consumer is placed. -/
def streamPairOk (s : State) (q : Placed) (h : VisHead) : Bool :=
  match q.step.cmds[h.consumer]? with
  | none => false
  | some c =>
    decide (q.ref.cmd < h.consumer) && c.spec.engine = 2 && c.spec.stripes = 1 && !c.spec.deps.elem q.ref.cmd
    && (q.step.cmds.zipIdx.all fun cj =>
      cj.2 = q.ref.cmd || streamConsumer s q.loop.tenant cj.1.spec ≠ some h.consumer)

def visFault (s : State) (q : Placed) : Option (Nat × Nat) :=
  let p := progBytes s q.loop.tenant q.cmd.spec 0 96
  let h := visHead p
  firstFault
    [ (leAt p 28 4 ≠ 0 || leAt p 88 8 ≠ 0 || decide (4 ≤ h.fill), (stBadParam, dtReservedNonzero)),
      (!visFieldsOk p, (stBadParam, dtValueRange)),
      (h.kind ≠ (if q.cmd.spec.engine = 7 then 0 else 1) || decide (h.levels ≤ h.early)
        || decide (h.levels ≤ h.fillLevel) || (h.maps ≠ 0 && h.early = 0) || (h.out = 0 && !h.streams),
        (stBadParam, dtVisForm)),
      (decide (1089 < coarsestCount h), (stBadParam, dtVisRange)),
      (h.streams && !streamPairOk s q h, (stBadParam, dtVisStream)) ]

/-- The slots lie in the regions of the consumer, checked when it is placed. -/
def streamSlotsOk (s : State) (q : Placed) : Bool :=
  match streamProducer s q.loop.tenant q.step q.ref.cmd with
  | none => true
  | some k =>
    match q.step.cmds[k]? with
    | none => true
    | some c =>
      let h := visHeadOf s q.loop.tenant c.spec
      inRegions q.cmd.spec.regions h.streamAddr (h.slots * slotBytes h)

/-! ## Samples and pyramids (R368, R369) -/

def sampleBytes (h : VisHead) : Nat := if h.inFmt = 0 then 1 else 2

/-- A source sample as a 10-bit integer. -/
def sample10 (fmt v : Nat) : Nat :=
  match fmt with
  | 0 => v * 4 + v / 64
  | 1 => v / 64
  | _ =>
    match decodeFmt fp16 v with
    | .nan => 0
    | .inf neg => if neg then 0 else 1023
    | .fin neg n d => if neg then 0 else if d ≤ n then 1023 else roundHalfEven (n * 1023) d

abbrev Plane := List (List Nat)

def planeGet (p : Plane) (x y : Nat) : Nat := (p.getD y []).getD x 0

def readPlane (s : State) (t : Nat) (h : VisHead) (src c : Nat) : Plane :=
  (List.range h.h).map fun y =>
    let row := hbmRead s t (src + c * h.plane + y * h.row) (h.w * sampleBytes h)
    (List.range h.w).map fun x => sample10 h.inFmt (leAt row (x * sampleBytes h) (sampleBytes h))

/-- The level above a plane of w × h samples. -/
def halve (p : Plane) (w h : Nat) : Plane :=
  (List.range (ceilDiv h 2)).map fun y => (List.range (ceilDiv w 2)).map fun x =>
    let g := fun i j => planeGet p (min i (w - 1)) (min j (h - 1))
    (g (2 * x) (2 * y) + g (2 * x + 1) (2 * y) + g (2 * x) (2 * y + 1) + g (2 * x + 1) (2 * y + 1) + 2) / 4

/-- Levels of a plane, from level 0. -/
def pyramid (h : VisHead) (p : Plane) : List Plane :=
  (List.range (h.levels - 1)).foldl (fun ps l => ps ++ [halve (ps.getD l []) (h.wl l) (h.hl l)]) [p]

/-- An image: its pyramid by channel. -/
abbrev Image := List (List Plane)

def readImage (s : State) (t : Nat) (h : VisHead) (src : Nat) : Image :=
  (List.range h.channels).map fun c => pyramid h (readPlane s t h src c)

/-! ## The search (R370 to R373) -/

def clampI (v : Int) (n : Nat) : Nat := (max 0 (min v ((n : Int) - 1))).toNat

def at10 (h : VisHead) (im : Image) (l c : Nat) (x y : Int) : Nat :=
  planeGet ((im.getD c []).getD l []) (clampI x (h.wl l)) (clampI y (h.hl l))

def windowOffs (h : VisHead) : List Int := (List.range h.window).map fun (k : Nat) => (k : Int) - (h.window / 2 : Nat)

/-- Cost of a displacement of the target at a pixel. -/
def costAt (h : VisHead) (ref tgt : Image) (l : Nat) (x y dx dy : Int) : Nat :=
  ((List.range h.channels).map fun c => ((windowOffs h).map fun j => ((windowOffs h).map fun i =>
    (((at10 h ref l c (x + i) (y + j) : Nat) : Int) - (at10 h tgt l c (x + i + dx) (y + j + dy) : Nat)).natAbs).sum).sum).sum

/-- An evaluated candidate: u (the disparity in stereo), v, and its cost. -/
structure Evald where
  u : Int
  v : Int
  cost : Nat
  deriving DecidableEq, Repr

/-- Which map is built: the primary one, or the one for the consistency check. -/
inductive MapSide where
  | primary | second
  deriving DecidableEq, Repr

def rangeI (a b : Int) : List Int := if b < a then [] else (List.range (b - a + 1).toNat).map fun (k : Nat) => a + k

/-- Evaluate the candidates u, v of two intervals, smaller v first, then smaller u. -/
def evalAll (h : VisHead) (side : MapSide) (ref tgt : Image) (l : Nat) (x y : Nat) (us vs : List Int) : List Evald :=
  (vs.map fun v => us.map fun u =>
    let dx := if h.stereo then (if side = .primary then -u else u) else u
    ({ u := u, v := v, cost := costAt h ref tgt l x y dx v } : Evald)).flatten

/-- The winner: the first of the lowest cost. -/
def winner (es : List Evald) : Evald :=
  match es with
  | [] => { u := 0, v := 0, cost := 0 }
  | e :: r => r.foldl (fun b e => if e.cost < b.cost then e else b) e

def clampTo (lo hi v : Int) : Int := max lo (min v hi)

/-- What a level evaluates at a pixel, from the coarsest level down. -/
def levelEval (h : VisHead) (side : MapSide) (ref tgt : Image) : Nat → Nat → Nat → Nat → List Evald
  | 0, l, x, y =>
    let cx : Int := h.cx l
    let cy : Int := h.cy l
    evalAll h side ref tgt l x y (rangeI (if h.stereo then 0 else -cx) cx) (if h.stereo then [0] else rangeI (-cy) cy)
  | k + 1, l, x, y =>
    let d := winner (levelEval h side ref tgt k (l + 1) (x / 2) (y / 2))
    let cx : Int := h.cx l
    let cy : Int := h.cy l
    let lo := if h.stereo then 0 else -cx
    let r : Int := h.radius
    evalAll h side ref tgt l x y (rangeI (clampTo lo cx (2 * d.u - r)) (clampTo lo cx (2 * d.u + r)))
      (if h.stereo then [0] else rangeI (clampTo (-cy) cy (2 * d.v - r)) (clampTo (-cy) cy (2 * d.v + r)))

def evalLevel (h : VisHead) (side : MapSide) (ref tgt : Image) (l x y : Nat) : List Evald :=
  levelEval h side ref tgt (h.levels - 1 - l) l x y

/-- Confidence of the winner among what was evaluated (R372). -/
def confidence (es : List Evald) : Nat :=
  let w := winner es
  match ((es.filter fun e => !(e.u = w.u && e.v = w.v)).map fun e => e.cost).min? with
  | none => 255
  | some c1 => if c1 = 0 then 0 else 255 * (c1 - w.cost) / c1

/-- Sub-pixel offset on one axis (R371). -/
def subPixel (cm c0 cp : Option Nat) : Int :=
  match cm, c0, cp with
  | some m, some c, some p =>
    let num : Int := 8 * ((m : Int) - p)
    let den : Int := (m : Int) - 2 * c + p
    if den ≤ 0 then 0 else clampTo (-8) 8 (sgn (decide (num < 0)) (roundHalfEven num.natAbs den.toNat))
  | _, _, _ => 0

def costOf (es : List Evald) (u v : Int) : Option Nat := (es.find? fun e => e.u = u && e.v = v).map fun e => e.cost

/-- Level-0 result in sixteenths of a pixel. -/
def fine (h : VisHead) (es : List Evald) : Int × Int :=
  let w := winner es
  let c := fun u v => costOf es u v
  (16 * w.u + subPixel (c (w.u - 1) w.v) (some w.cost) (c (w.u + 1) w.v),
   if h.stereo then 0 else 16 * w.v + subPixel (c w.u (w.v - 1)) (some w.cost) (c w.u (w.v + 1)))

/-- The level-0 result of the primary map, refined where its confidence is low (R373): what was
evaluated for it, and whether it was refined. -/
def refined (h : VisHead) (ref tgt : Image) (x y : Nat) : List Evald × Bool :=
  let es := evalLevel h .primary ref tgt 0 x y
  if confidence es < h.threshold then
    let w := winner es
    let r : Int := h.refine
    let cx : Int := h.rx
    let cy : Int := h.ry
    let lo := if h.stereo then 0 else -cx
    let fs := evalAll h .primary ref tgt 0 x y (rangeI (clampTo lo cx (w.u - r)) (clampTo lo cx (w.u + r)))
      (if h.stereo then [0] else rangeI (clampTo (-cy) cy (w.v - r)) (clampTo (-cy) cy (w.v + r)))
    if (winner fs).cost < w.cost then (fs, true) else (es, false)
  else (es, false)

/-! ## Tests, codes and fill (R374 to R378) -/

def textureAt (h : VisHead) (ref : Image) (x y : Nat) : Nat :=
  ((List.range h.channels).map fun c => ((windowOffs h).map fun j => ((windowOffs h).map fun i =>
    let p := fun a b => ((at10 h ref 0 c (x + i + a) (y + j + b) : Nat) : Int)
    (p 1 0 - p 0 0).natAbs + (if h.stereo then 0 else (p 0 1 - p 0 0).natAbs)).sum).sum).sum

inductive Mark where
  | none | untextured | inconsistent
  deriving DecidableEq, Repr

/-- Tests 2 and 3 of R374. -/
def inconsistent (h : VisHead) (ref tgt : Image) (x y : Nat) (d : Int × Int) : Bool :=
  let xr : Int := if h.stereo then (x : Int) - (d.1 + 8) / 16 else (x : Int) + (d.1 + 8) / 16
  let yr : Int := if h.stereo then y else (y : Int) + (d.2 + 8) / 16
  if xr < 0 ∨ (h.w : Int) ≤ xr ∨ yr < 0 ∨ (h.h : Int) ≤ yr then true
  else
    let b := fine h (evalLevel h .second tgt ref 0 xr.toNat yr.toNat)
    if h.stereo then decide (h.tolerance < (d.1 - b.1).natAbs)
    else decide (h.tolerance < (d.1 + b.1).natAbs) || decide (h.tolerance < (d.2 + b.2).natAbs)

/-- An entry of the final map, and what it counts: refined, marked. -/
structure VisEntry where
  u : Int
  v : Int
  conf : Nat
  filled : Bool
  refined : Bool
  mark : Mark
  deriving DecidableEq, Repr

def visEntry (h : VisHead) (ref tgt : Image) (x y : Nat) : VisEntry :=
  let r := refined h ref tgt x y
  let d := fine h r.1
  let mark := if h.texture ≠ 0 ∧ textureAt h ref x y < h.texture then Mark.untextured
    else if h.check = 1 ∧ inconsistent h ref tgt x y d then .inconsistent else .none
  let fills := match mark with | .none => false | .inconsistent => bit h.fill 0 | .untextured => bit h.fill 1
  if mark = .none then { u := d.1, v := d.2, conf := confidence r.1, filled := false, refined := r.2, mark := mark }
  else if fills then
    let k := h.fillLevel
    let w := winner (evalLevel h .primary ref tgt k (x / 2 ^ k) (y / 2 ^ k))
    { u := w.u * (16 * 2 ^ k : Nat), v := w.v * (16 * 2 ^ k : Nat), conf := 0, filled := true, refined := r.2, mark := mark }
  else
    { u := if h.stereo then (if mark = .untextured then 0xFFFE else 0xFFFF) else -0x8000,
      v := if mark = .untextured then -0x7FFF else -0x8000, conf := 0, filled := false, refined := r.2, mark := mark }

def entryOf (h : VisHead) (e : VisEntry) : List Byte :=
  if h.stereo then
    le4 (uCode 16 e.u + e.conf * 2 ^ 16 + boolNat e.filled * 2 ^ 24 + boolNat e.refined * 2 ^ 25
      + boolNat (e.mark = .inconsistent) * 2 ^ 26 + boolNat (e.mark = .untextured) * 2 ^ 27)
  else
    le2 (uCode 16 e.u) ++ le2 (uCode 16 e.v) ++ by1 e.conf
    ++ by1 (boolNat e.filled + 2 * boolNat e.refined + 4 * boolNat (e.mark = .inconsistent)
      + 8 * boolNat (e.mark = .untextured)) ++ zeros 2

/-- An entry of the early map (R378). -/
def earlyEntry (h : VisHead) (ref tgt : Image) (x y : Nat) : List Byte :=
  let es := evalLevel h .primary ref tgt h.early x y
  let w := winner es
  let k := 16 * 2 ^ h.early
  entryOf h { u := w.u * (k : Nat), v := w.v * (k : Nat), conf := confidence es, filled := false, refined := false,
              mark := .none }

/-! ## Rows and bands (R377, R378, R381, R382) -/

def finalRow (h : VisHead) (ref tgt : Image) (y : Nat) : List VisEntry :=
  (List.range h.w).map fun x => visEntry h ref tgt x y
def earlyRowBytes (h : VisHead) (ref tgt : Image) (y : Nat) : List Byte :=
  ((List.range (h.wl h.early)).map fun x => earlyEntry h ref tgt x y).flatten

/-- Bands in the order they go out: map (0 final, 1 early), first row, rows. -/
def bands (h : VisHead) : List (Nat × Nat × Nat) :=
  ((List.range (ceilDiv h.h 64)).map fun k =>
    let n := 64 / 2 ^ h.early
    let eh := h.hl h.early
    (if h.maps = 0 ∨ eh ≤ k * n then [] else [(1, k * n, min n (eh - k * n))])
    ++ (if h.maps = 1 then [] else [(0, 64 * k, min 64 (h.h - 64 * k))])).flatten

def visSources (s : State) (q : Placed) (h : VisHead) : Image × Image :=
  (readImage s q.loop.tenant h h.src0, readImage s q.loop.tenant h h.src1)

def bandBytes (s : State) (q : Placed) (h : VisHead) (b : Nat × Nat × Nat) : List Byte :=
  let im := visSources s q h
  ((upFrom b.2.1 b.2.2).map fun y =>
    if b.1 = 0 then fit (bandRow h 0) ((finalRow h im.1 im.2 y).map (entryOf h)).flatten
    else fit (bandRow h h.early) (earlyRowBytes h im.1 im.2 y)).flatten

/-! ## A run -/

def sourceReads (h : VisHead) : List Access :=
  ([h.src0, h.src1].map fun src => (List.range h.channels).map fun c => (List.range h.h).map fun y =>
    ({ va := src + c * h.plane + y * h.row, n := h.w * sampleBytes h, write := false } : Access)).flatten.flatten

/-- What a run of a vision command does; pixels refined and marked. -/
def visWork (s : State) (q : Placed) : Work × Nat × Nat :=
  let h := visHeadOf s q.loop.tenant q.cmd.spec
  let im := visSources s q h
  let rows := (List.range h.h).map fun y => finalRow h im.1 im.2 y
  let out := if h.out = 0 then [] else rows.zipIdx.map fun ry => (h.out + ry.2 * h.outRow, (ry.1.map (entryOf h)).flatten)
  let early := if h.early = 0 ∨ h.earlyVa = 0 then [] else
    (List.range (h.hl h.early)).map fun y => (h.earlyVa + y * h.earlyRow, earlyRowBytes h im.1 im.2 y)
  let ws := early ++ out
  ({ hbm := sourceReads h ++ ws.map fun w => ({ va := w.1, n := w.2.length, write := true } : Access), stores := ws },
    (rows.flatten.filter fun e => e.refined).length, (rows.flatten.filter fun e => e.mark ≠ .none).length)

/-! ## Streaming (R381 to R385) -/

/-- The consumer of a vision instance, once it is placed. -/
def consumerOf (s : State) (q : Placed) (h : VisHead) : Option Placed :=
  if h.streams then
    match findInst s { loop := q.ref.loop, cmd := h.consumer, inst := 0 } with
    | some c => if onCore c.inst then some c else none
    | none => none
  else none

/-- STREAM_BAND_WRITE: the next band goes into its slot once the slot's ready flag is 0; until then
the engine waits. To a consumer that reruns, a producer in place sends the bands again as they went (log entry 23). -/
def onStreamBand (ref : CmdRef) (s : State) : State :=
  match findInst s ref with
  | none => s
  | some q =>
    if !isRunning s || !onCore q.inst || !(q.cmd.spec.engine = 6 || q.cmd.spec.engine = 7) then s
    else
      let h := visHeadOf s q.loop.tenant q.cmd.spec
      match consumerOf s q h, (bands h)[q.inst.strm.bands]? with
      | some c, some b =>
        let slot := h.streamAddr + q.inst.strm.bands % h.slots * slotBytes h
        if leNat (padRead s c.inst.core (slot + 8) 1) ≠ 0 then
          modInst s ref fun i => { i with strm := { i.strm with
            wait := some (i.strm.wait.getD (s.now + usTicks * rField s aVisConfig 15 0)) } }
        else
          let old := q.inst.strm.kept[q.inst.strm.bands]?
          match (if old.isSome then none else firstStop s q (sourceReads h)) with
          | some x => stopRun s q x
          | none =>
            let n := q.inst.strm.bands + 1
            let data := old.getD (bandBytes s q h b)
            let s' := padWrite s c.inst.core (slot + 64) data
            let s' := padWrite s' c.inst.core slot
              (le4 n ++ le2 b.2.1 ++ le2 b.2.2 ++ by1 1 ++ by1 b.1 ++ zeros 54)
            let kept := if old.isSome || !inPlace q.cmd.spec then q.inst.strm.kept else q.inst.strm.kept ++ [data]
            modInst s' ref fun i => { i with strm := { i.strm with bands := n, wait := none, kept := kept } }
      | _, _ => s

/-- STREAM_TIMEOUT: a wait for a ready flag that has run out kills both commands; a flag that the consumer has cleared
since has ended the wait (R384). -/
def onStreamTimeout (ref : CmdRef) (s : State) : State :=
  match findInst s ref with
  | none => s
  | some q =>
    match q.inst.strm.wait, consumerOf s q (visHeadOf s q.loop.tenant q.cmd.spec) with
    | some due, some c =>
      let h := visHeadOf s q.loop.tenant q.cmd.spec
      let slot := h.streamAddr + q.inst.strm.bands % h.slots * slotBytes h
      if isRunning s && onCore q.inst && isRun c.inst && decide (due ≤ s.now)
          && leNat (padRead s c.inst.core (slot + 8) 1) ≠ 0 then
        killInsts (incReg s aVisTimeouts 1 cap32) [ref, c.ref] kcHalo
      else s
    | _, _ => s

/-- TILE_MEMORY_ECC: an uncorrectable error in tile memory (R385). -/
def onTileMemoryEcc (ref : CmdRef) (s : State) : State :=
  match findInst s ref with
  | none => s
  | some q =>
    if isRunning s && isRun q.inst && (q.cmd.spec.engine = 6 || q.cmd.spec.engine = 7) then eccPad s q else s

def execStreamBandWrite (ref : CmdRef) (s : State) : Out := .next (onStreamBand ref s)
def execStreamTimeout (ref : CmdRef) (s : State) : Out := .next (onStreamTimeout ref s)
def execTileMemoryEcc (ref : CmdRef) (s : State) : Out := .next (onTileMemoryEcc ref s)

end Sys2Proof.Machine
end

