-- ==== Sys2Proof/Machine/Programs.lean ====
section
/-! DEFINITION. Machine/Programs.lean: the checks of a command's program at its first dispatch, engine
by engine (R147, R225 to R231, R267, R285, R289, R331, R367, R519), and the scratchpad areas that it
names (R168). -/

namespace Sys2Proof.Machine

open Sys2Proof

/-- The failure that a program's head draws, before any access. -/
def progFault (s : State) (q : Placed) : Option (Nat × Nat) :=
  match q.cmd.spec.engine with
  | 1 => meFault (progBytes s q.loop.tenant q.cmd.spec 0 52) q.cmd.spec.stripes
  | 2 => veFault s q
  | 4 => dmaFault s q
  | 5 => rasHeadFault s q <|> texFault s q
  | 6 => visFault s q
  | 7 => visFault s q
  | _ => winFault s q

/-- Scratchpad areas that an instance's program names. -/
def progAreas (s : State) (q : Placed) : List (Nat × Nat) :=
  let t := q.loop.tenant
  match q.cmd.spec.engine with
  | 0 => winAreas (winProgram s t q.cmd.spec) 0 q.cmd.spec.stripes q.ref.inst
  | 1 => meAreas (meHead (progBytes s t q.cmd.spec 0 52))
  | 2 => veAreas (progBytes s t q.cmd.spec 0 64)
  | 3 => winAreas (winProgram s t q.cmd.spec) 3 q.cmd.spec.stripes q.ref.inst
  | _ => []

def areasOk (s : State) (q : Placed) : Bool :=
  (progAreas s q).all fun a => inRegions q.cmd.spec.regions a.1 a.2

/-- The instances of a command, as placed. -/
def cmdInsts (s : State) (id k : Nat) : List Placed :=
  match getLoop s id with
  | none => []
  | some l =>
    match l.queue with
    | [] => []
    | st :: _ => (stepInsts id l st).filter fun p => p.ref.cmd = k

/-- What the Ndovik reads of a command's program as a run begins: all of it (DESIGN CHOICE, log entry 23: when its
descriptors and instructions are fetched the spec does not say). Like any access, the fetch touches demand pages and meets
bad lines (R151, R155). -/
def programRead (q : Placed) : Access := { va := q.cmd.spec.program, n := q.cmd.spec.programBytes, write := false }

/-- The fetch would meet a demand fault that a restart of the scheduler processor holds up (R542). -/
def fetchWaits (s : State) (q : Placed) : Bool :=
  restarting s 2 && (firstStop s q (programRead q :: (if q.cmd.spec.engine = 5 then tableReads (rasHeadOf s q) else []))).elim
    false fun x => match x with | .demand _ => true | _ => false

/-- An instance that has a core fetches its program. -/
def fetchProgram (s : State) (r : CmdRef) : State :=
  match findInst s r with
  | none => s
  | some q =>
    if !isRun q.inst || q.step.failing.isSome then s
    else
      match accessStop s q (programRead q) with
      | some x => stopRun s q x
      | none => s

/-- First dispatch of a command: its head, then the areas of every instance, then the slots of a
stream whose consumer it is. A program that passes is not checked again. -/
def firstDispatch (s : State) (q : Placed) : State :=
  if q.cmd.checked then s
  else
    match progFault s q with
    | some e => failStep s q.ref.loop e.1 e.2 q.ref.cmd
    | none =>
      if !(cmdInsts s q.ref.loop q.ref.cmd).all (areasOk s) then padViolation s q
      else if !streamSlotsOk s q then badParam s q dtVisStream
      else modCmd s q.ref.loop q.ref.cmd fun c => { c with checked := true }

end Sys2Proof.Machine
end

