-- ==== Sys2Proof/Machine/Place.lean ====
section
/-! DEFINITION. Machine/Place.lean: placement (R180, R181, R187, R284, R290, R329), pre-emption (R182),
residency eviction (R178, R179), the urgent tick and the scheduling tick (R175). -/

namespace Sys2Proof.Machine

open Sys2Proof

/-! ## What a core holds -/

/-- Engines of one kind on a core (R20). -/
def engineSlots (e : Nat) : Nat := if e ≤ 1 then 2 else 1

/-- The running instance that holds slot k of an engine on a core; a raster command holds the VEs of
its owner cores. -/
def slotHolder (s : State) (c e k : Nat) : Option Placed :=
  (allInsts s).find? fun p => isRun p.inst &&
    ((p.cmd.spec.engine = e && p.inst.core = c && p.inst.slot = k)
     || (e = 2 && p.cmd.spec.engine = 5 && p.inst.cores.elem c))

/-- The unit of an engine that a command takes on a core: the lowest free one (DESIGN CHOICE, log entry 26; R180 names
none). -/
def freeSlot (s : State) (c e : Nat) : Option Nat :=
  (List.range (engineSlots e)).find? fun k => (slotHolder s c e k).isNone

/-- Regions that an instance holds on a core. -/
def regionsOn (p : Placed) (c : Nat) : List Region :=
  if p.cmd.spec.engine = 5 then (p.inst.pads.filter fun x => x.1 = c).map fun x => x.2
  else if p.inst.core = c then p.cmd.spec.regions else []

/-- Instances whose regions on a core overlap given ones. -/
def regionHolders (s : State) (c : Nat) (rs : List Region) : List Placed :=
  (allInsts s).filter fun p => onCore p.inst && (regionsOn p c).any fun q =>
    rs.any fun r => overlap r.offset r.bytes q.offset q.bytes

/-- Placement may use the core. -/
def coreServes (s : State) (c : Nat) : Bool :=
  let x := getCore s c
  x.state = 1 && !x.parking && x.func.phase = .enabled

/-- Cores that a tenant's work holds. -/
def tenantCores (s : State) (t : Nat) : List Nat :=
  (((allInsts s).filter fun p => onCore p.inst && p.loop.tenant = t).map instCores).flatten.eraseDups

/-- TEN_LIMITS.cores as it is in force (R118). -/
def coreLimit (s : State) (t : Nat) : Nat := tabGet s.sched.limits (bits (resetWord (aTen t 0x04)) 17 10) t

/-- The placement keeps the tenant within its limit, and a protected or in-place command within the
bound of R187. -/
def limitsOk (s : State) (q : Placed) (cores : List Nat) : Bool :=
  decide ((tenantCores s q.loop.tenant ++ cores).eraseDups.length ≤ coreLimit s q.loop.tenant)
  && (!(isProtected q || inPlace q.cmd.spec)
      || decide ((protectedCores s ++ cores).eraseDups.length + s.sched.reserve ≤ onlineCores s))

/-! ## Candidates and their ranking -/

/-- Bytes recorded resident on a core for a weight tag; forerunner mode looks at none (R180, R181). -/
def affinity (s : State) (tag c : Nat) : Nat :=
  if tag = 0 ∨ isForerunner s then 0
  else (((getCore s c).resident.filter fun r => r.1 = tag).map fun r => r.2.bytes).sum

def refDescs (s : State) (r : CmdRef) : Nat :=
  match findInst s r with | some p => p.inst.dma.jobs.length | none => 0

def descCount (s : State) (rs : List CmdRef) : Nat := (rs.map (refDescs s)).sum

/-- A set of instances may be killed for an LC command: with all that they take with them (R182). -/
def mayKill (s : State) (rs : List CmdRef) : Bool :=
  (spread s 256 rs).all fun r => match findInst s r with | some p => killable p | none => true

/-- The set of instances with the fewest outstanding descriptors. -/
def cheapest (s : State) (ks : List (List CmdRef)) : Option (List CmdRef) :=
  ks.foldl (fun (b : Option (List CmdRef)) k =>
    match b with
    | none => some k
    | some x => if descCount s k < descCount s x then some k else b) none

/-- What must be killed before an engine and regions of a core are free, with all that goes with it; none where no kill
can do it, or none is allowed. Of the engines of its kind, the one whose kills hold the fewest descriptors (R182). -/
def needOn (s : State) (lc : Bool) (c e : Nat) (rs : List Region) : Option (List CmdRef) :=
  let holders := (regionHolders s c rs).map fun p => p.ref
  let free := (freeSlot s c e).isSome
  if free ∧ holders = [] then some []
  else if !lc then none
  else
    let slots := if free then [[]] else ((List.range (engineSlots e)).filterMap (slotHolder s c e)).map fun p => [p.ref]
    cheapest s ((slots.map fun k => spread s 256 (k ++ holders).eraseDups).filter (mayKill s))

def optionAll {α : Type} : List (Option α) → Option (List α)
  | [] => some []
  | some a :: r => (optionAll r).map fun l => a :: l
  | none :: _ => none

/-- A way to place: cores in order, and what must be killed first. -/
structure Way where
  cores : List Nat
  kills : List CmdRef
  deriving DecidableEq, Repr

/-- The way of one list of cores for the instances of a command. -/
def wayOf (s : State) (q : Placed) (lc : Bool) (cores : List Nat) : Option Way :=
  match optionAll (cores.map fun c => needOn s lc c q.cmd.spec.engine q.cmd.spec.regions) with
  | none => none
  | some ks =>
    let kills := ks.flatten.eraseDups
    if kills = [] then if limitsOk s q cores then some { cores := cores, kills := [] } else none
    else if limitsOk (killInsts s kills kcPreempt) q cores then
      some { cores := cores, kills := kills }
    else none

/-- The best way: one that kills nothing before any other, then fewest descriptors, then most
resident bytes, then the first (R180, R182). -/
def bestWay (s : State) (tag : Nat) (ws : List Way) : Option Way :=
  let cost := fun w : Way => (if w.kills = [] then 0 else 1 + descCount s w.kills)
  let aff := fun w : Way => (w.cores.map (affinity s tag)).sum
  ws.foldl (fun (b : Option Way) w =>
    match b with
    | none => some w
    | some x => if cost w < cost x ∨ (cost w = cost x ∧ aff x < aff w) then some w else b) none

/-! ## Starting an instance -/

/-- What an urgent tick has done before it places: loops that an eviction has loaded, and the cores that the kills of a
residency eviction have freed, with the descriptors dropped there (R179, R184). A tick that may not kill has neither. -/
structure Urgent where
  kill   : Bool := false
  loaded : List Nat := []
  freed  : List (Nat × Nat) := []
  deriving DecidableEq, Repr

/-- Queue-pointer records that the switch to a loop's command writes. -/
def Urgent.records (u : Urgent) (id : Nat) : Nat := if u.loaded.elem id then 1 else 0

/-- Instances of a list that hold a core. -/
def killsOn (s : State) (ks : List CmdRef) (c : Nat) : List CmdRef :=
  ks.filter fun r => match findInst s r with | some p => (instCores p).elem c | none => false

/-- The switch on one core, once the given kills are made (R184); 0 where nothing is killed. -/
def switchOn (s : State) (u : Urgent) (id : Nat) (ks : List CmdRef) (c : Nat) : Nat :=
  let here := killsOn s ks c
  let freed := u.freed.filter fun x => x.1 = c
  if here = [] ∧ freed = [] then 0
  else switchNs (descCount s here + (freed.map fun x => x.2).sum) (u.records id)

/-- Time from eligibility to the engine, for SCH_LC_WORST (R204). -/
def noteLcWait (s : State) (q : Placed) (extra : Nat) : State :=
  if q.loop.lc ∧ q.inst.eligible ≠ 0 then
    let ns := (s.now + 1 - q.inst.eligible) * 5 / 2 + extra
    { s with sched := { s.sched with lcWorst := min 0xFFFF (max s.sched.lcWorst ns) } }
  else s

/-- A later command's region ends the records that it overlaps (R168). -/
def dropResident (s : State) (c : Nat) (rs : List Region) : State :=
  let x := getCore s c
  setCore s c { x with resident := x.resident.filter fun r =>
    !(rs.any fun q => overlap q.offset q.bytes r.2.offset r.2.bytes) }

/-- Slots of a halo ring or of a stream begin with their ready flag at 0 (R383; for halos DEDUCED, log entry 30, from
R27). -/
def clearFlags (s : State) (c addr n pitch : Nat) : State :=
  (List.range n).foldl (fun s k => padWrite s c (addr + k * pitch + 8) [0]) s

/-- What the start of an instance sets up besides its engine: credits (R294), slots, threads. -/
def beginRun (s : State) (q : Placed) : State :=
  let t := q.loop.tenant
  if q.cmd.spec.engine = 2 then
    let s := veBegin s q
    match streamProducer s t q.step q.ref.cmd with
    | some k =>
      match q.step.cmds[k]? with
      | some c =>
        let h := visHeadOf s t c.spec
        clearFlags s q.inst.core h.streamAddr h.slots (slotBytes h)
      | none => s
    | none => s
  else
    match haloProducer s t q.step q.ref.cmd with
    | some _ =>
      let b := stripeBlock (winProgram s t q.cmd.spec)
      let s := clearFlags s q.inst.core b.above b.slots (64 + b.rowBytes)
      let s := clearFlags s q.inst.core b.below b.slots (64 + b.rowBytes)
      modInst s q.ref fun i => { i with above := { credits := b.slots }, below := { credits := b.slots } }
    | none => s

/-- Before a step's first command starts, its info blocks are written (R198, R311, R324). -/
def firstStart (s : State) (q : Placed) : State :=
  if q.step.info then s
  else modHead (writeInfo s q.ref.loop q.loop q.step) q.ref.loop fun st => { st with info := true }

/-- An instance starts: its place and its trace record (trace point 2). -/
def startInst (s : State) (r : CmdRef) (f : Inst → Inst) (extra : Nat) : State :=
  match findInst s r with
  | none => s
  | some q =>
    let s := noteLcWait (firstStart s q) q extra
    let s := modInst s r fun i => { f i with phase := .running, since := s.now, eligible := 0, bound := none }
    match findInst s r with
    | none => s
    | some q =>
      let s := (instCores q).foldl (fun s c => dropResident s c (regionsOn q c)) s
      trace s 2 q.loop.tenant [r.loop, r.cmd + eventCore q * 65536, q.cmd.spec.engine]

/-- The programs are fetched, where a demand page faults as with any access (R151, log entry 23), and the first dispatch
checks them before any other access (R225, R231, R243, R381); only then do the runs of the instances begin. -/
def dispatch (s : State) (rs : List CmdRef) : State :=
  let s := rs.foldl fetchProgram s
  match rs.findSome? fun r => (findInst s r).filter fun q => isRun q.inst && q.step.failing.isNone with
  | none => s
  | some q =>
    rs.foldl (fun s r =>
      match findInst s r with
      | some q => if isRun q.inst && q.step.failing.isNone then beginRun s q else s
      | none => s) (firstDispatch s q)

/-- Instances start on the cores of a way, what stands there being killed first. -/
def startAll (s : State) (rs : List CmdRef) (w : Way) (e : Nat) (u : Urgent) : State :=
  let extras := (rs.zip w.cores).map fun rc => (rc.1, rc.2, switchOn s u rc.1.loop w.kills rc.2)
  let s := if w.kills = [] then s else killInsts s w.kills kcPreempt
  dispatch (extras.foldl (fun s rc =>
    startInst s rc.1 (fun i => { i with core := rc.2.1, slot := (freeSlot s rc.2.1 e).getD 0 }) rc.2.2) s) rs

/-! ## Placing a command -/

/-- One instance on any core, or on the core it is bound to. -/
def placeOne (s : State) (q : Placed) (only : Option Nat) (serves : Nat → Bool) (u : Urgent) : Option State :=
  let cands := ((match only with | some c => [c] | none => List.range 128).filter serves).filterMap fun c =>
    wayOf s q u.kill [c]
  (bestWay s q.cmd.spec.weightTag cands).map fun w => startAll s [q.ref] w q.cmd.spec.engine u

/-- The chain of S cores from a serpentine position. -/
def chainAt (n k : Nat) : List Nat := (upFrom k n).map serpCore

/-- A chain uses a link between two cores. -/
def usesLink (cores : List Nat) (link : Nat × Nat) : Bool :=
  (cores.zip (cores.drop 1)).any fun p => (min p.1 p.2, max p.1 p.2) = link

/-- All instances of a striped command, on a chain (R180, R284, R299). -/
def placeChain (s : State) (qs : List Placed) (u : Urgent) : Option State :=
  match qs with
  | [] => none
  | q :: _ =>
    let n := qs.length
    let chains := ((List.range (129 - n)).map (chainAt n)).filter fun cs =>
      cs.all (coreServes s) && (match q.cmd.avoid with | some l => !usesLink cs l | none => true)
    (bestWay s q.cmd.spec.weightTag (chains.filterMap (wayOf s q u.kill))).map fun w =>
      startAll s (qs.map fun p => p.ref) w q.cmd.spec.engine u

/-- Fold over instances that may each be placed or not. -/
def placeEach (f : State → Placed → Option State) : List Placed → State → Bool → Option State
  | [], s, done => if done then some s else none
  | q :: r, s, done =>
    match findInst s q.ref with
    | some p =>
      if isWaiting p.inst then
        match f s p with
        | some s => placeEach f r s true
        | none => placeEach f r s done
      else placeEach f r s done
    | none => placeEach f r s done

/-! ### Chip-level engines -/

/-- The lowest 64-byte boundary of a core with n bytes free beside given regions. -/
def lowestFree (held : List Region) (n : Nat) : Option Nat :=
  let cands := 0 :: held.map fun r => roundUp (r.offset + r.bytes) 64
  (cands.filter fun a => decide (a + n ≤ padBytes) && held.all fun r => !overlap a n r.offset r.bytes).min?

/-- Bytes of a tile's working set (R330). -/
def tileBytes : Nat := 49152

/-- Starts on a core at which a bin or tile region could lie: 0, and after every region that is held there. -/
def padStarts (s : State) (c : Nat) (more : List Region) : List Nat :=
  let held := (((allInsts s).filter fun p => onCore p.inst).map fun p => regionsOn p c).flatten
  (0 :: (held ++ more).map fun r => roundUp (r.offset + r.bytes) 64).eraseDups

/-- The places on a core at which bin and tile regions could lie once whatever is held there is gone. -/
def padChoices (s : State) (c bin : Nat) : List (List Region) :=
  let b := roundUp bin 64
  ((padStarts s c []).map fun a =>
    let first : Region := { offset := a, bytes := b }
    ((padStarts s c [first]).map fun x => [first, { offset := x, bytes := tileBytes }])).flatten.filter fun rs =>
      regionsApart rs && rs.all fun r => decide (r.offset + r.bytes ≤ padBytes)

/-- Bin and tile regions on a core, where they fit: each as low as it can, or else, where the bin region then leaves no room
for the other, at the first places that hold both (DESIGN CHOICE, log entry 26: R25 does not say where). -/
def rasterPads (s : State) (c bin : Nat) : Option (List Region) :=
  let held := (((allInsts s).filter fun p => onCore p.inst).map fun p => regionsOn p c).flatten
  let low := (lowestFree held (roundUp bin 64)).bind fun a =>
    let first : Region := { offset := a, bytes := roundUp bin 64 }
    (lowestFree (first :: held) tileBytes).map fun x => [first, { offset := x, bytes := tileBytes }]
  low <|> (padChoices s c bin).find? fun rs => (regionHolders s c rs).isEmpty

/-- The state after kills for an LC command, if there are any. -/
def afterKills (s : State) (ks : List CmdRef) : State := if ks = [] then s else killInsts s ks kcPreempt

/-- What must be killed before a core can take an owner's part of a raster command: its VE, and room for the bin and tile
regions (R182, R329). -/
def needOwner (s : State) (lc : Bool) (c bin : Nat) : Option (List CmdRef) :=
  match needOn s lc c 2 [] with
  | none => none
  | some ks =>
    if (rasterPads (afterKills s ks) c bin).isSome then some ks
    else if !lc then none
    else
      cheapest s (((padChoices s c bin).map fun rs =>
        spread s 256 (ks ++ (regionHolders s c rs).map fun p => p.ref).eraseDups).filter (mayKill s))

/-- The owners of a raster command, one after the other: each is the best core that R180 and R187 still allow beside those
already chosen (R329). -/
def pickOwners (s : State) (q : Placed) (ways : List Way) : Nat → List Way → Option (List Way)
  | 0, acc => some acc
  | k + 1, acc =>
    let with_ (w : Way) : List Way := acc ++ [w]
    match bestWay s q.cmd.spec.weightTag (ways.filter fun w => !acc.elem w
        && limitsOk (afterKills s ((with_ w).map fun x => x.kills).flatten.eraseDups) q ((with_ w).map fun x => x.cores).flatten) with
    | some w => pickOwners s q ways k (with_ w)
    | none => none

/-- What stands against a raster command before its start: what the fetch of its program or of its texture table meets, or
a check of R331. -/
def rasterStop (s : State) (q : Placed) : Option State :=
  let meets (x : Stop) : State :=
    match x with
    | .bad line => if inPlace q.cmd.spec || q.inst.eccLines.elem line then eccHbm s q line else countKill (eccHbm s q line) q kcEcc
    | _ => stopRun s q x
  let fails (e : Nat × Nat) : State := failStep s q.ref.loop e.1 e.2 q.ref.cmd
  (accessStop s q (programRead q)).map meets
    <|> (rasHeadFault s q).map fails
    <|> (firstStop s q (tableReads (rasHeadOf s q))).map meets
    <|> (texFault s q).map fails

/-- A raster command: the front end, and the VEs of n cores (R329). -/
def placeRaster (s : State) (q : Placed) (u : Urgent) : Option State :=
  match rasterStop s q with
  | some s => some s
  | none =>
    let h := rasHeadOf s q
    let front := ((allInsts s).filter fun p => isRun p.inst && p.cmd.spec.engine = 5).map fun p => p.ref
    if front ≠ [] ∧ !(u.kill && mayKill s front) then none
    else
      let s1 := afterKills s front
      let ways := ((List.range 128).filter (coreServes s1)).filterMap fun c =>
        (needOwner s1 u.kill c h.bin).map fun ks => ({ cores := [c], kills := ks } : Way)
      match pickOwners s1 q ways h.owners [] with
      | none => none
      | some pick =>
        let cores := (List.range 128).filter fun c => pick.any fun w => w.cores.elem c
        let kills := (pick.map fun w => w.kills).flatten.eraseDups
        let s2 := afterKills s1 kills
        let front := if front = [] then 0 else switchNs 0 (u.records q.ref.loop)
        let extra := (cores.map (switchOn s1 u q.ref.loop kills)).foldl max front
        let pads := (cores.map fun c => ((rasterPads s2 c h.bin).getD []).map fun r => (c, r)).flatten
        let s3 := startInst s2 q.ref (fun i => { i with cores := cores, pads := pads }) extra
        some (modCmd s3 q.ref.loop q.ref.cmd fun c => { c with checked := true })

/-- A vision command: the lowest-numbered free unit of its kind that is enabled (R180, R364). -/
def placeVision (s : State) (q : Placed) (u : Urgent) : Option State :=
  let units := (if q.cmd.spec.engine = 7 then [0, 1] else [2, 3]).filter fun u => (getUnit s u).phase = .enabled
  let holder := fun u => (allInsts s).find? fun p =>
    isRun p.inst && (p.cmd.spec.engine = 6 || p.cmd.spec.engine = 7) && p.inst.slot = u
  let go := fun (s : State) n extra => dispatch (startInst s q.ref (fun i => { i with slot := n }) extra) [q.ref]
  match units.find? fun n => (holder n).isNone with
  | some n => some (go s n 0)
  | none =>
    if u.kill then
      match units.find? fun n => match holder n with | some p => mayKill s [p.ref] | none => false with
      | some n =>
        match holder n with
        | some p => some (go (killInsts s [p.ref] kcPreempt) n (switchNs 0 (u.records q.ref.loop)))
        | none => none
      | none => none
    else none

/-- A stripe instance that reruns: on the core it had; where that core has left service, an instance of a pair waits for
its new chain, and any other takes any core (R188, R299). -/
def placeAgain (s : State) (q : Placed) (u : Urgent) : Option State :=
  match q.inst.bound with
  | none => placeOne s q none (coreServes s) u
  | some c =>
    if (getCore s c).state = 1 then placeOne s q (some c) (coreServes s) u
    else if inPair s q then none
    else placeOne s q none (coreServes s) u

/-- A consumer instance of a pair: on the core of its producer instance (R290). -/
def placeConsumer (s : State) (pk : Nat) (q : Placed) (u : Urgent) : Option State :=
  match findInst s { q.ref with cmd := pk } with
  | some f => if onCore f.inst then placeOne s q (some f.inst.core) (fun c => (getCore s c).state = 1) u else none
  | none => none

/-- Place what can be placed of one command; none where nothing can. A striped command takes a whole chain at once, or,
where it has one, its instances return to it (R284, R299). -/
def placeCmd (s : State) (id k : Nat) (u : Urgent) : Option State :=
  match getLoop s id with
  | none => none
  | some l =>
    if l.resident.isNone ∨ 3 ≤ s.pwr.level then none
    else
      match l.queue with
      | [] => none
      | st :: _ =>
        let all := (stepInsts id l st).filter fun p => p.ref.cmd = k
        let ws := all.filter fun p => isWaiting p.inst
        if !cmdEligible s l st k then none
        else
          match ws with
          | [] => none
          | q :: _ =>
            if fetchWaits s q then none
            else if q.cmd.spec.engine = 5 then placeRaster s q u
            else if q.cmd.spec.engine = 6 ∨ q.cmd.spec.engine = 7 then placeVision s q u
            else
              match haloProducer s l.tenant st k with
              | some pk => placeEach (fun s p => placeConsumer s pk p u) ws s false
              | none =>
                if 1 < all.length ∧ all.all fun p => isUnplaced p.inst && p.inst.bound.isNone then
                  if ws.length = all.length then placeChain s ws u else none
                else placeEach (fun s p => placeAgain s p u) ws s false

/-! ## LC placement (R174) -/

/-- A command to place, with what orders it. -/
structure Turn where
  deadline : Option Frac
  tenant   : Nat
  loop     : Nat
  cmd      : Nat
  deriving DecidableEq, Repr

def turnBefore (a b : Turn) : Bool :=
  let ids := decide (a.tenant < b.tenant) || (a.tenant = b.tenant && (decide (a.loop < b.loop)
    || (a.loop = b.loop && decide (a.cmd < b.cmd))))
  match a.deadline, b.deadline with
  | some x, some y => if frLt x y then true else if frLt y x then false else ids
  | some _, none => true
  | none, some _ => false
  | none, none => ids

def insertTurn (t : Turn) : List Turn → List Turn
  | [] => [t]
  | a :: r => if turnBefore t a then t :: a :: r else a :: insertTurn t r

/-- Eligible commands treated as LC, in the order of R174. A deadline in another time base counts from
its own base's present. -/
def lcTurns (s : State) : List Turn :=
  let ps := ((residentLoops s).map fun p => placeable s p.1 p.2).flatten.filter asLc
  let ts := (ps.map fun p => (
    { deadline := p.step.deadline.map fun d => frSub d.2 (getBase s d.1).t, tenant := p.loop.tenant,
      loop := p.ref.loop, cmd := p.ref.cmd } : Turn)).eraseDups
  ts.foldr insertTurn []

/-- Place LC commands in order. -/
def lcPass (s : State) (u : Urgent) : State := (lcTurns s).foldl (fun s t => (placeCmd s t.loop t.cmd u).getD s) s

/-! ## Loading loops (R178, R179) -/

/-- Waiting loops in loop-id order after the last one loaded, LC loops first. -/
def waitingLoops (s : State) : List (Nat × Loop) :=
  let ws := s.sched.loops.filter fun p => p.2.waiting
  let turn := (ws.filter fun p => decide (s.sched.lastLoaded < p.1)) ++ ws.filter fun p => decide (p.1 ≤ s.sched.lastLoaded)
  turn.filter (fun p => p.2.lc) ++ turn.filter fun p => !p.2.lc

/-- At a tick, waiting loops are loaded while a slot is free or a resident loop is blocked. -/
def loadWaiting : Nat → State → State
  | 0, s => s
  | k + 1, s =>
    match waitingLoops s with
    | [] => s
    | p :: _ =>
      if (residentLoops s).length < slots then loadWaiting k (loadLoop s p.1)
      else
        match blockedLongest s with
        | some b => loadWaiting k (replaceLoop s b p.1 0)
        | none => s

/-- Running instances of a loop's step. -/
def loopRuns (s : State) (id : Nat) : List Placed :=
  (allInsts s).filter fun p => p.ref.loop = id && onCore p.inst

/-- The resident best-effort loop that an LC loop may evict: resident longest, nothing protected or in
place running (R179). A command raised under R176 is spared from pre-emption alone. Of loops resident equally long it is
the one of the lower id (DESIGN CHOICE, log entry 26). -/
def evictable (s : State) : Option Nat :=
  ((residentLoops s).filter fun p => !p.2.lc
      && (loopRuns s p.1).all fun q => !isProtected q && !inPlace q.cmd.spec).foldl
    (fun (b : Option (Nat × Nat)) p =>
      let since := p.2.resident.getD 0
      match b with
      | none => some (since, p.1)
      | some x => if since < x.1 then some (since, p.1) else b) none |>.map fun x => x.2

/-- An urgent tick loads a waiting LC loop, evicting at most one loop; the loop whose running commands die for it. -/
def urgentLoad (s : State) : State × Option Nat :=
  match (waitingLoops s).filter fun p => p.2.lc with
  | [] => (s, none)
  | p :: _ =>
    if (residentLoops s).length < slots then (loadLoop s p.1, none)
    else
      match blockedLongest s with
      | some b => (replaceLoop s b p.1 1, none)
      | none =>
        match evictable s with
        | some b => (replaceLoop s b p.1 1, some b)
        | none => (s, none)

/-- The commands of an evicted loop that pre-emption has not killed die with cause 3, and the cores that they leave go to
LC commands that still wait (R179, R204). -/
def evictPass (s : State) (b : Nat) (loaded : List Nat) : State :=
  let qs := loopRuns s b
  let freed := (qs.map fun q => (instCores q).map fun c => (c, refDescs s q.ref)).flatten
  lcPass (killInsts s (qs.map fun q => q.ref) kcEvict) { kill := true, loaded := loaded, freed := freed }

/-- URGENT_TICK (R175, R179, R182): only LC commands, and the pre-emption they need. -/
def onUrgentTick (s : State) : State :=
  if !isRunning s then s
  else
    let x := urgentLoad (refresh s)
    let loaded := x.1.sched.evicted
    let s := lcPass x.1 { kill := true, loaded := loaded }
    let s := match x.2 with | some b => evictPass s b loaded | none => s
    refresh { s with sched := { s.sched with evicted := [] } }

def execUrgentTick (s : State) : Out := .next (onUrgentTick s)

/-! ## The scheduling tick (R175, R188, R189) -/

/-- Cores in ADMITTING become ONLINE, or PARKED at level 3. -/
def admitCores (s : State) : State :=
  (tabKeys s.sched.cores).foldl (fun s c =>
    if (getCore s c).state = 5 then setCoreState s c (if 3 ≤ s.pwr.level then 2 else 1) else s) s

/-- What a lowered limit kills first: best-effort work, then LC work with the latest deadlines; among
the best-effort work the order is that of loops and commands (DESIGN CHOICE, log entry 26; R188 names none). -/
def limitVictims (s : State) (t : Nat) : List Placed :=
  let ps := (allInsts s).filter fun p =>
    onCore p.inst && p.loop.tenant = t && instCores p ≠ [] && mayMove s p
  let be := ps.filter fun p => !p.loop.lc
  let turns := ((ps.filter fun p => p.loop.lc).map fun p => (
    { deadline := p.step.deadline.map fun d => frSub d.2 (getBase s d.1).t, tenant := t,
      loop := p.ref.loop, cmd := p.ref.cmd } : Turn)).eraseDups.foldr insertTurn []
  let lc := (turns.reverse.map fun x => ps.filter fun p => p.ref.loop = x.loop && p.ref.cmd = x.cmd).flatten
  be ++ lc

def enforceLimit (t : Nat) : Nat → State → State
  | 0, s => s
  | k + 1, s =>
    if (tenantCores s t).length ≤ coreLimit s t then s
    else
      match limitVictims s t with
      | [] => s
      | q :: _ => enforceLimit t k (leaveCore s q kcLimit)

/-- Deferred changes of the limits and of the reserve take effect (R118, R201). -/
def applyLimits (s : State) : State :=
  let s := (List.range 16).foldl (fun (s : State) t =>
    { s with sched := { s.sched with limits := tabSet s.sched.limits t (rField s (aTen t 0x04) 17 10) } }) s
  let s := { s with sched := { s.sched with reserve := rField s aReserve 6 0 } }
  (List.range 16).foldl (fun s t => enforceLimit t (allInsts s).length s) s

/-- A pair bound to a core that left service is killed, to rerun whole on a new chain (R299). -/
def moveBound (s : State) : State :=
  (allInsts s).foldl (fun s p =>
    match findInst s p.ref with
    | some q =>
      match q.inst.bound with
      | some c => if isWaiting q.inst && (getCore s c).state ≠ 1 && inPair s q then rechain s q kcPark else s
      | none => s
    | none => s) s

/-- Numbers of a list after a given one, then the rest: round-robin order. -/
def rotate (last : Nat) (l : List Nat) : List Nat :=
  (l.filter fun x => decide (last < x)) ++ l.filter fun x => decide (x ≤ last)

/-- The first command of a loop that can be placed. -/
def placeLoop (s : State) (id : Nat) : Option State :=
  match getLoop s id with
  | none => none
  | some l =>
    ((placeable s id l).filter fun p => !asLc p).map (fun p => p.ref.cmd) |>.eraseDups |>.findSome? fun k =>
      placeCmd s id k {}

/-- One turn of the best-effort round robin: tenants, then a tenant's resident loops. -/
def beTurn (s : State) : Option State :=
  let be := (residentLoops s).filter fun p => !p.2.lc
  (rotate s.sched.lastTenant ((List.range 16).filter fun t => be.any fun p => p.2.tenant = t)).findSome? fun t =>
    let ids := (be.filter fun p => p.2.tenant = t).map fun p => p.1
    (rotate (tabGet s.sched.lastLoop 0 t) ids).findSome? fun id =>
      (placeLoop s id).map fun s =>
        { s with sched := { s.sched with lastTenant := t, lastLoop := tabSet s.sched.lastLoop t id } }

def bePass : Nat → State → State
  | 0, s => s
  | k + 1, s =>
    match beTurn s with
    | some s => bePass k s
    | none => s

/-- SCHEDULER_TICK: every 10 µs of time base 0. -/
def onSchedulerTick (s : State) : State :=
  let t := tbNs s 0
  if !isRunning s || decide (t < s.sched.nextTick) then s
  else
    let s := { s with sched := { s.sched with nextTick := (t / 10000 + 1) * 10000 } }
    let s := moveBound (applyLimits (admitCores s))
    let s := refresh s
    let s := loadWaiting s.sched.loops.length s
    let s := lcPass s {}
    let s := bePass (allInsts s).length s
    settleFuncs (refresh { s with sched := { s.sched with evicted := [] } })

def execSchedulerTick (s : State) : Out := .next (onSchedulerTick s)

end Sys2Proof.Machine
end

