-- ==== Sys2Proof/Machine/Commit.lean ====
section
/-! DEFINITION. Machine/Commit.lean: how a run ends, how commands and steps commit (R148, R167, R168,
R171, R172, R283, R291, R384), and how a failed step ends (R150). -/

namespace Sys2Proof.Machine

open Sys2Proof

/-! ## The end of a run -/

/-- The work of a vector command's last instance: its dispatch-wide results (R519 to R521). -/
def veWork (s : State) (q : Placed) : Work :=
  let last := q.cmd.insts.zipIdx.all fun ik => ik.2 = q.ref.inst || isFinished ik.1
  let ws := if last then reduceStores s (veHeadOf s q) q.step.level q.cmd.parts (q.cmd.insts.map fun i => i.ve) else []
  { hbm := ws.map fun w => { va := w.1, n := w.2.length, write := true }, stores := ws }

/-- A vision producer that streams ends once every band is out. -/
def bandsDone (s : State) (q : Placed) : Bool :=
  let h := visHeadOf s q.loop.tenant q.cmd.spec
  !h.streams || decide ((bands h).length ≤ q.inst.strm.bands)

/-- An engine has done all that the run needs before its writes are acknowledged. -/
def runReady (s : State) (q : Placed) : Bool :=
  match q.cmd.spec.engine with
  | 0 => winDone s q && haloDone s q
  | 1 => true
  | 2 => veDone s q && q.inst.dma.jobs = []
  | 3 => winDone s q && haloDone s q
  | 4 => decide (dmaCount s q.loop.tenant q.cmd.spec ≤ q.inst.dma.done.length) && q.inst.dma.jobs = []
  | 5 => q.inst.ras.ended
  | _ => bandsDone s q

/-- The engine of an instance is done; nothing waits for it any more as for a running one (R297). -/
def setFinished (s : State) (r : CmdRef) (f : Inst → Inst) : State :=
  let s := match findInst s r with | some q => haltWaits s q | none => s
  modInst s r fun i => { f i with phase := .finished }

/-- The run does its work and ends: everything it writes has been acknowledged. -/
def finishRun (s : State) (q : Placed) (k : State → State) : State :=
  match q.cmd.spec.engine with
  | 1 => runWork s q (meWork s q) fun s => k (setFinished s q.ref id)
  | 2 => runWork s q (veWork s q) fun s => k (draw (setFinished s q.ref id))
  | 4 => k (setFinished s q.ref id)
  | 5 =>
    let w := rasWork s q
    runWork s q w.1 fun s => k (setFinished s q.ref fun i => { i with ras := { i.ras with
      written := w.2.1, skipped := w.2.2 } })
  | 6 =>
    let w := visWork s q
    runWork s q w.1 fun s => k (setFinished s q.ref fun i => { i with strm := { i.strm with
      refined := w.2.1, marked := w.2.2 } })
  | 7 =>
    let w := visWork s q
    runWork s q w.1 fun s => k (setFinished s q.ref fun i => { i with strm := { i.strm with
      refined := w.2.1, marked := w.2.2 } })
  | _ => k (setFinished s q.ref id)

/-! ## Commands commit -/

/-- The producers of a chain of halo pairs that ends in a command. -/
def haloChain (s : State) (t : Nat) (st : Step) : Nat → Nat → List Nat
  | 0, _ => []
  | n + 1, k =>
    match haloProducer s t st k with
    | some p => p :: haloChain s t st n p
    | none => []

/-- Every instance has finished, what it streams or passes to has committed, and what streams or passes to it, along a
whole chain of pairs, has finished (R148, R291, R384). -/
def mayCommit (s : State) (t : Nat) (st : Step) (k : Nat) : Bool :=
  match st.cmds[k]? with
  | none => false
  | some c =>
    let done := fun (j : Nat) => match st.cmds[j]? with | some x => cmdDone x | none => true
    let ended := fun (j : Nat) => match st.cmds[j]? with | some x => x.insts.all fun i => isFinished i || isDone i | none => true
    c.insts.all isFinished
    && (match haloConsumer s t st k with | some j => done j | none => true)
    && (match streamConsumer s t c.spec with | some j => done j | none => true)
    && (match streamProducer s t st k with | some j => ended j | none => true)
    && (haloChain s t st 256 k).all ended

/-- Counters of the tenant that a commit moves (R283, R349, R389). -/
def countCommit (s : State) (t : Nat) (is : List Inst) : State :=
  let sum := fun (f : Inst → Nat) => (is.map f).sum
  modTen s t fun x => { x with
    exact := satAdd x.exact (sum fun i => i.dma.exact) cap32,
    lossy := satAdd x.lossy (sum fun i => i.dma.lossy) cap32,
    rasWritten := satAdd x.rasWritten (sum fun i => i.ras.written) cap32,
    rasSkipped := satAdd x.rasSkipped (sum fun i => i.ras.skipped) cap32,
    visRefined := satAdd x.visRefined (sum fun i => i.strm.refined) cap32,
    visMarked := satAdd x.visMarked (sum fun i => i.strm.marked) cap32 }

/-- The bytes of a command with a weight tag are resident on its core from its commit (R168). -/
def recordResident (s : State) (tag : Nat) (rs : List Region) (is : List Inst) : State :=
  if tag = 0 then s
  else is.foldl (fun s i =>
    if i.core = 0xFF then s
    else setCore s i.core { getCore s i.core with
      resident := (getCore s i.core).resident ++ rs.map fun r => (tag, r) }) s

/-- A core or vision unit that is being disabled counts a command that finished on it (R191). -/
def countFinished (s : State) (c : CmdRec) (is : List Inst) : State :=
  let up := fun (f : Func) => if leaving f then { f with finished := f.finished + 1 } else f
  if c.engine = 6 ∨ c.engine = 7 then
    is.foldl (fun s i => setUnit s i.slot (up (getUnit s i.slot))) s
  else
    ((is.map fun i => if c.engine = 5 then i.cores else [i.core]).flatten.eraseDups).foldl (fun s k =>
      let x := getCore s k
      if leaving x.func then setCore s k { x with func := up x.func } else s) s

def commitCmd (s : State) (id t k : Nat) (c : Cmd) : State :=
  let s := countFinished (recordResident (countCommit s t c.insts) c.spec.weightTag c.spec.regions c.insts) c.spec c.insts
  modCmd s id k fun x => { x with insts := x.insts.map fun i => deadInst i .committed }

/-- Commit every command of the head step that may, a consumer's commit bringing its producer's. -/
def commitCmds (id : Nat) : Nat → State → State
  | 0, s => s
  | n + 1, s =>
    match getLoop s id with
    | none => s
    | some l =>
      match l.queue with
      | [] => s
      | st :: _ =>
        match (List.range st.cmds.length).find? (mayCommit s l.tenant st) with
        | none => s
        | some k =>
          match st.cmds[k]? with
          | some c => commitCmds id n (commitCmd s id l.tenant k c)
          | none => s

/-! ## Steps commit -/

/-- The step committed after its deadline; a tenant without a session misses none (R122, R172). -/
def missed (s : State) (t : Nat) (st : Step) : Bool :=
  match st.deadline with
  | some d => frLt d.2 (getBase s d.1).t && (getTen s t).state ≠ .orphaned && (getTen s t).state ≠ .fallback
  | none => false

/-- A step whose commands have all committed commits: its buffers go to the displays, its capture
starts or its verdict is read, its sequences move on, and its completion goes (R148, R171, R197). -/
def commitStep (s : State) (id : Nat) : State :=
  match getLoop s id with
  | none => s
  | some l =>
    match l.queue with
    | [] => s
    | st :: _ =>
      if st.failing.isSome ∨ !st.cmds.all cmdDone then s
      else
        let status := if missed s l.tenant st then stDeadlineMissed else stOk
        let s := presentCommit s id l st
        let s := fgCommit s id l st
        let s := commitSeqs s id l st
        formStep (popStep s id status 0 0xFFFF true) id

/-- COMMAND_COMMIT: an engine has finished an instance and every write it issued has been
acknowledged. -/
def onCommandCommit (ref : CmdRef) (s : State) : State :=
  if !isRunning s then s
  else
    let s := pumpRun s ref
    match findInst s ref with
    | none => s
    | some q =>
      if !isRun q.inst || !runReady s q then s
      else finishRun s q fun s => wallReady (settleFuncs (refresh (commitStep (commitCmds ref.loop 512 s) ref.loop)))

def execCommandCommit (ref : CmdRef) (s : State) : Out := .next (onCommandCommit ref s)

/-! ## The end of a failed step (R150) -/

/-- ZERO_FILL_DONE: once every write of a failed step has settled, its write sets are zeros, they are
released, and its completion goes. -/
def onZeroFillDone (id : Nat) (s : State) : State :=
  match getLoop s id with
  | none => s
  | some l =>
    match l.queue with
    | [] => s
    | st :: _ =>
      match st.failing with
      | none => s
      | some f =>
        if !isRunning s || (stepInsts id l st).any fun p => p.inst.wasOn ≠ [] then s
        else
          let s := fgFail (zeroStep s l.tenant st) id st
          let s := failSeqs s id l st f.status f.detail
          let s := formStep (popStep s id f.status f.detail f.cmd false) id
          settleFuncs (refresh s)

def execZeroFillDone (loop : Nat) (s : State) : Out := .next (onZeroFillDone loop s)

end Sys2Proof.Machine
end

