-- ==== Sys2Proof/Machine/Jpeg.lean ====
section
/-! DEFINITION. Machine/Jpeg.lean: the JPEG subset of R428 and its arithmetic (R429). The manual
names ISO/IEC 10918-1 for the bit stream; what it does not print is PRESUMED from that standard (log entry 39). -/

namespace Sys2Proof.Machine

/-- A decoded image: its samples by channel, row and column, each a code of `depth` bits. -/
structure Picture where
  width    : Nat
  height   : Nat
  channels : Nat
  depth    : Nat
  alpha    : Bool           -- the last channel is alpha
  samples  : Array Nat
  deriving DecidableEq, Repr

def Picture.at_ (m : Picture) (c y x : Nat) : Nat := m.samples.getD ((c * m.height + y) * m.width + x) 0

/-- Big-endian 16-bit value at an offset. -/
def be16 (l : List Byte) (off : Nat) : Nat := 256 * leAt l off 1 + leAt l (off + 1) 1

/-! ## Markers -/

/-- A marker segment, or a scan with its entropy-coded data cut at the restart markers. -/
inductive JItem where
  | seg (marker : Nat) (body : List Byte)
  | scan (body : List Byte) (parts : List (List Byte))
  deriving DecidableEq, Repr

/-- The entropy-coded data up to the next marker, stuffing removed: its parts between restart markers
in their order of eight, and the rest; none where a restart marker is out of order. -/
def entropyParts : Nat → List Byte → List Byte → Nat → List (List Byte) → Option (List (List Byte) × List Byte)
  | 0, _, _, _, _ => none
  | k + 1, l, acc, rst, parts =>
    match l with
    | [] => some ((acc.reverse :: parts).reverse, [])
    | b :: r =>
      if b ≠ 0xFF then entropyParts k r (b :: acc) rst parts
      else
        match r with
        | [] => some ((acc.reverse :: parts).reverse, [])
        | m :: r2 =>
          if m = 0 then entropyParts k r2 (0xFF :: acc) rst parts
          else if m = 0xFF then entropyParts k r acc rst parts
          else if 0xD0 ≤ m.toNat ∧ m.toNat ≤ 0xD7 then
            if m.toNat = 0xD0 + rst % 8 then entropyParts k r2 [] (rst + 1) (acc.reverse :: parts) else none
          else some ((acc.reverse :: parts).reverse, b :: r)

/-- The marker segments of a stream after its start marker, and whether the stream is well formed up
to its end marker. -/
def jpegItems : Nat → List Byte → List JItem × Bool
  | 0, _ => ([], false)
  | k + 1, l =>
    match l with
    | f :: m :: r =>
      if f ≠ 0xFF then ([], false)
      else if m = 0xFF then jpegItems k (m :: r)
      else if m = 0xD9 then ([], true)
      else if m = 0x01 then jpegItems k r
      else if 0xD0 ≤ m.toNat ∧ m.toNat ≤ 0xD8 ∨ m = 0 then ([], false)
      else
        let n := be16 r 0
        if n < 2 ∨ r.length < n then ([], false)
        else
          let body := (r.take n).drop 2
          if m = 0xDA then
            match entropyParts (r.length + 1) (r.drop n) [] 0 [] with
            | none => ([], false)
            | some (parts, rest) =>
              let x := jpegItems k rest
              (.scan body parts :: x.1, x.2)
          else
            let x := jpegItems k (r.drop n)
            (.seg m.toNat body :: x.1, x.2)
    | _ => ([], false)

def jpegStream (l : List Byte) : List JItem × Bool :=
  match l with
  | a :: b :: r => if a = 0xFF ∧ b = 0xD8 then jpegItems (l.length + 1) r else ([], false)
  | _ => ([], false)

/-! ## The frame header -/

structure JComp where
  id : Nat
  h  : Nat
  v  : Nat
  tq : Nat
  deriving DecidableEq, Repr

structure JFrame where
  progressive : Bool
  width  : Nat
  height : Nat
  comps  : List JComp
  deriving DecidableEq, Repr

def isSof (m : Nat) : Bool := decide (0xC0 ≤ m) && decide (m ≤ 0xCF) && m ≠ 0xC4 && m ≠ 0xC8 && m ≠ 0xCC

/-- Marker and body of the first frame header. -/
def firstSof : List JItem → Option (Nat × List Byte)
  | [] => none
  | .seg m b :: r => if isSof m then some (m, b) else firstSof r
  | .scan _ _ :: r => firstSof r

def lumaOk (h v : Nat) : Bool := (h = 1 && v = 1) || (h = 2 && v = 1) || (h = 2 && v = 2)

def jpegComps (b : List Byte) (n : Nat) : List JComp :=
  (List.range n).map fun i =>
    { id := leAt b (6 + 3 * i) 1, h := bits (leAt b (7 + 3 * i) 1) 7 4, v := bits (leAt b (7 + 3 * i) 1) 3 0,
      tq := leAt b (8 + 3 * i) 1 }

def factorsOk (cs : List JComp) : Bool :=
  match cs with
  | [y] => lumaOk y.h y.v
  | [y, cb, cr] => lumaOk y.h y.v && cb.h = 1 && cb.v = 1 && cr.h = 1 && cr.v = 1
  | _ => false

/-- A component that stands alone is coded block by block, whatever its factors. -/
def normComps (cs : List JComp) : List JComp :=
  match cs with
  | [y] => [{ y with h := 1, v := 1 }]
  | _ => cs

/-- A segment that only a process outside the subset uses: arithmetic conditioning, DNL, hierarchical. -/
def outsideSubset : JItem → Bool
  | .seg m _ => m = 0xCC || m = 0xDC || m = 0xDE || m = 0xDF
  | .scan _ _ => false

/-- The frame header, where the stream lies within the subset. -/
def jpegFrame (items : List JItem) : Option JFrame :=
  match firstSof items with
  | none => none
  | some (m, b) =>
    let n := leAt b 5 1
    let f : JFrame := { progressive := m = 0xC2, width := be16 b 3, height := be16 b 1, comps := normComps (jpegComps b n) }
    if (m = 0xC0 || m = 0xC2) && leAt b 0 1 = 8 && b.length = 6 + 3 * n && f.width ≠ 0 && f.height ≠ 0
       && factorsOk (jpegComps b n) && !items.any outsideSubset then some f else none

/-- Width and height that the frame header declares, 0 and 0 where there is none. -/
def jpegSize (items : List JItem) : Nat × Nat :=
  match firstSof items with
  | some (_, b) => (be16 b 3, be16 b 1)
  | none => (0, 0)

def JFrame.hmax (f : JFrame) : Nat := (f.comps.map fun c => c.h).foldl max 1
def JFrame.vmax (f : JFrame) : Nat := (f.comps.map fun c => c.v).foldl max 1
def JFrame.mcuX (f : JFrame) : Nat := ceilDiv f.width (8 * f.hmax)
def JFrame.mcuY (f : JFrame) : Nat := ceilDiv f.height (8 * f.vmax)
/-- Blocks of a component per row and in all, counted in whole MCUs. -/
def JFrame.blocksX (f : JFrame) (c : JComp) : Nat := f.mcuX * c.h
def JFrame.blocks (f : JFrame) (c : JComp) : Nat := f.mcuX * c.h * (f.mcuY * c.v)

/-- Work need of check 8 of R425. -/
def JFrame.work (f : JFrame) : Nat :=
  if f.progressive then 2 * 64 * (f.comps.map f.blocks).sum else 0

/-! ## Tables -/

/-- A Huffman table: codes of each length 1 to 16, and the values in order of code. -/
structure Huff where
  counts : List Nat
  vals   : List Nat
  deriving DecidableEq, Repr

structure JTables where
  quant   : Tab (List Nat) := []
  dc      : Tab Huff := []
  ac      : Tab Huff := []
  restart : Nat := 0
  deriving DecidableEq, Repr

/-- The codes of each length fit: none overflows, and the code of all ones stays free at every length. -/
def huffOk : List Nat → Nat → Bool
  | [], _ => true
  | n :: r, free => decide (n < 2 * free) && huffOk r (2 * free - n)

def readHuff : Nat → List Byte → JTables → Option JTables
  | 0, _, _ => none
  | k + 1, l, t =>
    if l = [] then some t
    else
      let tc := bits (leAt l 0 1) 7 4
      let th := bits (leAt l 0 1) 3 0
      let counts := (List.range 16).map fun i => leAt l (1 + i) 1
      let n := counts.sum
      let h : Huff := { counts := counts, vals := ((l.drop 17).take n).map fun b => b.toNat }
      if l.length < 17 + n ∨ 1 < tc ∨ 3 < th ∨ 256 < n ∨ !huffOk counts 1 then none
      else readHuff k (l.drop (17 + n))
        (if tc = 0 then { t with dc := tabSet t.dc th h } else { t with ac := tabSet t.ac th h })

def readQuant : Nat → List Byte → JTables → Option JTables
  | 0, _, _ => none
  | k + 1, l, t =>
    if l = [] then some t
    else
      let id := leAt l 0 1
      let q := ((l.drop 1).take 64).map fun b => b.toNat
      if l.length < 65 ∨ 3 < id ∨ q.elem 0 then none
      else readQuant k (l.drop 65) { t with quant := tabSet t.quant id q }

/-! ## Bits -/

structure BitSrc where
  rest : List Byte
  cur  : Nat := 0
  left : Nat := 0
  deriving DecidableEq, Repr

def BitSrc.bit1 (b : BitSrc) : Option (Nat × BitSrc) :=
  match b.left with
  | n + 1 => some (b.cur / 2 ^ n % 2, { b with left := n })
  | 0 =>
    match b.rest with
    | [] => none
    | x :: r => some (x.toNat / 128, { rest := r, cur := x.toNat, left := 7 })

def BitSrc.bitsN : Nat → Nat → BitSrc → Option (Nat × BitSrc)
  | 0, v, b => some (v, b)
  | n + 1, v, b =>
    match b.bit1 with
    | none => none
    | some (x, b) => BitSrc.bitsN n (2 * v + x) b

/-- The index of the code that stands next. -/
def huffIndex : List Nat → Nat → Nat → Nat → BitSrc → Option (Nat × BitSrc)
  | [], _, _, _, _ => none
  | n :: r, code, first, index, b =>
    match b.bit1 with
    | none => none
    | some (x, b) =>
      let code := 2 * code + x
      if code < first + n then some (index + (code - first), b)
      else huffIndex r code (2 * (first + n)) (index + n) b

def Huff.next (h : Huff) (b : BitSrc) : Option (Nat × BitSrc) :=
  match huffIndex h.counts 0 0 0 b with
  | none => none
  | some (i, b) => some (h.vals.getD i 0, b)

/-- A value of s additional bits. -/
def extendBits (s v : Nat) : Int := if s = 0 then 0 else if v < 2 ^ (s - 1) then (v : Int) - (2 ^ s - 1 : Nat) else v

def BitSrc.signed (b : BitSrc) (s : Nat) : Option (Int × BitSrc) :=
  match BitSrc.bitsN s 0 b with
  | none => none
  | some (v, b) => some (extendBits s v, b)

/-! ## Blocks -/

def zigzag : List Nat :=
  [0, 1, 8, 16, 9, 2, 3, 10] ++ [17, 24, 32, 25, 18, 11, 4, 5] ++ [12, 19, 26, 33, 40, 48, 41, 34]
  ++ [27, 20, 13, 6, 7, 14, 21, 28] ++ [35, 42, 49, 56, 57, 50, 43, 36] ++ [29, 22, 15, 23, 30, 37, 44, 51]
  ++ [58, 59, 52, 45, 38, 31, 39, 46] ++ [53, 60, 61, 54, 47, 55, 62, 63]

def zz (k : Nat) : Nat := zigzag.getD k 0

/-- Where a scan stands: bits left, predictions, the end-of-band run, coefficients by component. -/
structure JScan where
  src  : BitSrc
  pred : Tab Int := []
  run  : Nat := 0
  coef : Tab (Array Int)
  deriving DecidableEq, Repr

def JScan.get (x : JScan) (c i : Nat) : Int := (tabGet x.coef #[] c).getD i 0
def JScan.put (x : JScan) (c i : Nat) (v : Int) : JScan :=
  { x with coef := tabSet x.coef c ((tabGet x.coef #[] c).setIfInBounds i v) }

/-- Parameters of a scan: spectral selection and successive approximation. -/
structure JPar where
  ss : Nat
  se : Nat
  ah : Nat
  al : Nat
  deriving DecidableEq, Repr

/-- The DC coefficient of a block, first pass. -/
def dcFirst (t : Huff) (p : JPar) (c base : Nat) (x : JScan) : Option JScan :=
  match t.next x.src with
  | none => none
  | some (n, b) =>
    if 11 < n then none
    else
      match b.signed n with
      | none => none
      | some (d, b) =>
        let v := tabGet x.pred 0 c + d
        some ({ x with src := b, pred := tabSet x.pred c v }.put c base (v * (2 ^ p.al : Nat)))

def dcRefine (p : JPar) (c base : Nat) (x : JScan) : Option JScan :=
  match x.src.bit1 with
  | none => none
  | some (v, b) => some ({ x with src := b }.put c base (x.get c base + (v * 2 ^ p.al : Nat)))

/-- The AC coefficients of a block from index k on, sequential or first pass: no run passes the end of the band, and at 8 bits
a coefficient has at most 10 bits. -/
def acFirst (t : Huff) (p : JPar) (c base : Nat) : Nat → Nat → JScan → Option JScan
  | 0, _, x => some x
  | f + 1, k, x =>
    if p.se < k then some x
    else
      match t.next x.src with
      | none => none
      | some (rs, b) =>
        let r := rs / 16
        let n := rs % 16
        if n = 0 then
          if r = 15 then
            if p.se < k + 15 then none else acFirst t p c base f (k + 16) { x with src := b }
          else
            match BitSrc.bitsN r 0 b with
            | none => none
            | some (v, b) => some { x with src := b, run := 2 ^ r + v - 1 }
        else if 10 < n then none
        else
          match b.signed n with
          | none => none
          | some (v, b) =>
            if p.se < k + r then none
            else acFirst t p c base f (k + r + 1)
              ({ x with src := b }.put c (base + zz (k + r)) (v * (2 ^ p.al : Nat)))

/-- Move past r zero coefficients, correcting each nonzero one on the way. -/
def refineSkip (p : JPar) (c base : Nat) : Nat → Nat → Nat → JScan → Option (Nat × JScan)
  | 0, k, _, x => some (k, x)
  | f + 1, k, r, x =>
    if p.se < k then some (k, x)
    else
      let v := x.get c (base + zz k)
      if v ≠ 0 then
        match x.src.bit1 with
        | none => none
        | some (e, b) =>
          let d : Int := (e * 2 ^ p.al : Nat)
          refineSkip p c base f (k + 1) r ({ x with src := b }.put c (base + zz k) (if v < 0 then v - d else v + d))
      else if r = 0 then some (k, x)
      else refineSkip p c base f (k + 1) (r - 1) x

/-- The AC coefficients of a block from index k on, refinement pass. -/
def acRefine (t : Huff) (p : JPar) (c base : Nat) : Nat → Nat → JScan → Option JScan
  | 0, _, x => some x
  | f + 1, k, x =>
    if 0 < x.run then
      match refineSkip p c base 65 k 64 x with
      | none => none
      | some (_, x) => some { x with run := x.run - 1 }
    else if p.se < k then some x
    else
      match t.next x.src with
      | none => none
      | some (rs, b) =>
        let r := rs / 16
        let n := rs % 16
        if n = 0 then
          if r = 15 then
            match refineSkip p c base 65 k 15 { x with src := b } with
            | none => none
            | some (k, x) => if p.se < k then none else acRefine t p c base f (k + 1) x
          else
            match BitSrc.bitsN r 0 b with
            | none => none
            | some (v, b) => acRefine t p c base f k { x with src := b, run := 2 ^ r + v }
        else if n ≠ 1 then none
        else
          match b.bit1 with
          | none => none
          | some (e, b) =>
            match refineSkip p c base 65 k r { x with src := b } with
            | none => none
            | some (k, x) =>
              if p.se < k then none
              else acRefine t p c base f (k + 1)
                (x.put c (base + zz k) (if e = 1 then (2 ^ p.al : Nat) else -((2 ^ p.al : Nat) : Int)))

/-- One component of a scan: its place in the frame and its tables. -/
structure JPart where
  comp : Nat
  c    : JComp
  dc   : Option Huff
  ac   : Option Huff
  deriving DecidableEq, Repr

def sequentialBlock (t u : Huff) (p : JPar) (c base : Nat) (x : JScan) : Option JScan :=
  match dcFirst t p c base x with
  | none => none
  | some x =>
    match acFirst u p c base 64 1 x with
    | none => none
    | some y => if 1 < y.run + 1 then none else some y

/-- One block of a scan. -/
def jpegBlock (prog : Bool) (p : JPar) (q : JPart) (block : Nat) (x : JScan) : Option JScan :=
  let base := 64 * block
  if !prog then
    match q.dc, q.ac with
    | some t, some u => sequentialBlock t u p q.comp base x
    | _, _ => none
  else if p.ss = 0 then
    if p.ah ≠ 0 then dcRefine p q.comp base x
    else match q.dc with | some t => dcFirst t p q.comp base x | none => none
  else
    match q.ac with
    | none => none
    | some u =>
      if p.ah ≠ 0 then acRefine u p q.comp base 65 p.ss x
      else if 0 < x.run then some { x with run := x.run - 1 }
      else acFirst u p q.comp base 64 p.ss x

/-- The blocks of MCU m of a scan, each with its component. -/
def mcuBlocks (f : JFrame) (qs : List JPart) (m : Nat) : List (JPart × Nat) :=
  match qs with
  | [q] =>
    let w := ceilDiv (ceilDiv (f.width * q.c.h) f.hmax) 8
    [(q, m / w * f.blocksX q.c + m % w)]
  | _ =>
    (qs.map fun q =>
      ((List.range q.c.v).map fun v => (List.range q.c.h).map fun h =>
        (q, (m / f.mcuX * q.c.v + v) * f.blocksX q.c + m % f.mcuX * q.c.h + h)).flatten).flatten

def scanMcus (f : JFrame) (qs : List JPart) : Nat :=
  match qs with
  | [q] => ceilDiv (ceilDiv (f.width * q.c.h) f.hmax) 8 * ceilDiv (ceilDiv (f.height * q.c.v) f.vmax) 8
  | _ => f.mcuX * f.mcuY

/-- The MCUs of one restart interval; no end-of-band run outlives it. -/
def scanPart (f : JFrame) (p : JPar) (qs : List JPart) (ms : List Nat) (data : List Byte)
    (coef : Tab (Array Int)) : Option (Tab (Array Int)) :=
  let x : JScan := { src := { rest := data }, coef := coef }
  match ((ms.map (mcuBlocks f qs)).flatten).foldlM (fun x (b : JPart × Nat) => jpegBlock f.progressive p b.1 b.2 x) x with
  | none => none
  | some y => if y.run = 0 then some y.coef else none

def scanParts (f : JFrame) (p : JPar) (qs : List JPart) (per total : Nat) :
    List (List Byte) → Nat → Tab (Array Int) → Option (Tab (Array Int))
  | [], m, coef => if total ≤ m then some coef else none
  | d :: r, m, coef =>
    if total ≤ m then none
    else
      match scanPart f p qs (upFrom m (min per (total - m))) d coef with
      | none => none
      | some coef => scanParts f p qs per total r (m + per) coef

/-! ## Scans -/

structure JDec where
  tabs  : JTables := {}
  coef  : Tab (Array Int) := []
  quant : Tab (List Nat) := []       -- the table of each component, from its first scan
  seen  : List Nat := []             -- components whose DC coefficients have been coded
  deriving DecidableEq, Repr

def partsOfScan (f : JFrame) (t : JTables) (b : List Byte) : Option (List JPart) :=
  ((List.range (leAt b 0 1)).map fun i =>
    let id := leAt b (1 + 2 * i) 1
    let ts := leAt b (2 + 2 * i) 1
    match f.comps.findIdx? fun c => c.id = id with
    | none => none
    | some k => some { comp := k, c := f.comps.getD k ⟨0, 1, 1, 0⟩, dc := tabFind t.dc (ts / 16), ac := tabFind t.ac (ts % 16) }).foldr
    (fun (x : Option JPart) acc => match x, acc with | some q, some l => some (q :: l) | _, _ => none) (some [])

def parOk (prog : Bool) (n : Nat) (p : JPar) : Bool :=
  if !prog then p.ss = 0 && p.se = 63 && p.ah = 0 && p.al = 0
  else
    decide (p.ss ≤ p.se) && decide (p.se ≤ 63) && decide (p.al ≤ 13) && (p.ah = 0 || p.ah = p.al + 1)
    && (if p.ss = 0 then p.se = 0 else n = 1)

def jpegScan (f : JFrame) (b : List Byte) (parts : List (List Byte)) (d : JDec) : Option JDec :=
  let n := leAt b 0 1
  let p : JPar := { ss := leAt b (1 + 2 * n) 1, se := leAt b (2 + 2 * n) 1,
                    ah := bits (leAt b (3 + 2 * n) 1) 7 4, al := bits (leAt b (3 + 2 * n) 1) 3 0 }
  match partsOfScan f d.tabs b with
  | none => none
  | some qs =>
    let total := scanMcus f qs
    if n = 0 ∨ b.length ≠ 4 + 2 * n ∨ !parOk f.progressive n p ∨ !decide ((qs.map fun q => q.comp).Nodup)
       ∨ (p.ss ≠ 0 && qs.any fun q => !d.seen.elem q.comp) then none
    else
      match scanParts f p qs (if d.tabs.restart = 0 then total else d.tabs.restart) total parts 0 d.coef with
      | none => none
      | some coef =>
        let quant := qs.foldl (fun m q => match tabFind m q.comp, tabFind d.tabs.quant q.c.tq with
          | none, some t => tabSet m q.comp t
          | _, _ => m) d.quant
        some { d with coef := coef, quant := quant, seen := d.seen ++ qs.map fun q => q.comp }

def jpegItem (f : JFrame) (d : JDec) (x : JItem) : Option JDec :=
  match x with
  | .scan b parts => jpegScan f b parts d
  | .seg m b =>
    if m = 0xC4 then (readHuff (b.length + 1) b d.tabs).map fun t => { d with tabs := t }
    else if m = 0xDB then (readQuant (b.length + 1) b d.tabs).map fun t => { d with tabs := t }
    else if m = 0xDD then if b.length = 2 then some { d with tabs := { d.tabs with restart := be16 b 0 } } else none
    else some d

/-! ## Samples (R429) -/

/-- round(2048 cos(m pi / 16)). -/
def cosRow (m : Nat) : Int :=
  let m := m % 32
  let m := if 16 < m then 32 - m else m
  let v : List Int := [2048, 2009, 1892, 1703, 1448, 1138, 784, 400, 0]
  if m ≤ 8 then v.getD m 0 else -(v.getD (16 - m) 0)

def dctT (x k : Nat) : Int := if k = 0 then 1448 else cosRow ((2 * x + 1) * k)

def jClamp (lo hi v : Int) : Int := max lo (min hi v)

def sumTo8 (f : Nat → Int) : Int := ((List.range 8).map f).sum

/-- The 64 samples of a block, row by row, from its dequantised coefficients F[v][u]. -/
def idct (F : Nat → Nat → Int) : Array Nat :=
  let r : Array Int := ((List.range 8).map fun v => (List.range 8).map fun x =>
    (sumTo8 (fun u => dctT x u * F v u) + 1024) / 2048).flatten.toArray
  (((List.range 8).map fun y => (List.range 8).map fun x =>
    (jClamp 0 255 ((sumTo8 (fun v => dctT y v * r.getD (8 * v + x) 0) + 4096) / 8192 + 128)).toNat).flatten).toArray

/-- Place of each natural-order position in a quantisation table, which is in zigzag order. -/
def zzInv : Array Nat := (List.range 64).foldl (fun a k => a.setIfInBounds (zz k) k) (Array.replicate 64 0)

def jpegBlocks (d : JDec) (f : JFrame) (k : Nat) (c : JComp) : Array (Array Nat) :=
  let co := tabGet d.coef #[] k
  let q := (tabGet d.quant [] k).toArray
  ((List.range (f.blocks c)).map fun b =>
    idct fun v u =>
      let i := 8 * v + u
      jClamp (-32768) 32767 (co.getD (64 * b + i) 0 * (q.getD (zzInv.getD i 0) 0 : Nat))).toArray

def blockSample (bs : Array (Array Nat)) (w y x : Nat) : Nat :=
  (bs.getD (y / 8 * w + x / 8) #[]).getD (8 * (y % 8) + x % 8) 0

def toRgb (y cb cr : Nat) : List Nat :=
  let b := (cb : Int) - 128
  let r := (cr : Int) - 128
  let cl (v : Int) : Nat := (jClamp 0 255 ((y : Int) + v)).toNat
  [cl ((91881 * r + 32768) / 65536), cl ((-22554 * b - 46802 * r + 32768) / 65536), cl ((116130 * b + 32768) / 65536)]

def jpegImage (f : JFrame) (d : JDec) : Picture :=
  let planes : Array (Array (Array Nat)) :=
    ((List.range f.comps.length).map fun k => jpegBlocks d f k (f.comps.getD k ⟨0, 1, 1, 0⟩)).toArray
  let sample (k y x : Nat) : Nat :=
    let c := f.comps.getD k ⟨0, 1, 1, 0⟩
    blockSample (planes.getD k #[]) (f.blocksX c) (y * c.v / f.vmax) (x * c.h / f.hmax)
  let pixels : List (List Nat) := ((List.range f.height).map fun y => (List.range f.width).map fun x =>
    if f.comps.length = 1 then [sample 0 y x] else toRgb (sample 0 y x) (sample 1 y x) (sample 2 y x)).flatten
  let n := f.comps.length
  { width := f.width, height := f.height, channels := n, depth := 8, alpha := false,
    samples := ((List.range n).map fun c => pixels.map fun p => p.getD c 0).flatten.toArray }

/-- Decode a JPEG stream of the subset; none where its data breaks the standard. -/
def jpegDecode (l : List Byte) : Option Picture :=
  let items := jpegStream l
  match jpegFrame items.1 with
  | none => none
  | some f =>
    let d0 : JDec := { coef := (List.range f.comps.length).map fun k =>
      (k, Array.replicate (64 * f.blocks (f.comps.getD k ⟨0, 1, 1, 0⟩)) 0) }
    if !items.2 || 1 < (items.1.filter fun x => match x with | .seg m _ => isSof m | _ => false).length then none
    else
      match items.1.foldlM (jpegItem f) d0 with
      | none => none
      | some d =>
        if (List.range f.comps.length).all fun k => d.seen.elem k && (tabFind d.quant k).isSome then some (jpegImage f d)
        else none

end Sys2Proof.Machine
end

