-- ==== Sys2Proof/Machine/Png.lean ====
section
/-! DEFINITION. Machine/Png.lean: the PNG subset of R430. The manual names ISO/IEC 15948 for the data
stream and zlib for its compression; what it does not print is PRESUMED from those standards (log entry 39). -/

namespace Sys2Proof.Machine

/-- Big-endian 32-bit value at an offset. -/
def be32 (l : List Byte) (off : Nat) : Nat := 65536 * be16 l off + be16 l (off + 2)

/-! ## zlib (deflate) -/

/-- Bits of a byte, least significant first. -/
structure LsbSrc where
  rest : List Byte
  cur  : Nat := 0
  left : Nat := 0
  deriving DecidableEq, Repr

def LsbSrc.bit1 (b : LsbSrc) : Option (Nat × LsbSrc) :=
  match b.left with
  | n + 1 => some (b.cur % 2, { b with cur := b.cur / 2, left := n })
  | 0 =>
    match b.rest with
    | [] => none
    | x :: r => some (x.toNat % 2, { rest := r, cur := x.toNat / 2, left := 7 })

/-- An n-bit number, least significant bit first. -/
def LsbSrc.num : Nat → LsbSrc → Option (Nat × LsbSrc)
  | 0, b => some (0, b)
  | n + 1, b =>
    match b.bit1 with
    | none => none
    | some (x, b) =>
      match LsbSrc.num n b with
      | none => none
      | some (v, b) => some (x + 2 * v, b)

/-- A prefix code from its code lengths: the count of each length 1 to 15, and the symbols in order. -/
def prefixCode (lens : List Nat) : Huff :=
  let xs := (List.range lens.length).zip lens
  { counts := (List.range 15).map fun i => (lens.filter fun n => n = i + 1).length,
    vals := ((List.range 15).map fun i => (xs.filter fun x => x.2 = i + 1).map fun x => x.1).flatten }

/-- What is left of the code space; none where the codes overrun it. -/
def prefixFull : List Nat → Nat → Option Nat
  | [], free => some free
  | n :: r, free => if 2 * free < n then none else prefixFull r (2 * free - n)

/-- The codes use exactly the code space. -/
def prefixExact (h : Huff) : Bool := prefixFull h.counts 1 = some 0

/-- As above; or there is no code, or one of a single bit (RFC 1951, 3.2.7). -/
def prefixOk (h : Huff) : Bool := prefixExact h || h.vals = [] || (h.vals.length = 1 && h.counts.headD 0 = 1)

def lsbIndex : List Nat → Nat → Nat → Nat → LsbSrc → Option (Nat × LsbSrc)
  | [], _, _, _, _ => none
  | n :: r, code, first, index, b =>
    match b.bit1 with
    | none => none
    | some (x, b) =>
      let code := 2 * code + x
      if code < first + n then some (index + (code - first), b)
      else lsbIndex r code (2 * (first + n)) (index + n) b

def Huff.nextLsb (h : Huff) (b : LsbSrc) : Option (Nat × LsbSrc) :=
  match lsbIndex h.counts 0 0 0 b with
  | none => none
  | some (i, b) => some (h.vals.getD i 0, b)

def lenBase : List Nat :=
  [3, 4, 5, 6, 7, 8, 9, 10, 11, 13] ++ [15, 17, 19, 23, 27, 31, 35, 43, 51, 59] ++ [67, 83, 99, 115, 131, 163, 195, 227, 258]
def lenExtra : List Nat :=
  [0, 0, 0, 0, 0, 0, 0, 0, 1, 1] ++ [1, 1, 2, 2, 2, 2, 3, 3, 3, 3] ++ [4, 4, 4, 4, 5, 5, 5, 5, 0]
def distBase : List Nat :=
  [1, 2, 3, 4, 5, 7, 9, 13, 17, 25] ++ [33, 49, 65, 97, 129, 193, 257, 385, 513, 769]
  ++ [1025, 1537, 2049, 3073, 4097, 6145, 8193, 12289, 16385, 24577]
def distExtra (s : Nat) : Nat := if s < 4 then 0 else s / 2 - 1

/-- Append n bytes from a distance back. -/
def copyBack : Nat → Nat → Array Byte → Array Byte
  | 0, _, o => o
  | n + 1, d, o => copyBack n d (o.push (o.getD (o.size - d) 0))

/-- The symbols of one compressed block. -/
def inflateBlock (lit dist : Huff) (window : Nat) : Nat → LsbSrc → Array Byte → Option (LsbSrc × Array Byte)
  | 0, _, _ => none
  | k + 1, b, o =>
    match lit.nextLsb b with
    | none => none
    | some (s, b) =>
      if s < 256 then inflateBlock lit dist window k b (o.push (BitVec.ofNat 8 s))
      else if s = 256 then some (b, o)
      else if 285 < s then none
      else
        match LsbSrc.num (lenExtra.getD (s - 257) 0) b with
        | none => none
        | some (e, b) =>
          match dist.nextLsb b with
          | none => none
          | some (ds, b) =>
            if 29 < ds then none
            else
              match LsbSrc.num (distExtra ds) b with
              | none => none
              | some (de, b) =>
                let d := distBase.getD ds 0 + de
                if o.size < d ∨ window < d then none
                else inflateBlock lit dist window k b (copyBack (lenBase.getD (s - 257) 0 + e) d o)

def fixedLit : Huff :=
  prefixCode (List.replicate 144 8 ++ List.replicate 112 9 ++ List.replicate 24 7 ++ List.replicate 8 8)
def fixedDist : Huff := prefixCode (List.replicate 32 5)

/-- n numbers of 3 bits. -/
def nums3 : Nat → LsbSrc → Option (List Nat × LsbSrc)
  | 0, b => some ([], b)
  | n + 1, b =>
    match LsbSrc.num 3 b with
    | none => none
    | some (v, b) =>
      match nums3 n b with
      | none => none
      | some (l, b) => some (v :: l, b)

/-- Code lengths, newest first, until there are n. -/
def codeLengths (h : Huff) (n : Nat) : Nat → List Nat → LsbSrc → Option (List Nat × LsbSrc)
  | 0, _, _ => none
  | k + 1, acc, b =>
    if acc.length = n then some (acc, b)
    else if n < acc.length then none
    else
      match h.nextLsb b with
      | none => none
      | some (s, b) =>
        if s < 16 then codeLengths h n k (s :: acc) b
        else
          let extra := if s = 16 then 2 else if s = 17 then 3 else 7
          match LsbSrc.num extra b with
          | none => none
          | some (e, b) =>
            match s, acc with
            | 16, [] => none
            | 16, x :: _ => codeLengths h n k (List.replicate (3 + e) x ++ acc) b
            | 17, _ => codeLengths h n k (List.replicate (3 + e) 0 ++ acc) b
            | _, _ => codeLengths h n k (List.replicate (11 + e) 0 ++ acc) b

def codeOrder : List Nat := [16, 17, 18, 0, 8, 7, 9, 6, 10, 5, 11, 4, 12, 3, 13, 2, 14, 1, 15]

/-- The two codes of a dynamic block. -/
def dynamicCodes (b : LsbSrc) : Option (Huff × Huff × LsbSrc) :=
  match LsbSrc.num 14 b with
  | none => none
  | some (v, b) =>
    let hlit := v % 32 + 257
    let hdist := v / 32 % 32 + 1
    match nums3 (v / 1024 + 4) b with
    | none => none
    | some (ls, b) =>
      let cl := prefixCode ((List.range 19).map fun s =>
        match codeOrder.findIdx? fun x => x = s with | some i => ls.getD i 0 | none => 0)
      if !prefixExact cl then none
      else
        match codeLengths cl (hlit + hdist) (hlit + hdist + 1) [] b with
        | none => none
        | some (acc, b) =>
          let all := acc.reverse
          let lit := prefixCode (all.take hlit)
          let dist := prefixCode (all.drop hlit)
          if 286 < hlit ∨ 30 < hdist ∨ all.getD 256 0 = 0 ∨ !prefixOk lit ∨ !prefixOk dist then none
          else some (lit, dist, b)

/-- A stored block. -/
def storedBlock (b : LsbSrc) (o : Array Byte) : Option (LsbSrc × Array Byte) :=
  let n := leAt b.rest 0 2
  if b.rest.length < 4 + n ∨ n + leAt b.rest 2 2 ≠ 65535 then none
  else some ({ rest := b.rest.drop (4 + n) }, o ++ ((b.rest.drop 4).take n).toArray)

def inflate (window : Nat) : Nat → LsbSrc → Array Byte → Option (LsbSrc × Array Byte)
  | 0, _, _ => none
  | k + 1, b, o =>
    match LsbSrc.num 3 b with
    | none => none
    | some (v, b) =>
      let fuel := 8 * b.rest.length + 16
      let r := match v / 2 with
        | 0 => storedBlock b o
        | 1 => inflateBlock fixedLit fixedDist window fuel b o
        | 2 =>
          match dynamicCodes b with
          | none => none
          | some (lit, dist, b) => inflateBlock lit dist window fuel b o
        | _ => none
      match r with
      | none => none
      | some (b, o) => if v % 2 = 1 then some (b, o) else inflate window k b o

def adler32 (l : List Byte) : Nat :=
  let x := l.foldl (fun (a : Nat × Nat) v => let p := (a.1 + v.toNat) % 65521; (p, (a.2 + p) % 65521)) (1, 0)
  x.2 * 65536 + x.1

/-- The bytes of a zlib stream; none where it breaks its format or its check. -/
def zlibDecode (l : List Byte) : Option (Array Byte) :=
  let cmf := leAt l 0 1
  if l.length < 6 ∨ cmf % 16 ≠ 8 ∨ 7 < cmf / 16 ∨ be16 l 0 % 31 ≠ 0 ∨ bit (leAt l 1 1) 5 then none
  else
    match inflate (2 ^ (cmf / 16 + 8)) (8 * l.length) { rest := l.drop 2 } #[] with
    | none => none
    | some (b, o) => if b.rest.length = 4 ∧ be32 b.rest 0 = adler32 o.toList then some o else none

/-! ## Chunks -/

structure Chunk where
  kind : List Byte
  data : List Byte
  ok   : Bool            -- its CRC matches
  deriving DecidableEq, Repr

def crc32 (l : List Byte) : Nat := crcReflected 0xEDB88320 0xFFFFFFFF 0xFFFFFFFF l

/-- The chunks of a stream, and whether they fill it. -/
def chunksOf : Nat → List Byte → List Chunk × Bool
  | 0, l => ([], l = [])
  | k + 1, l =>
    if l = [] then ([], true)
    else
      let n := be32 l 0
      if l.length < 12 + n then ([], false)
      else
        let c : Chunk := { kind := (l.drop 4).take 4, data := (l.drop 8).take n,
                           ok := decide (crc32 ((l.drop 4).take (4 + n)) = be32 l (8 + n)) }
        let x := chunksOf k (l.drop (12 + n))
        (c :: x.1, x.2)

def pngSignature : List Byte := [0x89, 0x50, 0x4E, 0x47, 0x0D, 0x0A, 0x1A, 0x0A]

def Chunk.is (c : Chunk) (name : String) : Bool := c.kind = ascii name

structure PngHead where
  width  : Nat
  height : Nat
  depth  : Nat
  colour : Nat
  interlaced : Bool
  deriving DecidableEq, Repr

def depthOk (colour depth : Nat) : Bool :=
  match colour with
  | 0 => depth = 1 || depth = 2 || depth = 4 || depth = 8 || depth = 16
  | 3 => depth = 1 || depth = 2 || depth = 4 || depth = 8
  | 2 | 4 | 6 => depth = 8 || depth = 16
  | _ => false

/-- The chunks of a PNG stream, where it begins as one. -/
def pngChunks (l : List Byte) : List Chunk × Bool :=
  if l.take 8 = pngSignature then chunksOf l.length (l.drop 8) else ([], false)

/-- The IHDR chunk, where it lies within the subset. -/
def pngHead (cs : List Chunk) : Option PngHead :=
  match cs with
  | [] => none
  | c :: _ =>
    let d := c.data
    let h : PngHead := { width := be32 d 0, height := be32 d 4, depth := leAt d 8 1, colour := leAt d 9 1,
                         interlaced := leAt d 12 1 = 1 }
    if c.is "IHDR" && d.length = 13 && h.width ≠ 0 && h.height ≠ 0 && decide (h.width < 2 ^ 31)
       && decide (h.height < 2 ^ 31) && depthOk h.colour h.depth && leAt d 10 1 = 0 && leAt d 11 1 = 0
       && decide (leAt d 12 1 ≤ 1) then some h else none

def pngSize (cs : List Chunk) : Nat × Nat :=
  match cs with
  | c :: _ => if c.is "IHDR" then (be32 c.data 0, be32 c.data 4) else (0, 0)
  | [] => (0, 0)

def dataOf (cs : List Chunk) (name : String) : Option (List Byte) := (cs.find? fun c => c.is name).map fun c => c.data

/-- Channels as decoded, and the depth of their codes (R430). -/
def pngChannels (h : PngHead) (trns : Bool) : Nat :=
  match h.colour with
  | 0 => if trns then 2 else 1
  | 4 => 2
  | 2 | 3 => if trns then 4 else 3
  | _ => 4
def pngDepth (h : PngHead) : Nat := if h.colour = 3 then 8 else h.depth

/-- Samples per pixel as coded. -/
def codedSamples (colour : Nat) : Nat := match colour with | 2 => 3 | 4 => 2 | 6 => 4 | _ => 1

/-! ## Order of chunks -/

def isCritical (c : Chunk) : Bool := !bit (leAt c.kind 0 1) 5
/-- A chunk type is four letters. -/
def lettersOk (c : Chunk) : Bool :=
  c.kind.all fun b => (decide (65 ≤ b.toNat) && decide (b.toNat ≤ 90)) || (decide (97 ≤ b.toNat) && decide (b.toNat ≤ 122))
def knownCritical (c : Chunk) : Bool := c.is "IHDR" || c.is "PLTE" || c.is "IDAT" || c.is "IEND"

/-- The chunks stand as the standard has them: one IHDR first, one IEND last, the IDAT chunks
together, at most one PLTE and one tRNS in their places, and no unknown critical chunk. -/
def chunksOk (h : PngHead) (cs : List Chunk) : Bool :=
  let n (x : String) : Nat := (cs.filter fun c => c.is x).length
  let before := cs.takeWhile fun c => !c.is "IDAT"
  let after := (cs.drop before.length).dropWhile fun c => c.is "IDAT"
  let plte := (dataOf cs "PLTE").getD []
  let trns := (dataOf cs "tRNS").getD []
  n "IHDR" = 1 && n "IEND" = 1 && (match cs.getLast? with | some c => c.is "IEND" && c.data = [] | none => false)
  && decide (1 ≤ n "IDAT") && !after.any (fun c => c.is "IDAT" || c.is "PLTE" || c.is "tRNS")
  && !cs.any (fun c => isCritical c && !knownCritical c) && cs.all lettersOk
  && decide (n "PLTE" ≤ 1) && decide (n "tRNS" ≤ 1)
  && (h.colour ≠ 3 || n "PLTE" = 1) && ((h.colour ≠ 0 && h.colour ≠ 4) || n "PLTE" = 0)
  && plte.length % 3 = 0 && (n "PLTE" = 0 || plte ≠ []) && decide (plte.length ≤ 768)
  && (h.colour ≠ 3 || decide (plte.length ≤ 3 * 2 ^ h.depth))
  && (n "tRNS" = 0 || (match h.colour with
        | 0 => trns.length = 2
        | 2 => trns.length = 6
        | 3 => decide (trns.length ≤ plte.length / 3)
        | _ => false))
  && (n "tRNS" = 0 || n "PLTE" = 0 || (before.takeWhile fun c => !c.is "tRNS").any fun c => c.is "PLTE")

/-! ## Scan lines -/

def paeth (a b c : Int) : Int :=
  let p := a + b - c
  let pa := (p - a).natAbs
  let pb := (p - b).natAbs
  let pc := (p - c).natAbs
  if pa ≤ pb ∧ pa ≤ pc then a else if pb ≤ pc then b else c

/-- Undo the filter of one line, given the line above; what is done so far is kept newest first. -/
def unfilter (ty bpp : Nat) (prev : Array Byte) : List Byte → Array Byte → Array Byte
  | [], o => o
  | x :: r, o =>
    let i := o.size
    let a := if bpp ≤ i then (o.getD (i - bpp) 0).toNat else 0
    let b := (prev.getD i 0).toNat
    let c := if bpp ≤ i then (prev.getD (i - bpp) 0).toNat else 0
    let add : Nat := match ty with
      | 0 => 0
      | 1 => a
      | 2 => b
      | 3 => (a + b) / 2
      | _ => (paeth a b c).toNat
    unfilter ty bpp prev r (o.push (BitVec.ofNat 8 (x.toNat + add)))

/-- The lines of one pass: n lines of a number of bytes each; none where the data is short or a filter
type is unknown. -/
def passLines (bpp len : Nat) : Nat → Array Byte → List Byte → Option (List (Array Byte) × List Byte)
  | 0, _, l => some ([], l)
  | n + 1, prev, l =>
    match l with
    | [] => none
    | t :: r =>
      if 4 < t.toNat ∨ r.length < len then none
      else
        let row := unfilter t.toNat bpp prev (r.take len) #[]
        match passLines bpp len n row (r.drop len) with
        | none => none
        | some (rows, rest) => some (row :: rows, rest)

/-- Sample j of a line of samples of some depth. -/
def lineSample (depth : Nat) (row : Array Byte) (j : Nat) : Nat :=
  if depth = 16 then 256 * (row.getD (2 * j) 0).toNat + (row.getD (2 * j + 1) 0).toNat
  else
    let b := (row.getD (j * depth / 8) 0).toNat
    b / 2 ^ (8 - depth - j * depth % 8) % 2 ^ depth

/-- The passes: start and step in x and y. -/
def pngPasses (interlaced : Bool) : List (Nat × Nat × Nat × Nat) :=
  if interlaced then
    [(0, 0, 8, 8), (4, 0, 8, 8), (0, 4, 4, 8), (2, 0, 4, 4), (0, 2, 2, 4), (1, 0, 2, 2), (0, 1, 1, 2)]
  else [(0, 0, 1, 1)]

/-- Every pass's lines; none where the data does not fit the image. -/
def passRows (h : PngHead) : List (Nat × Nat × Nat × Nat) → List Byte → Option (List (Array (Array Byte)))
  | [], l => if l = [] then some [] else none
  | (x0, y0, dx, dy) :: r, l =>
    let w := ceilDiv (h.width - x0) dx
    let n := ceilDiv (h.height - y0) dy
    let bitsPer := codedSamples h.colour * h.depth
    if w = 0 ∨ n = 0 then (passRows h r l).map fun t => #[] :: t
    else
      match passLines (max 1 (bitsPer / 8)) (ceilDiv (w * bitsPer) 8) n #[] l with
      | none => none
      | some (rows, rest) => (passRows h r rest).map fun t => rows.toArray :: t

/-- The pass that holds a pixel, and its line and place there. -/
def inPass (ps : List (Nat × Nat × Nat × Nat)) (y x : Nat) : Nat × Nat × Nat :=
  let k := (ps.findIdx? fun p => p.1 ≤ x && p.2.1 ≤ y && (x - p.1) % p.2.2.1 = 0 && (y - p.2.1) % p.2.2.2 = 0).getD 0
  let p := ps.getD k (0, 0, 1, 1)
  (k, (y - p.2.1) / p.2.2.2, (x - p.1) / p.2.2.1)

/-- Samples of one pixel as decoded; none where a palette index has no entry. -/
def pixelOf (h : PngHead) (plte : List Byte) (trns : Option (List Byte)) (v : List Nat) : Option (List Nat) :=
  match h.colour with
  | 3 =>
    let i := v.getD 0 0
    if plte.length ≤ 3 * i then none
    else
      let rgb := (List.range 3).map fun k => leAt plte (3 * i + k) 1
      some (match trns with
        | none => rgb
        | some t => rgb ++ [if i < t.length then leAt t i 1 else 255])
  | 0 | 2 =>
    some (match trns with
      | none => v
      | some t =>
        let key := (List.range v.length).map fun k => be16 t (2 * k) % 2 ^ h.depth
        v ++ [if v = key then 0 else 2 ^ h.depth - 1])
  | _ => some v

/-- Decode a PNG stream; none where its data breaks the standard. -/
def pngDecode (l : List Byte) : Option Picture :=
  let x := pngChunks l
  match pngHead x.1 with
  | none => none
  | some h =>
    if !x.2 ∨ !(x.1.all fun c => c.ok) ∨ !chunksOk h x.1 then none
    else
      match zlibDecode (((x.1.filter fun c => c.is "IDAT").map fun c => c.data).flatten) with
      | none => none
      | some raw =>
        let ps := pngPasses h.interlaced
        match passRows h ps raw.toList with
        | none => none
        | some rows =>
          let ra := rows.toArray
          let plte := (dataOf x.1 "PLTE").getD []
          let trns := dataOf x.1 "tRNS"
          let n := codedSamples h.colour
          let pixels : Option (List (List Nat)) :=
            (((List.range h.height).map fun y => (List.range h.width).map fun xx =>
              let q := inPass ps y xx
              let row := (ra.getD q.1 #[]).getD q.2.1 #[]
              pixelOf h plte trns ((List.range n).map fun k => lineSample h.depth row (q.2.2 * n + k))).flatten).foldr
              (fun p acc => match p, acc with | some a, some b => some (a :: b) | _, _ => none) (some [])
          match pixels with
          | none => none
          | some ps =>
            let c := pngChannels h trns.isSome
            some { width := h.width, height := h.height, channels := c, depth := pngDepth h, alpha := c % 2 = 0,
                   samples := ((List.range c).map fun k => ps.map fun p => p.getD k 0).flatten.toArray }

end Sys2Proof.Machine
end

