-- ==== Sys2Proof/Machine/DecodeStreams.lean ====
section
/-! DEFINITION. Machine/DecodeStreams.lean: record streams (R414 to R427), augmentation and output
(R431 to R434), and what disables or fails a lane (R435, R436). -/

namespace Sys2Proof.Machine

open Sys2Proof

/-! ## The input ring -/

def ringBytes (x : Stream) : Nat := 65536 * x.args.in64k.toNat

/-- The pieces of memory that stream bytes from an offset occupy. -/
def ringPieces (x : Stream) (off n : Nat) : List (Nat × Nat) :=
  let o := off % ringBytes x
  let first := min n (ringBytes x - o)
  [(x.args.inVa.toNat + o, first), (x.args.inVa.toNat, n - first)].filter fun p => p.2 ≠ 0

def ringRead (s : State) (x : Stream) (off n : Nat) : List Byte :=
  ((ringPieces x off n).map fun p => hbmRead s x.tenant p.1 p.2).flatten

/-! ## The container (R420 to R422) -/

def crc32c (l : List Byte) : Nat := crcReflected 0x82F63B78 0xFFFFFFFF 0xFFFFFFFF l

def streamHeaderOk (h : List Byte) : Bool :=
  leAt h 0 4 = 0x4E445253 && leAt h 4 2 = 1 && leAt h 6 2 = 32 && leAt h 16 8 = 0 && leAt h 24 4 = 0
  && crc32c (h.take 28) = leAt h 28 4

def recordHeaderOk (h : List Byte) : Bool := leAt h 0 4 = 0xA55AC3E1 && crc32c (h.take 60) = leAt h 60 4

def recordLength (h : List Byte) : Nat := 64 + roundUp (leAt h 12 4) 8 + if bit (leAt h 9 1) 0 then 32 else 0

/-- A valid header of a record that cannot be read. -/
def unreadable (x : Stream) (h : List Byte) : Bool :=
  leAt h 9 1 / 2 ≠ 0 || leAt h 10 2 ≠ 0 || leAt h 20 4 ≠ 0 || (sliceAt h 32 24).any (fun b => b ≠ 0)
  || !(leAt h 8 1 = 1 || leAt h 8 1 = 2) || leAt h 12 4 = 0 || decide (67108864 < leAt h 12 4)
  || decide (ringBytes x < recordLength h)

def newRecordOf (x : Stream) (h : List Byte) : DecRecord :=
  { seq := leAt h 4 4, codec := leAt h 8 1, hasAug := bit (leAt h 9 1) 0, payload := leAt h 12 4,
    sample := leAt h 16 4, tag := leAt h 24 8, body := leAt h 56 4, start := x.parsed,
    length := recordLength h,
    missing := match x.lastSeq with
      | some l => (leAt h 4 4 + 2 ^ 32 - l - 1) % 2 ^ 32
      | none => 0,
    bad := unreadable x h }

/-- Read records in stream order as far as the pushed bytes reach. -/
def parseRecords (s : State) : Nat → Stream → Stream
  | 0, x => x
  | k + 1, x =>
    if x.pushed < x.parsed + 64 then x
    else
      let h := ringRead s x x.parsed 64
      if !recordHeaderOk h then
        parseRecords s k { x with parsed := x.parsed + 8, resyncing := true,
                                  resyncs := if x.resyncing then x.resyncs else satAdd x.resyncs 1 65535 }
      else
        let next := x.parsed + recordLength h
        let seq := leAt h 4 4
        let fresh := match x.lastSeq with | some l => newer seq l | none => true
        if fresh then
          parseRecords s k { x with parsed := next, resyncing := false, lastSeq := some seq,
                                    records := x.records ++ [newRecordOf x h] }
        else parseRecords s k { x with parsed := next, resyncing := false, dups := satAdd x.dups 1 65535 }

/-- Bytes that count as consumed (R418). -/
def consumedOf (x : Stream) : Nat :=
  if x.state = 4 then x.pushed
  else
    match x.records.find? fun r => r.done.isNone && !r.bad with
    | some r => r.start
    | none => min x.parsed x.pushed

/-- What the parser makes of the bytes pushed so far. -/
def parse (s : State) (x : Stream) : Stream :=
  let x :=
    if x.state = 4 then x
    else if x.parsed = 0 then
      if x.pushed < 32 then x
      else if streamHeaderOk (ringRead s x 0 32) then parseRecords s (x.pushed / 8 + 1) { x with parsed := 32 }
      else { x with state := 4 }
    else parseRecords s ((x.pushed - x.parsed) / 8 + 2) x
  { x with consumed := consumedOf x }

/-! ## Delivery (R433, R434) -/

def modStream (s : State) (sid : Nat) (f : Stream → Stream) : State :=
  match getStream s sid with
  | none => s
  | some x => setStream s sid (f x)

def outSlotVa (x : Stream) (k : Nat) : Nat := x.args.outVa.toNat + k * decSlotBytes x
def elemBytes (x : Stream) : Nat := if x.args.outFormat = 0 then 1 else 2
def imgPitch (x : Stream) (w : Nat) : Nat := roundUp (w * elemBytes x) 64

/-- A declared size in a 16-bit field: where it does not fit, the manual states no value (a free value, log entry 7). -/
def sizeField (s : State) (v k : Nat) : Nat := if v < 65536 then v else (Config.freeWord (s.fresh + k)).toNat % 65536

/-- The 64 bytes of a slot's header. -/
def slotHeader (s : State) (sid : Nat) (x : Stream) (r : DecRecord) : List Byte :=
  let (st, dt) := r.done.getD (0, 0)
  let full := decide (st = stOk)
  let pitch := if full then imgPitch x r.width else 0
  let plane := pitch * r.height
  let b := x.args.timeBase.toNat
  le4 r.seq ++ by1 (if full then 1 else 2) ++ by1 r.codec ++ by1 (if full then r.channels else 0) ++ by1 x.args.outFormat.toNat
  ++ le4 (tbStamp s b) ++ le4 r.laneNs ++ leBytes 6 (tbSec s b) ++ le2 (0x2000 + sid) ++ le2 (min r.missing 65535)
  ++ le2 dt ++ le2 (sizeField s r.width 0) ++ le2 (sizeField s r.height 1)
  ++ le4 (if full then r.channels * plane else 0) ++ le4 pitch ++ le4 plane ++ le2 st ++ by1 r.ops ++ by1 (boolNat r.seeded)
  ++ le8 r.tag ++ le4 r.sample ++ zeros 4

/-- The end-flag completion, once every record that was pushed whole has been delivered (R418). -/
def checkEnd (s : State) (sid : Nat) : State :=
  match getStream s sid with
  | none => s
  | some x =>
    match x.ending with
    | none => s
    | some a =>
      if x.state = 4 then
        complete (setStream s sid { x with ending := none }) x.tenant a stBadParam dtRecordFormat []
      else if x.state = 2 ∧ x.records.all fun r => decide (x.pushed < r.start + r.length) then
        complete (setStream s sid { x with ending := none, state := 3 }) x.tenant a stOk 0 (le4 x.head ++ le4 x.holes)
      else s

/-- Deliver the finished records that stand first. -/
def deliver : Nat → State → Nat → State
  | 0, s, _ => s
  | k + 1, s, sid =>
    match getStream s sid with
    | none => s
    | some x =>
      match x.records with
      | [] => s
      | r :: rest =>
        match r.dispatched, r.done with
        | true, some (st, _) =>
          let hole := decide (st ≠ stOk)
          let s := storeBytes s x.tenant (outSlotVa x r.slot) (slotHeader s sid x r)
          let s := if r.width < 65536 ∧ r.height < 65536 then s else draw (draw s)
          let s := setStream s sid { x with records := rest, head := r.seq,
                                            holes := satAdd x.holes (r.missing + boolNat hole) cap32 }
          deliver k (if hole then trace s 11 x.tenant [sid, r.seq, st] else s) sid
        | _, _ => s

def deliverAll (s : State) (sid : Nat) : State :=
  match getStream s sid with
  | none => s
  | some x =>
    let s := deliver x.records.length s sid
    checkEnd (modStream s sid fun x => { x with consumed := consumedOf x }) sid

/-! ## Opening, pushing and closing -/

def isStreamOf (s : State) (t sid : Nat) : Option Stream :=
  match getStream s sid with
  | some x => if x.tenant = t ∧ x.state ≠ 5 then some x else none
  | none => none

def within (v lo hi : Nat) : Bool := decide (lo ≤ v) && decide (v ≤ hi)

def decFieldsOk (a : DecOpenArgs) : Bool :=
  within a.timeBase.toNat 0 3 && within a.lanesMax.toNat 1 8 && within a.outFormat.toNat 0 1
  && within a.augMode.toNat 0 2 && within a.outSlots.toNat 2 128 && decide (a.seededOps.toNat < 16)
  && within a.in64k.toNat 1 16384 && within a.slot64k.toNat 1 65535 && within a.work64k.toNat 0 65535
  && within a.cropW.toNat 1 8192 && within a.cropH.toNat 1 8192
  && !f32Nan a.gainMax.toNat && f32Le 0 a.gainMax.toNat && f32Le a.gainMax.toNat one32

def decRegionsOk (s : State) (t : Nat) (x : Stream) : Bool :=
  match decRegions x with
  | [a, b, c] =>
    [a, b, c].all (fun r => r.1 % 65536 = 0 && decide (r.1 + r.2 ≤ 2 ^ 48)
      && (r.2 = 0 || inOneMapping s t (fun m => m.pinned && m.read && m.write) r.1 r.2))
    && !overlap a.1 a.2 b.1 b.2 && !overlap a.1 a.2 c.1 c.2 && !overlap b.1 b.2 c.1 c.2
  | _ => false

def freeStream (s : State) : Option Nat := (List.range 64).find? fun i => (getStream s i).isNone

def onDecOpen (rq : Req) (a : DecOpenArgs) (s : State) : State :=
  take (.decOpen rq a) s fun op t _ rq =>
    let x : Stream := { tenant := t, args := a }
    checked s op rq
      [ (a.reserved0 ≠ 0 || a.reserved1 ≠ 0 || !decFieldsOk a, (stBadParam, dtValueRange)),
        (!decRegionsOk s t x, (stBadParam, dtDecRegion)),
        ((freeStream s).isNone, (stNoResource, dtStreamLimit)) ]
      (match freeStream s with
      | some i => replyOk (setStream s i x) op rq (by1 i ++ zeros 3)
      | none => s)

def pushReply (x : Stream) : List Byte := le8 x.pushed ++ le8 x.consumed

def onDecPush (rq : Req) (a : DecPushArgs) (s : State) : State :=
  take (.decPush rq a) s fun op t _ rq =>
    let sid := a.stream.toNat
    let n := a.bytes.toNat
    match isStreamOf s t sid with
    | none =>
      checked s op rq [(a.reserved0 ≠ 0 || a.reserved1 ≠ 0 || decide (2 ≤ a.flags.toNat), (stBadParam, dtReservedNonzero))]
        (refuse s op rq (stBadParam, dtStreamUnknown))
    | some x =>
      checked s op rq
        [ (a.reserved0 ≠ 0 || a.reserved1 ≠ 0 || decide (2 ≤ a.flags.toNat), (stBadParam, dtReservedNonzero)),
          (x.endPushed, (stBadParam, dtStreamEnded)),
          (decide (ringBytes x < x.pushed - x.consumed + n), (stBadParam, dtRingSpace)) ]
        (let y := parse s { x with pushed := x.pushed + n }
        if a.flags = 0 then deliverAll (replyOk (setStream s sid y) op rq (pushReply y)) sid
        else
          accept s op rq t stAccepted (pushReply y) fun s r =>
            deliverAll (setStream s sid { y with
              endPushed := true, ending := some r, state := if y.state = 1 then 2 else y.state }) sid)

/-- Lanes that hold a record of a stream. -/
def lanesOn (s : State) (sid : Nat) : List Nat :=
  (List.range 8).filter fun l => match (getLane s l).job with | some j => j.1 = sid | none => false

/-- A closing stream is gone once no lane holds a record of it (R419). -/
def closeDone (s : State) (sid : Nat) : State :=
  match getStream s sid with
  | none => s
  | some x =>
    if x.state = 5 ∧ lanesOn s sid = [] then
      let s := { s with dec := { s.dec with streams := tabErase s.dec.streams sid } }
      match x.closing with
      | some a => complete s x.tenant a stOk 0 []
      | none => s
    else s

/-- DEC_CLOSE: undelivered records are discarded. An end-flag request that waits ends ABORTED
(DEDUCED, log entry 40: nothing more is delivered, and R79 gives every accepted request one completion). -/
def onDecClose (rq : Req) (stream : Byte) (reserved : BitVec 24) (s : State) : State :=
  take (.decClose rq stream reserved) s fun op t _ rq =>
    let sid := stream.toNat
    match isStreamOf s t sid with
    | none =>
      checked s op rq [(reserved ≠ 0, (stBadParam, dtReservedNonzero))] (refuse s op rq (stBadParam, dtStreamUnknown))
    | some x =>
      checked s op rq [(reserved ≠ 0, (stBadParam, dtReservedNonzero))]
        (accept s op rq t stAccepted [] fun s r =>
          let s := match x.ending with
            | some a => complete s t a stAborted 0 []
            | none => s
          closeDone (setStream s sid { x with state := 5, records := [], ending := none, closing := some r }) sid)

def execDecOpen (rq : Req) (a : DecOpenArgs) (s : State) : Out := .next (onDecOpen rq a (hear rq s))
def execDecPush (rq : Req) (a : DecPushArgs) (s : State) : Out := .next (onDecPush rq a (hear rq s))
def execDecClose (rq : Req) (stream : Byte) (reserved : BitVec 24) (s : State) : Out :=
  .next (onDecClose rq stream reserved (hear rq s))

/-! ## Dispatch (R424) -/

/-- Records of a stream that are on lanes. -/
def onLanes (x : Stream) : Nat := (x.records.filter fun r => r.lane.isSome && r.done.isNone).length
/-- Records dispatched and not delivered. -/
def undelivered (x : Stream) : Nat := (x.records.filter fun r => r.dispatched).length

/-- The next record may take its slot. A slot that an undelivered record holds is not usable
(DEDUCED, log entry 40). -/
def mayDispatch (s : State) (x : Stream) (k : Nat) (r : DecRecord) : Bool :=
  decide (r.start + r.length ≤ x.pushed) && decide (onLanes x < x.args.lanesMax.toNat) && decide (k ≤ 64)
  && decide (undelivered x < x.args.outSlots.toNat)
  && hbmLe s x.tenant (outSlotVa x x.nextSlot + 4) 1 = 0
  && freeOfCommands s x.tenant (outSlotVa x x.nextSlot) (decSlotBytes x)

def onRecordDispatch (sid : Nat) (s : State) : State :=
  match getStream s sid with
  | none => s
  | some x =>
    match x.records.findIdx? fun r => !r.dispatched with
    | none => s
    | some k =>
      match x.records[k]? with
      | none => s
      | some r =>
        if isRunning s && x.state ≠ 5 && mayDispatch s x k r then
          let r := { r with dispatched := true, slot := x.nextSlot,
                            done := if r.bad then some (stBadParam, dtRecordFormat) else none }
          deliverAll (setStream s sid { x with
            records := x.records.set k r, nextSlot := (x.nextSlot + 1) % max 1 x.args.outSlots.toNat }) sid
        else s

def execRecordDispatch (stream : Fin 64) (s : State) : Out := .next (onRecordDispatch stream.val s)

/-! ## Augmentation (R423, R432) -/

structure Aug where
  ops    : Nat := 0
  cropX  : Nat := 0
  cropY  : Nat := 0
  cropW  : Nat := 0
  cropH  : Nat := 0
  gain   : Nat := 0
  offset : Nat := 0
  seeded : Bool := false
  deriving DecidableEq, Repr

def blockAug (b : List Byte) : Aug :=
  { ops := leAt b 2 1, cropX := leAt b 4 2, cropY := leAt b 6 2, cropW := leAt b 8 2, cropH := leAt b 10 2,
    gain := leAt b 12 4, offset := leAt b 16 4 }

/-- The rules of a block, those on the image size among them. -/
def blockOk (b : List Byte) (w h : Nat) : Bool :=
  let a := blockAug b
  leAt b 0 2 = 1 && decide (a.ops < 32) && leAt b 3 1 = 0 && leAt b 20 8 = 0 && leAt b 28 4 = 0
  && (!bit a.ops 0 || (decide (1 ≤ a.cropW) && decide (1 ≤ a.cropH) && decide (a.cropX + a.cropW ≤ w)
        && decide (a.cropY + a.cropH ≤ h)))

/-- The seeded parameters of a sample. -/
def seededAug (a : DecOpenArgs) (sample w h : Nat) : Aug :=
  let p := philox a.seed.toNat sample 4 0
  let so := a.seededOps.toNat
  let cw := min a.cropW.toNat w
  let ch := min a.cropH.toNat h
  let t := rn32 (extMk (((p.2.2.2 / 256 : Nat) : Int) - (2 ^ 23 : Nat)) (2 ^ 23))
  { ops := 1 + (p.2.2.1 &&& so &&& 7) * 2 + (if bit so 3 then 16 else 0), cropW := cw, cropH := ch,
    cropX := p.1 * (w - cw + 1) / 2 ^ 32, cropY := p.2.1 * (h - ch + 1) / 2 ^ 32,
    gain := f32Add one32 (f32Mul a.gainMax.toNat t), offset := 0, seeded := true }
where
  extMk (n : Int) (d : Nat) : Ext := .fin (decide (n < 0)) n.natAbs d

/-- The parameters that a record takes; a block that counts is given. -/
def augOf (x : Stream) (r : DecRecord) (block : List Byte) (w h : Nat) : Aug :=
  if x.args.augMode = 0 then {}
  else if r.hasAug then blockAug block
  else if x.args.augMode = 2 then seededAug x.args r.sample w h
  else {}

def cropOf (a : Aug) (w h : Nat) : Nat × Nat × Nat × Nat := if bit a.ops 0 then (a.cropX, a.cropY, a.cropW, a.cropH) else (0, 0, w, h)

/-- Width and height after augmentation. -/
def augSize (a : Aug) (w h : Nat) : Nat × Nat :=
  let c := cropOf a w h
  if bit a.ops 3 then (c.2.2.2, c.2.2.1) else (c.2.2.1, c.2.2.2)

/-- The decoded position of a pixel of the augmented image: column and row. -/
def augSource (a : Aug) (w h : Nat) (y x : Nat) : Nat × Nat :=
  let z := augSize a w h
  let y := if bit a.ops 2 then z.2 - 1 - y else y
  let x := if bit a.ops 1 then z.1 - 1 - x else x
  let c := cropOf a w h
  let (y, x) := if bit a.ops 3 then (x, y) else (y, x)
  (c.1 + x, c.2.1 + y)

/-! ## Output values (R431) -/

/-- One stored element from a sample's code. -/
def outElem (fp16Out : Bool) (a : Aug) (d : Nat) (isAlpha : Bool) (v : Nat) : List Byte :=
  let mx := 2 ^ d - 1
  let gained := bit a.ops 4 && !isAlpha
  let x := rn32 (.fin false v mx)
  let y := if gained then f32Fma x a.gain a.offset else x
  if fp16Out then le2 (roundFmt (f32 y) fp16 .sat)
  else if !gained then by1 (if d = 16 then (v * 255 + 32767) / 65535 else v * 255 / mx)
  else
    match f32 y with
    | .fin neg n e => if neg then by1 0 else by1 (min 255 (roundHalfEven (255 * n) e))
    | .inf neg => by1 (if neg then 0 else 255)
    | _ => by1 0

/-- The rows of the image as stored: offset in the slot, and bytes. -/
def imageRows (x : Stream) (m : Picture) (a : Aug) : List (Nat × List Byte) :=
  let z := augSize a m.width m.height
  let pitch := imgPitch x z.1
  ((List.range m.channels).map fun c => (List.range z.2).map fun y =>
    (64 + (c * z.2 + y) * pitch,
     ((List.range z.1).map fun xx =>
       let p := augSource a m.width m.height y xx
       outElem (x.args.outFormat = 1) a m.depth (m.alpha && c + 1 = m.channels) (m.at_ c p.2 p.1)).flatten)).flatten

/-! ## Lanes (R425 to R427) -/

/-- What the lane reads of a record: its payload, its block, and the codec header it declares. -/
structure Claims where
  size     : Nat × Nat
  inSubset : Bool
  channels : Nat
  work     : Nat
  deriving DecidableEq, Repr

def claimsOf (codec : Nat) (l : List Byte) : Claims :=
  if codec = 1 then
    let items := (jpegStream l).1
    match jpegFrame items with
    | some f => { size := (f.width, f.height), inSubset := true, channels := f.comps.length, work := f.work }
    | none => { size := jpegSize items, inSubset := false, channels := 0, work := 0 }
  else
    let cs := (pngChunks l).1
    match pngHead cs with
    | some h => { size := (h.width, h.height), inSubset := true,
                  channels := pngChannels h (dataOf (cs.takeWhile fun c => !c.is "IDAT") "tRNS").isSome, work := 0 }
    | none => { size := pngSize cs, inSubset := false, channels := 0, work := 0 }

def recordBytes (s : State) (x : Stream) (r : DecRecord) : List Byte := ringRead s x r.start r.length
def payloadOf (r : DecRecord) (l : List Byte) : List Byte := sliceAt l 64 r.payload
def blockOf (r : DecRecord) (l : List Byte) : List Byte := l.drop (r.length - 32)

/-- The checks of R425, in order. -/
def claimFault (s : State) (x : Stream) (r : DecRecord) (l : List Byte) (c : Claims) : Option (Nat × Nat) :=
  let w := c.size.1
  let h := c.size.2
  let a := augOf x r (blockOf r l) w h
  let z := augSize a w h
  let limitK := rField s (aDecTenant x.tenant) 16 0
  firstFault
    [ (decide (crc32c (l.drop 64) ≠ r.body), (stBadParam, dtDataCorrupt)),
      (!c.inSubset, (stBadParam, dtCodecUnsupported)),
      (decide (1024 * limitK < w * h), (stLimitExceeded, dtPixelLimit)),
      (decide (8192 < w) || decide (8192 < h), (stLimitExceeded, dtGlobalLimit)),
      (decide (r.payload * rField s aDecExpansion 15 0 < w * h), (stLimitExceeded, dtExpansion)),
      (x.args.augMode ≠ 0 && r.hasAug && !blockOk (blockOf r l) w h, (stBadParam, dtAugParam)),
      (decide (decSlotBytes x < 64 + c.channels * (imgPitch x z.1 * z.2)), (stLimitExceeded, dtSlotSize)),
      (decide (65536 * x.args.work64k.toNat < c.work), (stLimitExceeded, dtWorkSize)) ]

/-- Checks 3 to 5 count in DEC_LIMITS. -/
def limitDetail (d : Nat) : Bool := d = dtPixelLimit || d = dtGlobalLimit || d = dtExpansion

/-- Change the record of a stream that starts at an offset of it: sequence numbers compare modulo 2^32, so two records that
are not delivered may share one. -/
def modRecord (s : State) (sid start : Nat) (f : DecRecord → DecRecord) : State :=
  modStream s sid fun x => { x with records := x.records.map fun r => if r.start = start then f r else r }

/-- A lane that holds no record completes its disable (R192). -/
def settleLane (s : State) (l : Nat) : State :=
  let x := getLane s l
  if leaving x.func ∧ x.job.isNone then
    let (s, f) := endFunc s 4 l x.func
    setLane s l { getLane s l with func := f }
  else s

/-- A lane lets go of its record, which counts as finished or aborted while the lane is disabled. -/
def freeLane (s : State) (l : Nat) (aborted : Bool) : State :=
  let x := getLane s l
  let f := x.func
  let f := if leaving f then
      if aborted then { f with aborted := f.aborted + 1 } else { f with finished := f.finished + 1 }
    else f
  settleLane (setLane s l { x with job := none, func := f }) l

/-- The record on a lane ends with a status; records in order are delivered. -/
def endLane (s : State) (l status detail : Nat) (aborted : Bool) : State :=
  match (getLane s l).job with
  | none => s
  | some (sid, start) =>
    let s := modRecord s sid start fun r => { r with
      done := some (status, detail), laneNs := (tbNs s 0 - r.started) % 2 ^ 32 }
    let s := freeLane s l aborted
    match getStream s sid with
    | none => s
    | some x => if x.state = 5 then closeDone s sid else deliverAll s sid

/-- The record on a lane and its stream. -/
def laneRecord (s : State) (l : Nat) : Option (Nat × Stream × DecRecord) :=
  match (getLane s l).job with
  | none => none
  | some (sid, start) =>
    match getStream s sid with
    | none => none
    | some x => (x.records.find? fun r => r.start = start).map fun r => (sid, x, r)

/-- The first line of a record's bytes that holds an uncorrectable error. -/
def recordBad (s : State) (x : Stream) (r : DecRecord) : Option Nat :=
  (ringPieces x r.start r.length).findSome? fun p => badLineIn s x.tenant p.1 p.2

/-- The record on a lane met an uncorrectable error (R435). -/
def eccLane (s : State) (l va : Nat) : State :=
  match laneRecord s l with
  | none => s
  | some (sid, x, r) =>
    let s := trace (countUncorr s) 8 x.tenant [0, 1, 0xFF]
    let s := event s x.tenant opEccEvent stEccUncorrectable dtEccHbm (eccPayload 0 1 0 r.seq sid 0xFF va)
    endLane s l stEccUncorrectable dtEccHbm false

/-- The walk for an access of a record on a lane found a corrupt table (R153, R435). -/
def tableLane (s : State) (l va : Nat) : State :=
  match laneRecord s l with
  | none => s
  | some (sid, x, r) =>
    let (s, id) := takeFaultId (countFault s x.tenant 0 3 va) x.tenant
    let s := event s x.tenant opFaultEvent stPageFault 0 (faultPayload id 0 r.seq sid 9 3 va 0xFF 1)
    endLane s l stPageFault 0 false

/-- Records of a stream that wait for a lane. -/
def waitingRecord (x : Stream) : Option DecRecord :=
  if x.args.lanesMax.toNat ≤ onLanes x then none
  else x.records.find? fun r => r.dispatched && r.lane.isNone && r.done.isNone

/-- The next number after one, in cyclic order of n, that satisfies p. -/
def nextAfter (n last : Nat) (p : Nat → Bool) : Option Nat :=
  ((List.range n).map fun k => (last + 1 + k) % n).find? p

def streamWaits (s : State) (t sid : Nat) : Bool :=
  match getStream s sid with
  | some x => x.tenant = t && x.state ≠ 5 && (waitingRecord x).isSome
  | none => false

/-- The tenant and stream whose record a free lane takes (R426). -/
def pickStream (s : State) : Option (Nat × Nat) :=
  match nextAfter 16 s.dec.lastTenant fun t => (List.range 64).any (streamWaits s t) with
  | none => none
  | some t => (nextAfter 64 (tabGet s.dec.lastStream 63 t) (streamWaits s t)).map fun sid => (t, sid)

/-- LANE_START: a free lane takes a record and checks its claims before it decodes. -/
def onLaneStart (l : Nat) (s : State) : State :=
  let x := getLane s l
  if !isRunning s || x.job.isSome || x.func.phase ≠ .enabled then s
  else
    match pickStream s with
    | none => s
    | some (t, sid) =>
      match getStream s sid with
      | none => s
      | some st =>
        match waitingRecord st with
        | none => s
        | some r =>
          let s := { s with dec := { s.dec with lastTenant := t, lastStream := tabSet s.dec.lastStream t sid } }
          let s := setLane s l { x with job := some (sid, r.start) }
          let bytes := recordBytes s st r
          let c := claimsOf r.codec (payloadOf r bytes)
          let s := modRecord s sid r.start fun r => { r with
            lane := some l, started := tbNs s 0, budget := 1000000 * rField s (aDecTenant t) 31 22,
            width := c.size.1, height := c.size.2 }
          match recordBad s st r with
          | some va => eccLane s l va
          | none =>
            match claimFault s st r bytes c with
            | none => s
            | some (status, detail) =>
              endLane (if limitDetail detail then incReg s aDecLimits 1 cap32 else s) l status detail false

/-- DECODE_FINISH: the lane's image stands in the record's slot, or its data was corrupt. -/
def onDecodeFinish (l : Nat) (s : State) : State :=
  if !isRunning s then s
  else
    match laneRecord s l with
    | none =>
      match (getLane s l).job with
      | none => s
      | some (sid, _) => closeDone (freeLane s l true) sid
    | some (sid, x, r) =>
      let bytes := recordBytes s x r
      let body := payloadOf r bytes
      match recordBad s x r, (if r.codec = 1 then jpegDecode body else pngDecode body) with
      | some va, _ => eccLane s l va
      | none, none => endLane s l stBadParam dtDataCorrupt false
      | none, some m =>
        let a := augOf x r (blockOf r bytes) m.width m.height
        let z := augSize a m.width m.height
        let s := (imageRows x m a).foldl (fun s p => storeBytes s x.tenant (outSlotVa x r.slot + p.1) p.2) s
        let s := modRecord s sid r.start fun r => { r with
          width := z.1, height := z.2, channels := m.channels, ops := a.ops, seeded := a.seeded }
        endLane s l stOk 0 false

/-- BUDGET_TIMEOUT: the record on a lane has passed its budget. -/
def onBudgetTimeout (l : Nat) (s : State) : State :=
  match laneRecord s l with
  | none => s
  | some (_, _, r) =>
    if isRunning s && decide (r.started + r.budget ≤ tbNs s 0) then
      endLane (incReg s aDecTimeouts 1 cap32) l stTimeout 0 false
    else s

def execLaneStart (lane : Fin 8) (s : State) : Out := .next (onLaneStart lane.val s)
def execDecodeFinish (lane : Fin 8) (s : State) : Out := .next (onDecodeFinish lane.val s)
def execBudgetTimeout (lane : Fin 8) (s : State) : Out := .next (onBudgetTimeout lane.val s)

/-! ## Disable, reclaim and registers (R419, R436, R440, R441) -/

/-- FUNC_DISABLE of a lane: under ABORT its record is abandoned. -/
def laneStop (s : State) (l : Nat) (abort : Bool) : State :=
  if abort then settleLane (endLane s l stAborted 0 true) l else settleLane s l

/-- At reclaim every stream of a tenant is closed, and no completion is sent. -/
def decReclaim (s : State) (t : Nat) : State :=
  let mine := (s.dec.streams.filter fun p => p.2.tenant = t).map fun p => p.1
  let s := { s with dec := { s.dec with streams := s.dec.streams.filter fun p => p.2.tenant ≠ t } }
  (List.range 8).foldl (fun s l =>
    match (getLane s l).job with
    | some (sid, _) => if mine.elem sid then freeLane s l true else s
    | none => s) s

def laneWord (s : State) (l : Nat) : Nat :=
  let x := getLane s l
  let st := match x.func.phase with
    | .disabled => 3
    | .draining => 2
    | .aborting => 4
    | .enabled => if x.job.isSome then 1 else 0
  match x.job with
  | some (sid, _) => sid * 65536 + (match getStream s sid with | some y => y.tenant | none => 0) * 256 + st
  | none => st

/-- DEC_S_STATE, HEAD, HOLES and SKIPPED of a stream. -/
def streamWord (s : State) (sid off : Nat) : Nat :=
  match getStream s sid with
  | none => 0
  | some x =>
    if off = 0 then undelivered x * 65536 + x.state
    else if off = 4 then x.head
    else if off = 8 then x.holes
    else x.dups * 65536 + x.resyncs

end Sys2Proof.Machine
end

