-- ==== Sys2Proof/Machine/Gptp.lean ====
section
/-! DEFINITION. Machine/Gptp.lean: network time: the servo and the states of a time base (R500 to R503),
port roles (R487), peer delay (R486, R495), Sync and Announce (R486, R487, R496), and TIME_READ (R499).
What R486 takes from IEEE 802.1AS without its text is PRESUMED (log entry 41): the order of BMCA, an announce interval
of 1 s and a receipt timeout of 3 intervals. -/

namespace Sys2Proof.Machine

open Sys2Proof

/-! ## Configuration -/

def timCfg (s : State) (b hi lo : Nat) : Nat := rField s (aTim b 0x0C) hi lo
def baseOn (s : State) (b : Nat) : Bool := timCfg s b 31 31 = 1
/-- The time processor runs the gPTP state machines. -/
def timeRuns (s : State) : Bool := (getProc s 3).state = .running

/-- gPTP runs on the port. -/
def gptpOn (s : State) (p : Nat) : Bool :=
  isRunning s && (getPort s p).link && portCfg s p 24 24 = 1 && baseOn s (ptpBase s p)

def modGptp (s : State) (p : Nat) (f : GptpPort → GptpPort) : State := modPort s p fun x => { x with gptp := f x.gptp }
def modBase (s : State) (b : Nat) (f : TimeBase → TimeBase) : State := setBase s b (f (getBase s b))

/-- An interval of 2^e seconds in PERI cycles. -/
def logTicks (e : Int) : Nat := secTicks * 2 ^ e.toNat / 2 ^ (-e).toNat
def logSync (s : State) (p : Nat) : Int := sInt 4 (rField s (aPort p 0x38) 31 28)
def logPdelay (s : State) (p : Nat) : Int := sInt 4 (rField s (aPort p 0x38) 27 24)

/-! ## Instants at the medium (R481, R494) -/

/-- 0.625 ns in 2^-16 ns, the resolution of a stamp (R493). -/
def stampUnit : Nat := 40960

def rxInstant (s : State) (p macStamp : Nat) : Frac := frSub (scaled ((macStamp / stampUnit * stampUnit : Nat) : Int)) (rxDelay s p)

/-! ## States of a time base (R501 to R503) -/

/-- Tenants that hear of a time base: the owner, and those with a pipe or stream context in it. -/
def baseTenants (s : State) (b : Nat) : List Nat :=
  0 :: (upFrom 1 15).filter fun t =>
    ((pipesOf s t).any fun p => rField s (aPipe p 0) 9 8 = b)
    || (List.range 48).any fun c => ctxHolder s c = some t && rField s (aCtx c 4) 31 30 = b

/-- TIME_EVENT. -/
def timeEvent (s : State) (b change : Nat) : State :=
  let pl := by1 b ++ by1 change ++ zeros 2 ++ le4 (tbStamp s b) ++ beBytes 8 (getBase s b).gm
  (baseTenants s b).foldl (fun s t => event s t opTimeEvent stOk 0 pl) s

/-- A time base changes state: the counts of R501 and R502 begin anew. -/
def setBaseState (s : State) (b new : Nat) : State :=
  let old := (getBase s b).state
  if old = new then s
  else
    let s := modBase s b fun x => { x with state := new, inBand := 0, outBand := 0, holdSyncs := 0 }
    if timeRuns s then trace s 15 0xFF [b, old, new] else s

/-- Holdover begins, from a state that gPTP has disciplined. -/
def enterHoldover (s : State) (b : Nat) : State :=
  let st := (getBase s b).state
  if st = 2 ∨ st = 3 ∨ st = 5 then
    let s := setBaseState s b 4
    timeEvent (setRegW s (aTim b 0x14) (regW s (aTim b 0x14) ||| 2 ^ 9)) b 2
  else if st = 4 then modBase s b fun x => { x with holdSyncs := 0 }
  else s

/-! ## A time base steps (R500, R504) -/

def shiftStep (b : Nat) (bound : Bool) (d : Frac) (st : Step) : Step :=
  let st := { st with deadline := st.deadline.map fun x => if x.1 = b then (x.1, frAdd x.2 d) else x }
  if bound then { st with ready := st.ready.map (frAdd d), f0 := frAdd st.f0 d, eligibleAt := frAdd st.eligibleAt d }
  else st

def shiftNat (d : Frac) (n : Nat) : Nat := (frFloor (frAdd (frOf (n : Nat)) d)).toNat

def shiftWall (d : Frac) (w : Wall) : Wall :=
  { w with claimAt := w.claimAt.map (shiftNat d),
           members := tabMap (fun _ m => { m with last := shiftNat d m.last, claim := m.claim.map (shiftNat d) }) w.members }

/-- The times of a port's line count in the new time. -/
def shiftEgress (d : Frac) (e : Egress) : Egress :=
  { e with lineFree := frAdd e.lineFree d, onLine := e.onLine.map fun x => (x.1, frAdd x.2.1 d, frAdd x.2.2 d),
           credit := tabMap (fun _ y => (y.1, frAdd y.2 d)) e.credit }

/-- A pipe in wall mode after a step: F^max is a grid instant of the moved grid, its deadline as far before it as it was,
and phase_ns tells how far the pipe's lines lie from that grid (R504). -/
def regrid (s : State) (p : Nat) : State :=
  if (timing s p).sync ≠ 3 then s
  else
    modPipe s p fun x =>
      let f := latestAfter s p x.time.last
      let ph := gridPhase (timing s p) x.time.last
      { x with time := { x.time with
        fmax := f, deadline := frSub f (frSub x.time.fmax x.time.deadline), phase := ph, locked := decide (ph.natAbs ≤ 50) } }

/-- The time base steps by d. -/
def timeStep (s : State) (b : Nat) (d : Frac) : State :=
  let inBase (p : Nat) : Bool := rField s (aPipe p 0) 9 8 = b
  let s := modBase s b fun x => { x with t := frMax {} (frAdd x.t d) }
  let s := ((List.range 8).filter fun p => inBase p && (getPipe s p).state ≠ 0).foldl (fun s p => regrid (modPipe s p (shiftPipe d)) p) s
  let s := { s with egress := tabMap (fun p e => if tsnBase s p = b then shiftEgress d e else e) s.egress }
  let s := if wallBase s = b then setWall s (shiftWall d s.net.wall) else s
  let bound (l : Loop) (st : Step) : Bool := match st.present <|> l.pipe with | some p => inBase p | none => false
  let move (l : Loop) : Loop := { l with queue := l.queue.map fun st => shiftStep b (bound l st) d st }
  { s with sched := { s.sched with loops := tabMap (fun _ l => move l) s.sched.loops } }

/-! ## The servo (R500) -/

def extOfFrac (f : Frac) : Ext := .fin (decide (f.num < 0)) f.num.natAbs f.den
def f64Of (x : Ext) : Nat := roundFmt x fp64 .ieee
def f64 (c : Nat) : Ext := decodeFmt fp64 c
/-- A finite value as a fraction. -/
def fracOf : Ext → Frac
  | .fin neg n d => fr (sgn neg n) d
  | _ => {}

/-- A product with 2^k, exact but for the range of the format. -/
def f64Scale (c : Nat) (k : Int) : Nat := f64Of ((f64 c).mul (.fin false (pow2Num k) (pow2Den k)))
def f64Sub (a b : Nat) : Nat := f64Of (sumZeroRule [f64 a, (f64 b).neg] (extSum [f64 a, (f64 b).neg]))
def f64Clamp (lim c : Nat) : Nat :=
  if extCmp (f64 c) (.fin false lim 1) > 0 then f64Of (.fin false lim 1)
  else if extCmp (f64 c) (.fin true lim 1) < 0 then f64Of (.fin true lim 1)
  else c

def servoLimit : Nat := 200000

/-- The rate of a step: (rate_ratio - 1.0) * 1e9, from the scaled rate offset of the Sync. -/
def stepRate (rateRatio : Int) : Nat := f64Of (.fin (decide (rateRatio < 0)) (rateRatio.natAbs * 1000000000) (2 ^ 41))

/-- The integral term and the rate after an offset, for an interval of 2^logT seconds. -/
def servoRates (i o kp ki : Nat) (logT : Int) : Nat × Nat :=
  let i := f64Clamp servoLimit (f64Sub i (f64Scale o (-logT - ki)))
  (i, f64Clamp servoLimit (f64Sub i (f64Scale o (-logT - kp))))

/-- TIM_OFFSET: the offset in whole ns, to nearest even, saturating. -/
def offsetNs (o : Frac) : Int :=
  max (-(2 ^ 31 : Int)) (min (2 ^ 31 - 1) (sgn (decide (o.num < 0)) (roundHalfEven o.num.natAbs o.den)))

/-- Locking and its loss (R501). -/
def countOffset (s : State) (b : Nat) (o : Frac) : State :=
  let a := fr o.num.natAbs o.den
  let s := modBase s b fun x => { x with
    inBand := if frLe a (frOf 100) then x.inBand + 1 else 0,
    outBand := if frLt (frOf 1000) a then x.outBand + 1 else 0 }
  let x := getBase s b
  if x.state = 2 ∧ 16 ≤ x.inBand then timeEvent (setBaseState s b 3) b 0
  else if x.state = 3 ∧ 4 ≤ x.outBand then timeEvent (setBaseState s b 2) b 1
  else s

/-- One offset acts on an acquiring or locked time base. -/
def servoStep (s : State) (b : Nat) (o : Frac) (logT rateRatio : Int) : State :=
  let x := getBase s b
  let oc := f64Of (extOfFrac o)
  let far := frLt (usNs (rField s (aTim b 0x10) 15 0)) (fracOf (f64 oc).abs)
  if (x.state = 2 ∧ x.first) ∨ far then
    let y := stepRate rateRatio
    let s := timeStep s b (fracOf (f64 oc).neg)
    countOffset (timeEvent (modBase s b fun z => { z with first := false, i := y, y := y }) b 5) b o
  else
    let r := servoRates x.i oc (rField s (aTim b 0x10) 23 20) (rField s (aTim b 0x10) 19 16) logT
    countOffset (modBase s b fun z => { z with i := r.1, y := r.2 }) b o

/-- A Sync with its origin known acts on the port's time base. In holdover it counts. -/
def useSync (s : State) (p : Nat) (m : SyncMsg) (origin : Nat) (corr rateRatio : Int) : State :=
  let b := ptpBase s p
  let delay := (getPort s p).gptp.delay.getD {}
  let o := frSub (rxInstant s p m.macStamp)
    (frAdd (frAdd (scaled origin) (scaled corr)) (frAdd delay (frOf (sInt 32 (regW s (aPort p 0x34))))))
  let s := modBase s b fun x => { x with offset := offsetNs o }
  let x := getBase s b
  match x.state with
  | 2 => servoStep s b o (logSync s p) rateRatio
  | 3 => servoStep s b o (logSync s p) rateRatio
  | 4 =>
    if 4 ≤ x.holdSyncs + 1 then timeEvent (modBase (setBaseState s b 2) b fun z => { z with first := false }) b 3
    else modBase s b fun z => { z with holdSyncs := z.holdSyncs + 1 }
  | _ => s

/-! ## BMCA (R487) -/

/-- The Ndovik's own clockIdentity: from the MAC address of port 0. -/
def ownClock : Nat := eui64 0 0

/-- Order of two priority vectors: the grandmaster's, then steps removed, then the sender. -/
def annKey (p1 cls acc var p2 id steps source : Nat) : Nat :=
  ((((((p1 * 256 + cls) * 256 + acc) * 2 ^ 16 + var) * 256 + p2) * 2 ^ 64 + id) * 2 ^ 17 + steps) * 2 ^ 64 + source

def annOf (m : AnnounceMsg) (more : Nat) : Nat :=
  annKey m.priority1.toNat m.clockClass.toNat m.accuracy.toNat m.variance.toNat m.priority2.toNat m.identity.toNat
    (m.stepsRemoved.toNat + more) m.source.toNat

/-- What the Ndovik announces of itself. -/
def ownKey (s : State) (b : Nat) : Nat :=
  annKey (timCfg s b 23 16) 248 0xFE 0x4E5D (timCfg s b 15 8) ownClock 0 ownClock

/-- Largest meanLinkDelay accepted. -/
def asCapable (s : State) (p : Nat) : Bool :=
  match (getPort s p).gptp.delay with
  | some d => frLe d (frOf (rField s (aPort p 0x38) 15 0))
  | none => false

def basePorts (s : State) (b : Nat) : List Nat :=
  (List.range 4).filter fun p => gptpOn s p && asCapable s p && ptpBase s p = b

/-- The best port of a domain, where its Announce is better than the Ndovik itself. -/
def bestPort (s : State) (b : Nat) : Option (Nat × AnnounceMsg) :=
  (basePorts s b).foldl (fun (acc : Option (Nat × AnnounceMsg)) p =>
    match (getPort s p).gptp.best with
    | none => acc
    | some m =>
      let k := annOf m 1
      match acc with
      | some (_, n) => if k < annOf n 1 then some (p, m) else acc
      | none => if k < ownKey s b then some (p, m) else none) none

/-- The role of a port, given the domain's slave port: passive where a better master is heard. -/
def roleOf (s : State) (b p : Nat) (sl : Option (Nat × AnnounceMsg)) : Nat :=
  if !(basePorts s b).elem p then 0
  else
    match sl, (getPort s p).gptp.best with
    | some (q, m), h =>
      if q = p then 1
      else
        let mine := annKey m.priority1.toNat m.clockClass.toNat m.accuracy.toNat m.variance.toNat m.priority2.toNat
          m.identity.toNat (m.stepsRemoved.toNat + 1) ownClock
        match h with
        | some n => if annOf n 0 < mine then 3 else 2
        | none => 2
    | none, _ => 2

def setRoles (s : State) (b : Nat) (sl : Option (Nat × AnnounceMsg)) : State :=
  ((List.range 4).filter fun p => ptpBase s p = b).foldl (fun s p =>
    let r := roleOf s b p sl
    modGptp s p fun g => { g with
      role := r, syncDue := if r = 2 ∧ g.role ≠ 2 then s.now else g.syncDue,
      announceDue := if r = 2 ∧ g.role ≠ 2 then s.now else g.announceDue }) s

/-- The domain has a grandmaster: another one is a change (R503), and of a disciplined base holdover. -/
def newMaster (s : State) (b gm : Nat) : State :=
  let x := getBase s b
  if x.gm = gm then s
  else
    timeEvent (modBase s b fun z => { z with gm := gm }) b 4

/-- A base of which the Ndovik becomes grandmaster leaves holdover, where it was in it (R503). -/
def leadBase (s : State) (b : Nat) : State :=
  let old := (getBase s b).state
  let s := setBaseState (newMaster s b ownClock) b 5
  if old = 4 then timeEvent s b 3 else s

/-- BMCA selects the roles of a domain (R487): a slave port disciplines the base; a capable Ndovik
without a better master is grandmaster. -/
def reselect (s : State) (b : Nat) : State :=
  if !timeRuns s || !baseOn s b || (getBase s b).state = 0 then s
  else
    let sl := bestPort s b
    let s := setRoles s b sl
    let old := getBase s b
    match sl with
    | some (p, m) =>
      let changed := old.gm ≠ m.identity.toNat
      let s := newMaster s b m.identity.toNat
      let s := if old.slave ≠ p ∨ changed ∨ old.state = 1 ∨ old.state = 5 then
          modBase s b fun z => { z with slave := p, lastSync := s.now } else s
      if old.state = 1 then modBase (setBaseState s b 2) b fun z => { z with first := true }
      else if changed ∨ old.state = 5 then enterHoldover s b
      else s
    | none =>
      if timCfg s b 23 16 ≠ 255 then leadBase s b
      else if old.state = 5 then enterHoldover s b
      else s

/-- The time processor starts: enabled bases run free until BMCA selects. -/
def timeStart (s : State) : State :=
  (List.range 4).foldl (fun s b =>
    if baseOn s b then reselect (if (getBase s b).state = 0 then setBaseState s b 1 else s) b else s) s

/-- The time processor restarts: the disciplined bases enter holdover (R502, R542). -/
def timeHold (s : State) : State := (List.range 4).foldl enterHoldover s

/-- An enabled base keeps its domain (R498). -/
def timLocked (s : State) (b off old new : Nat) : Bool := off = 0x0C && baseOn s b && bits old 30 24 ≠ bits new 30 24

/-- What forbids a write of TIM_CONFIG, on the state that the whole request would leave (R498). -/
def timRelation (s' : State) (b off : Nat) : Option (Nat × Nat) :=
  if off ≠ 0x0C then none
  else if baseOn s' b ∧ (List.range 4).any fun c => c ≠ b && baseOn s' c && timCfg s' c 30 24 = timCfg s' b 30 24 then
    some (stBadParam, dtValueRange)
  else none

/-- A base that gPTP no longer disciplines runs with y = 0. -/
def timEffect (s : State) (b off old new : Nat) : State :=
  if off ≠ 0x0C ∨ old = new then s
  else if !bit new 31 then
    let s := setBaseState (modBase s b fun x => { x with i := 0, y := 0, first := true }) b 0
    ((List.range 4).filter fun p => ptpBase s p = b).foldl (fun s p => modGptp s p fun g => { g with role := 0, best := none }) s
  else if timeRuns s then reselect (if (getBase s b).state = 0 then setBaseState s b 1 else s) b
  else s

/-! ## Received messages (R486) -/

def domainOk (s : State) (p : Nat) (d : BitVec 7) : Bool := d.toNat = timCfg s (ptpBase s p) 30 24

/-- The sender is the master that the slave port follows. -/
def fromMaster (s : State) (p : Nat) (source : BitVec 64) : Bool :=
  let x := getPort s p
  gptpOn s p && x.gptp.role = 1 && (getBase s (ptpBase s p)).slave = p
  && (match x.gptp.best with | some m => m.source = source | none => false)

/-- SYNC: one that brings its origin acts at once; a two-step one waits for its Follow_Up. -/
def onSync (p : Nat) (m : SyncMsg) (s : State) : State :=
  if !fromMaster s p m.source || !domainOk s p m.domain then s
  else
    let s := modBase s (ptpBase s p) fun x => { x with lastSync := s.now }
    if m.twoStep then modGptp s p fun g => { g with pending := some m }
    else useSync (modGptp s p fun g => { g with pending := none }) p m m.origin m.correction m.rateRatio

def onFollowUp (p : Nat) (m : FollowUpMsg) (s : State) : State :=
  match (getPort s p).gptp.pending with
  | none => s
  | some y =>
    if !fromMaster s p m.source || !domainOk s p m.domain || y.source ≠ m.source || y.sequence ≠ m.sequence then s
    else useSync (modGptp s p fun g => { g with pending := none }) p y m.origin m.correction m.rateRatio

/-- PDELAY_REQ: answered with its receipt time; as the answer leaves, the time of that follows (Egress.lean). -/
def onPdelayReq (p : Nat) (m : PdelayReqMsg) (s : State) : State :=
  if !gptpOn s p || !timeRuns s then s
  else
    out s (.gptp p 3 [m.source.toNat, m.sequence.toNat, toScaled (rxInstant s p m.macStamp)])

/-- meanLinkDelay from the four times of an exchange and the neighbour's rate, less 1, in 2^-41. -/
def meanDelay (t1 t2 t3 t4 : Frac) (rate : Int) : Frac :=
  let own := frSub t4 t1
  let d := frSub (frMul own (fr (2 ^ 41 + rate) (2 ^ 41))) (frSub t3 t2)
  fr d.num (2 * d.den)

/-- PDELAY_RESP: the exchange of the last request ends, and meanLinkDelay follows. -/
def onPdelayResp (p : Nat) (m : PdelayRespMsg) (s : State) : State :=
  let g := (getPort s p).gptp
  match g.pdelaySent with
  | none => s
  | some t1 =>
    if !gptpOn s p || !timeRuns s || m.sequence.toNat ≠ g.pdelaySeq then s
    else
      let d := meanDelay t1 (scaled m.receipt) (scaled m.transmit) (rxInstant s p m.macStamp) (Config.neighbourRate s.fresh)
      reselect (modGptp (draw s) p fun g => { g with delay := some d, pdelaySent := none }) (ptpBase s p)

/-- An Announce that names the Ndovik itself, or too far a grandmaster, says nothing. -/
def qualified (m : AnnounceMsg) : Bool := m.source.toNat ≠ ownClock && m.identity.toNat ≠ ownClock && decide (m.stepsRemoved.toNat < 255)

/-- ANNOUNCE: news of the current master, or of a better one. -/
def onAnnounce (p : Nat) (m : AnnounceMsg) (s : State) : State :=
  if !gptpOn s p || !timeRuns s || !domainOk s p m.domain || !qualified m then s
  else
    let take_ := match (getPort s p).gptp.best with
      | some n => n.source = m.source || decide (annOf m 0 < annOf n 0)
      | none => true
    if take_ then reselect (modGptp s p fun g => { g with best := some m, bestSeen := s.now }) (ptpBase s p) else s

def execSync (port : Fin 4) (m : SyncMsg) (s : State) : Out := .next (onSync port.val m (countGptp s port.val))
def execFollowUp (port : Fin 4) (m : FollowUpMsg) (s : State) : Out := .next (onFollowUp port.val m (countGptp s port.val))
def execPdelayReq (port : Fin 4) (m : PdelayReqMsg) (s : State) : Out := .next (onPdelayReq port.val m (countGptp s port.val))
def execPdelayResp (port : Fin 4) (m : PdelayRespMsg) (s : State) : Out := .next (onPdelayResp port.val m (countGptp s port.val))
def execAnnounce (port : Fin 4) (m : AnnounceMsg) (s : State) : Out := .next (onAnnounce port.val m (countGptp s port.val))

/-! ## Timers -/

/-- SYNC_INTERVAL_TIMER: a grandmaster sends Sync on its master ports; as it leaves, a one-step one takes its origin, else a
Follow_Up brings it (Egress.lean). Origin: whole ns, and the rest in 2^-16 ns. -/
def onSyncInterval (p : Nat) (s : State) : State :=
  let g := (getPort s p).gptp
  let b := ptpBase s p
  if !gptpOn s p || !timeRuns s || g.role ≠ 2 || (getBase s b).state ≠ 5 || decide (s.now < g.syncDue) then s
  else
    let seq := (g.syncSeq + 1) % 65536
    let d : Int := timCfg s b 30 24
    let s := modGptp s p fun g => { g with syncSeq := seq, syncDue := s.now + logTicks (logSync s p) }
    out s (.gptp p 0 [d, seq, (portCfg s p 25 25 : Nat)])

/-- PDELAY_INTERVAL_TIMER: as the request leaves, its instant is kept (Egress.lean). -/
def onPdelayInterval (p : Nat) (s : State) : State :=
  let g := (getPort s p).gptp
  if !gptpOn s p || !timeRuns s || decide (s.now < g.pdelayDue) then s
  else
    let seq := (g.pdelaySeq + 1) % 65536
    let s := modGptp s p fun g => { g with
      pdelaySeq := seq, pdelaySent := none, pdelayDue := s.now + logTicks (logPdelay s p) }
    out s (.gptp p 2 [seq])

/-- SYNC_TIMEOUT: three Sync intervals without a Sync. -/
def onSyncTimeout (b : Nat) (s : State) : State :=
  let x := getBase s b
  if isRunning s && (x.state = 2 || x.state = 3) && decide (x.lastSync + 3 * logTicks (logSync s x.slave) ≤ s.now) then
    enterHoldover s b
  else s

/-- ANNOUNCE_RECEIPT_TIMEOUT. -/
def onAnnounceTimeout (p : Nat) (s : State) : State :=
  let g := (getPort s p).gptp
  match g.best with
  | none => s
  | some m =>
    if gptpOn s p && timeRuns s && decide (g.bestSeen + 3 * logTicks (max (-7) (min 22 m.logInterval)) ≤ s.now) then
      reselect (modGptp s p fun g => { g with best := none }) (ptpBase s p)
    else s

/-- ANNOUNCE_INTERVAL_TIMER: a master port announces the Ndovik's own clock. -/
def onAnnounceInterval (p : Nat) (s : State) : State :=
  let g := (getPort s p).gptp
  let b := ptpBase s p
  if !gptpOn s p || !timeRuns s || g.role ≠ 2 || decide (s.now < g.announceDue) then s
  else
    let seq := (g.announceSeq + 1) % 65536
    let s := modGptp s p fun g => { g with announceSeq := seq, announceDue := s.now + secTicks }
    out s (.gptp p 5 [timCfg s b 30 24, seq, timCfg s b 23 16, 248, 0xFE, 0x4E5D, timCfg s b 15 8, ownClock, 0])

def execSyncIntervalTimer (port : Fin 4) (s : State) : Out := .next (onSyncInterval port.val s)
def execPdelayIntervalTimer (port : Fin 4) (s : State) : Out := .next (onPdelayInterval port.val s)
def execSyncTimeout (base : Fin 4) (s : State) : Out := .next (onSyncTimeout base.val s)
def execAnnounceReceiptTimeout (port : Fin 4) (s : State) : Out := .next (onAnnounceTimeout port.val s)
def execAnnounceIntervalTimer (port : Fin 4) (s : State) : Out := .next (onAnnounceInterval port.val s)

/-! ## Link changes -/

/-- gPTP of a port whose link came up: its timers are due. -/
def gptpUp (s : State) (p : Nat) : State :=
  modGptp s p fun _ => { pdelayDue := s.now, syncDue := s.now, announceDue := s.now }

/-- gPTP of a port that served a base and whose link goes down: a slave port's base enters holdover
(R502). -/
def gptpDown (s : State) (p b : Nat) : State :=
  let wasSlave := (getPort s p).gptp.role = 1
  let s := modGptp s p fun _ => {}
  reselect (if wasSlave then enterHoldover s b else s) b

/-! ## TIME_READ and registers (R498, R499) -/

def timeEntry (s : State) (b : Nat) : List Byte :=
  leBytes 6 (tbSec s b) ++ zeros 2 ++ le4 (tbStamp s b) ++ by1 (getBase s b).state ++ zeros 3

def onTimeRead (rq : Req) (s : State) : State :=
  take (.timeRead rq) s fun op _ _ rq => replyOk s op rq ((List.range 4).map (timeEntry s)).flatten

def execTimeRead (rq : Req) (s : State) : Out := .next (onTimeRead rq (hear rq s))

/-- y in units of 1/1,024 ppb. -/
def rateUnits (y : Nat) : Int :=
  match f64 y with
  | .fin neg n d => sgn neg (roundHalfEven (1024 * n) d)
  | _ => 0

/-- TIM_STATUS but for holdover_seen. -/
def timStatusLive (s : State) (b : Nat) : Nat :=
  let x := getBase s b
  256 * boolNat (x.state = 4) + 16 * x.slave + x.state

end Sys2Proof.Machine
end

