-- ==== Sys2Proof/Machine/Sensors.lean ====
section
/-! DEFINITION. Machine/Sensors.lean: CSI-2 receivers and TDM ports (R390 to R395, R408 to R413), stream
contexts and their records (R396 to R404), and host-fed media (R412). -/

namespace Sys2Proof.Machine

open Sys2Proof

/-! ## Hole reasons (R402) and time -/

def hrRingFull : Nat := 1
def hrPacketError : Nat := 2
def hrIncomplete : Nat := 4
def hrOversize : Nat := 8
def hrOverflow : Nat := 16
def hrOrphaned : Nat := 32
def hrSyncLoss : Nat := 64
def hrHostGap : Nat := 128

def lostTicks (s : State) : Nat := msTicks * rField s aSnsConfig 31 16
def frameTicks (s : State) : Nat := msTicks * rField s aSnsConfig 15 0

/-! ## Context registers (R397) -/

def ctxKind (s : State) (c : Nat) : Nat := rField s (aCtx c 0) 31 30
def ctxUnit (s : State) (c : Nat) : Nat := rField s (aCtx c 0) 27 24
def ctxVc (s : State) (c : Nat) : Nat := rField s (aCtx c 0) 21 20
def ctxSelect (s : State) (c : Nat) : Nat := rField s (aCtx c 0) 15 0
def ctxBase (s : State) (c : Nat) : Nat := rField s (aCtx c 4) 31 30
def ctxFrames (s : State) (c : Nat) : Nat := rField s (aCtx c 4) 11 0
def ctxOn (s : State) (c : Nat) : Bool := (getCtx s c).func.phase ≠ .disabled
/-- The context takes new records. -/
def ctxTakes (s : State) (c : Nat) : Bool := (getCtx s c).func.phase = .enabled
def modCtx (s : State) (c : Nat) (f : Context → Context) : State := setCtx s c (f (getCtx s c))

/-- Enabled contexts that a camera packet or a port concerns. -/
def camerasOn (s : State) (r vc : Nat) : List Nat :=
  (List.range 48).filter fun c => ctxOn s c && ctxKind s c = 1 && ctxUnit s c = r && ctxVc s c = vc
def arraysOn (s : State) (p : Nat) : List Nat :=
  (List.range 48).filter fun c => ctxOn s c && ctxKind s c = 2 && ctxUnit s c = p

/-- Channels of a microphone array, in ascending slot order. -/
def channels (s : State) (c : Nat) : List Nat := (List.range 16).filter (bit (ctxSelect s c))

/-! ## Holes, and the end of a disable (R399, R402) -/

/-- n records of a context are lost for a reason. -/
def addHoles (s : State) (c n why : Nat) : State :=
  if n = 0 then s
  else modCtx s c fun x => { x with
    reasons := x.reasons ||| why, holes := satAdd x.holes n cap32, before := x.before + n,
    beforeWhy := x.beforeWhy ||| why }

/-- A record that is not written: a hole, or, while the context is being disabled, a dropped record. -/
def loseOne (s : State) (c why : Nat) : State :=
  if leaving (getCtx s c).func then
    modCtx s c fun x => { x with func := { x.func with aborted := x.func.aborted + 1 } }
  else addHoles s c 1 why

/-- A context being disabled is idle once it captures nothing. -/
def settleCtx (s : State) (c : Nat) : State :=
  let x := getCtx s c
  let idle : Bool := match x.current with | none => true | some r => r.lost ≠ 0
  if leaving x.func ∧ idle then
    let y := endFunc s 3 c x.func
    modCtx y.1 c fun z => { z with func := y.2, current := none }
  else s

/-- The record in progress is lost. A camera or host-fed record ends; a block of samples runs on to its
last frame. -/
def loseCurrent (s : State) (c why : Nat) : State :=
  match (getCtx s c).current with
  | none => s
  | some r =>
    if r.lost ≠ 0 then s
    else
      let keep := ctxKind s c = 2
      settleCtx (modCtx (loseOne s c why) c fun x => { x with
        current := if keep then some { r with lost := why } else none }) c

/-! ## Slots and records (R400, R401) -/

def slotVa (s : State) (c k : Nat) : Nat := ctxRing s c + k * ctxSlotBytes s c

def slotUsable (s : State) (t c k : Nat) : Bool :=
  hbmLe s t (slotVa s c k + 4) 1 = 0 && freeOfCommands s t (slotVa s c k) (ctxSlotBytes s c)

/-- Largest payload of a slot. -/
def slotRoom (s : State) (c : Nat) : Nat := ctxSlotBytes s c - 64

def ctxTenant (s : State) (c : Nat) : Nat := (ctxHolder s c).getD 0

/-- The tenant has a partition and no session: what its contexts receive is dropped (R122). -/
def ctxOrphan (s : State) (c : Nat) : Bool :=
  let st := (getTen s (ctxTenant s c)).state
  st = .orphaned || st = .fallback

def newRecord (s : State) (c seq frame : Nat) : Record :=
  { seq := seq, slot := (getCtx s c).nextSlot, start := tbStamp s (ctxBase s c), startSec := tbSec s (ctxBase s c),
    last := tbStamp s (ctxBase s c), opened := s.now, frame := frame, width := 0, height := 0, bytes := 0, pitch := 0,
    data := [], lost := 0, fixed := false, words := 0 }

/-- A source offers a record: it takes the next sequence number, and slot next_slot if that is usable
(R401, R402). -/
def openRecord (s : State) (c frame : Nat) : State :=
  let x := getCtx s c
  let seq := (x.offered + 1) % 2 ^ 32
  let s := modCtx s c fun x => { x with offered := seq, current := some (newRecord s c seq frame) }
  if ctxOrphan s c then loseCurrent s c hrOrphaned
  else if slotUsable s (ctxTenant s c) c x.nextSlot then s
  else loseCurrent s c hrRingFull

def recordHeader (s : State) (c : Nat) (x : Context) (r : Record) : List Byte :=
  le4 r.seq ++ by1 1 ++ by1 (ctxKind s c) ++ by1 (boolNat x.changed + 2 * boolNat r.fixed) ++ by1 x.beforeWhy
  ++ le4 r.start ++ le4 r.last ++ leBytes 6 r.startSec ++ le2 (0x1000 + c) ++ le2 (min x.before 65535) ++ le2 r.frame
  ++ le2 r.width ++ le2 r.height ++ le4 r.bytes ++ le4 r.pitch ++ zeros 24

/-- The record in progress is written whole into its slot, and the context moves on to the next. -/
def writeRecord (s : State) (c : Nat) : State :=
  let x := getCtx s c
  match x.current with
  | none => s
  | some r =>
    if r.lost ≠ 0 then settleCtx (modCtx s c fun x => { x with current := none }) c
    else
      let s := storeBytes s (ctxTenant s c) (slotVa s c r.slot) (recordHeader s c x r ++ r.data.reverse.flatten)
      settleCtx (modCtx s c fun x => { x with
        current := none, head := r.seq, before := 0, beforeWhy := 0, changed := false,
        nextSlot := if r.slot + 1 < ctxSlots s c then r.slot + 1 else 0,
        func := if leaving x.func then { x.func with finished := x.func.finished + 1 } else x.func }) c

/-! ## Source events (R409) -/

def sourcePayload (s : State) (unitKind unit change vc dt words rows : Nat) : List Byte :=
  by1 unitKind ++ by1 unit ++ by1 change ++ by1 vc ++ by1 dt ++ zeros 1 ++ le2 words ++ le2 rows ++ zeros 2
  ++ le4 (tbStamp s 0)

/-- To the owner tenant, and to every tenant with an enabled context that a change concerns. -/
def sourceEvent (s : State) (ctxs : List Nat) (payload : List Byte) : State :=
  ((0 :: ctxs.map (ctxTenant s)).eraseDups).foldl (fun s t => event s t opSnsSourceEvent stOk 0 payload) s

def camerasOf (s : State) (r : Nat) : List Nat :=
  (List.range 48).filter fun c => ctxOn s c && ctxKind s c = 1 && ctxUnit s c = r

def linkChange (s : State) (r : Nat) (up : Bool) : State :=
  sourceEvent s (camerasOf s r) (sourcePayload s 0 r (if up then 3 else 4) 0 0 0 0)

def portBits (s : State) (p : Nat) : Nat :=
  (rField s (aTdm p 0) 3 0 + 1) * (match rField s (aTdm p 0) 25 24 with | 0 => 16 | 1 => 24 | _ => 32)

def portEvent (s : State) (p change : Nat) : State :=
  sourceEvent s (arraysOn s p) (sourcePayload s 1 p change 0 0 (portBits s p) 0)

/-! ## Receivers (R390 to R393) -/

/-- Long packet types that a receiver stores (R391): bits per pixel. -/
def pixelBits (dt : Nat) : Option Nat :=
  if dt = 0x12 ∨ dt = 0x2A ∨ (0x30 ≤ dt ∧ dt ≤ 0x37) then some 8
  else if dt = 0x1E ∨ dt = 0x22 then some 16
  else if dt = 0x24 then some 24
  else if dt = 0x2B then some 10
  else if dt = 0x2C then some 12
  else none

/-- Short packets that a receiver ignores. -/
def ignoredType (dt : Nat) : Bool := dt = 2 || dt = 3 || (decide (8 ≤ dt) && decide (dt ≤ 15))

/-- RAW10: pixel i of a group is (b_i << 2) | ((b4 >> 2i) & 3) (R392). -/
def raw10 (g : List Byte) : List Byte :=
  ((List.range 4).map fun i => le2 (leAt g i 1 * 4 + leAt g 4 1 / 4 ^ i % 4)).flatten
/-- RAW12 (R392). -/
def raw12 (g : List Byte) : List Byte :=
  le2 (leAt g 0 1 * 16 + leAt g 2 1 % 16) ++ le2 (leAt g 1 1 * 16 + leAt g 2 1 / 16)

/-- A row as it is stored. -/
def storedRow (dt : Nat) (d : List Byte) : List Byte :=
  if dt = 0x2B then ((List.range (d.length / 5)).map fun k => raw10 ((d.drop (5 * k)).take 5)).flatten
  else if dt = 0x2C then ((List.range (d.length / 3)).map fun k => raw12 ((d.drop (3 * k)).take 3)).flatten
  else d

def rxOn (s : State) (r : Nat) : Bool := bit (regW s (aCsi r 0)) 31
def modRx (s : State) (r : Nat) (f : Receiver → Receiver) : State := setRx s r (f (getRx s r))

/-- One of the error counts of a receiver, each stopping at 255. -/
def countRx (s : State) (r lo : Nat) : State :=
  modRx s r fun x => { x with errors := putBits x.errors (lo + 7) lo (min (bits x.errors (lo + 7) lo + 1) 255) }

/-- A packet arrives: its header is corrected and counted, or discarded and counted. k runs where the
packet stands, told whether it was corrected. -/
def packet (s : State) (r : Nat) (h : CsiHeader) (k : State → Bool → State) : State :=
  if !isRunning s || !rxOn s r || decide ((getRx s r).state < 2) then s
  else
    let s := modRx s r fun x => { x with state := 3, lastPacket := s.now }
    match h with
    | .good => k s false
    | .corrected => k (countRx s r 24) true
    | .uncorrectable => countRx s r 16

def frameOf (s : State) (r vc : Nat) : Option CsiFrame := tabFind (getRx s r).frames vc
/-- Pixels of a row (R392). -/
def rowWidth (dt words : Nat) : Nat := words * 8 / (pixelBits dt).getD 8
def setFrame (s : State) (r vc : Nat) (f : Option CsiFrame) : State :=
  modRx s r fun x => { x with frames := match f with | some f => tabSet x.frames vc f | none => tabErase x.frames vc }

/-- CSI_FRAME_START: a frame still open is lost as INCOMPLETE; the new one opens a record on each
bound context. -/
def onFrameStartCsi (r vc number : Nat) (h : CsiHeader) (s : State) : State :=
  packet s r h fun s fixed =>
    let s := (camerasOn s r vc).foldl (fun s c => loseCurrent s c hrIncomplete) s
    let s := setFrame s r vc (some { number := number, start := s.now, fixed := fixed })
    ((camerasOn s r vc).filter (ctxTakes s)).foldl (fun s c => openRecord s c number) s

/-- A packet of a frame was wrong: the frame that contains it is lost. -/
def spoilFrame (s : State) (r vc : Nat) (f : CsiFrame) : State :=
  (camerasOn s r vc).foldl (fun s c => loseCurrent s c hrPacketError) (setFrame s r vc (some { f with bad := true }))

/-- One row joins the record of a context. -/
def addRow (s : State) (c dt wc : Nat) (row : List Byte) : State :=
  match (getCtx s c).current with
  | none => s
  | some x =>
    let pitch := if x.height = 0 then roundUp row.length 64 else x.pitch
    let bytes := (x.height + 1) * pitch
    if slotRoom s c < bytes then loseCurrent s c hrOversize
    else modCtx s c fun y => { y with current := some { x with
      width := rowWidth dt wc, height := x.height + 1, pitch := pitch, bytes := bytes,
      data := fit pitch row :: x.data } }

/-- A header corrected in an open frame marks its records (R400). -/
def markFixed (s : State) (r vc : Nat) (fixed : Bool) : State :=
  match frameOf s r vc with
  | some f => if fixed then setFrame s r vc (some { f with fixed := true }) else s
  | none => s

/-- A frame that carries a source keeps it in the table from its start on (R408). -/
def touchSource (s : State) (r vc dt start : Nat) : State :=
  modRx s r fun y => { y with sources := y.sources.map fun z =>
    if z.vc = vc ∧ z.dataType = dt then { z with seen := start } else z }

/-- CSI_LONG_PACKET: one row, or the end of its frame's hopes on a CRC or word-count error. -/
def onCsiLong (r vc dt : Nat) (h : CsiHeader) (wc : Nat) (crcOk : Bool) (data : List Byte) (s : State) : State :=
  packet s r h fun s fixed =>
    let s := markFixed s r vc fixed
    match pixelBits dt with
    | none => countRx s r 0
    | some _ =>
      let s := if crcOk then s else countRx s r 8
      match frameOf s r vc with
      | none => s
      | some f =>
        let s := touchSource s r vc dt f.start
        let seen := f.types.find? fun x => x.1 = dt
        let wrong := match seen with | some x => decide (x.2.1 ≠ wc) | none => false
        if !crcOk || wrong then spoilFrame s r vc f
        else
          let types := match seen with
            | some _ => f.types.map fun x => if x.1 = dt then (x.1, x.2.1, x.2.2 + 1) else x
            | none => f.types ++ [(dt, wc, 1)]
          let s := setFrame s r vc (some { f with types := types })
          ((camerasOn s r vc).filter fun c => ctxSelect s c % 64 = dt).foldl
            (fun s c => addRow s c dt wc (storedRow dt data)) s

/-- A source of a complete, error-free frame enters the table, or is found changed (R408). -/
def noteSource (s : State) (r vc : Nat) (f : CsiFrame) (x : Nat × Nat × Nat) : State :=
  let rx := getRx s r
  let bound := (camerasOn s r vc).filter fun c => ctxSelect s c % 64 = x.1
  let say := fun (s : State) change =>
    bound.foldl (fun s c => modCtx s c fun y => { y with changed := true })
      (sourceEvent s bound (sourcePayload s 0 r change vc x.1 x.2.1 x.2.2))
  let here : Source := { vc := vc, dataType := x.1, words := x.2.1, rows := x.2.2, seen := f.start }
  match rx.sources.find? fun q => q.vc = vc && q.dataType = x.1 with
  | some q =>
    let s := modRx s r fun y => { y with
      sources := y.sources.map fun z => if z.vc = vc ∧ z.dataType = x.1 then here else z }
    if rowWidth x.1 q.words = rowWidth x.1 x.2.1 ∧ q.rows = x.2.2 then s else say s 2
  | none =>
    if rx.sources.length < 8 then say (modRx s r fun y => { y with sources := y.sources ++ [here] }) 0
    else countRx s r 0

/-- CSI_FRAME_END: the sources of the frame are noted, and each bound context's record is written. -/
def onFrameEndCsi (r vc : Nat) (h : CsiHeader) (s : State) : State :=
  packet s r h fun s fixed =>
    match frameOf s r vc with
    | none => s
    | some f =>
      let s := setFrame s r vc none
      let s := if f.bad then s else f.types.foldl (fun s x => noteSource s r vc f x) s
      (camerasOn s r vc).foldl (fun s c =>
        writeRecord (modCtx s c fun x => { x with current := x.current.map fun y =>
          { y with last := tbStamp s (ctxBase s c), fixed := f.fixed || fixed } }) c) s

/-- CSI_IGNORED_PACKET: Line Start, Line End and generic short packets do nothing but show their header; what the receiver
does not support is counted. -/
def onCsiIgnored (r vcExt dt : Nat) (h : CsiHeader) (s : State) : State :=
  packet s r h fun s fixed =>
    let s := markFixed s r vcExt fixed
    if 4 ≤ vcExt ∨ (!ignoredType dt ∧ dt ≠ 0 ∧ dt ≠ 1 ∧ (pixelBits dt).isNone) then countRx s r 0 else s

def execCsiFrameStart (rx : Fin 12) (vc : Fin 4) (number : Half) (header : CsiHeader) (s : State) : Out :=
  .next (onFrameStartCsi rx.val vc.val number.toNat header s)
def execCsiFrameEnd (rx : Fin 12) (vc : Fin 4) (header : CsiHeader) (s : State) : Out :=
  .next (onFrameEndCsi rx.val vc.val header s)
def execCsiLongPacket (rx : Fin 12) (vc : Fin 4) (dataType : BitVec 6) (header : CsiHeader) (wordCount : Half)
    (crcOk : Bool) (data : List Byte) (s : State) : Out :=
  .next (onCsiLong rx.val vc.val dataType.toNat header wordCount.toNat crcOk data s)
def execCsiIgnoredPacket (rx : Fin 12) (vcExt : BitVec 4) (dataType : BitVec 6) (header : CsiHeader) (s : State) : Out :=
  .next (onCsiIgnored rx.val vcExt.toNat dataType.toNat header s)

/-- FRAME_TIMEOUT: no Frame End came in time (R402). -/
def onFrameTimeout (c : Nat) (s : State) : State :=
  match (getCtx s c).current with
  | none => s
  | some r =>
    if isRunning s && ctxKind s c = 1 && decide (r.opened + frameTicks s ≤ s.now) then loseCurrent s c hrIncomplete
    else s

def execFrameTimeout (ctx : Fin 48) (s : State) : Out := .next (onFrameTimeout ctx.val s)

/-- A frame under way on a source's channel, begun within lost_ms, may carry it still. -/
def mayCarry (s : State) (r vc : Nat) : Bool :=
  match frameOf s r vc with
  | some f => decide (s.now < f.start + lostTicks s)
  | none => false

/-- SOURCE_LOST: no frame that carries the source has started for lost_ms. -/
def onSourceLost (r vc dt : Nat) (s : State) : State :=
  match (getRx s r).sources.find? fun q => q.vc = vc && q.dataType = dt with
  | none => s
  | some q =>
    if !isRunning s || decide (s.now < q.seen + lostTicks s) || mayCarry s r vc then s
    else
      let s := modRx s r fun y => { y with sources := y.sources.filter fun z => !(z.vc = vc && z.dataType = dt) }
      sourceEvent s ((camerasOn s r vc).filter fun c => ctxSelect s c % 64 = dt)
        (sourcePayload s 0 r 1 vc dt q.words q.rows)

def execSourceLost (rx : Fin 12) (vc : Fin 4) (dataType : BitVec 6) (s : State) : Out :=
  .next (onSourceLost rx.val vc.val dataType.toNat s)

/-- CSI_LINK_CHANGE: the clock lane, or the stop state of the data lanes, came or went. -/
def onCsiLink (r : Nat) (link : Bool) (mbps : Nat) (s : State) : State :=
  if !isRunning s || !rxOn s r || (link && !bit s.chip.clk 6) then s
  else if link then
    if (getRx s r).state < 2 then linkChange (modRx s r fun x => { x with state := 2, mbps := mbps }) r true
    else modRx s r fun x => { x with mbps := mbps }
  else if 2 ≤ (getRx s r).state then linkChange (modRx s r fun x => { x with state := 1, mbps := 0 }) r false
  else s

def execCsiLinkChange (rx : Fin 12) (link : Bool) (mbps : Half) (s : State) : Out :=
  .next (onCsiLink rx.val link mbps.toNat s)

/-- NO_PACKETS_TIMEOUT: a receiver with a link has seen no packet for lost_ms. -/
def onNoPackets (r : Nat) (s : State) : State :=
  let x := getRx s r
  if isRunning s && x.state = 3 && decide (x.lastPacket + lostTicks s ≤ s.now) then
    modRx s r fun y => { y with state := 2 }
  else s

def execNoPacketsTimeout (rx : Fin 12) (s : State) : Out := .next (onNoPackets rx.val s)

/-- A write of a receiver's CONFIG switches it on or off. -/
def csiEffect (s : State) (r old new : Nat) : State :=
  if bit new 31 == bit old 31 then s
  else if bit new 31 then modRx s r fun x => { x with state := 1, mbps := 0 }
  else
    let up := decide (2 ≤ (getRx s r).state)
    let s := modRx s r fun x => { x with state := 0, mbps := 0, frames := [] }
    if up then linkChange s r false else s

/-! ## TDM ports (R394) -/

def tdmOn (s : State) (p : Nat) : Bool := bit (regW s (aTdm p 0)) 31
def modTdm (s : State) (p : Nat) (f : TdmPort → TdmPort) : State := setTdm s p (f (getTdm s p))
def sampleBitsOf (s : State) (p : Nat) : Nat := match rField s (aTdm p 0) 21 20 with | 0 => 16 | 1 => 24 | _ => 32

/-- A port leaves LOCKED: its blocks in progress are lost, and the next record says so. -/
def unlockPort (s : State) (p : Nat) : State :=
  let s := (arraysOn s p).foldl (fun s c =>
    modCtx (loseCurrent s c hrSyncLoss) c fun x => { x with changed := true, current := none }) s
  (arraysOn s p).foldl settleCtx (portEvent (modTdm s p fun x => { x with state := 2, run := 0, hz := 0 }) p 6)

/-- One frame of samples for a context: its channels, the sample in the top bits (R400). -/
def frameSamples (s : State) (p c : Nat) (samples : List Word) : List Byte :=
  ((channels s c).map fun k =>
    le4 ((samples.getD k 0).toNat % 2 ^ sampleBitsOf s p * 2 ^ (32 - sampleBitsOf s p))).flatten

def addSamples (s : State) (p : Nat) (samples : List Word) (c : Nat) : State :=
  let s := if (getCtx s c).current.isNone ∧ ctxTakes s c then openRecord s c 0 else s
  match (getCtx s c).current with
  | none => s
  | some x =>
    let data := frameSamples s p c samples
    let s := modCtx s c fun y => { y with current := some { x with
      width := (channels s c).length, height := x.height + 1, bytes := x.bytes + data.length,
      last := tbStamp s (ctxBase s c), data := data :: x.data } }
    let s := if slotRoom s c < x.bytes + data.length then loseCurrent s c hrOversize else s
    if ctxFrames s c ≤ x.height + 1 then writeRecord s c else s

/-- TDM_FRAME: a frame of a port, taken at its frame-sync edge. -/
def onTdmFrame (p clocks : Nat) (samples : List Word) (hz : Nat) (s : State) : State :=
  let x := getTdm s p
  if !isRunning s || !tdmOn s p || decide (x.state < 2) then s
  else
    let good := clocks = portBits s p
    let s := modTdm s p fun y => { y with last := s.now, clocks := clocks }
    if x.state = 3 then
      if good then
        let s := modTdm s p fun y => { y with hz := hz }
        (arraysOn s p).foldl (fun s c => addSamples s p samples c) s
      else unlockPort s p
    else if good then
      if 4 ≤ x.run + 1 then portEvent (modTdm s p fun y => { y with state := 3, run := x.run + 1, hz := hz }) p 5
      else modTdm s p fun y => { y with run := x.run + 1 }
    else modTdm s p fun y => { y with run := 0 }

def execTdmFrame (port : Fin 6) (bitClocks : Nat) (samples : List Word) (hz : Nat) (s : State) : Out :=
  .next (onTdmFrame port.val bitClocks samples hz s)

/-- Two frame periods have passed since the last frame sync of a locked port. -/
def twoPeriods (s : State) (p : Nat) : Bool :=
  let x := getTdm s p
  x.hz = 0 || decide (x.last + 2 * secTicks / x.hz ≤ s.now)

/-- TDM_SYNC_TIMEOUT. -/
def onTdmSync (p : Nat) (s : State) : State :=
  if isRunning s && (getTdm s p).state = 3 && twoPeriods s p then unlockPort s p else s

def execTdmSyncTimeout (port : Fin 6) (s : State) : Out := .next (onTdmSync port.val s)

/-- BIT_CLOCK_LOSS: no bit clock for two expected frame periods (R408). -/
def onBitClockLoss (p : Nat) (s : State) : State :=
  let x := getTdm s p
  if !isRunning s || decide (x.state < 2) || !twoPeriods s p then s
  else
    let s := if x.state = 3 then unlockPort s p else s
    portEvent (modTdm s p fun y => { y with state := 1, run := 0 }) p 4

/-- BIT_CLOCK_DETECTED (R409). -/
def onBitClockDetected (p : Nat) (s : State) : State :=
  if isRunning s && (getTdm s p).state = 1 then portEvent (modTdm s p fun y => { y with state := 2, run := 0 }) p 3
  else s

def execBitClockLoss (port : Fin 6) (s : State) : Out := .next (onBitClockLoss port.val s)
def execBitClockDetected (port : Fin 6) (s : State) : Out := .next (onBitClockDetected port.val s)

/-- A write of a port's CONFIG: switched on it waits for a clock, switched off it stops. A locked port that expects another
frame length from now on unlocks at the next frame that has not got it (R394). -/
def tdmEffect (s : State) (p old new : Nat) : State :=
  let x := getTdm s p
  if bit new 31 && !bit old 31 then modTdm s p fun y => { y with state := 1, run := 0, hz := 0 }
  else if !bit new 31 && bit old 31 then
    let s := if x.state = 3 then unlockPort s p else s
    let s := if 2 ≤ x.state then portEvent s p 4 else s
    modTdm s p fun y => { y with state := 0, run := 0, hz := 0 }
  else s

/-- FIFO_OVERFLOW: the records in progress of a unit are lost (R395). -/
def onFifoOverflow (site : FifoSite) (s : State) : State :=
  if !isRunning s then s
  else
    match site with
    | .csi r => (camerasOf s r.val).foldl (fun s c => loseCurrent s c hrOverflow) s
    | .tdm p => (arraysOn s p.val).foldl (fun s c => loseCurrent s c hrOverflow) s

def execFifoOverflow (site : FifoSite) (s : State) : Out := .next (onFifoOverflow site s)

/-! ## Host-fed media (R412) -/

/-- The full time whose low 32 bits a host gave, nearest to now (DEDUCED, log entry 38). -/
def stampSec (s : State) (b stamp : Nat) : Nat :=
  let now := tbNs s b
  let d : Int := sInt 32 ((stamp + 2 ^ 32 - now % 2 ^ 32) % 2 ^ 32)
  ((now : Int) + d).toNat / 1000000000 % 2 ^ 48

def feedChecks (s : State) (t : Nat) (a : SnsFeedArgs) : List (Bool × (Nat × Nat)) :=
  let c := a.context.toNat
  let x := getCtx s c
  let first := bit a.flags.toNat 0
  [ (decide (8 ≤ a.flags.toNat) || a.reserved0 ≠ 0 || a.reserved1 ≠ 0, (stBadParam, dtReservedNonzero)),
    (decide (48 ≤ c) || ctxHolder s c ≠ some t, (stNotPermitted, dtPermissionClass)),
    (decide (x.func.phase ≠ .enabled), (stNotEnabled, 0)),
    (decide (ctxKind s c ≠ 3), (stBadParam, dtContextKind)),
    (first && !newer a.sequence.toNat x.offered, (stBadParam, dtFeedSequence)) ]

/-- A chunk that is not first continues the record in progress. -/
def continues (x : Context) (a : SnsFeedArgs) : Bool :=
  match x.current with
  | some r => r.seq = a.sequence.toNat && r.bytes = a.offset.toNat
  | none => false

/-- The sequence numbers that a first chunk skips are lost: those refused for want of a slot as
RING_FULL, the rest as HOST_GAP. -/
def skipSequences (s : State) (c seq : Nat) : State :=
  let x := getCtx s c
  let n := (seq + 2 ^ 32 - x.offered - 1) % 2 ^ 32
  let full := (x.full.filter fun q => newer q x.offered && newer seq q).eraseDups.length
  let s := addHoles (addHoles s c full hrRingFull) c (n - full) hrHostGap
  modCtx s c fun x => { x with offered := seq, full := [] }

def feedOpen (s : State) (c : Nat) (a : SnsFeedArgs) : State :=
  let b := ctxBase s c
  let arrival := bit a.flags.toNat 2
  let s := skipSequences (loseCurrent s c hrIncomplete) c a.sequence.toNat
  modCtx s c fun x => { x with current := some { newRecord s c a.sequence.toNat 0 with
    start := if arrival then tbStamp s b else a.stamp.toNat,
    startSec := if arrival then tbSec s b else stampSec s b a.stamp.toNat,
    width := a.width.toNat, height := a.height.toNat } }

def onSnsFeed (rq : Req) (a : SnsFeedArgs) (s : State) : State :=
  take (.snsFeed rq a) s fun op t _ rq =>
    let c := a.context.toNat
    let first := bit a.flags.toNat 0
    checked s op rq (feedChecks s t a) (
      if first && !slotUsable s t c (getCtx s c).nextSlot then
        refuse (modCtx s c fun x => { x with full := a.sequence.toNat :: x.full }) op rq (stNoResource, dtRingFull)
      else if !first && !continues (getCtx s c) a then refuse s op rq (stBadParam, dtFeedOffset)
      else
        let s := if first then feedOpen s c a else s
        match (getCtx s c).current with
        | none => s
        | some r =>
          if slotRoom s c < r.bytes + a.data.length then
            refuse (loseCurrent s c hrOversize) op rq (stLimitExceeded, dtFeedSize)
          else
            let s := modCtx s c fun x => { x with current := some { r with
              bytes := r.bytes + a.data.length, last := tbStamp s (ctxBase s c), data := a.data :: r.data } }
            let s := if bit a.flags.toNat 1 then writeRecord s c else s
            replyOk s op rq [])

def execSnsFeed (rq : Req) (a : SnsFeedArgs) (s : State) : Out := .next (onSnsFeed rq a (hear rq s))

/-! ## SNS_SCAN (R410) -/

def snsScanEntry (unitKind unit vc dt state words rows : Nat) : List Byte :=
  by1 unitKind ++ by1 unit ++ by1 vc ++ by1 dt ++ by1 state ++ zeros 1 ++ le2 words ++ le2 rows ++ zeros 2

def snsScanReply (s : State) : List Byte :=
  let es := ((List.range 12).map fun r => (getRx s r).sources.map fun q =>
      snsScanEntry 0 r q.vc q.dataType (getRx s r).state q.words q.rows).flatten
    ++ (List.range 6).map fun p => snsScanEntry 1 p 0 0 (getTdm s p).state (portBits s p) 0
  le2 es.length ++ zeros 2 ++ es.flatten

def onSnsScan (rq : Req) (s : State) : State :=
  take (.snsScan rq) s fun op _ _ rq => replyOk s op rq (snsScanReply s)

def execSnsScan (rq : Req) (s : State) : Out := .next (onSnsScan rq (hear rq s))

/-! ## Enabling, disabling and reclaim (R397 to R399) -/

/-- Every field of a context meets its rule. -/
def ctxFieldsOk (s : State) (c : Nat) : Bool :=
  let k := ctxKind s c
  let u := ctxUnit s c
  let sel := ctxSelect s c
  (if k = 1 then decide (u ≤ 11) && decide (sel < 64) && (pixelBits sel).isSome && ctxFrames s c = 0
   else if k = 2 then
    decide (u ≤ 5) && ctxVc s c = 0 && decide (sel ≠ 0) && decide (sel < 2 ^ (rField s (aTdm u 0) 3 0 + 1))
      && decide (16 ≤ ctxFrames s c)
   else k = 3 && u = 0 && ctxVc s c = 0 && sel = 0 && ctxFrames s c = 0)
  && decide (2 ≤ ctxSlots s c) && decide (ctxSlots s c ≤ 64) && decide (1 ≤ rField s (aCtx c 0x10) 15 0)

/-- The source of a context is bound by another enabled one. -/
def sourceBound (s : State) (c : Nat) : Bool :=
  (List.range 48).any fun d => d ≠ c && ctxOn s d && ctxKind s d = ctxKind s c && ctxUnit s d = ctxUnit s c &&
    (if ctxKind s c = 1 then ctxVc s d = ctxVc s c && ctxSelect s d = ctxSelect s c
     else ctxKind s c = 2 && decide (ctxSelect s d &&& ctxSelect s c ≠ 0))

/-- The checks of R398, in order. -/
def ctxEnableFault (s : State) (t c : Nat) : Option (Nat × Nat) :=
  firstFault
    [ (!ctxFieldsOk s c, (stBadParam, dtValueRange)),
      (decide (ctxRing s c % 65536 ≠ 0) || !inOneMapping s t (fun m => m.pinned && m.read && m.write) (ctxRing s c)
        (ctxSlots s c * ctxSlotBytes s c), (stBadParam, dtSnsRing)),
      (sourceBound s c, (stBusy, dtSourceBound)) ]

def ctxEnable (s : State) (c : Nat) : State := setCtx s c { func := {} }

/-- FUNC_DISABLE of a context: a host-fed record is abandoned, and under ABORT any record is. -/
def ctxStop (s : State) (c : Nat) (abort : Bool) : State :=
  let s := if abort ∨ ctxKind s c = 3 then
      match (getCtx s c).current with
      | some r =>
        let s := if r.lost = 0 then loseOne s c 0 else s
        modCtx s c fun x => { x with current := none }
      | none => s
    else s
  settleCtx s c

/-- At reclaim a context stops, and its registers return to reset (R399). -/
def ctxReclaim (s : State) (c : Nat) : State :=
  setCtx { s with regs := s.regs.filter fun r => decide (r.1 < aCtx c 0) || decide (aCtx c 0x100 ≤ r.1) } c {}

/-- A tenant loses its session: what its contexts hold half received is dropped (R122, R402), and so is the
half-filled record of a host-fed one, which ends as a hole at once (DESIGN CHOICE, log entry 38). -/
def ctxOrphaned (s : State) (t : Nat) : State :=
  ((List.range 48).filter fun c => ctxHolder s c = some t).foldl (fun s c => loseCurrent s c hrOrphaned) s

/-- Words that an enabled context bars (R397). -/
def ctxBusy (s : State) (c off : Nat) : Bool := ctxOn s c && decide (off ≤ 0x10)

/-- A CONFIG write that changes anything but enable, under an enabled context (R413). -/
def unitBusy (ctxs : List Nat) (old new : Nat) : Bool :=
  ctxs ≠ [] && decide (old % 2 ^ 31 ≠ new % 2 ^ 31)

/-- SNS_CTX_STATUS.state. -/
def ctxState (s : State) (c : Nat) : Nat :=
  let x := getCtx s c
  match x.func.phase with
  | .disabled => 0
  | .draining => 3
  | .aborting => 4
  | .enabled =>
    if ctxOrphan s c then 5
    else
      let up := match ctxKind s c with
        | 1 => (getRx s (ctxUnit s c)).state = 3
        | 2 => (getTdm s (ctxUnit s c)).state = 3
        | _ => true
      if x.current.isSome || (decide (x.offered ≠ 0) && up) then 2 else 1

def ctxStatusWord (s : State) (c : Nat) : Nat :=
  let x := getCtx s c
  x.nextSlot * 65536 + x.reasons * 256 + ctxState s c

def rxStatusWord (s : State) (r : Nat) : Nat :=
  let x := getRx s r
  x.mbps % 65536 * 65536 + x.sources.length * 256 + x.state

def tdmStatusWord (s : State) (p : Nat) : Nat :=
  let x := getTdm s p
  (if x.state = 3 then x.hz % 2 ^ 20 else 0) * 4096 + x.state

end Sys2Proof.Machine
end

