-- ==== Sys2Proof/Machine/Sessions.lean ====
section
/-! DEFINITION. Machine/Sessions.lean: the session handshake (R103 to R111, R575, R578, R620), tenants
that leave and return (R120 to R125), and discovery beacons (R100, R101). -/

namespace Sys2Proof.Machine

open Sys2Proof

/-! ## Handshake packets -/

/-- The header of a handshake request that passes check 8. -/
def requestHeader (h : Handshake) (op len : Nat) : List Byte :=
  wireHeader h.major.toNat h.minor.toNat op h.tenant.toNat 0 0 h.seq.toNat h.ack.toNat len h.tag.toNat 0 0

/-- The header of the answer to a handshake request (R103). -/
def answerHeader (h : Handshake) (op tenant len status detail : Nat) : List Byte :=
  wireHeader ndMajor 0 op tenant fgReply 0 0 0 len h.tag.toNat status detail

def openPayload (a : SessionOpenArgs) : List Byte := fit 32 a.ephKey ++ fit 16 a.nonce ++ b16 a.maxPayload ++ b16 a.reserved
/-- Bytes 0 to 39 of a SESSION_AUTH payload. -/
def authHead (a : SessionAuthArgs) : List Byte := b32 a.session ++ b8 a.tenant ++ b24 a.reserved ++ fit 32 a.credential
def authPayload (a : SessionAuthArgs) : List Byte := authHead a ++ fit 64 a.signature

/-- Opcode and payload of a handshake request. -/
def handshakeBytes (op : Nat) (payload : List Byte) : List Byte := le2 op ++ payload

/-- Send the answer to a handshake request, in clear under its all-zero-key tag (R62, R103). -/
def sendAnswer (s : State) (h : Handshake) (header payload : List Byte) : State :=
  out s (.handshake (unicast s h.eth.val h.src (clearPacket header payload)))

/-- Answer a handshake request and keep the answer for a repeat of it (R76). -/
def answer (s : State) (h : Handshake) (op : Nat) (request : List Byte) (tenant status detail : Nat)
    (payload : List Byte) : State :=
  let hd := answerHeader h op tenant payload.length status detail
  let x : Answer := { ip := h.src.ip, tag := h.tag.toNat, request := handshakeBytes op request, header := hd, payload := payload }
  sendAnswer { s with link := { s.link with answers := x :: s.link.answers } } h hd payload

def dropHalf (s : State) (id : Nat) : State := { s with link := { s.link with half := s.link.half.filter fun x => x.id ≠ id } }

/-- Refuse a handshake request before its parameters count: a refused SESSION_AUTH discards the
half-open session that it names (R109). -/
def refuseHandshake (s : State) (h : Handshake) (op : Nat) (request : List Byte) (e : Nat × Nat) : State :=
  answer (if op = opSessionAuth ∧ 4 ≤ request.length then dropHalf s (leAt request 0 4) else s) h op request 0 e.1 e.2 []

/-- The source's handshake packets are discarded for now (R111). -/
def sourceBlocked (s : State) (ip : BitVec 128) : Bool :=
  s.link.blocked.any fun b => decide (b.1 = ip) && decide (s.now < b.2)

/-- The answer kept for a repeated handshake request. DESIGN CHOICE (log entry 13): a repeat has the source address, the
correlation tag, the opcode and the payload of the first; a request that differs in any of them is a new one, and both
answers are kept. -/
def keptAnswer (s : State) (h : Handshake) (op : Nat) (request : List Byte) : Option Answer :=
  s.link.answers.find? fun y => decide (y.ip = h.src.ip) && decide (y.tag = h.tag.toNat)
    && decide (y.request = handshakeBytes op request)

/-- A handshake request is taken (R76, R103, R111, R542): a blocked source is not heard, a repeat is
answered again, and a request that meets a restarting session processor, or an enrolment whose words are being stored,
waits for it (DEDUCED, log entry 15: handshakes are answered in turn). -/
def handshake (c : Instr) (s : State) (h : Handshake) (op : Nat) (request : List Byte) (k : State → State) : State :=
  if !isRunning s || sourceBlocked s h.src.ip then s
  else
    match keptAnswer s h op request with
    | some y => sendAnswer s h y.header y.payload
    | none =>
      if restarting s 1 || s.link.enrolling.isSome then { s with link := { s.link with handshakes := s.link.handshakes ++ [c] } }
      else if h.major.toNat ≠ ndMajor then
        refuseHandshake s h op request (stVersionMismatch, 256 * ndMajor + fwMinor s)
      else if h.tag = 0 then refuseHandshake s h op request (stBadParam, dtReservedTag)
      else k s

/-! ## SESSION_OPEN (R104 to R107, R575, R620) -/

/-- A half-open session that has not run out. -/
def halfLive (s : State) (x : HalfOpen) : Bool := decide (s.now < x.due)
def findHalf (s : State) (id : Nat) : Option HalfOpen := s.link.half.find? fun x => x.id = id && halfLive s x

/-- A nonzero session id that differs from every open and half-open session: the random value, or the next one after it that
does (DESIGN CHOICE, log entry 13). Of one more candidates than there are ids in use, one is free. -/
def freshId (s : State) (v : Nat) : Nat :=
  let half := s.link.half.filter (halfLive s)
  (((List.range (s.link.sessions.length + half.length + 2)).map fun k => (v + k) % 2 ^ 32).find? fun i =>
    decide (i ≠ 0) && (getSes s i).isNone && !half.any fun x => x.id = i).getD 1

def halfLife : Nat := secTicks

def openSession (s : State) (h : Handshake) (a : SessionOpenArgs) (eph : List Byte) (z : List Byte) : State :=
  let req := openPayload a
  let nonce := fit 16 (Config.randomBytes (s.fresh + 1))
  let id := freshId s (leAt (Config.randomBytes (s.fresh + 2)) 0 4)
  let minor := min h.minor.toNat (fwMinor s)
  let body := le4 id ++ by1 minor ++ zeros 1 ++ b16 a.maxPayload ++ x25519 eph x25519Base ++ nonce ++ identityPublic
  let t1 := requestHeader h opSessionOpen req.length ++ req ++ answerHeader h opSessionOpen 0 152 stOk 0 ++ body
  let sig := signIdentity t1
  let x : HalfOpen := { id := id, ip := h.src.ip, minor := minor, maxPayload := a.maxPayload.toNat, shared := z,
                        nonces := fit 16 a.nonce ++ nonce, transcript := t1 ++ sig, due := s.now + halfLife }
  let s := draw (draw (draw s))
  answer { s with link := { s.link with half := s.link.half ++ [x] } } h opSessionOpen req 0 stOk 0 (body ++ sig)

def onSessionOpen (h : Handshake) (a : SessionOpenArgs) (s : State) : State :=
  handshake (.sessionOpen h a) s h opSessionOpen (openPayload a) fun s =>
    let req := openPayload a
    let no (st dt : Nat) : State := answer s h opSessionOpen req 0 st dt []
    let eph := fit 32 (Config.randomBytes s.fresh)
    let z := x25519 eph (fit 32 a.ephKey)
    if a.reserved ≠ 0 then no stBadParam dtReservedNonzero
    else if a.maxPayload.toNat < 1400 ∨ 8192 < a.maxPayload.toNat then no stBadParam dtValueRange
    else if s.sec.entropyFail then no stNoResource dtEntropyFailed
    else if 32 ≤ (s.link.half.filter (halfLive s)).length then no stNoResource dtHandshakeLimit
    else if z.all fun b => b = 0 then draw (no stBadParam dtKeyInvalid)
    else openSession s h a eph z

def execSessionOpen (h : Handshake) (a : SessionOpenArgs) (s : State) : Out := .next (onSessionOpen h a s)

/-- HALF_OPEN_TIMEOUT: 1 s after its reply a half-open session is discarded. -/
def onHalfOpenTimeout (session : Word) (s : State) : State :=
  if !isRunning s then s
  else { s with link := { s.link with half := s.link.half.filter fun x => x.id ≠ session.toNat || halfLive s x } }

def execHalfOpenTimeout (session : Word) (s : State) : Out := .next (onHalfOpenTimeout session s)

/-! ## SESSION_AUTH (R108 to R111, R575, R578) -/

def failWindow : Nat := 10 * secTicks

/-- An AUTH_FAILED outcome: the fourth from one source within 10 s blocks it for 10 s. -/
def countAuthFail (s : State) (ip : BitVec 128) : State :=
  let recent := s.link.authFails.filter fun f => decide (s.now ≤ f.2 + failWindow)
  let all := recent ++ [(ip, s.now)]
  let mine := (all.filter fun f => f.1 = ip).length
  { s with
    sec := { s.sec with authFails := satAdd s.sec.authFails 1 cap32 },
    link := { s.link with
      authFails := all,
      blocked := if 4 ≤ mine then (s.link.blocked.filter fun b => b.1 ≠ ip) ++ [(ip, s.now + failWindow)]
                 else s.link.blocked } }

/-- AUTH_BLOCK_EXPIRY: the source is heard again. -/
def onAuthBlockExpiry (ip : BitVec 128) (s : State) : State :=
  if !isRunning s then s
  else { s with link := { s.link with blocked := s.link.blocked.filter fun b => b.1 ≠ ip || decide (s.now < b.2) } }

def execAuthBlockExpiry (ip : BitVec 128) (s : State) : Out := .next (onAuthBlockExpiry ip s)

/-- TEN_STATE (R115). -/
def tenStateWord (s : State) (t : Nat) : Nat :=
  quietSeconds s t * 65536 + (getTen s t).reason * 256 + tenCode (getTen s t).state

def tenEnabled (s : State) (t : Nat) : Bool := t = 0 || bit (regW s (aTen t 0x1C)) 0

/-- SEC_ENROLL.arm reads 1. -/
def enrollArmed (s : State) : Bool :=
  match s.sec.enroll with
  | some e => decide (s.now < e)
  | none => false

/-- An authentication of tenant 0 enrols the credential it presents (R578). -/
def enrols (s : State) (t : Nat) : Bool := t = 0 && (!ownerEnrolled s || enrollArmed s)

/-- The rows of R109, and the worn words of R578. -/
def authFault (s : State) (h : Handshake) (a : SessionAuthArgs) : Option (Nat × Nat) :=
  let t := a.tenant.toNat
  match findHalf s a.session.toNat with
  | none => some (stSessionExpired, dtHandshakeStale)
  | some x =>
    let t2 := x.transcript ++ requestHeader h opSessionAuth 104 ++ authHead a
    firstFault
      [ (!edVerify (fit 32 a.credential) t2 (fit 64 a.signature), (stAuthFailed, dtSignatureInvalid)),
        (s.fw.device = 0 && t ≠ 0, (stNotPermitted, dtOwnerOnly)),
        (!tenEnabled s t, (stNotPermitted, dtTenantUnconfigured)),
        (!enrols s t && fit 32 a.credential ≠ credential s t, (stAuthFailed, dtCredentialMismatch)),
        ((getTen s t).state = .reclaiming, (stBusy, dtTenantReclaiming)),
        (enrols s t && ((ownerWrites s (fit 32 a.credential)).any fun w => nvrWorn s w.1), (stWorn, 0)) ]

/-- The credential is to become the owner credential: its nine words join the bank's queue, and the session waits for
them (R578, R580, R588). -/
def enrol (s : State) (h : Handshake) (a : SessionAuthArgs) (x : HalfOpen) : State :=
  let s := dropHalf s x.id
  let s := { s with link := { s.link with enrolling := some { shake := h, args := a, half := x, job := s.nvr.nextJob } } }
  nvrEnqueue s 0 noRequest 0 (ownerQueue (fit 32 a.credential))

/-- The session's keys (R575). -/
def sessionKeys (x : HalfOpen) (t2 : List Byte) : List Byte :=
  hkdf x.nonces x.shared (ascii "ALENSIA-SESSION-3" ++ sha512 t2) 64

/-- The session opens (R110): it supersedes the tenant's session, resumes its partition, or begins
one, and the completions held are its first packets. -/
def enterSession (s : State) (h : Handshake) (a : SessionAuthArgs) (x : HalfOpen) : State :=
  let t := a.tenant.toNat
  let t2 := x.transcript ++ requestHeader h opSessionAuth 104 ++ authHead a
  let okm := sessionKeys x t2
  let prior := tenStateWord s t
  let entry := match (getTen s t).state with
    | .active => 2
    | .orphaned => 1
    | .fallback => 1
    | _ => 0
  let s := dropHalf s x.id
  let s := if entry = 2 then dropSession s t 3 else s
  let held := (getTen s t).held
  let ss : Session := { tenant := t, minor := x.minor, maxPayload := x.maxPayload, keyIn := okm.take 32,
                        keyOut := okm.drop 32, credential := fit 32 a.credential, eth := h.eth.val, src := h.src }
  let s := setSes s x.id ss
  let s := modTen s t fun y => { y with session := some x.id, lastAuth := some s.now, release := false, held := [] }
  let s := if entry = 2 then s else setTenState s t .active
  let s := trace s 12 t [x.id, entry, 0]
  let s := answer s h opSessionAuth (authPayload a) t stOk 0
    (le4 x.id ++ by1 t ++ by1 entry ++ zeros 2 ++ le4 held.length ++ le4 prior)
  held.foldl (fun s m => sendMsg s x.id m) s

/-- SESSION_AUTH. DESIGN CHOICE (log entry 14): nonzero reserved bytes and a tenant above 15, for which R109 has no row, are
refused ahead of its rows, and end the half-open session like any refusal. -/
def onSessionAuth (h : Handshake) (a : SessionAuthArgs) (s : State) : State :=
  handshake (.sessionAuth h a) s h opSessionAuth (authPayload a) fun s =>
    let no (s : State) (e : Nat × Nat) : State :=
      answer (dropHalf s a.session.toNat) h opSessionAuth (authPayload a) 0 e.1 e.2 []
    if a.reserved ≠ 0 then no s (stBadParam, dtReservedNonzero)
    else if 15 < a.tenant.toNat then no s (stBadParam, dtValueRange)
    else
      match authFault s h a, findHalf s a.session.toNat with
      | some e, _ => no (if e.1 = stAuthFailed then countAuthFail s h.src.ip else s) e
      | none, some x => if enrols s a.tenant.toNat then enrol s h a x else enterSession s h a x
      | none, none => s

def execSessionAuth (h : Handshake) (a : SessionAuthArgs) (s : State) : Out := .next (onSessionAuth h a s)

/-! ## Reclaim (R124) -/

def reclaimTicks : Nat := 100 * msTicks

/-- Work commands of a tenant are killed, and their steps end as failed with ABORTED; no completion
outlives the partition. -/
def reclaimLoops (s : State) (t : Nat) : State :=
  let s := countQuiet s ((allInsts s).filter fun q => q.loop.tenant = t && onCore q.inst)
  let mine := s.sched.loops.filter fun p => p.2.tenant = t
  let s := mine.foldl (fun s p =>
    p.2.queue.foldl (fun s st =>
      let s := (stepInsts p.1 p.2 st).foldl (fun s q => if onCore q.inst then killPads s q else s) s
      trace s 1 t [p.1, st.seq, stAborted]) s) s
  { s with sched := { s.sched with loops := s.sched.loops.filter fun p => p.2.tenant ≠ t } }

/-- Registers of an address range return to their reset values. -/
def resetRegs (s : State) (lo hi : Nat) : State :=
  { s with regs := s.regs.filter fun r => decide (r.1 < lo) || decide (hi ≤ r.1) }

/-- The frame generator and the Galliard channel of a pipe are as after reset; the pipe keeps its mode and shows the
fallback image from the next frame start (R124, R464). -/
def reclaimPipe (s : State) (p : Nat) : State :=
  let s := resetRegs (resetRegs s (aFg p 0) (aFg p 0x100)) (aGal p 0) (aGal p 0x100)
  modPipe s p fun x => { x with fg := {}, gal := {}, cands := [], decided := none, resume := false }

/-- The memory of a tenant: zeroed, its pages and tables gone, frames that held an uncorrectable error
retired (R155). -/
def reclaimMemory (s : State) (t : Nat) : State :=
  let s := retireFrames s t (getTen s t).mem.tainted
  let s := { s with hbm := memZero s.hbm (t * 2 ^ 48) (2 ^ 48) }
  modTen s t fun x => { x with mem := {}, async := [], held := [], exact := 0, lossy := 0, rasWritten := 0,
                               rasSkipped := 0, visRefined := 0, visMarked := 0 }

/-- The partition of a tenant without a session is freed; RECLAIM_COMPLETE ends it. -/
def startReclaim (s : State) (t : Nat) : State :=
  let s := setTenState s t .reclaiming
  let s := modTen s t fun x => { x with reclaimDue := some (s.now + reclaimTicks), release := false }
  let s := decReclaim (reclaimLoops s t) t
  let s := ((List.range 48).filter fun c => ctxHolder s c = some t).foldl ctxReclaim s
  let s := (pipesOf s t).foldl reclaimPipe s
  settleFuncs (refresh (reclaimMemory s t))

/-- RECLAIM_COMPLETE: the tenant may enter again, if it is still enabled. -/
def onReclaimComplete (t : Nat) (s : State) : State :=
  if isRunning s && (getTen s t).state = .reclaiming then
    setTenState (modTen s t fun x => { x with reclaimDue := none }) t
      (if tenEnabled s t then .configured else .unconfigured)
  else s

def execReclaimComplete (tenant : Fin 16) (s : State) : Out := .next (onReclaimComplete tenant.val s)

/-- Force reclaim (R115): the session ends with reason 5, and the partition goes. -/
def forceReclaim (s : State) (t : Nat) : State :=
  if hasPartition (getTen s t) then startReclaim (dropSession s t 5) t else s

/-! ## Leaving (R86, R120 to R124) -/

/-- The reply to SESSION_CLOSE has gone: the session ends, and its reason is kept (R86, R121). -/
def closeSession (s : State) (t reason : Nat) : State :=
  let s := modTen (dropSession s t (closeReason reason)) t fun x => { x with closeValue := reason }
  if (getTen s t).release then startReclaim s t else ctxOrphaned (setTenState s t .orphaned) t

/-- SESSION_CLOSE: the session ends once its reply has been sent; behind a full send window that reply waits in order
(R74, R86). -/
def onSessionClose (rq : Req) (reason : Word) (s : State) : State :=
  take (.sessionClose rq reason) s fun op t _ rq =>
    let s := replyOk s op rq []
    match getSes s rq.session.toNat with
    | none => s
    | some ss =>
      if ss.tx.waiting = [] then closeSession s t reason.toNat
      else setSes s rq.session.toNat { ss with closing := some reason.toNat }

/-- The reply of a SESSION_CLOSE that waited for the send window has gone. -/
def finishClose (s : State) (i : Nat) : State :=
  match getSes s i with
  | none => s
  | some ss =>
    match ss.closing with
    | some reason => if closeWaits ss then s else closeSession s ss.tenant reason
    | none => s

/-- A span without an authenticated packet of the tenant's host has passed (R120). -/
def silentFor (s : State) (t span : Nat) : Bool := decide ((getTen s t).lastAuth.getD 0 + span ≤ s.now)

def onHeartbeatTimeout (t : Nat) (s : State) : State :=
  let x := getTen s t
  if isRunning s && x.state = .active && silentFor s t (msTicks * rField s (aTen t 0x14) 15 0) then
    ctxOrphaned (setTenState (dropSession s t 2) t .orphaned) t
  else s

def onOrphanTimeout (t : Nat) (s : State) : State :=
  let x := getTen s t
  if isRunning s && x.state = .orphaned && silentFor s t (secTicks * rField s (aTen t 0x18) 15 0) then
    setTenState s t .fallback
  else s

def onReclaimTimeout (t : Nat) (s : State) : State :=
  let x := getTen s t
  if isRunning s && t ≠ 0 && (x.state = .orphaned || x.state = .fallback)
     && silentFor s t (secTicks * rField s (aTen t 0x18) 31 16) then startReclaim s t
  else s

def execSessionClose (rq : Req) (reason : Word) (s : State) : Out := .next (onSessionClose rq reason (hear rq s))
def execHeartbeatTimeout (tenant : Fin 16) (s : State) : Out := .next (onHeartbeatTimeout tenant.val s)
def execOrphanTimeout (tenant : Fin 16) (s : State) : Out := .next (onOrphanTimeout tenant.val s)
def execReclaimTimeout (tenant : Fin 16) (s : State) : Out := .next (onReclaimTimeout tenant.val s)

/-! ## Beacons (R100 to R102) -/

def tenBits (p : Nat → Bool) : Nat := (((List.range 16).filter p).map fun t => 2 ^ t).sum

/-- Bytes 0 to 99 of a beacon of a port. -/
def beaconBytes (s : State) (p seq : Nat) : List Byte :=
  let fwOn := s.fw.device ≠ 0
  le2 0x4E44 ++ by1 ndMajor ++ by1 (fwMinor s) ++ le2 1 ++ by1 s.fw.device ++ by1 p ++ le4 seq ++ le4 s.chip.boot
  ++ partNumber ++ identityPublic ++ macBytes p ++ le2 (rField s aCmdPorts 15 0)
  ++ le2 (tenBits (tenEnabled s)) ++ le2 (tenBits fun t => (getTen s t).state = .active)
  ++ le2 (tenBits fun t => (getTen s t).state = .orphaned || (getTen s t).state = .fallback)
  ++ by1 (if fwOn then s.fw.major else 0) ++ by1 s.fw.minor ++ le2 s.fw.build ++ le2 (onlineCores s) ++ by1 s.pwr.level
  ++ zeros 3 ++ leBytes 6 (tbSec s 0) ++ zeros 2 ++ le4 (tbStamp s 0)

/-- A beacon but for its sequence number, its time and its signature. -/
def beaconBody (s : State) (p : Nat) : List Byte := (beaconBytes s p 0).take 88

def setAt {α : Type} (l : List α) (n : Nat) (v : α) : List α := l.set n v

/-- Send the beacon of a port: the same one over IPv4 and IPv6, as CMD_BEACON asks. DESIGN CHOICE (log entry 17): the sequence
number and the 100 ms spacing advance even where CMD_BEACON asks for neither. -/
def sendBeacon (s : State) (p : Nat) : State :=
  let seq := (s.link.beaconSeq.getD p 0 + 1) % 2 ^ 32
  let bytes := beaconBytes s p seq
  let bytes := bytes ++ signIdentity bytes
  let every := msTicks * rField s aCmdBeacon 15 0
  let s := if rField s aCmdBeacon 30 30 = 1 then out s (.beacon (beaconWire s p false bytes)) else s
  let s := if rField s aCmdBeacon 31 31 = 1 then out s (.beacon (beaconWire s p true bytes)) else s
  { s with link := { s.link with
    beaconSeq := setAt s.link.beaconSeq p seq, beaconLast := setAt s.link.beaconLast p (some s.now),
    beaconDue := setAt s.link.beaconDue p (s.now + every), beaconBody := setAt s.link.beaconBody p (beaconBody s p) } }

def beaconGap : Nat := 100 * msTicks

/-- BEACON_TIMER: a beacon goes when the interval has passed or a field has changed, 100 ms or more
after the last one; while the session processor restarts, it is skipped (R542). -/
def onBeaconTimer (p : Nat) (s : State) : State :=
  let due := decide (s.link.beaconDue.getD p 0 ≤ s.now)
  let changed := s.link.beaconBody.getD p [] ≠ beaconBody s p
  let free := match s.link.beaconLast.getD p none with
    | some t => decide (t + beaconGap ≤ s.now)
    | none => true
  if isRunning s && (getPort s p).link && free && (due || changed) then
    if restarting s 1 then
      if due then
        { s with link := { s.link with
          beaconDue := setAt s.link.beaconDue p (s.now + msTicks * rField s aCmdBeacon 15 0) } }
      else s
    else sendBeacon s p
  else s

def execBeaconTimer (port : Fin 4) (s : State) : Out := .next (onBeaconTimer port.val s)

end Sys2Proof.Machine
end

