-- ==== Sys2Proof/Machine/Network.lean ====
section
/-! DEFINITION. Machine/Network.lean: Ethernet links and the addresses of a port (R481 to R485), gate
control lists (R488), shapers and pre-emption (R490, R491), and stream tables (R492). -/

namespace Sys2Proof.Machine

open Sys2Proof

/-! ## Links -/

/-- The link of an enabled port comes up, once the boot count is written (R608): with the mode and rate configured, the
probes of its link-local IPv4 address and its gPTP timers due, and a beacon sent (R100). -/
def onLinkUp (p : Nat) (s : State) : State :=
  if !isRunning s || !portOn s p || (getPort s p).link || !bit s.chip.clk 7 || bootPending s then s
  else
    let pre := regW s (aPort p 0x48)
    let s := modPort s p fun x => { x with
      link := true, mode := portCfg s p 30 28, rate := portCfg s p 27 26, conflict := false, defended := none,
      probes := 0, probeDue := s.now, preempt := bit pre 31 && bit pre 30, verified := false }
    let s := out s (.mldReport p false)
    let s := if wallOn s && wallPort s = p && rField s (aWall 0) 30 30 = 1 then out s (.mldReport p true) else s
    let s := reselect (gptpUp s p) (ptpBase s p)
    onBeaconTimer p { s with link := { s.link with beaconDue := setAt s.link.beaconDue p s.now } }

/-- The link goes down, and frames that waited at it are lost (DESIGN CHOICE, log entry 43); b is the base that the port's gPTP
served. -/
def dropLink (s : State) (p b : Nat) : State :=
  if !(getPort s p).link then s
  else gptpDown (setEgress (modPort s p fun x => { x with link := false, preempt := false, verified := false }) p {}) p b

def onLinkDown (p : Nat) (s : State) : State := if !isRunning s then s else dropLink s p (ptpBase s p)

def execLinkUp (port : Fin 4) (s : State) : Out := .next (onLinkUp port.val s)
def execLinkDown (port : Fin 4) (s : State) : Out := .next (onLinkDown port.val s)

/-! ## ARP, neighbour discovery and echo (R482, RFC 5227) -/

/-- Packets that conflict with a link-local address: the first within 10 s is answered by an
announcement, the next gives the address up. -/
def arpConflict (s : State) (p : Nat) : State :=
  let again := match (getPort s p).defended with
    | some t => decide (s.now < t + 10 * secTicks)
    | none => false
  if again then modPort s p fun x => { x with conflict := true }
  else out (modPort s p fun x => { x with defended := some s.now }) (.arpAnnounce p (BitVec.ofNat 32 (portIp4 s p)))

/-- A packet that conflicts with an address that the port probes: another sender holds it, or probes for it. -/
def probeConflict (s : State) (p : Nat) (a : ArpPacket) : Bool :=
  a.senderMac ≠ Config.portMac p
  && (a.senderIp.toNat = portIp4 s p || (a.request && a.senderIp = 0 && a.targetIp.toNat = portIp4 s p))

/-- An ARP packet arrives. -/
def onArp (p : Nat) (a : ArpPacket) (s : State) : State :=
  let x := getPort s p
  let own := portIp4 s p
  if !isRunning s || !x.link || x.conflict then s
  else if !ip4Up s p then (if probeConflict s p a then modPort s p fun x => { x with conflict := true } else s)
  else if regW s (aPort p 0x10) = 0 ∧ a.senderIp.toNat = own ∧ a.senderMac ≠ Config.portMac p then arpConflict s p
  else if a.request ∧ a.targetIp.toNat = own then
    out s (.arpReply p { request := false, senderMac := Config.portMac p, senderIp := a.targetIp, targetIp := a.senderIp })
  else s

/-- How long after the k-th packet of RFC 5227 the next may go: three probes 1 s or more apart, 2 s of silence, and two
announcements 2 s apart. The waits that the RFC draws at random last until the timer fires. -/
def probeGap (k : Nat) : Nat := if k ≤ 1 then secTicks else 2 * secTicks

/-- The probe timer of a port: the next probe or announcement of its link-local address goes. -/
def onProbeTimer (p : Nat) (s : State) : State :=
  let x := getPort s p
  if !isRunning s || !x.link || x.conflict || regW s (aPort p 0x10) ≠ 0 || decide (5 ≤ x.probes) || decide (s.now < x.probeDue) then s
  else
    let ip := BitVec.ofNat 32 (portIp4 s p)
    out (modPort s p fun x => { x with probes := x.probes + 1, probeDue := s.now + probeGap x.probes })
      (if x.probes < 3 then .arpProbe p ip else .arpAnnounce p ip)

def onArpEvent (p : Fin 4) (a : ArpEvent) (s : State) : State :=
  match a with
  | .packet f x => receiveFrame s (frameOn p f) (onArp p.val x)
  | .probeTimer => onProbeTimer p.val s

def onNeighbour (p : Nat) (a : NsPacket) (s : State) : State :=
  if isRunning s && (getPort s p).link && ownIp6 s p a.target.toNat then out s (.neighbourAdvert p a.target) else s

def onPing (p : Nat) (a : EchoRequest) (s : State) : State :=
  if isRunning s && (getPort s p).link && ownAddress s p a.src.v6 a.dst.toNat then out s (.echoReply p a) else s

def execArpRequest (port : Fin 4) (a : ArpEvent) (s : State) : Out := .next (onArpEvent port a s)
def execNeighbourSolicitation (port : Fin 4) (a : NsPacket) (s : State) : Out :=
  .next (receiveFrame s (frameOn port a.frame) (onNeighbour port.val a))
def execIcmpEchoRequest (port : Fin 4) (a : EchoRequest) (s : State) : Out :=
  .next (receiveFrame s (frameOn port a.frame) (onPing port.val a))

/-! ## Gate control lists (R488) -/

def gclEntryOk (e : GclEntry) : Bool :=
  let n := e.interval.toNat
  n % 8 = 0 && decide (64 ≤ n) && decide (n ≤ 1000000000) && e.reserved = 0

def gclForm (a : GclWriteArgs) : Bool :=
  decide (a.port.toNat ≤ 3) && decide (a.apply.toNat ≤ 2) && decide (a.first.toNat ≤ 255) && decide (a.count.toNat ≤ 128)
  && decide (a.first.toNat + a.count.toNat ≤ 256) && decide (1 ≤ a.length.toNat) && decide (a.length.toNat ≤ 256)
  && decide (1000 ≤ a.cycle.toNat) && decide (a.cycle.toNat ≤ 1000000000) && a.reserved = 0 && a.entries.all gclEntryOk

/-- The staged list takes entries, length, base time and cycle. -/
def stageGcl (s : State) (p : Nat) (a : GclWriteArgs) : State :=
  let put (t : List (Nat × (Nat × Nat))) (e : GclEntry × Nat) : List (Nat × (Nat × Nat)) :=
    tabSet t (a.first.toNat + e.2) (e.1.interval.toNat, e.1.gates.toNat)
  modPort s p fun x => { x with
    staged := a.entries.zipIdx.foldl put x.staged, stagedLen := a.length.toNat, stagedCycle := a.cycle.toNat,
    stagedBase := a.baseTime.toNat }

/-- A switch that waits gives way to another one (DESIGN CHOICE, log entry 43). -/
def cancelSwitch (s : State) (p : Nat) : State :=
  match (getPort s p).switching with
  | none => s
  | some (t, r, _) => complete (drainPort (modPort s p fun x => { x with switching := none }) p) t r stAborted 0 []

/-- The first instant base + k × cycle from a time on. -/
def firstCycle (base cycle t : Nat) : Nat := if t ≤ base then base else base + ceilDiv (t - base) (max 1 cycle) * cycle

def onGclWrite (rq : Req) (a : GclWriteArgs) (s : State) : State :=
  take (.netGclWrite rq a) s fun op t _ rq =>
    let p := a.port.toNat
    checked s op rq [(!gclForm a, (stBadParam, dtGclForm)), (t ≠ 0, (stNotPermitted, dtPermissionClass))]
      (match a.apply.toNat with
       | 0 => replyOk (stageGcl s p a) op rq []
       | 1 => accept s op rq t stAccepted [] fun s r =>
           let at_ := firstCycle a.baseTime.toNat a.cycle.toNat (tbNs s (tsnBase s p) + 1000000)
           modPort (stageGcl (cancelSwitch s p) p a) p fun x => { x with switching := some (t, r, at_) }
       | _ => replyOk (drainPort (modPort (cancelSwitch s p) p fun x => { x with gclOn := false, gclIndex := 0 }) p) op rq [])

/-- GCL_SWITCH: the staged list runs, from its first cycle on. -/
def onGclSwitch (p : Nat) (s : State) : State :=
  let x := getPort s p
  match x.switching with
  | none => s
  | some (t, r, at_) =>
    if !isRunning s || decide (tbNs s (tsnBase s p) < at_) then s
    else
      let gcl : Gcl := { entries := (List.range x.stagedLen).map fun i => tabGet x.staged (0, 0) i,
                         cycle := x.stagedCycle, base := x.stagedBase }
      let s := modPort s p fun x => { x with gcl := gcl, gclOn := true, gclStart := at_, gclIndex := 0, switching := none }
      complete (drainPort s p) t r stOk 0 []

/-- GATE_INTERVAL_END: the next entry's gates stand, and the frames that waited for them leave (R488, R489). -/
def onGateInterval (p : Nat) (s : State) : State :=
  let x := getPort s p
  let stop := gclEntryEnd x.gcl x.gclIndex
  if !isRunning s || !x.gclOn || decide (tbNs s (tsnBase s p) < x.gclStart + stop) then s
  else
    let span := stop - (if x.gclIndex = 0 then 0 else gclEntryEnd x.gcl (x.gclIndex - 1))
    let s := freezeCredit s p (openGates s p) span
    drainPort (setPort s p (if stop = x.gcl.cycle then { x with gclStart := x.gclStart + stop, gclIndex := 0 }
                            else { x with gclIndex := x.gclIndex + 1 })) p

def execNetGclWrite (rq : Req) (a : GclWriteArgs) (s : State) : Out := .next (onGclWrite rq a (hear rq s))
def execGclSwitch (port : Fin 4) (s : State) : Out := .next (onGclSwitch port.val s)
def execGateIntervalEnd (port : Fin 4) (s : State) : Out := .next (onGateInterval port.val s)

/-! ## Stream tables (R492) -/

def orAll (v lim all : Nat) : Bool := decide (v ≤ lim) || v = all

/-- Every field of an entry obeys its rule. -/
def tableForm (a : StreamTableArgs) : Bool :=
  let v (o n : Nat) : Nat := leAt a.entry o n
  let i := a.index.toNat
  decide (a.port.toNat ≤ 3) && a.reserved = 0
  && (match a.table.toNat with
      | 0 => decide (i ≤ 31) && orAll (v 6 2) 0xFFF 0xFFFF && orAll (v 8 1) 7 0xFF && orAll (v 9 1) 15 0xFF
          && orAll (v 10 1) 31 0xFF && decide (v 11 1 ≤ 1) && v 14 2 = 0
      | 1 => decide (i ≤ 15) && decide (v 0 1 ≤ 1) && orAll (v 1 1) 7 0xFF && v 2 14 = 0
      | 2 => decide (i ≤ 31) && decide (v 7 1 ≤ 3) && v 15 1 = 0
      | _ => false)

def onStreamTable (rq : Req) (a : StreamTableArgs) (s : State) : State :=
  take (.netStreamTable rq a) s fun op t _ rq =>
    let p := a.port.toNat
    let i := a.index.toNat
    let e := fit 16 a.entry
    checked s op rq [(!tableForm a, (stBadParam, dtTableForm)), (t ≠ 0, (stNotPermitted, dtPermissionClass))]
      (replyOk (modPort s p fun x =>
        match a.table.toNat with
        | 0 => { x with filters := tabSet x.filters i e }
        | 1 => { x with gates := tabSet x.gates i e }
        | _ => { x with meters := tabSet x.meters i e, buckets := tabSet x.buckets i (fullBucket s e) }) op rq [])

def execNetStreamTable (rq : Req) (a : StreamTableArgs) (s : State) : Out := .next (onStreamTable rq a (hear rq s))

/-! ## Pre-emption (R491) -/

def onPreemptVerified (p : Nat) (s : State) : State :=
  if isRunning s && (getPort s p).link && bit (regW s (aPort p 0x48)) 31 then
    drainPort (modPort s p fun x => { x with preempt := true, verified := true }) p
  else s

def execPreemptionVerifyDone (port : Fin 4) (s : State) : Out := .next (onPreemptVerified port.val s)

/-! ## Registers (R485, R490, R491, R495) -/

/-- Both shapers of a port stand together: 75 % of the link rate at most, and no class twice. -/
def shapersOk (s : State) (p : Nat) : Bool :=
  let a := regW s (aPort p 0x40)
  let b := regW s (aPort p 0x44)
  let slope (w : Nat) : Nat := if bit w 31 then bits w 22 0 else 0
  decide (4 * (slope a + slope b) ≤ 3 * linkKbps (portCfg s p 30 28) (portCfg s p 27 26))
  && !(bit a 31 && bit b 31 && bits a 30 28 = bits b 30 28)

/-- What forbids a write of a port register, on the state that the whole request leaves. -/
def portRelation (s' : State) (p off new : Nat) : Option (Nat × Nat) :=
  let range : Option (Nat × Nat) := some (stBadParam, dtValueRange)
  if off = 0x40 ∨ off = 0x44 then (if shapersOk s' p then none else range)
  else if off = 0x34 then
    (if -1000000 ≤ sInt 32 new ∧ sInt 32 new ≤ 1000000 then none else range)
  else if off = 0x38 then
    (let a := sInt 4 (bits new 31 28)
     let b := sInt 4 (bits new 27 24)
     if -7 ≤ a ∧ a ≤ 0 ∧ -3 ≤ b ∧ b ≤ 3 then none else range)
  else none

/-- A port takes another IPv4 address: a conflict was of the link-local one, and a port that takes that one anew probes for it
(DEDUCED, log entry 44, from what NET_PORT_STATUS.ipv4_conflict names). -/
def readdress (s : State) (p old new : Nat) : State :=
  if old = new then s
  else
    modPort s p fun x => { x with conflict := false, defended := none, probes := 0, probeDue := s.now }

/-- What a write of a port register does: a new mode, rate or time base takes the link down, and so
does switching the port off (LINK_UP brings it up again); pre-emption starts at once without
verification, and ends when it is switched off, or with the leave to go unverified. -/
def portEffect (s : State) (p off old new : Nat) : State :=
  if off = 0 then
    let b := bits old 23 22
    let cut := bits old 30 26 ≠ bits new 30 26 || bits old 23 20 ≠ bits new 23 20 || !bit new 31
    let s := if cut then dropLink s p b else s
    if bit old 24 ≠ bit new 24 then
      (if bit new 24 then reselect (gptpUp s p) (ptpBase s p) else gptpDown s p b)
    else s
  else if off = 0x10 then readdress s p old new
  else if off = 0x48 then
    drainPort (modPort s p fun x => { x with
      preempt := x.link && bit new 31 && (bit new 30 || x.verified), verified := x.verified && bit new 31 }) p
  else if off = 0x40 ∨ off = 0x44 then drainPort s p
  else s

def portStatusWord (s : State) (p : Nat) : Nat :=
  let x := getPort s p
  if x.link then
    2 ^ 31 + x.mode * 2 ^ 28 + x.rate * 2 ^ 26 + 2 ^ 25 * boolNat x.preempt + 2 ^ 24 * boolNat x.conflict + x.gptp.role
  else 0

end Sys2Proof.Machine
end

