-- ==== Sys2Proof/Machine/Power.lean ====
section
/-! DEFINITION. Machine/Power.lean: temperatures and currents (R558, R571), the current limiter (R559),
the throttle duty (R561, R562), emergency levels (R563 to R568, R613), parking (R564) and the trip
(R566). -/

namespace Sys2Proof.Machine

open Sys2Proof

def modPwr (s : State) (f : Power → Power) : State := { s with pwr := f s.pwr }

/-! ## Thresholds in force (R570) and readings -/

def throttleC (s : State) : Int := 16 * (bits s.pwr.thermal 7 0 : Nat)
def hbmC (s : State) : Int := 16 * (bits s.pwr.thermal 15 8 : Nat)
def tdpW (s : State) : Nat := bits s.pwr.limits 8 0
def burstA (s : State) : Nat := bits s.pwr.limits 21 12
def peakA (s : State) : Nat := bits s.pwr.limits 31 22

def intMax : List Int → Int
  | [] => 0
  | x :: r => r.foldl max x

/-- The highest of the 152 diodes; 0 before the first sample. -/
def hottest (s : State) : Int := intMax ((s.pwr.core ++ s.pwr.uncore).map fun r => r.1)

/-- The package power stands above its target. -/
def overTdp (s : State) : Bool := decide (16000 * tdpW s < s.pwr.package)
/-- 1/16 mW as the registers show them, in W. -/
def wattCode (p : Nat) : Nat := min 65535 (p / 16000)

/-- The power-thermal processor runs. -/
def loopsRun (s : State) : Bool := isRunning s && (getProc s 5).state = .running

def degC (n : Int) : Int := 16 * n

/-! ## A level change (R563, R565, R568, R613) -/

def pwrEvent (s : State) (old new cause : Nat) : State :=
  let parked := ((List.range 128).filter fun c => (getCore s c).state = 2).length
  let pl := by1 old ++ by1 new ++ by1 cause ++ zeros 1 ++ le2 (uCode 16 (hottest s)) ++ by1 parked ++ zeros 1
    ++ le4 (tbStamp s 0) ++ zeros 4
  ((List.range 16).filter fun t => (getTen s t).session.isSome).foldl (fun s t => event s t opPwrEvent stOk 0 pl) s

/-- Level 3: what may be killed is, and every core parks once it is idle; one in ADMITTING at once. A producer on which
a command in place depends runs on with it, for that command runs to commit (R186; DEDUCED, log entry 48). -/
def enterLevel3 (s : State) : State :=
  let s := killInsts s (((allInsts s).filter fun q => onCore q.inst && killOk s false [q.ref]).map fun q => q.ref) kcLevel3
  let s := (List.range 128).foldl (fun s c =>
    let x := getCore s c
    if x.state = 5 then setCoreState (setCore s c { x with parkedAt := coreReading s c }) c 2
    else if x.state = 1 ∧ x.func.phase = .enabled then setCore s c { x with parking := true }
    else s) s
  settleFuncs s

/-- Lowest duty of a level (R562). -/
def dutyFloor (level : Nat) : Nat := match level with | 0 => 64 | 1 => 32 | _ => 16

/-- The emergency level changes. -/
def setLevel (s : State) (new cause : Nat) : State :=
  let old := s.pwr.level
  if old = new then s
  else
    let s := modPwr s fun x => { x with
      level := new, leaving := none, at32 := none,
      lvlEvents := if old < new then satAdd x.lvlEvents 1 cap32 else x.lvlEvents,
      below2 := if 2 ≤ old ∧ new < 2 then some s.now else x.below2,
      parkDue := if old < 2 ∧ 2 ≤ new then s.now else if 2 ≤ old ∧ new < 2 then s.now + 10 * msTicks else x.parkDue }
    let s := if new = 3 then enterLevel3 s else s
    let s := if loopsRun s then trace s 14 0xFF [old, new, 0] else s
    out (pwrEvent s old new cause) (.ibi new)

/-! ## The firmware's levels (R563) -/

/-- The highest level whose entry condition holds, and its cause. -/
def entryLevel (s : State) : Nat × Nat :=
  let h := hottest s
  let t := throttleC s
  let m := s.pwr.hbm.1
  let slow : Bool := match s.pwr.at32 with | some x => decide (x + 20 * msTicks ≤ s.now) | none => false
  if t + degC 10 ≤ h then (3, 0)
  else if hbmC s + degC 5 ≤ m then (3, 1)
  else if t + degC 5 ≤ h ∨ (s.pwr.level = 1 ∧ slow ∧ t ≤ h) then (2, 0)
  else if hbmC s ≤ m then (2, 1)
  else if t ≤ h then (1, 0)
  else if overTdp s then (1, 2)
  else (0, 0)

/-- The leaving condition of the level holds, and for how long it must. -/
def mayLeave (s : State) : Bool × Nat :=
  let h := hottest s
  let t := throttleC s
  let cool := decide (s.pwr.hbm.1 ≤ hbmC s - degC 5)
  let low := !overTdp s
  let noneParked := (List.range 128).all fun c => (getCore s c).state ≠ 2 && !(getCore s c).parking
  match s.pwr.level with
  | 1 => (decide (h ≤ t - degC 5) && low && s.pwr.duty = 64 && noneParked, 100 * msTicks)
  | 2 => (decide (h ≤ t - degC 5) && cool && low, 500 * msTicks)
  | 3 => (decide (h ≤ t) && cool && !s.pwr.held, 1000 * msTicks)
  | _ => (false, 0)

/-- The power-thermal processor judges the level: up at once, down one step at a time. -/
def judgeLevel (s : State) : State :=
  if !loopsRun s ∨ 4 ≤ s.pwr.level then s
  else
    let e := entryLevel s
    if s.pwr.level < e.1 then setLevel s e.1 e.2
    else
      let m := mayLeave s
      if !m.1 then modPwr s fun x => { x with leaving := none }
      else
        let since := s.pwr.leaving.getD s.now
        if since + m.2 ≤ s.now then setLevel s (s.pwr.level - 1) 4
        else modPwr s fun x => { x with leaving := some since }

/-- How long the sensors have been clear while the level is held (R543). -/
def judgeHold (s : State) : State :=
  let ok := decide (hottest s < throttleC s) && !s.pwr.limiter
  modPwr s fun x => { x with clear := if x.held && ok then some (x.clear.getD s.now) else none }

/-! ## The trip (R566) -/

def tripC : Int := degC 115

/-- What of a transmitter and of a sensor input outlives the loss of its link. -/
def txStopped (x : Transmitter) : Transmitter := { x with training := false, trained := none, idle := [] }
def rxStopped (x : Receiver) : Receiver := { x with state := 0, sources := [], frames := [] }

/-- The chip stops: PHY outputs too, so scan-out, links and capture stop; the PERI domain runs on. -/
def tripChip (s : State) : State :=
  let s := modPwr s fun x => { x with level := 4, leaving := none, lvlEvents := satAdd x.lvlEvents 1 cap32 }
  let s := (List.range 4).foldl (fun s p =>
    setPort s p { getPort s p with link := false, preempt := false }) s
  let s := { s with
    disp := { s.disp with txs := tabMap (fun _ => txStopped) s.disp.txs },
    sens := { s.sens with rx := tabMap (fun _ => rxStopped) s.sens.rx,
                          tdm := tabMap (fun _ x => { x with state := 0, run := 0 }) s.sens.tdm } }
  out (out { s with chip := { s.chip with phase := .tripped, wasTripped := true, trip := true } } .thermTrip) (.ibi 4)

/-! ## Samples (R558, R559) -/

/-- A reading with its peak since reset: the first one is its own peak. -/
def withPeak (old : List (Int × Int)) (new : List Int) : List (Int × Int) :=
  new.zipIdx.map fun r => (r.1, match old[r.2]? with | some o => max o.2 r.1 | none => r.1)

/-- The sensors are powered: the PERI domain runs, after a trip too. -/
def sensed (s : State) : Bool := s.chip.phase = .running || s.chip.phase = .tripped || s.chip.phase = .holdOff

def storeReadings (s : State) (r : SensorReadings) : State :=
  modPwr s fun x => { x with
    core := withPeak x.core r.core, uncore := withPeak x.uncore r.uncore,
    hbm := (r.hbm, if x.core = [] then r.hbm else max x.hbm.2 r.hbm) }

/-- SENSOR_SAMPLE: two samples in a row with a diode at 115 °C trip the chip; else firmware judges the
level. -/
def onSensorSample (r : SensorReadings) (s : State) : State :=
  if !sensed s then s
  else
    let hot := (r.core ++ r.uncore).any fun v => decide (tripC ≤ v)
    let again := s.pwr.hot115
    let s := modPwr (storeReadings s r) fun x => { x with hot115 := hot }
    if !isRunning s then s
    else if hot && again then tripChip s
    else judgeLevel (judgeHold s)

def avgTicks : Nat := msTicks
def packTicks : Nat := 10 * msTicks

/-- The sum over a span of values that each stand from their sample until the next, newest first. -/
def spanSum : List (Nat × Nat) → Nat → Nat → Nat
  | [], _, _ => 0
  | (t, v) :: r, start, stop => v * (stop - max t start) + spanSum r start (min t stop)

/-- Samples that reach into a span, newest first: the last of them stood as it began. -/
def reaching (start : Nat) : List (Nat × Nat × Nat) → List (Nat × Nat × Nat)
  | [] => []
  | x :: r => if x.1 ≤ start then [x] else x :: reaching start r

/-- Sums of core-rail current over the last 1 ms and of package power over the last 10 ms. DESIGN CHOICE (log entry 48):
a sample stands until the next one, the newest counts one cycle, and what lies before the first counts 0. -/
def currentSum (s : State) : Nat :=
  spanSum (s.pwr.samples.map fun x => (x.1, x.2.1)) (s.now + 1 - avgTicks) (s.now + 1)
def powerSum (s : State) : Nat :=
  spanSum (s.pwr.samples.map fun x => (x.1, x.2.2)) (s.now + 1 - packTicks) (s.now + 1)

/-- The rails as sampled: the core rail's current, and the power of all in 1/16 mW. -/
def coreAmps (r : RailReadings) : Nat := (r.rails.getD 0 (0, 0)).2
def railPower (r : RailReadings) : Nat := (r.rails.map fun x => x.1 * x.2).sum

def keepSample (s : State) (r : RailReadings) : State :=
  modPwr s fun x => { x with
    rails := r.rails,
    samples := reaching (s.now + 1 - packTicks) ((s.now, coreAmps r, railPower r) :: x.samples.filter fun y => y.1 ≠ s.now) }

/-- Whether the limiter acts: from a sample that crosses a limit to the first one below every limit (R559). -/
def limiterActs (s : State) (now16 : Nat) : Bool :=
  let above := decide (16 * peakA s < now16) || decide (16 * burstA s * avgTicks < currentSum s)
  let under := decide (now16 < 16 * peakA s) && decide (currentSum s < 16 * burstA s * avgTicks)
  above || (s.pwr.limiter && !under)

/-- CURRENT_SAMPLE: the averages move on, the limiter acts, and each onset counts. -/
def onCurrentSample (r : RailReadings) (s : State) : State :=
  if !sensed s then s
  else
    let s := keepSample s r
    let act := limiterActs s (coreAmps r)
    let p := powerSum s / packTicks
    let s := modPwr s fun x => { x with
      now16 := coreAmps r, avg16 := currentSum s / avgTicks, package := p, packPeak := max x.packPeak p, limiter := act,
      limEvents := if act && !x.limiter then satAdd x.limEvents 1 cap32 else x.limEvents }
    if isRunning s then judgeLevel (judgeHold s) else s

def execSensorSample (r : SensorReadings) (s : State) : Out := .next (onSensorSample r s)
def execCurrentSample (r : RailReadings) (s : State) : Out := .next (onCurrentSample r s)

/-! ## The 1 ms loop (R561, R562, R570) -/

/-- The next duty: towards holding the hottest temperature at the threshold, by at most 4, and up to the level's floor at
that pace. The manual fixes neither the size of a change nor, at the threshold, or below it with the package above its
target, its direction: free values (log entry 48). -/
def nextDuty (s : State) : Nat :=
  let x := s.pwr
  let n := Config.freeNat s.fresh % 5
  let either := hottest s = throttleC s || (decide (hottest s < throttleC s) && overTdp s)
  let down := if either then Config.freeBool s.fresh else decide (throttleC s < hottest s)
  let low := dutyFloor x.level
  max (min low (x.duty + 4)) (if down then x.duty - n else min 64 (x.duty + n))

/-- POWER_LOOP_PERIOD: new register values come into force, and the duty is set. -/
def onPowerLoop (s : State) : State :=
  if !loopsRun s ∨ s.now < s.pwr.loopDue then s
  else
    let s := modPwr s fun x => { x with
      loopDue := s.now + msTicks, thermal := regW s (aPwr 4), limits := regW s (aPwr 8), park := regW s (aPwr 0xC) }
    let d := nextDuty s
    let s := modPwr (draw s) fun x => { x with
      duty := d,
      at32 := if x.level = 1 ∧ d = 32 then some (x.at32.getD s.now) else none }
    judgeLevel s

def execPowerLoopPeriod (s : State) : Out := .next (onPowerLoop s)

/-! ## Parking (R564, R188) -/

def onCoreInsts (s : State) (c : Nat) : List Placed :=
  (allInsts s).filter fun q => onCore q.inst && (instCores q).elem c

/-- Instances leave a core that is to park, those that may (R186, R188). -/
def evict (s : State) (c : Nat) : State :=
  (onCoreInsts s c).foldl (fun s q =>
    match findInst s q.ref with
    | some p => if onCore p.inst && mayMove s p then leaveCore s p kcPark else s
    | none => s) s

/-- Order of parking: cores without a protected or in-place command first, then the hottest, then the
lowest number. -/
def parkBefore (s : State) (a b : Nat) : Bool :=
  let pa := (protectedCores s).elem a
  let pb := (protectedCores s).elem b
  if pa ≠ pb then !pa
  else if coreReading s a ≠ coreReading s b then decide (coreReading s b < coreReading s a) else decide (a < b)

def insertBy (lt : Nat → Nat → Bool) (a : Nat) : List Nat → List Nat
  | [] => [a]
  | b :: r => if lt b a then b :: insertBy lt a r else a :: b :: r

def sortBy (lt : Nat → Nat → Bool) (l : List Nat) : List Nat := l.foldr (insertBy lt) []

/-- ONLINE cores that stay in service. -/
def stayingCores (s : State) : List Nat := (List.range 128).filter fun c => (getCore s c).state = 1 && !(getCore s c).parking

/-- Cores that the loop may park: without a latency-critical command. One that R176 raised is still best-effort here, for it is
raised for placement and pre-emption alone. -/
def parkable (s : State) : List Nat :=
  (stayingCores s).filter fun c => (getCore s c).func.phase = .enabled && (onCoreInsts s c).all fun q => !q.loop.lc

def parkCore (s : State) (c : Nat) : State :=
  let s := evict s c
  settleFuncs (setCore s c { getCore s c with parking := true })

/-- Released cores: the hottest when parked come last. -/
def releaseOrder (s : State) : List Nat :=
  sortBy (fun a b =>
    let x := (getCore s a).parkedAt
    let y := (getCore s b).parkedAt
    if x ≠ y then decide (x < y) else decide (a < b))
    ((List.range 128).filter fun c => (getCore s c).state = 2)

/-- PARK_PERIOD: at level 2, eight cores park while it is hot; at level 1 or 0, eight return. -/
def onParkPeriod (s : State) : State :=
  if !loopsRun s ∨ s.now < s.pwr.parkDue then s
  else
    let s := modPwr s fun x => { x with parkDue := s.now + 10 * msTicks }
    if s.pwr.level = 2 ∧ throttleC s ≤ hottest s then
      let room := (stayingCores s).length - max (bits s.pwr.park 7 0) s.sched.reserve
      refresh (((sortBy (parkBefore s) (parkable s)).take (min 8 room)).foldl parkCore s)
    else if s.pwr.level ≤ 1 then
      ((releaseOrder s).take 8).foldl (fun s c => setCoreState s c 5) s
    else s

def execParkPeriod (s : State) : Out := .next (onParkPeriod s)

/-! ## Registers -/

/-- What forbids a write of a power register beyond its fields' ranges: burst_a above peak_a. -/
def pwrRelation (off new : Nat) : Option (Nat × Nat) :=
  if off = 8 ∧ bits new 31 22 < bits new 21 12 then some (stBadParam, dtValueRange) else none

def pwrStatusWord (s : State) : Nat :=
  let parked := ((List.range 128).filter fun c => (getCore s c).state = 2).length
  parked * 2 ^ 24 + s.pwr.duty * 2 ^ 16 + (max 0 (min 255 (hottest s / 16))).toNat * 256 + 16 * boolNat s.pwr.limiter
  + 8 * boolNat s.pwr.held + s.pwr.level

def tempWord (r : Int × Int) : Nat := uCode 16 r.2 * 65536 + uCode 16 r.1

end Sys2Proof.Machine
end

