-- ==== Sys2Proof/Machine/Firmware.lean ====
section
/-! DEFINITION. Machine/Firmware.lean: the firmware complex: loading and activation (R534 to R540, R546
to R548), self-test (R609, R610), restarts (R541 to R545), and the log ring (R549 to R551). -/

namespace Sys2Proof.Machine

open Sys2Proof

def modFw (s : State) (f : Firmware → Firmware) : State := { s with fw := f s.fw }
def modProc (s : State) (p : Nat) (f : Processor → Processor) : State := setProc s p (f (getProc s p))

/-- An activation is pending (R536). -/
def fwPending (s : State) : Bool := s.fw.request.isSome

/-- A log record of firmware (R549, R551): whether a processor writes one with an event, and what it says, is its own
(free values, log entry 46). One below the least severity is not written, and one that meets a restart of the service
processor is lost (R542). -/
def fwLog (s : State) (proc : Nat) : State :=
  let severity := Config.freeNat s.fresh % 4
  let word (k : Nat) : Nat := (Config.freeAt s.fresh [k]).toNat
  let writes := Config.freeBool s.fresh && decide (rField s aLogLevel 1 0 ≤ severity)
  let f := (pushLog s proc severity (word 0 % 65536) (word 1 % 256) [word 2, word 3, word 4]).fw
  let kept := writes && !restarting s 0
  { s with
    fresh := s.fresh + 1,
    fw := { s.fw with
      log := if kept then f.log else s.fw.log,
      logHead := if kept then f.logHead else s.fw.logHead,
      logLost := if kept then f.logLost else if writes then satAdd s.fw.logLost 1 cap32 else s.fw.logLost,
      logSecond := if kept then f.logSecond else s.fw.logSecond,
      logCount := if kept then f.logCount else s.fw.logCount } }

/-- FW_EVENT: from a processor, or from the service processor for the device. -/
def fwEvent (s : State) (proc change cause build : Nat) : State :=
  event (fwLog s (if proc < 6 then proc else 0)) 0 opFwEvent stOk 0 (by1 proc ++ by1 change ++ by1 cause ++ zeros 1 ++ le4 (tbStamp s 0) ++ le2 build ++ zeros 6)

/-! ## The image (R535) -/

def stageBytes : Nat := 67108864

/-- Bytes at an offset of the staging area. -/
def putBytes (l : List Byte) (off : Nat) (d : List Byte) : List Byte := fit off l ++ d ++ l.drop (off + d.length)

structure Section where
  off : Nat
  len : Nat
  deriving DecidableEq, Repr

def sectionsOf (im : List Byte) : List Section :=
  (List.range 6).map fun p => { off := leAt im (64 + 16 * p) 4, len := leAt im (68 + 16 * p) 4 }

/-- The code of a processor in an image. -/
def sectionOf (im : List Byte) (p : Nat) : List Byte := sliceAt im (leAt im (64 + 16 * p) 4) (leAt im (68 + 16 * p) 4)

def disjointSections : List Section → Bool
  | [] => true
  | a :: r => (r.all fun b => !overlap a.off a.len b.off b.len) && disjointSections r

/-- Check 1 of R537: every header field and section but the interface major. -/
def imageForm (im : List Byte) (n : Nat) : Bool :=
  let size := leAt im 16 4
  leAt im 0 4 = 0x4E444657 && leAt im 4 2 = 1 && leAt im 11 1 = 0 && leAt im 20 44 = 0 && size = n
  && decide (4096 ≤ size) && decide (size ≤ stageBytes)
  && ((List.range 6).all fun p => leAt im (76 + 16 * p) 4 = 0)
  && ((sectionsOf im).all fun x => decide (1 ≤ x.len) && decide (x.len ≤ 262144) && decide (160 ≤ x.off)
        && decide (x.off + x.len + 64 ≤ size))
  && disjointSections (sectionsOf im)

def imgMajor (im : List Byte) : Nat := leAt im 6 1
def imgMinor (im : List Byte) : Nat := leAt im 7 1
def imgBuild (im : List Byte) : Nat := leAt im 8 2
def imgKey (im : List Byte) : Nat := leAt im 10 1
def imgSecver (im : List Byte) : Nat := leAt im 12 4

/-- Check 4: signed under a signing key that is not revoked (R582). -/
def imageSigned (s : State) (im : List Byte) : Bool :=
  let n := im.length
  decide (imgKey im ≤ 3) && !bit (nvrWord s 65) (imgKey im)
  && edVerify (Config.signingKey (imgKey im)) (im.take (n - 64)) (im.drop (n - 64))

/-! ## FW_LOAD and FW_ACTIVATE -/

def onFwLoad (rq : Req) (offset reserved : Word) (data : List Byte) (s : State) : State :=
  take (.fwLoad rq offset reserved data) s fun op t _ rq =>
    checked s op rq
      [ (reserved ≠ 0, (stBadParam, dtReservedNonzero)),
        (decide (stageBytes < offset.toNat + data.length), (stBadParam, dtValueRange)),
        (!s.chip.hbmReady || fwPending s, (stBusy, dtFwPending)),
        (t ≠ 0, (stNotPermitted, dtPermissionClass)) ]
      (replyOk (modFw s fun f => { f with staging := putBytes f.staging offset.toNat data }) op rq [])

/-- The level is below 2, and has been for 500 ms. -/
def quietLevel (s : State) : Bool :=
  decide (s.pwr.level < 2) && (match s.pwr.below2 with | some t => decide (t + 500 * msTicks ≤ s.now) | none => true)

/-- FW_ACTIVATE: checks 1 to 3, then the reply; a running device shows ACTIVATING. -/
def onFwActivate (rq : Req) (n reserved : Word) (s : State) : State :=
  take (.fwActivate rq n reserved) s fun op t _ rq =>
    let head := fit 160 s.fw.staging
    let status := if s.fw.device = 0 ∨ quietLevel s then stAccepted else stDeferred
    checked s op rq
      [ (reserved ≠ 0, (stBadParam, dtReservedNonzero)),
        (!imageForm head n.toNat, (stBadParam, dtFwImage)),
        (imgMajor head ≠ ndMajor, (stVersionMismatch, 256 * ndMajor + fwMinor s)),
        (fwPending s, (stBusy, dtFwPending)),
        (t ≠ 0, (stNotPermitted, dtPermissionClass)) ]
      (accept s op rq t status [] fun s r => modFw s fun f => { f with
        next := fit n.toNat f.staging, request := some r, actState := 1, actNext := 0,
        device := if f.device = 2 then 3 else f.device })

def execFwLoad (rq : Req) (offset reserved : Word) (data : List Byte) (s : State) : Out :=
  .next (onFwLoad rq offset reserved data (hear rq s))
def execFwActivate (rq : Req) (imageBytes reserved : Word) (s : State) : Out := .next (onFwActivate rq imageBytes reserved (hear rq s))

/-! ## The end of an activation -/

/-- The activation ends without its image: what ran before runs on. -/
def endActivation (s : State) (device status detail : Nat) : State :=
  let r := s.fw.request
  let s := modFw s fun f => { f with next := [], request := none, actState := 0, actNext := 0, device := device }
  match r with
  | some a => complete s 0 a status detail []
  | none => s

/-- The image becomes the running image; sessions fall to its minor version (R540, R548). -/
def finishActivation (s : State) : State :=
  let im := s.fw.next
  let s := modFw s fun f => { f with
    image := im, staging := [], major := imgMajor im, minor := imgMinor im, build := imgBuild im,
    secver := imgSecver im, signer := imgKey im }
  let s := { s with link := { s.link with sessions := tabMap (fun _ x => { x with minor := min x.minor (imgMinor im) }) s.link.sessions } }
  endActivation (fwEvent s 0xFF 5 6 (imgBuild im)) 2 stOk 0

/-! ## Restarts (R541 to R543) -/

def restartTicks : Nat := 20 * msTicks

/-- A restart begins: with what R542 says of each processor. -/
def startRestart (s : State) (p cause : Nat) : State :=
  let s := modProc s p fun x => { x with
    state := .restarting (s.now + restartTicks), pending := cause, cause := cause,
    count := if cause = 6 then x.count else satAdd x.count 1 0xFFFF }
  if p = 1 then { s with link := { s.link with half := [] } }
  else if p = 5 then modPwr s fun x => { x with leaving := none }
  else if p = 3 then timeHold s
  else s

/-- The order of R547. -/
def actOrder : List Nat := [0, 4, 1, 2, 3, 5]

/-- The restart that an activation may begin now. -/
def mayRestart (s : State) (p : Nat) : Bool := if p = 5 then s.pwr.level = 0 else quietLevel s

/-- An activation goes on: it restarts the next processor, or pauses. A restart in progress completes
first, and so does one of the service processor. -/
def activationStep (s : State) : State :=
  match actOrder[s.fw.actNext]? with
  | none => s
  | some p =>
    if s.fw.actState < 2 || s.fw.device ≠ 3 || restarting s p || restarting s 0 then s
    else if !mayRestart s p then
      (if s.fw.actState = 3 then fwEvent (modFw s fun f => { f with actState := 4 }) 0xFF 3 6 s.fw.build else s)
    else
      let s := match s.fw.actState with
        | 2 => fwEvent s 0xFF 2 6 s.fw.build
        | 4 => fwEvent s 0xFF 4 6 s.fw.build
        | _ => s
      startRestart (modFw s fun f => { f with actState := 3 }) p 6

/-- ACTIVATION_RESUME. -/
def onActivationResume (s : State) : State := if isRunning s then activationStep s else s

def execActivationResume (s : State) : Out := .next (onActivationResume s)

/-- All six processors start from the image. -/
def startProcessors (s : State) (build : Nat) : State :=
  timeStart ((List.range 6).foldl (fun s p => modProc s p fun x => { x with
    state := .running, build := build, imem := sectionOf s.fw.next p, dmem := [] }) s)

/-- FW_VERIFY_DONE: checks 4 and 5; then the processors start, and self-test with them, or are restarted
in turn. -/
def onFwVerifyDone (s : State) : State :=
  let im := s.fw.next
  let back := if s.fw.device = 3 then 2 else s.fw.device
  if !isRunning s || s.fw.actState ≠ 1 then s
  else if !imageSigned s im then
    endActivation { s with sec := { s.sec with authFails := satAdd s.sec.authFails 1 cap32 } } back stAuthFailed dtFwSignature
  else if imgSecver im < nvrWord s 64 then endActivation s back stRollbackRefused 0
  else if s.fw.device = 0 then
    startProcessors (modFw s fun f => { f with actState := 3, device := 1 }) (imgBuild im)
  else activationStep (modFw s fun f => { f with actState := 2 })

def execFwVerifyDone (s : State) : Out := .next (onFwVerifyDone s)

/-- When a restart ends at the latest. -/
def restartEnd (x : Processor) : Nat := match x.state with | .restarting due => due | _ => 0

/-- The time of a restart of the scheduler processor counts against no held fault's timeout (R542). -/
def faultTime (s : State) (d : Nat) : State :=
  { s with tenants := tabMap (fun _ x => { x with mem := { x.mem with
      held := x.mem.held.map fun h => { h with due := h.due + d } } }) s.tenants }

/-- A restart ends: the processor's section is reloaded, its data SRAM cleared (R541), and it runs, its image's build with it; FW_RESTART completes, and an
activation goes on. -/
def restartDone (s : State) (p : Nat) : State :=
  let x := getProc s p
  let act := x.pending = 6
  let build := if act then imgBuild s.fw.next else x.build
  let s := setProc s p { x with
    state := .running, build := build, requests := [],
    imem := sectionOf (if act then s.fw.next else s.fw.image) p, dmem := [] }
  let s := fwEvent s p 0 x.pending build
  let s := x.requests.foldl (fun s a => complete s 0 a stOk 0 []) s
  let s := if p = 3 then timeStart s else if p = 2 then faultTime s (s.now + restartTicks - restartEnd x) else s
  let s := if act then modFw s fun f => { f with actNext := f.actNext + 1 } else s
  if act ∧ 6 ≤ s.fw.actNext then finishActivation s else activationStep s

/-- A processor fails: it restarts, or, the power-thermal processor in an emergency, is held, with the
level at 3 (R543). -/
def procFault (p cause : Nat) (s : State) : State :=
  let x := getProc s p
  if !isRunning s || x.state ≠ .running then s
  else if p = 5 ∧ 1 ≤ s.pwr.level then
    let s := setProc s 5 { x with state := .held, pending := cause }
    let s := modPwr s fun y => { y with held := true, clear := none, leaving := none }
    let s := fwEvent s 5 1 cause x.build
    judgeHold (if s.pwr.level < 3 then setLevel s 3 3 else s)
  else startRestart s p cause

def execWatchdogExpiry (p : Fin 6) (s : State) : Out := .next (procFault p.val 1 s)
def execProtectionViolation (p : Fin 6) (s : State) : Out := .next (procFault p.val 2 s)
def execSramError (p : Fin 6) (s : State) : Out := .next (procFault p.val 3 s)
def execConsistencyCheckFail (p : Fin 6) (s : State) : Out := .next (procFault p.val 4 s)

/-- HOLD_RELEASE: clear for 500 ms, and the held processor restarts. -/
def onHoldRelease (s : State) : State :=
  match s.pwr.clear with
  | some t =>
    if isRunning s && s.pwr.held && decide (t + 500 * msTicks ≤ s.now) then
      startRestart (modPwr s fun x => { x with held := false, clear := none }) 5 (getProc s 5).pending
    else s
  | none => s

def execHoldRelease (s : State) : Out := .next (onHoldRelease s)

def onFwRestart (rq : Req) (p : Byte) (reserved : BitVec 24) (s : State) : State :=
  take (.fwRestart rq p reserved) s fun op t _ rq =>
    let q := p.toNat
    checked s op rq
      [ (reserved ≠ 0, (stBadParam, dtReservedNonzero)),
        (decide (5 < q), (stBadParam, dtValueRange)),
        (q = 5 && decide (1 ≤ s.pwr.level), (stBusy, dtFwEmergency)),
        (fwPending s, (stBusy, dtFwPending)),
        ((getProc s q).state = .off, (stNotEnabled, dtFwAbsent)),
        (t ≠ 0, (stNotPermitted, dtPermissionClass)) ]
      (accept s op rq t stAccepted [] fun s r =>
        let s := if (getProc s q).state = .running then startRestart s q 5 else s
        modProc s q fun x => { x with requests := x.requests ++ [r] })

def execFwRestart (rq : Req) (processor : Byte) (reserved : BitVec 24) (s : State) : Out :=
  .next (onFwRestart rq processor reserved (hear rq s))

/-! ## Self-test (R609, R610) -/

/-- Cores without a fault become ONLINE, the others FAILED; a core that has FAILED stays so until reset (R19). DESIGN CHOICE
(log entry 25): a core without a fault that FUNC_DISABLE took out of service while it was untested becomes DISABLED. -/
def testCores (s : State) (r : SelfTestReport) : State :=
  (List.range 128).foldl (fun s c =>
    let ok := match r.failedCores.find? fun f => f.1.val = c with
      | some f => f.2.toNat
      | none => 0x7F
    if (getCore s c).state = 4 then s else setCoreState (setCore s c { getCore s c with engineOk := ok }) c
      (if ok ≠ 0x7F then 4 else if (getCore s c).func.phase = .disabled then 3 else 1)) s

/-- Frames that self-test retires (R609): any uncorrectable error, or more than one corrected. -/
def testRetired (r : SelfTestReport) : List Nat :=
  ((r.frames.filter fun f => decide (0 < f.2.1) || decide (1 < f.2.2)).map fun f => f.1).eraseDups

/-- SELF_TEST_DONE. -/
def onSelfTestDone (r : SelfTestReport) (s : State) : State :=
  if !isRunning s || s.fw.device ≠ 1 then s
  else
    let s := testCores s r
    let failed := ((List.range 128).filter fun c => (getCore s c).state = 4).length
    let gone := testRetired r
    let code := if 64 < failed then 2 else if 4096 < gone.length then 3 else 1
    let s := { s with chip := { s.chip with selftest := code, failed := failed, retired := min gone.length 65535, retiredFrames := gone } }
    if code = 1 then finishActivation s
    else
      let s := (List.range 6).foldl (fun s p => modProc s p fun x => { x with state := .off, build := 0 }) (timeHold s)
      if code = 2 then endActivation s 0 stNoResource dtCoreSelftest
      else endActivation s 0 stEccUncorrectable dtHbmSelftest

def execSelfTestDone (r : SelfTestReport) (s : State) : Out := .next (onSelfTestDone r s)

/-! ## LOG_READ (R549, R550) -/

def logBytes (r : LogRecord) : List Byte :=
  le4 r.seq ++ le4 r.ns ++ leBytes 6 r.sec ++ by1 r.source ++ by1 r.severity ++ le2 r.code ++ by1 r.tenant ++ zeros 1
  ++ ((List.range 3).map fun i => le4 (r.args.getD i 0)).flatten

/-- A sequence number is another one, or newer (R13). -/
def sameOrNewer (b a : Nat) : Bool := b % 2 ^ 32 = a % 2 ^ 32 || newer b a

/-- Records from a sequence number on that a tenant may read, oldest first. -/
def logVisible (s : State) (t first : Nat) : List LogRecord :=
  (s.fw.log.filter fun r => sameOrNewer r.seq first && (t = 0 || r.tenant = t)).reverse

/-- Records from a number on that the ring has overwritten: none is numbered before 1 until the ring has been filled
(DESIGN CHOICE, log entry 47: before then, the numbers before 1 are not counted). -/
def logMissed (s : State) (first : Nat) : Nat :=
  let from_ := if s.fw.log.length < ringRecords then max first 1 else first
  match s.fw.log.getLast? with
  | some r => if newer r.seq from_ then (r.seq + 2 ^ 32 - from_ % 2 ^ 32) % 2 ^ 32 else 0
  | none => 0

def logReply (s : State) (t maxPayload first maximum : Nat) : List Byte :=
  let beyond := newer first s.fw.logHead
  let rs := if beyond then [] else (logVisible s t first).take (min maximum ((maxPayload - 12) / 32))
  let missed := if beyond then 0 else logMissed s first
  le4 (match rs with | r :: _ => r.seq | [] => first) ++ le2 rs.length ++ zeros 2 ++ le4 missed ++ (rs.map logBytes).flatten

def onLogRead (rq : Req) (first : Word) (maximum reserved : Half) (s : State) : State :=
  take (.logRead rq first maximum reserved) s fun op t ss rq =>
    checked s op rq
      [ (reserved ≠ 0, (stBadParam, dtReservedNonzero)),
        (decide (maximum.toNat < 1) || decide (255 < maximum.toNat), (stBadParam, dtValueRange)) ]
      (replyOk s op rq (logReply s t ss.maxPayload first.toNat maximum.toNat))

def execLogRead (rq : Req) (first : Word) (maximum reserved : Half) (s : State) : Out :=
  .next (onLogRead rq first maximum reserved (hear rq s))

/-! ## Registers (R553 to R556) -/

def procCode : ProcState → Nat
  | .off => 0
  | .running => 1
  | .restarting _ => 2
  | .held => 3

def fwStateWord (s : State) : Nat := ((List.range 6).map fun p => procCode (getProc s p).state * 16 ^ p).sum
def fwVersionWord (s : State) : Nat := s.fw.major * 2 ^ 24 + s.fw.minor * 2 ^ 16 + s.fw.build
def fwActivationWord (s : State) : Nat := (if s.fw.actState = 0 then 0 else actOrder.getD s.fw.actNext 0) * 256 + s.fw.actState
def fwRestartsWord (s : State) (p : Nat) : Nat := (getProc s p).cause * 65536 + (getProc s p).count

end Sys2Proof.Machine
end

