-- ==== Sys2Proof/Machine/Security.lean ====
section
/-! DEFINITION. Machine/Security.lean: the security group (R584): the certificate (R574), attestation
(R585), the owner credential (R580), key revocation and anti-rollback (R582, R583); entropy failure
(R573) and the enrolment window (R579). -/

namespace Sys2Proof.Machine

open Sys2Proof

/-! ## SYS_COMPAT (R200) and the words of SEC (R591 to R593) -/

def compatWord (s : State) : Nat :=
  4 * boolNat s.sched.locked + 2 * boolNat s.chip.straps.compatSel + rField s aSysCompat 0 0

/-- The image that runs: during self-test, the one being activated. -/
def runningImage (s : State) : List Byte := if s.fw.device = 1 then s.fw.next else s.fw.image

def secStatusWord (s : State) : Nat :=
  128 * boolNat s.sec.entropyFail + 64 * boolNat (s.sec.bootWorn || slotsWorn s) + 32 * boolNat (enrollArmed s)
  + 16 * boolNat (ownerEnrolled s) + nvrWord s 65 % 16

/-- SEC_ENROLL: seconds left, rounded up, and the open window. -/
def enrollWord (s : State) : Nat :=
  match s.sec.enroll with
  | some e => if s.now < e then min 600 (ceilDiv (e - s.now) secTicks) * 65536 + 1 else 0
  | none => 0

def enrollTicks : Nat := 600 * secTicks

/-- Setting arm opens the window; an open one stays as it is. -/
def armEnroll (s : State) : State :=
  if enrollArmed s then s else { s with sec := { s.sec with enroll := some (s.now + enrollTicks) } }

/-- ENTROPY_FAIL: no random values until reset. -/
def onEntropyFail (s : State) : State :=
  if isRunning s then { s with sec := { s.sec with entropyFail := true } } else s

/-- ENROLL_WINDOW_EXPIRY: the 600 s have passed. -/
def onEnrollExpiry (s : State) : State :=
  if enrollArmed s then s else { s with sec := { s.sec with enroll := none } }

def execEntropyFail (s : State) : Out := .next (onEntropyFail s)
def execEnrollWindowExpiry (s : State) : Out := .next (onEnrollExpiry s)

/-! ## SEC_CERT and SEC_ATTEST -/

def certificate (s : State) : List Byte := ((List.range 48).map fun w => le4 (nvrWord s w)).flatten

def onSecCert (rq : Req) (s : State) : State :=
  take (.secCert rq) s fun op _ _ rq => replyOk s op rq (certificate s)

/-- Bytes 0 to 191 of a report. -/
def attestBody (s : State) (t id : Nat) (credential challenge : List Byte) : List Byte :=
  let im := runningImage s
  le4 0x4E444154 ++ le2 1 ++ by1 t ++ by1 s.fw.device ++ le4 s.chip.boot ++ le4 Config.siliconRevision.toNat
  ++ by1 (imgMajor im) ++ by1 (imgMinor im) ++ le2 (imgBuild im) ++ le4 (imgSecver im) ++ le4 (nvrWord s 64)
  ++ by1 (nvrWord s 65 % 16) ++ by1 (boolNat (ownerEnrolled s)) ++ zeros 2 ++ le4 id ++ le4 (compatWord s)
  ++ le4 (regW s aSysRepro) ++ le4 s.pwr.level ++ leBytes 6 (tbSec s 0) ++ zeros 2 ++ le4 (tbStamp s 0) ++ zeros 4
  ++ fit 32 challenge ++ sha512 im ++ fit 32 credential

def attestation (s : State) (t id : Nat) (credential challenge : List Byte) : List Byte :=
  let body := attestBody s t id credential challenge
  body ++ signIdentity body

def onSecAttest (rq : Req) (challenge : List Byte) (s : State) : State :=
  take (.secAttest rq challenge) s fun op t ss rq =>
    replyOk s op rq (attestation s t rq.session.toNat ss.credential challenge)

def execSecCert (rq : Req) (s : State) : Out := .next (onSecCert rq (hear rq s))
def execSecAttest (rq : Req) (challenge : List Byte) (s : State) : Out := .next (onSecAttest rq challenge (hear rq s))

/-! ## Writes of the bank that the security group asks for -/

/-- What OWNER_CHANGE's signature is made over. -/
def ownerMessage (s : State) (key : List Byte) : List Byte :=
  ascii "ALENSIA-OWNER" ++ identityPublic ++ le4 s.chip.boot ++ fit 32 key

/-- A word of the bank as it will stand once the writes that wait are done. -/
def nvrComing (s : State) (w : Nat) : Nat :=
  match s.nvr.queue.reverse.find? fun q => q.1 = w with
  | some q => q.2.1.toNat
  | none => nvrWord s w

/-- OWNER_CHANGE. Its AUTH_FAILED counts in SEC_AUTH_FAILS alone, and not among the four outcomes of R111 (DESIGN CHOICE,
log entry 51). -/
def onOwnerChange (rq : Req) (key signature : List Byte) (s : State) : State :=
  take (.ownerChange rq key signature) s fun op t _ rq =>
    if t ≠ 0 then refuse s op rq (stNotPermitted, dtPermissionClass)
    else if key.all fun b => b = 0 then refuse s op rq (stBadParam, dtValueRange)
    else if !edVerify (fit 32 key) (ownerMessage s key) (fit 64 signature) then
      refuse { s with sec := { s.sec with authFails := satAdd s.sec.authFails 1 cap32 } } op rq
        (stAuthFailed, dtOwnerSignature)
    else accept s op rq t stAccepted [] fun s a => nvrEnqueue s t a 0 (ownerQueue key)

/-- A word of the bank is to be written for the owner: worn, the request is accepted and its completion says so; else a
pending FW_ACTIVATE refuses it (the order of R584). -/
def ownerWrite (s : State) (op : Nat) (rq : Req) (t w v : Nat) : State :=
  if !nvrWorn s w && fwPending s then refuse s op rq (stBusy, dtFwPending)
  else accept s op rq t stAccepted [] fun s a => nvrEnqueue s t a 0 [(w, v)]

/-- SEC_KEY_REVOKE. What waits in the bank's queue counts among the revoked keys that a new write keeps (DEDUCED, log
entry 51). -/
def onSecKeyRevoke (rq : Req) (index : Byte) (reserved : BitVec 24) (s : State) : State :=
  take (.secKeyRevoke rq index reserved) s fun op t _ rq =>
    let i := index.toNat
    let gone := nvrComing s 65
    let all := if bit gone i then gone else gone + 2 ^ i
    checked s op rq
      [ (t ≠ 0, (stNotPermitted, dtPermissionClass)),
        (reserved ≠ 0, (stBadParam, dtReservedNonzero)),
        (decide (3 < i), (stBadParam, dtValueRange)) ]
      (if bit (nvrWord s 65) i then replyOk s op rq []
       else if i = imgKey (runningImage s) || all % 16 = 15 then refuse s op rq (stBadParam, dtKeyInUse)
       else ownerWrite s op rq t 65 all)

/-- SEC_ROLLBACK_RAISE. A minimum below one that still waits in the bank's queue leaves that one in force (DEDUCED, log
entry 51: the minimum is never lowered). -/
def onSecRollbackRaise (rq : Req) (minimum : Word) (s : State) : State :=
  take (.secRollbackRaise rq minimum) s fun op t _ rq =>
    let m := minimum.toNat
    let old := nvrWord s 64
    checked s op rq [ (t ≠ 0, (stNotPermitted, dtPermissionClass)) ]
      (if m = old then replyOk s op rq []
       else if m < old then refuse s op rq (stBadParam, dtValueRange)
       else if imgSecver (runningImage s) < m then refuse s op rq (stBadParam, dtRollbackAboveRunning)
       else ownerWrite s op rq t 64 (max m (nvrComing s 64)))

def execOwnerChange (rq : Req) (key signature : List Byte) (s : State) : Out := .next (onOwnerChange rq key signature (hear rq s))
def execSecKeyRevoke (rq : Req) (index : Byte) (reserved : BitVec 24) (s : State) : Out :=
  .next (onSecKeyRevoke rq index reserved (hear rq s))
def execSecRollbackRaise (rq : Req) (minimum : Word) (s : State) : Out := .next (onSecRollbackRaise rq minimum (hear rq s))

end Sys2Proof.Machine
end

