-- ==== Sys2Proof/Machine/Startup.lean ====
section
/-! DEFINITION. Machine/Startup.lean: resets and their causes (R600, R602, R604), the boot ROM (R601,
R608), and the reference clocks (R45, R599). -/

namespace Sys2Proof.Machine

open Sys2Proof

/-! ## Causes (R604), in their order -/

def causePowerOn : Nat := 0x01
def causeBrownout : Nat := 0x02
def causePin : Nat := 0x04
def causeTrip : Nat := 0x08
def causePll : Nat := 0x10
def causeRequest : Nat := 0x20
def causeJtag : Nat := 0x40

def causeOrder : List Nat := [causePowerOn, causeTrip, causeBrownout, causePll, causePin, causeRequest, causeJtag]

/-- The first of two causes that apply to one reset. -/
def firstCause (a b : Nat) : Nat := (causeOrder.find? fun c => c = a || c = b).getD a

/-! ## Reset (R588, R600) -/

/-- The bank after a reset: a word whose write was in progress holds its old or its new value (a free value, log entry
50), and the writes that waited are gone. -/
def nvrAfterReset (s : State) : Nvr :=
  let s := match s.nvr.queue with
    | (w, v, _) :: _ =>
      let x := nvrTarget s w v.toNat
      if Config.freeBool s.fresh then nvrStore s x.1 x.2 else s
    | [] => s
  { words := s.nvr.words, wear := s.nvr.wear }

/-- Everything but the bank, the reset cause and the straps is as after power-on; RESET_N is low, or the internal reset in
progress. -/
def resetChip (s : State) (cause : Nat) : State :=
  { pending := s.pending, now := s.now, fresh := s.fresh + 1, sent := s.sent,
    chip := { phase := .inReset, cause := cause, straps := s.chip.straps, pins := s.chip.pins, lowAt := s.now },
    nvr := nvrAfterReset s }

/-- NET_PORT_CONFIG of a port as its straps set it (R601). -/
def strapPort (s : State) (p : Nat) : State :=
  let v := s.chip.straps.ethMode.toNat / 32 ^ p % 32
  let w := putBits (putBits (regW s (aPort p 0)) 30 28 (v % 8)) 27 26 (v / 8)
  setRegW s (aPort p 0) (if 5 ≤ v % 8 then putBits w 31 31 0 else w)

/-- The boot ROM (R608): the root PLL locks, the boot count rises, and the Ethernet ports come up under
the straps. -/
def boot (s : State) : State :=
  let s := { s with chip := { s.chip with phase := .running, clk := 1 } }
  let s := setRegW s aSysCompat (boolNat s.chip.straps.compatSel)
  raiseBoot ((List.range 4).foldl strapPort s)

/-- The levels that stand on the strap pins from now on. -/
def setPins (s : State) (x : StrapLevels) : State := { s with chip := { s.chip with pins := x } }
/-- The straps take the levels that stand on their pins (R601). -/
def sampleStraps (s : State) : State := { s with chip := { s.chip with straps := s.chip.pins } }

/-- An internal reset: taken at once, and the straps are sampled at its end (R601). -/
def resetNow (s : State) (cause : Nat) : State := boot (sampleStraps (resetChip s cause))

/-- Another cause applies to the reset in progress (R604); a chip that a trip has stopped takes none until its reset. -/
def alsoCause (s : State) (cause : Nat) : State :=
  if s.chip.wasTripped then s else { s with chip := { s.chip with cause := firstCause s.chip.cause cause } }

/-! ## RESET_N and the supplies -/

/-- RESET_N low: a running chip resets; one that is held by a trip waits for the pulse to last. -/
def onResetAssert (s : State) : State :=
  match s.chip.phase with
  | .running => resetChip s causePin
  | .inReset => alsoCause s causePin
  | _ => { s with chip := { s.chip with phase := .inReset, lowAt := s.now } }

def hotC : Int := 16 * 105
/-- A diode reads 105 °C or more. -/
def stillHot (s : State) : Bool := (s.pwr.core ++ s.pwr.uncore).any fun r => decide (hotC ≤ r.1)

/-- The reset that ends a trip, with the straps as sampled when RESET_N rose. -/
def resetAfterTrip (s : State) : State := boot (resetChip s causeTrip)

/-- RESET_N rises, and the straps are sampled (R601, R602). -/
def releaseReset (s : State) : State :=
  if !s.chip.wasTripped then boot (sampleStraps s)
  else if s.now < s.chip.lowAt + msTicks then { s with chip := { s.chip with phase := .tripped } }
  else if stillHot s then { s with chip := { s.chip with straps := s.chip.pins, phase := .holdOff } }
  else resetAfterTrip (sampleStraps s)

/-- RESET_RELEASE: RESET_N is high, and the strap pins stand as the command says. Where RESET_N was high before, the command
says how the pins stand and no more: the next reset samples them (DESIGN CHOICE, log entry 49). -/
def onResetRelease (x : StrapLevels) (s : State) : State :=
  if s.chip.phase ≠ .inReset then setPins s x else releaseReset (setPins s x)

/-- THERMAL_HOLD_OFF_END: every diode reads below 105 °C, and the reset goes on. -/
def onHoldOffEnd (s : State) : State :=
  if s.chip.phase = .holdOff && !stillHot s then resetAfterTrip s else s

/-- POWER_ON: VDD_AON ramps from below 0.4 V. -/
def onPowerOn (x : StrapLevels) (s : State) : State := sampleStraps (setPins (resetChip s causePowerOn) x)

/-- BROWNOUT: PWR_GOOD falls, or the monitor sees a supply below 0.70 V for 1 µs. What a rail off
tolerance does otherwise is undefined (R598). -/
def execBrownout (e : SupplyEvent) (s : State) : Out :=
  match e with
  | .pwrGoodFell =>
    match s.chip.phase with
    | .running => .next (resetChip s causeBrownout)
    | .inReset => .next (alsoCause s causeBrownout)
    | _ => .next s
  | .monitorLow mv ns =>
    if mv < 700 ∧ 1000 ≤ ns then
      match s.chip.phase with
      | .running => .next (resetNow s causeBrownout)
      | .inReset => .next (alsoCause s causeBrownout)
      | _ => .next s
    else if 728 ≤ mv ∧ mv ≤ 772 then .next s
    else .fault .supplyUndefined
  | .outOfTolerance => .fault .supplyUndefined

/-- ROOT_PLL_UNLOCK. -/
def onPllUnlock (s : State) : State :=
  match s.chip.phase with
  | .running => resetNow s causePll
  | .inReset => alsoCause s causePll
  | _ => s

def execResetAssert (s : State) : Out := .next (onResetAssert s)
def execResetRelease (straps : StrapLevels) (s : State) : Out := .next (onResetRelease straps s)
def execThermalHoldOffEnd (s : State) : Out := .next (onHoldOffEnd s)
def execPowerOn (straps : StrapLevels) (s : State) : Out := .next (onPowerOn straps s)
def execRootPllUnlock (s : State) : Out := .next (onPllUnlock s)

/-! ## Reset by request (R606) -/

/-- RESET_REQUEST_TIMER: 10 ms after the reply. -/
def onResetTimer (s : State) : State :=
  match s.chip.resetDue with
  | some d => if isRunning s && decide (d ≤ s.now) then resetNow s causeRequest else s
  | none => s

def execResetRequestTimer (s : State) : Out := .next (onResetTimer s)

/-! ## HBM training and PHY references (R44, R45, R599, R608) -/

def refBit : PhyRef → Nat
  | .hbm => 3
  | .dp => 4
  | .dsi => 5
  | .csi => 6
  | .eth => 7

def setClk (s : State) (b : Nat) (on : Bool) : State :=
  { s with chip := { s.chip with clk := putBits s.chip.clk b b (boolNat on) } }

/-- PHY_REFERENCE_LOCK: its interfaces may start; DisplayPort links train. -/
def onPhyLock (r : PhyRef) (s : State) : State :=
  if !isRunning s || bit s.chip.clk (refBit r) then s
  else
    let s := setClk s (refBit r) true
    match r with
    | .dp => (List.range 4).foldl startTraining s
    | .dsi => (List.range 2).foldl (fun s u =>
        if txOn s (4 + u) then setTx s (4 + u) { getTx s (4 + u) with changed := tbStamp s 0 } else s) s
    | _ => s

/-- PHY_REFERENCE_LOST: only the interfaces that use it stop. -/
def onPhyLost (r : PhyRef) (s : State) : State :=
  if !isRunning s || !bit s.chip.clk (refBit r) then s
  else
    let t := setClk s (refBit r) false
    match r with
    | .hbm => { t with chip := { t.chip with hbmReady := false } }
    | .dp => (List.range 4).foldl (fun s x =>
        let y := getTx s x
        let s := setTx s x { y with training := false, trained := none, idle := [] }
        if y.trained.isSome then stampTx t (linkEvent (loseLink s x) x 4 0xFF) x else s) t
    | .dsi => (List.range 2).foldl (fun s u =>
        if txOn s (4 + u) then linkEvent (loseLink (setTx s (4 + u) { getTx s (4 + u) with changed := tbStamp s 0 }) (4 + u)) (4 + u) 4 0xFF
        else s) t
    | .csi => (List.range 12).foldl (fun s r => onCsiLink r false 0 s) t
    | .eth => (List.range 4).foldl (fun s p => dropLink s p (ptpBase s p)) t

def execPhyReferenceLock (r : PhyRef) (s : State) : Out := .next (onPhyLock r s)
def execPhyReferenceLost (r : PhyRef) (s : State) : Out := .next (onPhyLost r s)

end Sys2Proof.Machine
end

