-- ==== Sys2Proof/Machine/Functions.lean ====
section
/-! DEFINITION. Machine/Functions.lean: FUNC_DISABLE and FUNC_ENABLE of cores, loops, display pipes,
stream contexts, decode lanes and vision units (R191 to R195, R363, R398, R399, R436, R466, R467). -/

namespace Sys2Proof.Machine

open Sys2Proof

/-! ## Targets (R191) -/

/-- Why a request about a target is refused: its fields, then its permission. -/
def funcFault (s : State) (t : Nat) (a : FuncArgs) (modes : Nat) : Option (Nat × Nat) :=
  let k := a.target.toNat
  let i := a.id.toNat
  let bound := match k with | 0 => 128 | 1 => 2 ^ 32 | 2 => 8 | 3 => 48 | 4 => 8 | _ => 4
  let mine : Bool := match k with
    | 2 => pipeTenant s i = t
    | 3 => ctxHolder s i = some t
    | _ => t = 0
  let known : Bool := match getLoop s i with
    | some l => l.tenant = t
    | none => false
  firstFault
    [ (a.reserved ≠ 0, (stBadParam, dtReservedNonzero)),
      (decide (5 < k) || decide (modes ≤ a.mode.toNat) || decide (bound ≤ i), (stBadParam, dtValueRange)),
      (k = 1 && !known, (stBadParam, dtLoopUnknown)),
      (k ≠ 1 && !mine, (stNotPermitted, dtPermissionClass)) ]

/-- How far a target's disable has gone. -/
def targetFunc (s : State) (k i : Nat) : Func :=
  match k with
  | 0 => if (getCore s i).state = 4 then { phase := .disabled } else (getCore s i).func
  | 1 => match getLoop s i with | some l => l.func | none => {}
  | 2 =>
    let p := getPipe s i
    if p.state = 2 then {} else if p.state = 3 then p.func else { phase := .disabled }
  | 3 => (getCtx s i).func
  | 4 => (getLane s i).func
  | _ => getUnit s i

def setTargetFunc (s : State) (k i : Nat) (f : Func) : State :=
  match k with
  | 0 => setCore s i { getCore s i with func := f }
  | 1 => modLoop s i fun l => { l with func := f }
  | 2 => modPipe s i fun p => { p with func := f }
  | 3 => setCtx s i { getCtx s i with func := f }
  | 4 => setLane s i { getLane s i with func := f }
  | _ => setUnit s i f

/-! ## Aborting what is in flight (R192) -/

/-- Commands of a list of instances fail with ABORTED, their steps with them; how many they were. -/
def abortCmds (s : State) (qs : List Placed) : State × Nat :=
  let cmds := (qs.map fun q => (q.ref.loop, q.ref.cmd)).eraseDups
  (cmds.foldl (fun s c => failStep s c.1 stAborted 0 c.2) s, cmds.length)

/-- Instances that run on a vision unit. -/
def onUnitInsts (s : State) (u : Nat) : List Placed :=
  (allInsts s).filter fun q => (q.cmd.spec.engine = 6 || q.cmd.spec.engine = 7) && onCore q.inst && q.inst.slot = u

/-- Every step of a loop fails in its turn, and its sequences end. -/
def abortLoop (s : State) (i : Nat) : State :=
  match getLoop s i with
  | none => s
  | some l =>
    if l.queue = [] then l.seqs.foldl (fun s x => endSeq s i x stAborted 0) s
    else failStep s i stAborted 0 0xFFFF

/-- The items in flight on a target are killed. -/
def abortTarget (s : State) (k i : Nat) : State :=
  let count (r : State × Nat) : State :=
    let f := targetFunc r.1 k i
    settleFuncs (setTargetFunc r.1 k i { f with aborted := f.aborted + r.2 })
  match k with
  | 0 => count (abortCmds s (onCoreInsts s i))
  | 1 => settleFuncs (abortLoop s i)
  | 2 =>
    let r := endFunc (blankPipe s i) 2 i { (getPipe s i).func with finished := 0, aborted := 1 }
    modPipe r.1 i fun p => { p with func := r.2 }
  | 3 => ctxStop s i true
  | 4 => laneStop s i true
  | _ => count (abortCmds s (onUnitInsts s i))

/-- A target takes nothing new, and ends when it is idle. -/
def drainTarget (s : State) (k i : Nat) : State :=
  match k with
  | 2 => modPipe s i fun p => { p with
      state := 3, cands := [], decided := none, func := { p.func with finished := 1 } }
  | 3 => ctxStop s i false
  | 4 => laneStop s i false
  | _ => settleFuncs s

/-! ## FUNC_DISABLE -/

def onFuncDisable (rq : Req) (a : FuncArgs) (s : State) : State :=
  take (.funcDisable rq a) s fun op t _ rq =>
    let k := a.target.toNat
    let i := a.id.toNat
    match funcFault s t a 2 with
    | some e => refuse s op rq e
    | none =>
      let f := targetFunc s k i
      let abort := a.mode.toNat = 1
      if f.phase = .disabled then replyOk s op rq (funcPayload k i {})
      else if leaving f ∧ !abort then refuse s op rq (stBusy, dtDrainPending)
      else
        accept s op rq t stAccepted [] fun s r =>
          if abort then abortTarget (setTargetFunc s k i { f with phase := .aborting, abort := f.abort ++ [(t, r)] }) k i
          else drainTarget (setTargetFunc s k i { f with phase := .draining, drain := some (t, r) }) k i

def execFuncDisable (rq : Req) (a : FuncArgs) (s : State) : Out := .next (onFuncDisable rq a (hear rq s))

/-! ## FUNC_ENABLE -/

/-- A core returns to service (R189, R195). -/
def enableCore (s : State) (c : Nat) : State :=
  let s := setCore s c { getCore s c with func := {} }
  if (getCore s c).state ≠ 3 then s
  else if s.pwr.level = 3 then
    setCoreState (setCore s c { getCore s c with parkedAt := coreReading s c }) c 2
  else setCoreState s c 5

/-- The checks of a target's own that an enable must pass. -/
def enableFault (s : State) (t k i : Nat) : Option (Nat × Nat) :=
  match k with
  | 0 => if (getCore s i).state = 4 then some (stNotEnabled, dtUnitFailed) else none
  | 2 => pipeFault s (regW s) i true
  | 3 => ctxEnableFault s t i
  | _ => none

def enableTarget (s : State) (k i : Nat) : State :=
  match k with
  | 0 => enableCore s i
  | 2 => enablePipe s i
  | 3 => ctxEnable s i
  | _ => setTargetFunc s k i {}

def onFuncEnable (rq : Req) (a : FuncArgs) (s : State) : State :=
  take (.funcEnable rq a) s fun op t _ rq =>
    let k := a.target.toNat
    let i := a.id.toNat
    match funcFault s t a 1 with
    | some e => refuse s op rq e
    | none =>
      let f := targetFunc s k i
      if leaving f then refuse s op rq (stBusy, dtDrainPending)
      else if f.phase = .enabled then replyOk s op rq []
      else
        match enableFault s t k i with
        | some e => refuse s op rq e
        | none => replyOk (enableTarget s k i) op rq []

def execFuncEnable (rq : Req) (a : FuncArgs) (s : State) : Out := .next (onFuncEnable rq a (hear rq s))

end Sys2Proof.Machine
end

