-- ==== Sys2Proof/Machine/Errors.lean ====
section
/-! DEFINITION. Machine/Errors.lean: an access meets an uncorrectable memory error (R155, R358, R435). -/

namespace Sys2Proof.Machine

open Sys2Proof

def addOnce (l : List Nat) (v : Nat) : List Nat := if l.elem v then l else l ++ [v]

/-- Galliard meets an error in a motion entry of the held anchor, or in a row of it (R358). -/
def eccGalliard (s : State) (p errBit : Nat) (f : GalRun → GalRun) : State :=
  if (getGal s p).anchor.isSome then galErr (modGal (countUncorr s) p f) p errBit else s

/-- A lane meets an error in a region of its stream: the input ring, or the work area (R435). -/
def eccRegion (s : State) (l va : Nat) (region : Stream → Nat × Nat) : State :=
  match laneRecord s l with
  | none => s
  | some (_, x, _) =>
    let line := va / 64 * 64
    if overlap line 64 (region x).1 (region x).2 then eccLane (markBad s x.tenant line) l line else s

/-- UNCORRECTABLE_ERROR. -/
def onUncorrectable (site : EccSite) (s : State) : State :=
  if !isRunning s then s
  else
    match site with
    | .decodeInput l va => eccRegion s l.val va.toNat fun x => (x.args.inVa.toNat, ringBytes x)
    | .decodeWork l va => eccRegion s l.val va.toNat fun x =>
        (x.args.workVa.toNat, 65536 * x.args.lanesMax.toNat * x.args.work64k.toNat)
    | .decodeTable l va => tableLane s l.val va.toNat
    | .galliardMotion p b => eccGalliard s p.val 0 fun g => { g with badBlocks := addOnce g.badBlocks b }
    | .galliardSource p r => eccGalliard s p.val 1 fun g => { g with badRows := addOnce g.badRows r }
    | _ => eccOfCommand s site

def execUncorrectableError (site : EccSite) (s : State) : Out := .next (onUncorrectable site s)

end Sys2Proof.Machine
end

