-- ==== Sys2Proof/Machine/RegAccess.lean ====
section
/-! DEFINITION. Machine/RegAccess.lean: register access (R8 to R11, R91 to R97): what a read returns,
the checks of a write in the order of R94, the rules that relate words and registers (R117 and the
chapters), what a write does, and the register group of requests. -/

namespace Sys2Proof.Machine

open Sys2Proof

/-! ## Registers whose words the chip computes -/

def liveSys (s : State) (a : Nat) : Option Nat :=
  match a with
  | 0x04 => some Config.siliconRevision.toNat
  | 0x08 => some s.chip.cause
  | 0x0C => some (s.chip.selftest * 65536 + s.chip.failed * 256 + s.fw.device)
  | 0x10 => some (compatWord s)
  | 0x28 => some (boolNat s.chip.straps.compatSel * 2 ^ 20 + s.chip.straps.ethMode.toNat)
  | 0x1000 => some s.chip.clk
  | _ => none

/-- CMD_SESSION of a tenant (R98). -/
def sessionWord (s : State) (t : Nat) : Nat :=
  match (getTen s t).session with
  | none => 0
  | some i =>
    match getSes s i with
    | none => 0
    | some ss => asyncCount s t i * 65536 + ss.tx.unacked.length * 128 + ss.tx.rtoStep * 16

def limitSum (s : State) (hi lo : Nat) : Nat := ((List.range 16).map fun t => rField s (aTen t 4) hi lo).sum

def unitsTotal : Nat := 568

def liveTen (s : State) (t a : Nat) : Option Nat :=
  let n := (a - 0x20000) / 0x100
  let o := a % 0x100
  if a = 0x21000 then some (limitSum s 9 0 * 65536 + unitsTotal)
  else if a = 0x21004 then some (boolNat (getTen s t).release * 256 + t)
  else if o = 0 then some (tenStateWord s n)
  else if n = 0 ∧ 0x20 ≤ o then some (ownerWord s ((o - 0x20) / 4))
  else none

def ceilMib (n : Nat) : Nat := ceilDiv n mib

def liveMmu (s : State) (t a : Nat) : Option Nat :=
  let x := getTen s t
  match a with
  | 0x30010 => some s.chip.eccCorr
  | 0x30014 => some s.chip.eccUncorr
  | 0x30018 => some s.chip.retired
  | 0x30020 => some (ceilMib (pinnedDone x) * 65536 + ceilMib (backedDone x))
  | 0x30024 => some (x.mem.faults * 65536 + x.mem.held.length)
  | _ => none

def schStatusWord (s : State) : Nat :=
  let resident := (s.sched.loops.filter fun l => l.2.resident.isSome).length
  let waiting := (s.sched.loops.filter fun l => l.2.waiting).length
  onlineCores s * 2 ^ 24 + (protectedCores s).length * 2 ^ 16 + resident * 2 ^ 10 + waiting

/-- Counters of a tenant's committed commands (R283, R350, R389). -/
def liveTenant (s : State) (t a : Nat) : Option Nat :=
  let x := getTen s t
  match a with
  | 0x60010 => some x.exact
  | 0x60014 => some x.lossy
  | 0x90010 => some x.rasWritten
  | 0x90014 => some x.rasSkipped
  | 0xB0030 => some x.visRefined
  | 0xB0034 => some x.visMarked
  | _ => none

/-- VIS_UNIT (R388). -/
def visUnitWord (s : State) (u : Nat) : Nat :=
  let run := (allInsts s).find? fun q => (q.cmd.spec.engine = 6 || q.cmd.spec.engine = 7) && isRun q.inst && q.inst.slot = u
  let st := match (getUnit s u).phase with
    | .disabled => 3
    | .draining => 2
    | .aborting => 4
    | .enabled => if run.isSome then 1 else 0
  match run with
  | some q => 256 * boolNat q.loop.lc + 16 * q.loop.tenant + st
  | none => st

def livePipe (s : State) (p o : Nat) : Option Nat :=
  let x := getPipe s p
  let ns (f : Frac) : Nat := (frFloor f).toNat % 2 ^ 32
  match o with
  | 0x000 => some (pendW s (aPipe p 0) + x.state)
  | 0x004 => some (boolNat x.apply)
  | 0x040 => some (pipeStatusWord s p)
  | 0x044 => some (ns x.time.frameTime)
  | 0x048 => some (ns x.time.deadline)
  | 0x058 => some (toleranceNs s p)
  | 0x05C => some (wallStatusWord s p)
  | _ => none

def liveFg (s : State) (p o : Nat) : Option Nat :=
  match o with
  | 0x48 => some (fgStatus s p)
  | 0x4C => some ((getFg s p).nextIndex % 2 ^ 32)
  | _ => none

def livePort (s : State) (p o : Nat) : Option Nat :=
  match o with
  | 0x004 => some (portStatusWord s p)
  | 0x008 => some (leAt (macBytes p) 0 4)
  | 0x00C => some (leAt (macBytes p) 4 2)
  | _ => none

def liveTim (s : State) (b o : Nat) : Option Nat :=
  let x := getBase s b
  match o with
  | 0x00 => some (tbSec s b % 2 ^ 32)
  | 0x04 => some (tbSec s b / 2 ^ 32)
  | 0x08 => some (tbStamp s b)
  | 0x14 => some (timStatusLive s b + 512 * rField s (aTim b 0x14) 9 9)
  | 0x18 => some (uCode 32 (max (-2147483648) (min 2147483647 x.offset)))
  | 0x1C => some (uCode 32 (max (-2147483648) (min 2147483647 (rateUnits x.y))))
  | 0x20 => some (leAt (beBytes 8 x.gm) 0 4)
  | 0x24 => some (leAt (beBytes 8 x.gm) 4 4)
  | _ => none

def livePwr (s : State) (o : Nat) : Option Nat :=
  if o = 0 then some (pwrStatusWord s)
  else if 0x100 ≤ o ∧ o < 0x300 then some (tempWord (s.pwr.core.getD ((o - 0x100) / 4) (0, 0)))
  else if 0x300 ≤ o ∧ o < 0x360 then some (tempWord (s.pwr.uncore.getD ((o - 0x300) / 4) (0, 0)))
  else
    match o with
    | 0x360 => some (tempWord s.pwr.hbm)
    | 0x400 => some (min 65535 s.pwr.avg16 * 65536 + min 65535 s.pwr.now16)
    | 0x404 => some (wattCode s.pwr.packPeak * 65536 + wattCode s.pwr.package)
    | 0x410 => some s.pwr.limEvents
    | 0x414 => some s.pwr.lvlEvents
    | _ => none

def liveFw (s : State) (o : Nat) : Option Nat :=
  match o with
  | 0x00 => some (fwStateWord s)
  | 0x04 => some (fwVersionWord s)
  | 0x08 => some (fwActivationWord s)
  | _ => if 0x10 ≤ o ∧ o < 0x28 then some (fwRestartsWord s ((o - 0x10) / 4)) else none

def liveSec (s : State) (o : Nat) : Option Nat :=
  match o with
  | 0x00 => some (secStatusWord s)
  | 0x04 => some (enrollWord s)
  | 0x08 => some (imgSecver (runningImage s))
  | 0x0C => some (nvrWord s 64)
  | 0x10 => some (wallKeyId s)
  | 0x14 => some s.sec.authFails
  | _ => none

def liveNvr (s : State) (a : Nat) : Option Nat :=
  if a < 0x141000 then some (nvrWord s ((a - 0x140000) / 4))
  else if a < 0x142000 then
    let w := (a - 0x141000) / 4
    some (boolNat (nvrWorn s w) * 2 ^ 31 + nvrWrites s w)
  else some (wornWords s * 65536 + boolNat (nvrBusy s))

def liveCore (s : State) (a : Nat) : Option Nat :=
  let c := (a - 0x1000000) / 0x10000
  if a % 0x10000 = 0 then some ((getCore s c).engineOk * 65536 + c / 16 * 256 + c % 16)
  else some (getCore s c).state

/-- The word of a register that the chip computes, for a caller; none where the register map keeps it. -/
def liveWord (s : State) (t a : Nat) : Option Nat :=
  if a < 0x10000 then liveSys s a
  else if a < 0x20000 then (if a = 0x10020 then some (sessionWord s t) else none)
  else if a < 0x30000 then liveTen s t a
  else if a < 0x40000 then liveMmu s t a
  else if a < 0x50000 then
    (if a = 0x40004 then some (schStatusWord s) else if a = 0x40010 then some s.sched.lcWorst else none)
  else if a < 0x80000 then liveTenant s t a
  else if a < 0x90000 then liveFg s ((a - 0x80000) / 0x100) (a % 0x100)
  else if a < 0xA0000 then liveTenant s t a
  else if a < 0xB0000 then (if a % 0x100 = 0x18 then some (galStatus s ((a - 0xA0000) / 0x100)) else none)
  else if a < 0xC0000 then
    (if 0xB0010 ≤ a ∧ a < 0xB0020 then some (visUnitWord s ((a - 0xB0010) / 4)) else liveTenant s t a)
  else if a < 0xC8000 then
    let c := (a - 0xC0000) / 0x100
    match a % 0x100 with
    | 0x14 => some (getCtx s c).head
    | 0x18 => some (ctxStatusWord s c)
    | 0x1C => some (getCtx s c).holes
    | _ => none
  else if a < 0xC9000 then
    let r := (a - 0xC8000) / 0x10
    match a % 0x10 with
    | 0x4 => some (rxStatusWord s r)
    | 0x8 => some (getRx s r).errors
    | _ => none
  else if a < 0xCA000 then (if a % 0x10 = 4 then some (tdmStatusWord s ((a - 0xC9000) / 0x10)) else none)
  else if a < 0xD1000 then (if 0xD0200 ≤ a ∧ a < 0xD0220 then some (laneWord s ((a - 0xD0200) / 4)) else none)
  else if a < 0xE0000 then some (streamWord s ((a - 0xD1000) / 0x10) (a % 0x10))
  else if a < 0xE8000 then livePipe s ((a - 0xE0000) / 0x1000) (a % 0x1000)
  else if a < 0xE9000 then (if a = 0xE8004 then some (bandwidthWord s) else none)
  else if a < 0xF0000 then (if a % 0x10 = 4 then some (txStatusWord s ((a - 0xE9000) / 0x10)) else none)
  else if a < 0xF8000 then livePort s ((a - 0xF0000) / 0x1000) (a % 0x1000)
  else if a < 0x100000 then
    (if a = 0xF8010 then some (wallStatusReg s) else if a = 0xF8014 then some (s.net.wall.frame % 2 ^ 32) else none)
  else if a < 0x110000 then liveTim s ((a - 0x100000) / 0x100) (a % 0x100)
  else if a < 0x120000 then liveFw s (a - 0x110000)
  else if a < 0x130000 then livePwr s (a - 0x120000)
  else if a < 0x140000 then liveSec s (a - 0x130000)
  else if a < 0x150000 then liveNvr s a
  else if a < 0x1000000 then
    (if a = 0x150000 then some s.fw.logHead else if a = 0x150004 then some s.fw.logLost else none)
  else liveCore s a

/-! ## Reads (R8, R92) -/

/-- A tenant-class register acts for the caller (R92, R308, R397, R441, R449). -/
def actsFor (s : State) (t i a : Nat) (p : Part) : Bool :=
  match p with
  | .caller => true
  | .pipe => if a < 0xE0000 then pipeHolder s i = some t else pipeTenant s i = t
  | .context => ctxHolder s i = some t
  | .stream => match getStream s i with | some x => x.tenant = t | none => false

/-- The word that a register holds, for a caller it acts for. -/
def currentWord (s : State) (t a : Nat) : Nat := (liveWord s t a).getD (pendW s a)

/-- What a read returns: 0 from a register that acts for another tenant; none where no register is. -/
def readWord (s : State) (t a : Nat) : Option Nat :=
  match findReg a with
  | none => none
  | some (i, r) => some (if r.cls = .tenant ∧ !actsFor s t i a r.part then 0 else currentWord s t a)

/-! ## The checks of one word (R94) -/

/-- How a write arrives. -/
inductive Via where
  | packet | i3c | jtag
  deriving DecidableEq, Repr

/-- The permission class allows the write (R9); SEC_ENROLL is written through I3C alone (R579). -/
def mayWrite (s : State) (t : Nat) (via : Via) (i a : Nat) (r : RegSpec) : Bool :=
  match r.cls with
  | .device => false
  | .owner => t = 0 && (a ≠ aSecEnroll || via = .i3c)
  | .tenant => actsFor s t i a r.part

/-- The rules of a register that concern the written word alone. -/
def wordRule (s : State) (a v : Nat) : Bool :=
  if a = aCmdPorts then v % 65536 ≠ v / 65536
  else if 0xE0000 ≤ a ∧ a < 0xE8000 ∧ a % 0x1000 = 8 then outputWordOk s v
  else if 0xF0000 ≤ a ∧ a < 0xF8000 ∧ (a % 0x1000 = 0x34 ∨ a % 0x1000 = 0x38) then
    (portRelation {} 0 (a % 0x1000) v).isNone
  else if a = aPwr 8 then (pwrRelation 8 v).isNone
  else if 0xC0000 ≤ a ∧ a < 0xC8000 ∧ a % 0x100 = 4 then bits v 11 0 = 0 || decide (16 ≤ bits v 11 0)
  else if 0xC9000 ≤ a ∧ a < 0xCA000 ∧ a % 0x10 = 0 then decide (bits v 21 20 ≤ bits v 25 24)
  else true

def busyIf (b : Bool) : Option (Nat × Nat) := if b then some (stBusy, dtResourceEnabled) else none

/-- SYS_COMPAT (R200). -/
def compatRule (s : State) (new : Nat) : Option (Nat × Nat) :=
  if new % 2 ≠ rField s aSysCompat 0 0 ∧ s.sched.locked then some (stNotPermitted, dtCompatLocked)
  else if new % 2 = 1 ∧ s.sched.loops.any (fun l => l.2.sequence.isSome) then some (stBusy, dtSequenceLoops)
  else none

/-- Enabled contexts of a kind that are bound to a unit. -/
def boundCtxs (s : State) (kind u : Nat) : List Nat :=
  (List.range 48).filter fun c => ctxOn s c && ctxKind s c = kind && ctxUnit s c = u

/-- The rules of a register that concern its word alone and what the chip is doing (R94, step 5): R200, R309, R362,
R397, R413, R467, R478, R498, R511. -/
def wordState (s : State) (t a v : Nat) : Option (Nat × Nat) :=
  let old := currentWord s t a
  if a = aSysCompat then compatRule s v
  else if 0x80000 ≤ a ∧ a < 0x90000 then fgLocked s ((a - 0x80000) / 0x100) (a % 0x100) old v
  else if 0xA0000 ≤ a ∧ a < 0xB0000 then galLocked s ((a - 0xA0000) / 0x100) (a % 0x100)
  else if 0xC0000 ≤ a ∧ a < 0xC8000 then busyIf (ctxBusy s ((a - 0xC0000) / 0x100) (a % 0x100))
  else if 0xC8000 ≤ a ∧ a < 0xC9000 then busyIf (unitBusy (boundCtxs s 1 ((a - 0xC8000) / 0x10)) old v)
  else if 0xC9000 ≤ a ∧ a < 0xCA000 then busyIf (unitBusy (boundCtxs s 2 ((a - 0xC9000) / 0x10)) old v)
  else if 0xE0000 ≤ a ∧ a < 0xE8000 then
    busyIf (a % 0x1000 = 0 && bit v 31 && decide (2 ≤ (getPipe s ((a - 0xE0000) / 0x1000)).state))
  else if 0xE9000 ≤ a ∧ a < 0xF0000 then txRelation s ((a - 0xE9000) / 0x10) old v
  else if 0xF8000 ≤ a ∧ a < 0x100000 then
    if a = aWall 0 ∧ bit v 31 ∧ !wallOn s ∧ s.net.wall.key.isNone then some (stBadParam, dtWallKey)
    else busyIf (wallOn s && ((a = aWall 0 && decide (v % 2 ^ 31 ≠ old % 2 ^ 31)) || a = aWall 4))
  else if 0x100000 ≤ a ∧ a < 0x110000 then busyIf (timLocked s ((a - 0x100000) / 0x100) (a % 0x100) old v)
  else none

def roMask (r : RegSpec) : Nat := maskOf (fun a => a = .ro) r.fields

/-- Why a word may not be written, in the order of R94. -/
def wordFault (s : State) (t : Nat) (via : Via) (a v : Nat) : Option (Nat × Nat) :=
  match findReg a with
  | none => some (stBadParam, dtUnmappedAddress)
  | some (i, r) =>
    firstFault
      [ (!mayWrite s t via i a r, (stNotPermitted, dtPermissionClass)),
        (v &&& (cap32 ^^^ r.covered) ≠ 0, (stBadParam, dtReservedNonzero)),
        ((v ^^^ currentWord s t a) &&& roMask r ≠ 0, (stNotPermitted, dtReadOnlyField)),
        (!r.inRange v || !wordRule s a v, (stBadParam, dtValueRange)),
        ((wordState s t a v).isSome, (wordState s t a v).getD (stBusy, dtResourceEnabled)) ]

/-! ## Storing a word (R8) -/

/-- The map takes a word: RW bits, the pending copy of RWS bits, and W1C bits cleared. CMD_PORTS waits
for its reply (R55). -/
def keepWord (s : State) (a v : Nat) : State :=
  match findReg a with
  | none => s
  | some (_, r) =>
    let keep := r.kept
    let put (w : Nat) : Nat := (w &&& (cap32 ^^^ keep)) ||| (v &&& keep)
    if a = aCmdPorts then s
    else if r.has fun x => x = .rws then { s with pend := tabSet s.pend a (BitVec.ofNat 32 (put (pendW s a))) }
    else setRegW s a (put (regW s a) &&& (cap32 ^^^ (v &&& maskOf (fun x => x = .w1c) r.fields)))

abbrev Write := Nat × Nat

/-- The register words that a whole request would leave. -/
def stored (s : State) (ws : List Write) : State := ws.foldl (fun s w => keepWord s w.1 w.2) s

/-! ## Rules that relate words and registers -/

/-- What forbids a word, the other words of its request counted in; t is the caller. -/
def wordRelation (s s' : State) (t : Nat) (w : Write) : Option (Nat × Nat) :=
  let a := w.1
  let v := w.2
  let old := currentWord s t a
  if 0x80000 ≤ a ∧ a < 0x90000 then fgRelation s' t ((a - 0x80000) / 0x100) (a % 0x100) old v
  else if 0xA0000 ≤ a ∧ a < 0xB0000 then galRelation s s' t ((a - 0xA0000) / 0x100) (a % 0x100) old v
  else if 0xE0000 ≤ a ∧ a < 0xE8000 then pipeRelation s s' ((a - 0xE0000) / 0x1000) (a % 0x1000) v
  else if 0xF0000 ≤ a ∧ a < 0xF8000 then portRelation s' ((a - 0xF0000) / 0x1000) (a % 0x1000) v
  else if 0xF8000 ≤ a ∧ a < 0x100000 then wallRelation s s' (a - 0xF8000) v
  else if 0x100000 ≤ a ∧ a < 0x110000 then timRelation s' ((a - 0x100000) / 0x100) (a % 0x100)
  else none

/-- The lowest-addressed word of the request that takes part in a rule that failed at one: the rules of
DSP_COMMIT.apply about the sync mode and the presented plane reach DSP_CONTROL, the word before it. -/
def relationAt (ws : List Write) (a : Nat) (e : Nat × Nat) : Nat :=
  if 0xE0000 ≤ a ∧ a < 0xE8000 ∧ a % 0x1000 = 4 ∧ (e.2 = dtDspMode ∨ e.2 = dtDspRegion) ∧ ws.any (fun w => w.1 = a - 4)
  then a - 4 else a

/-- Bits of the resource words of a tenant that another tenant's hold too. -/
def heldTwice (s' : State) (n o : Nat) : Bool :=
  (List.range 16).any fun m => m ≠ n && regW s' (aTen m o) &&& regW s' (aTen n o) ≠ 0

/-- The pipes and stream contexts that a write takes away while they are enabled (R117, R399, R467). -/
def takesEnabled (s s' : State) (n o : Nat) : Bool :=
  let gone (b : Nat) : Bool := bit (regW s (aTen n o)) b && !bit (regW s' (aTen n o)) b
  if o = 0x08 then (List.range 8).any fun p => gone p && (getPipe s p).state ≠ 0
  else if o = 0x0C then (List.range 32).any fun c => gone c && ctxOn s c
  else (List.range 16).any fun c => gone c && ctxOn s (32 + c)

def credsZero (s : State) (n : Nat) : Bool := (List.range 8).all fun k => regW s (aTen n (0x20 + 4 * k)) = 0

/-- Rows 2 to 7 of R117 for a request that writes words of tenant n, with the word that fails. -/
def tenantRelation (s s' : State) (ws : List Write) (n : Nat) : Option ((Nat × Nat) × Nat) :=
  let has (o : Nat) : Bool := ws.any fun w => w.1 = aTen n o
  let at_ (o : Nat) : Nat := aTen n o
  let pools := decide (unitsTotal < limitSum s' 9 0) || decide (1024 < limitSum s' 31 21)
  let lim := regW s' (aTen n 4)
  let loops := (s.sched.loops.filter fun l => l.2.tenant = n).length
  let less := decide (64 * mib * bits lim 9 0 < backedBytes (getTen s n)) || decide (bits lim 31 21 < loops)
  let orphan := rField s' (aTen n 0x18) 15 0
  let early := decide (1000 * orphan ≤ rField s' (aTen n 0x14) 15 0)
  let short := n ≠ 0 && decide (rField s' (aTen n 0x18) 31 16 ≤ orphan)
  let bare := n ≠ 0 && rField s' (aTen n 0x1C) 0 0 = 1 && credsZero s' n
  let res : List Nat := [0x08, 0x0C, 0x10]
  if has 4 && pools then some ((stBadParam, dtPoolExceeded), at_ 4)
  else
    match res.find? fun o => has o && heldTwice s' n o with
    | some o => some ((stBadParam, dtResourceOwned), at_ o)
    | none =>
      if has 4 && less then some ((stBusy, dtShareInUse), at_ 4)
      else
        match res.find? fun o => has o && takesEnabled s s' n o with
        | some o => some ((stBusy, dtResourceEnabled), at_ o)
        | none =>
          if (has 0x14 || has 0x18) && early then some ((stBadParam, dtValueRange), at_ (if has 0x14 then 0x14 else 0x18))
          else if has 0x18 && short then some ((stBadParam, dtValueRange), at_ 0x18)
          else if has 0x1C && bare then some ((stBadParam, dtValueRange), at_ 0x1C)
          else none

/-- The first rule between words or registers that the request breaks, and where. -/
def firstRelation (s s' : State) (t : Nat) (ws : List Write) : Option ((Nat × Nat) × Nat) :=
  match ws with
  | [] => none
  | w :: _ =>
    if 0x20000 ≤ w.1 ∧ w.1 < 0x21000 then tenantRelation s s' ws ((w.1 - 0x20000) / 0x100)
    else
      (ws.findSome? fun w => (wordRelation s s' t w).map fun e => (e, w.1)).map fun x => (x.1, relationAt ws x.2 x.1)

/-- The first refusal of a write of consecutive words, with its index (R94). -/
def writeFault (s : State) (t : Nat) (via : Via) (ws : List Write) : Option ((Nat × Nat) × Nat) :=
  let bad := ws.zipIdx.findSome? fun w => (wordFault s t via w.1.1 w.1.2).map fun e => (e, w.2)
  match bad with
  | some x => some x
  | none =>
    match firstRelation s (stored s ws) t ws, ws with
    | some x, w :: _ => some (x.1, (x.2 - w.1) / 4)
    | _, _ => none

/-! ## What a written word does -/

/-- TEN_PIPES: the registers of a pipe that leaves return to reset (R449). -/
def pipesGone (s : State) (old new : Nat) : State :=
  ((List.range 8).filter fun p => bit old p && !bit new p).foldl resetPipe s

/-- TEN_CONTROL.enabled of a tenant without a partition (R112). -/
def enabledEffect (s : State) (n new : Nat) : State :=
  match (getTen s n).state with
  | .unconfigured => if bit new 0 then setTenState s n .configured else s
  | .configured => if bit new 0 then s else setTenState s n .unconfigured
  | _ => s

/-- CMD_BEACON: the interval runs from the last beacon (R100). -/
def beaconEffect (s : State) (new : Nat) : State :=
  let due := (List.range 4).map fun p =>
    match s.link.beaconLast.getD p none with
    | some l => l + msTicks * bits new 15 0
    | none => s.link.beaconDue.getD p 0
  { s with link := { s.link with beaconDue := due } }

/-- What a word does once it is stored; old is the register's word before. -/
def wordEffect (s : State) (t a old new : Nat) : State :=
  if a = aCmdBeacon then beaconEffect s new
  else if a = 0x21004 then (if bit new 8 then modTen s t fun x => { x with release := true } else s)
  else if 0x20000 ≤ a ∧ a < 0x21000 then
    (match a % 0x100 with
     | 0x08 => pipesGone s old new
     | 0x1C => enabledEffect s ((a - 0x20000) / 0x100) new
     | _ => s)
  else if 0x80000 ≤ a ∧ a < 0x90000 then (if a % 0x100 = 0 then fgEffect s ((a - 0x80000) / 0x100) old new else s)
  else if 0xA0000 ≤ a ∧ a < 0xB0000 then galEffect s ((a - 0xA0000) / 0x100) (a % 0x100) old new
  else if 0xC8000 ≤ a ∧ a < 0xC9000 then csiEffect s ((a - 0xC8000) / 0x10) old new
  else if 0xC9000 ≤ a ∧ a < 0xCA000 then tdmEffect s ((a - 0xC9000) / 0x10) old new
  else if 0xE0000 ≤ a ∧ a < 0xE8000 then
    let p := (a - 0xE0000) / 0x1000
    if a % 0x1000 = 0 ∧ bit new 31 then stopPipe s p
    else if a % 0x1000 = 4 ∧ bit new 0 then applyEffect s p
    else s
  else if 0xE9000 ≤ a ∧ a < 0xF0000 then txEffect s ((a - 0xE9000) / 0x10) old new
  else if 0xF0000 ≤ a ∧ a < 0xF8000 then portEffect s ((a - 0xF0000) / 0x1000) (a % 0x1000) old new
  else if 0xF8000 ≤ a ∧ a < 0x100000 then wallEffect s (a - 0xF8000) old new
  else if 0x100000 ≤ a ∧ a < 0x110000 then timEffect s ((a - 0x100000) / 0x100) (a % 0x100) old new
  else s

/-- The register at an address holds RWN bits (R95). -/
def isRwn (a : Nat) : Bool := match findReg a with | some (_, r) => r.has fun x => x = .rwn | none => false

/-- The words are written in address order (R94). -/
def writeAll (s : State) (t : Nat) (ws : List Write) : State :=
  ws.foldl (fun s w => wordEffect (keepWord s w.1 w.2) t w.1 (currentWord s t w.1) w.2) s

/-- What follows the reply: force_reclaim (R115). -/
def afterReply (s : State) (ws : List Write) : State :=
  ws.foldl (fun s w =>
    if 0x20000 ≤ w.1 ∧ w.1 < 0x21000 ∧ w.1 % 0x100 = 0x1C ∧ bit w.2 8 then forceReclaim s ((w.1 - 0x20000) / 0x100)
    else s) s

/-! ## REG_WRITE and REG_UPDATE -/

def regHeader (addr count index : Nat) : List Byte := le4 addr ++ le2 count ++ le2 index

/-- Words of consecutive addresses. -/
def writesOf (addr : Nat) (vs : List Nat) : List Write := vs.zipIdx.map fun v => (addr + 4 * v.2, v.1)

/-- A change of the command port (R55) and a reset request (R606) wait for the reply; of several reset requests the
first stands. -/
def holdWrites (s : State) (rq : Req) (ws : List Write) : State :=
  let s := if ws.any fun w => w.1 = aSysResetReq then
      { s with link := { s.link with resetNext := s.link.resetNext <|> some (rq.session.toNat, rq.tag.toNat) } }
    else s
  match ws.find? fun w => w.1 = aCmdPorts with
  | some w => { s with link := { s.link with portsNext := s.link.portsNext ++ [(w.2, rq.session.toNat, rq.tag.toNat)] } }
  | none => s

/-- Words that passed every check are written, and the reply goes. -/
def commitWrites (s : State) (op : Nat) (rq : Req) (t : Nat) (ws : List Write) (payload : List Byte) : State :=
  afterReply (replyOk (writeAll (holdWrites s rq ws) t ws) op rq payload) ws

/-- REG_WRITE, once its length and tag have passed. DESIGN CHOICE (log entry 18): of several broken header rules the reserved
field is tested first, then the count, then the alignment. -/
def regWriteBody (s : State) (op : Nat) (rq : Req) (t addr count reserved : Nat) (vs : List Nat) : State :=
  let no (e : Nat × Nat) (index : Nat) : State := reply s op rq e.1 e.2 (regHeader addr count index)
  let ws := writesOf addr vs
  if reserved ≠ 0 then no (stBadParam, dtReservedNonzero) 0
  else if count < 1 ∨ 256 < count then no (stBadParam, dtCountRange) 0
  else if addr % 4 ≠ 0 then no (stBadParam, dtUnalignedAddress) 0
  else
    match writeFault s t .packet ws with
    | some x => no x.1 x.2
    | none =>
      if ws.any fun w => isRwn w.1 then
        if asyncLimit ≤ asyncCount s t rq.session.toNat then no (stNoResource, dtAsyncLimit) 0
        else
          accept s op rq t stAccepted (regHeader addr count 0) fun s r =>
            nvrEnqueue s t r addr (ws.map fun w => ((w.1 - 0x140000) / 4, w.2))
      else commitWrites s op rq t ws (regHeader addr count 0)

def onRegWrite (rq : Req) (address : Word) (count reserved : Half) (values : List Word) (s : State) : State :=
  take (.regWrite rq address count reserved values) s fun op t _ rq =>
    regWriteBody s op rq t address.toNat count.toNat reserved.toNat (values.map fun v => v.toNat)

/-- A command that is a write of one register: the REG_WRITE that carries it. -/
def oneWrite (s : State) (rq : Req) (a : Nat) (v : Nat → Nat) : State :=
  request s opRegWrite rq (le4 a ++ le2 1 ++ zeros 2 ++ le4 0) fun t _ =>
    regWriteBody s opRegWrite rq t a 1 0 [v t]

def onRegUpdate (rq : Req) (address mask value : Word) (s : State) : State :=
  take (.regUpdate rq address mask value) s fun op t _ rq =>
    let a := address.toNat
    if a % 4 ≠ 0 then refuse s op rq (stBadParam, dtUnalignedAddress)
    else
      match findReg a, readWord s t a with
      | some (_, r), some old =>
        if r.has fun x => x = .wo || x = .w1c || x = .w1s || x = .rwn then refuse s op rq (stBadParam, dtUpdateNotAllowed)
        else
          let new := (old &&& (cap32 ^^^ mask.toNat)) ||| (value.toNat &&& mask.toNat)
          match writeFault s t .packet [(a, new)] with
          | some x => refuse s op rq x.1
          | none => commitWrites s op rq t [(a, new)] (le4 old ++ le4 new)
      | _, _ => refuse s op rq (stBadParam, dtUnmappedAddress)

def execRegWrite (rq : Req) (address : Word) (count reserved : Half) (values : List Word) (s : State) : Out :=
  .next (onRegWrite rq address count reserved values (hear rq s))
def execRegUpdate (rq : Req) (address mask value : Word) (s : State) : Out := .next (onRegUpdate rq address mask value (hear rq s))

/-! ## REG_READ and REG_READ_LIST -/

/-- Why an address may not be read. -/
def readFault (s : State) (t a : Nat) : Option (Nat × Nat) :=
  if a % 4 ≠ 0 then some (stBadParam, dtUnalignedAddress)
  else if (readWord s t a).isNone then some (stBadParam, dtUnmappedAddress)
  else none

/-- The first address that may not be read, with its place. -/
def firstReadFault (s : State) (t : Nat) (as : List Nat) : Option ((Nat × Nat) × Nat) :=
  as.zipIdx.findSome? fun a => (readFault s t a.1).map fun e => (e, a.2)

def readValues (s : State) (t : Nat) (as : List Nat) : List Byte := (as.map fun a => le4 ((readWord s t a).getD 0)).flatten

/-- Read addresses in order, with the header that the opcode's reply begins with. DESIGN CHOICE (log entry 18): of several
broken header rules the reserved field is tested first, then the count, then the addresses in order. -/
def readBody (s : State) (op : Nat) (rq : Req) (t count limit reserved : Nat) (as : List Nat) (head : Nat → List Byte) : State :=
  let no (e : Nat × Nat) (index : Nat) : State := reply s op rq e.1 e.2 (head index)
  if reserved ≠ 0 then no (stBadParam, dtReservedNonzero) 0
  else if count < 1 ∨ limit < count then no (stBadParam, dtCountRange) 0
  else
    match firstReadFault s t as with
    | some x => no x.1 x.2
    | none => replyOk s op rq (head 0 ++ readValues s t as)

def onRegRead (rq : Req) (address : Word) (count reserved : Half) (s : State) : State :=
  take (.regRead rq address count reserved) s fun op t _ rq =>
    readBody s op rq t count.toNat 256 reserved.toNat ((List.range count.toNat).map fun k => address.toNat + 4 * k)
      (regHeader address.toNat count.toNat)

def onRegReadList (rq : Req) (count reserved : Half) (addresses : List Word) (s : State) : State :=
  take (.regReadList rq count reserved addresses) s fun op t _ rq =>
    readBody s op rq t count.toNat 128 reserved.toNat (addresses.map fun a => a.toNat)
      (fun index => le2 count.toNat ++ le2 index)

def execRegRead (rq : Req) (address : Word) (count reserved : Half) (s : State) : Out :=
  .next (onRegRead rq address count reserved (hear rq s))
def execRegReadList (rq : Req) (count reserved : Half) (addresses : List Word) (s : State) : Out :=
  .next (onRegReadList rq count reserved addresses (hear rq s))

/-! ## REG_WAIT (R97) -/

def waitLimit : Nat := 16

def onRegWait (rq : Req) (address mask expected timeout : Word) (s : State) : State :=
  take (.regWait rq address mask expected timeout) s fun op t ss rq =>
    let us := timeout.toNat
    if us < 1 ∨ 10000000 < us then refuse s op rq (stBadParam, dtValueRange)
    else
      match readFault s t address.toNat with
      | some e => refuse s op rq e
      | none =>
        let v := (readWord s t address.toNat).getD 0
        if v &&& mask.toNat = expected.toNat then replyOk s op rq (le4 v)
        else if waitLimit ≤ ss.waits.length then refuse s op rq (stNoResource, dtWaitLimit)
        else
          accept s op rq t stAccepted (le4 v) fun s _ =>
            let w : RegWait :=
              { tag := rq.tag.toNat, address := address.toNat, mask := mask.toNat, expected := expected.toNat,
                last := v, due := s.now + us * usTicks }
            match getSes s rq.session.toNat with
            | some y => setSes s rq.session.toNat { y with waits := y.waits ++ [w] }
            | none => s

/-- A wait of a session ends, with the last value read. -/
def endWait (s : State) (i : Nat) (ss : Session) (w : RegWait) (status v : Nat) : State :=
  complete (setSes s i { ss with waits := ss.waits.filter fun x => x.tag ≠ w.tag }) ss.tenant
    { session := i, op := opRegWait, tag := w.tag } status 0 (le4 v)

/-- The wait that a request left pending. -/
def pendingWait (s : State) (rq : Req) : Option (Session × RegWait) :=
  match getSes s rq.session.toNat with
  | none => none
  | some ss => (ss.waits.find? fun w => w.tag = rq.tag.toNat).map fun w => (ss, w)

/-- REG_WAIT_POLL: the condition is looked at again. -/
def onRegWaitPoll (rq : Req) (s : State) : State :=
  match isRunning s, pendingWait s rq with
  | true, some (ss, w) =>
    let v := (readWord s ss.tenant w.address).getD 0
    if v &&& w.mask = w.expected then endWait s rq.session.toNat ss w stOk v
    else setSes s rq.session.toNat { ss with waits := ss.waits.map fun x => if x.tag = w.tag then { x with last := v } else x }
  | _, _ => s

/-- REG_WAIT_TIMEOUT. -/
def onRegWaitTimeout (rq : Req) (s : State) : State :=
  match isRunning s, pendingWait s rq with
  | true, some (ss, w) => if w.due ≤ s.now then endWait s rq.session.toNat ss w stTimeout w.last else s
  | _, _ => s

def execRegWait (rq : Req) (address mask expected timeout : Word) (s : State) : Out :=
  .next (onRegWait rq address mask expected timeout (hear rq s))
def execRegWaitPoll (rq : Req) (s : State) : Out := .next (onRegWaitPoll rq s)
def execRegWaitTimeout (rq : Req) (s : State) : Out := .next (onRegWaitTimeout rq s)

/-! ## Register writes with rows of their own -/

def onCmdPortsWrite (rq : Req) (value : Word) (s : State) : State := oneWrite s rq aCmdPorts fun _ => value.toNat
def onForceReclaim (rq : Req) (n : Nat) (enabled : Bool) (s : State) : State :=
  oneWrite s rq (aTen n 0x1C) fun _ => 256 + boolNat enabled
def onRelease (rq : Req) (s : State) : State := oneWrite s rq 0x21004 fun t => 256 + t
def onTenLimitsWrite (rq : Req) (n : Nat) (value : Word) (s : State) : State := oneWrite s rq (aTen n 4) fun _ => value.toNat
def onSysCompatWrite (rq : Req) (value : Word) (s : State) : State := oneWrite s rq aSysCompat fun _ => value.toNat
/-- The written word has its enable bit set, or clear, as the row says. -/
def withTop (v : Nat) (on : Bool) : Nat := putBits v 31 31 (boolNat on)
def onFgEnable (rq : Req) (p : Nat) (value : Word) (s : State) : State :=
  oneWrite s rq (aFg p 0) fun _ => withTop value.toNat true
def onFgDisable (rq : Req) (p : Nat) (value : Word) (s : State) : State :=
  oneWrite s rq (aFg p 0) fun _ => withTop value.toNat false
def onGalEnable (rq : Req) (p : Nat) (value : Word) (s : State) : State :=
  oneWrite s rq (aGal p 0) fun _ => withTop value.toNat true
def onDspCommitApply (rq : Req) (p : Nat) (s : State) : State := oneWrite s rq (aPipe p 4) fun _ => 1
def onDspStop (rq : Req) (p : Nat) (s : State) : State :=
  oneWrite s rq (aPipe p 0) fun t => withTop (currentWord s t (aPipe p 0)) true
def onSysResetReq (rq : Req) (value : Word) (s : State) : State := oneWrite s rq aSysResetReq fun _ => value.toNat
def onNetPortConfigWrite (rq : Req) (p : Nat) (value : Word) (s : State) : State :=
  oneWrite s rq (aPort p 0) fun _ => value.toNat
def onNetWallEnable (rq : Req) (value : Word) (s : State) : State :=
  oneWrite s rq (aWall 0) fun _ => withTop value.toNat true

def execCmdPortsWrite (rq : Req) (value : Word) (s : State) : Out := .next (onCmdPortsWrite rq value (hear rq s))
def execForceReclaim (rq : Req) (tenant : Fin 16) (enabled : Bool) (s : State) : Out :=
  .next (onForceReclaim rq tenant.val enabled (hear rq s))
def execRelease (rq : Req) (s : State) : Out := .next (onRelease rq (hear rq s))
def execTenLimitsWrite (rq : Req) (tenant : Fin 16) (value : Word) (s : State) : Out :=
  .next (onTenLimitsWrite rq tenant.val value (hear rq s))
def execSysCompatWrite (rq : Req) (value : Word) (s : State) : Out := .next (onSysCompatWrite rq value (hear rq s))
def execFgEnable (rq : Req) (pipe : Fin 8) (value : Word) (s : State) : Out := .next (onFgEnable rq pipe.val value (hear rq s))
def execFgDisable (rq : Req) (pipe : Fin 8) (value : Word) (s : State) : Out := .next (onFgDisable rq pipe.val value (hear rq s))
def execGalEnable (rq : Req) (pipe : Fin 8) (value : Word) (s : State) : Out := .next (onGalEnable rq pipe.val value (hear rq s))
def execDspCommitApply (rq : Req) (pipe : Fin 8) (s : State) : Out := .next (onDspCommitApply rq pipe.val (hear rq s))
def execDspStop (rq : Req) (pipe : Fin 8) (s : State) : Out := .next (onDspStop rq pipe.val (hear rq s))
def execSysResetReq (rq : Req) (value : Word) (s : State) : Out := .next (onSysResetReq rq value (hear rq s))
def execNetPortConfigWrite (rq : Req) (port : Fin 4) (value : Word) (s : State) : Out :=
  .next (onNetPortConfigWrite rq port.val value (hear rq s))
def execNetWallEnable (rq : Req) (value : Word) (s : State) : Out := .next (onNetWallEnable rq value (hear rq s))

end Sys2Proof.Machine
end

