-- ==== Sys2Proof/Machine/Ports.lean ====
section
/-! DEFINITION. Machine/Ports.lean: the I3C target (R579, R606, R612) and the JTAG port (R614, R615). -/

namespace Sys2Proof.Machine

open Sys2Proof

/-! ## I3C -/

/-- RESET_N is high: the target answers (R612). -/
def i3cAwake (s : State) : Bool := s.chip.phase ≠ .inReset

/-- Registers that I3C reads (R612). -/
def i3cReadable (a : Nat) : Bool :=
  [0x00, 0x04, 0x08, 0x0C, 0x28, 0x1000].elem a
  || [aPwr 0, aPwr 0x360, aPwr 0x400, aPwr 0x404].elem a
  || (a % 4 = 0 && decide (aPwr 0x100 ≤ a) && decide (a < aPwr 0x360))
  || [0x110000, 0x110004, 0x130000, aSecEnroll, 0x142000].elem a
  || (List.range 4).any fun p => a = aPort p 4 || a = aPort p 8 || a = aPort p 0xC

/-- Registers that I3C writes. -/
def i3cWritable (a : Nat) : Bool := a = aSysResetReq || a = aSecEnroll

def setI3cAddr (s : State) (a : Nat) : State := { s with chip := { s.chip with i3cAddr := a } }

/-- I3C_ADDRESS_WRITE. -/
def onI3cAddress (a : Word) (s : State) : State :=
  if i3cAwake s && (i3cReadable a.toNat || i3cWritable a.toNat) then out (setI3cAddr s a.toNat) .i3cAck
  else out s .i3cNack

/-- A private write of 8 bytes: a reset request acts at once on a running chip, and SEC_ENROLL.arm opens
the window; a write that a register's own table refuses is NACKed. -/
def i3cWrite (s : State) (a v : Nat) : State :=
  if !i3cAwake s || !i3cWritable a || (wordFault s 0 .i3c a v).isSome then out s .i3cNack
  else
    let s := out (setI3cAddr s a) .i3cAck
    if a = aSysResetReq then (if isRunning s then resetNow s causeRequest else s)
    else if bit v 0 then armEnroll s else s

def onI3cRegister (a v : Word) (s : State) : State := i3cWrite s a.toNat v.toNat

/-- SEC_ENROLL_ARM: the write of SEC_ENROLL that sets arm. -/
def onEnrollArm (s : State) : State := i3cWrite s aSecEnroll (putBits (enrollWord s) 0 0 1)

/-- I3C_PRIVATE_READ. -/
def onI3cRead (s : State) : State :=
  if i3cAwake s && i3cReadable s.chip.i3cAddr then
    out s (.i3cRead (le4 ((readWord s 0 s.chip.i3cAddr).getD 0)))
  else out s .i3cNack

/-- A dynamic address is taken once (PRESUMED, log entry 52, MIPI I3C Basic: a target that has one no longer answers
SETDASA or ENTDAA). -/
def takeDynamic (a : BitVec 7) (s : State) : State :=
  if i3cAwake s && s.chip.i3cDyn.isNone then
    out { s with chip := { s.chip with i3cDyn := some a } } .i3cAck
  else out s .i3cNack

def onSetdasa (a : BitVec 7) (s : State) : State := takeDynamic a s
def onEntdaa (a : BitVec 7) (s : State) : State := takeDynamic a s

def execI3cAddressWrite (address : Word) (s : State) : Out := .next (onI3cAddress address s)
def execI3cRegisterWrite (address value : Word) (s : State) : Out := .next (onI3cRegister address value s)
def execSecEnrollArm (s : State) : Out := .next (onEnrollArm s)
def execI3cPrivateRead (s : State) : Out := .next (onI3cRead s)
def execI3cSetdasa (address : BitVec 7) (s : State) : Out := .next (onSetdasa address s)
def execI3cEntdaa (address : BitVec 7) (s : State) : Out := .next (onEntdaa address s)

/-! ## JTAG -/

def idcode : Nat := 0x1A12876B

/-- BYPASS: the one-bit register captures 0 (IEEE 1149.1). -/
def bypass (s : State) : State := out s (.tdo 1 0)

def execJtagBypass (s : State) : Out := .next (bypass s)
def execJtagIdcode (s : State) : Out := .next (out s (.tdo 32 idcode))

/-- SAMPLE/PRELOAD leaves the chip as it is; the boundary register is not described. -/
def onSamplePreload (s : State) : State := s
def execJtagSamplePreload (s : State) : Out := .next (onSamplePreload s)

/-- EXTEST drives the pins while RESET_N is low; otherwise it acts as BYPASS. -/
def onExtest (s : State) : State := if s.chip.phase = .inReset then s else bypass s
def execJtagExtest (s : State) : Out := .next (onExtest s)

/-- DEBUG_READ: a device-class register; what it shifts out of any other address the manual does not
state (a free value, log entry 7). -/
def onDebugRead (a : Word) (s : State) : State :=
  match findReg a.toNat with
  | some (_, r) =>
    if r.cls = .device then out s (.tdo 32 ((readWord s 0 a.toNat).getD 0))
    else out (draw s) (.tdo 32 (Config.freeWord s.fresh).toNat)
  | none => out (draw s) (.tdo 32 (Config.freeWord s.fresh).toNat)

/-- A write with no reply takes effect at once; a reset request's 10 ms begin with it (DESIGN CHOICE, log entry 52: R606 counts
them from a reply). -/
def plainWrite (s : State) (a v : Nat) : State :=
  if isRwn a then nvrEnqueue s 0 noRequest a [((a - 0x140000) / 4, v)]
  else if a = aCmdPorts then setRegW s a v
  else if a = aSysResetReq then { s with chip := { s.chip with resetDue := some (s.now + resetDelay) } }
  else afterReply (writeAll s 0 [(a, v)]) [(a, v)]

/-- DEBUG_WRITE: an owner-class register of a running chip, while debug_enable is 1. -/
def onDebugWrite (a v : Word) (s : State) : State :=
  let owner : Bool := match findReg a.toNat with | some (_, r) => r.cls = .owner | none => false
  if isRunning s && bit (regW s aSysJtag) 0 && owner && (writeFault s 0 .jtag [(a.toNat, v.toNat)]).isNone then
    plainWrite s a.toNat v.toNat
  else s

/-- RESET: resets with cause jtag. -/
def onJtagReset (s : State) : State :=
  match s.chip.phase with
  | .running => resetNow s causeJtag
  | .inReset => alsoCause s causeJtag
  | _ => s

def execJtagDebugRead (address : Word) (s : State) : Out := .next (onDebugRead address s)
def execJtagDebugWrite (address value : Word) (s : State) : Out := .next (onDebugWrite address value s)
def execJtagReset (s : State) : Out := .next (onJtagReset s)

end Sys2Proof.Machine
end

