-- ==== Sys2Proof/Machine/Receive.lean ====
section
/-! DEFINITION. Machine/Receive.lean: a datagram at a port (R51, R55, R63 to R65): the ordered checks,
the receive window (R68 to R73) and the requests it lets through; and the two events that let waiting
requests go on: a MEM_WRITE's pages are backed (R138), and a control processor has restarted (R541,
R542). -/

namespace Sys2Proof.Machine

open Sys2Proof

/-! ## Requests in sequence order -/

/-- The effect of a request (R77): the meaning of the command that its payload spells. A command that
no opcode carries has none here. -/
def runRequest : Instr → State → State
  | .sessionClose rq reason, s => onSessionClose rq reason s
  | .heartbeat rq value, s => onHeartbeat rq value s
  | .echo rq payload, s => onEcho rq payload s
  | .deviceInfo rq, s => onDeviceInfo rq s
  | .completionQuery rq about, s => onCompletionQuery rq about s
  | .memMap rq a, s => onMemMap rq a s
  | .memUnmap rq va size, s => onMemUnmap rq va size s
  | .memProtect rq va size flags reserved, s => onMemProtect rq va size flags reserved s
  | .memWrite rq va length reserved data, s => onMemWrite rq va length reserved data s
  | .memRead rq va length reserved, s => onMemRead rq va length reserved s
  | .mmuWalk rq va, s => onMmuWalk rq va s
  | .faultResume rq faultId action, s => onFaultResume rq faultId action s
  | .loopCreate rq a, s => onLoopCreate rq a s
  | .loopDestroy rq loop, s => onLoopDestroy rq loop s
  | .stepSubmit rq a, s => onStepSubmit rq a s
  | .seqSubmit rq a, s => onSeqSubmit rq a s
  | .funcDisable rq a, s => onFuncDisable rq a s
  | .funcEnable rq a, s => onFuncEnable rq a s
  | .regRead rq address count reserved, s => onRegRead rq address count reserved s
  | .regWrite rq address count reserved values, s => onRegWrite rq address count reserved values s
  | .regUpdate rq address mask value, s => onRegUpdate rq address mask value s
  | .regReadList rq count reserved addresses, s => onRegReadList rq count reserved addresses s
  | .regWait rq address mask expected timeout, s => onRegWait rq address mask expected timeout s
  | .dspScan rq, s => onDspScan rq s
  | .dspAux rq a, s => onDspAux rq a s
  | .dspFallbackSet rq a, s => onDspFallbackSet rq a s
  | .dspDsiCmd rq a, s => onDspDsiCmd rq a s
  | .snsFeed rq a, s => onSnsFeed rq a s
  | .snsScan rq, s => onSnsScan rq s
  | .decOpen rq a, s => onDecOpen rq a s
  | .decClose rq stream reserved, s => onDecClose rq stream reserved s
  | .decPush rq a, s => onDecPush rq a s
  | .timeRead rq, s => onTimeRead rq s
  | .netGclWrite rq a, s => onGclWrite rq a s
  | .netStreamTable rq a, s => onStreamTable rq a s
  | .wallKey rq key, s => onWallKey rq key s
  | .fwLoad rq offset reserved data, s => onFwLoad rq offset reserved data s
  | .fwActivate rq imageBytes reserved, s => onFwActivate rq imageBytes reserved s
  | .fwRestart rq processor reserved, s => onFwRestart rq processor reserved s
  | .secCert rq, s => onSecCert rq s
  | .secAttest rq challenge, s => onSecAttest rq challenge s
  | .ownerChange rq key signature, s => onOwnerChange rq key signature s
  | .secKeyRevoke rq index reserved, s => onSecKeyRevoke rq index reserved s
  | .secRollbackRaise rq minimum, s => onSecRollbackRaise rq minimum s
  | .logRead rq first maximum reserved, s => onLogRead rq first maximum reserved s
  | _, s => s

/-- Put a received packet behind those of its session that wait. -/
def stallPacket (s : State) (i : Nat) (p : RxPacket) : State :=
  match getSes s i with
  | none => s
  | some ss => setSes s i { ss with stalled := ss.stalled ++ [p] }

/-- Checks 6 to 8 of R65. -/
def headFault (s : State) (ss : Session) (p : RxPacket) : Option (Nat × Nat) :=
  if p.major ≠ ndMajor then some (stVersionMismatch, 256 * ndMajor + fwMinor s)
  else if p.tenant ≠ ss.tenant then some (stNotPermitted, dtTenantField)
  else if p.flags ≠ 0 ∨ p.status ≠ 0 ∨ p.detail ≠ 0 then some (stBadParam, dtReservedNonzero)
  else none

/-- The command sequencer takes a packet of a session (R64, R65 checks 6 to 13, R138, R542). -/
def runPacket (s : State) (i : Nat) (p : RxPacket) : State :=
  let rq : Req := { session := BitVec.ofNat 32 i, tag := BitVec.ofNat 32 p.tag }
  match getSes s i with
  | none => incReg s aDiscSession 1 cap32
  | some ss =>
    if inLine ss then stallPacket s i p
    else
      match headFault s ss p with
      | some e => refuse s p.op rq e
      | none =>
        match requestFault s ss p.op p.tag p.payload, requestOf p.op rq p.payload with
        | some e, _ => refuse s p.op rq e
        | none, some c => runRequest c s
        | none, none => refuse s p.op rq (stBadOpcode, 0)

/-- Requests that waited go on in order; those that must still wait stay in order. -/
def resumeSession (s : State) (i : Nat) : State :=
  match getSes s i with
  | none => s
  | some ss => ss.stalled.foldl (fun s p => runPacket s i p) (setSes s i { ss with stalled := [] })

/-! ## The receive window (R68 to R73) -/

def windowSize : Nat := 256

/-- The count, without wrapping, that a 32-bit counter on the wire stands for: the one nearest to the
expected count. -/
def wireCount (expected w : Nat) : Nat :=
  let d := (w + 2 ^ 32 - expected % 2 ^ 32) % 2 ^ 32
  if d ≤ 2 ^ 31 then expected + d
  else if 2 ^ 32 ≤ expected + d then expected + d - 2 ^ 32
  else w

/-- Packets received in sequence without a break from a number on. -/
def contiguous : Nat → Nat → List (Nat × Nat × RxPacket) → List (Nat × RxPacket)
  | 0, _, _ => []
  | k + 1, n, buf =>
    match buf.find? fun x => x.1 = n with
    | some x => x.2 :: contiguous k (n + 1) buf
    | none => []

def ackDelay : Nat := 200 * usTicks
def ackBurst : Nat := 32

/-- The packet that the stream waits for arrives: it and those buffered behind it are received, and
run in order. -/
def acceptNext (s : State) (i : Nat) (ss : Session) (p : RxPacket) : State :=
  let run := (s.now, p) :: contiguous windowSize (ss.rx.next + 1) ss.rx.buf
  let next := ss.rx.next + run.length
  let first := (run.map fun x => x.1).foldl min s.now
  let due := min (ss.rx.ackDue.getD (first + ackDelay)) (first + ackDelay)
  let rx := { ss.rx with next := next, buf := ss.rx.buf.filter fun x => decide (next ≤ x.1),
                         unacked := ss.rx.unacked + run.length, ackDue := some due }
  let s := setSes s i { ss with rx := rx }
  let s := if ackBurst ≤ rx.unacked then sendAck s i else s
  run.foldl (fun s x => runPacket s i x.2) s

/-- A sequenced packet (R69 to R71): in the window, ahead of it or behind it. -/
def takeSequenced (s : State) (i w ack : Nat) (p : RxPacket) : State :=
  match getSes s i with
  | none => s
  | some ss =>
    let d := (w + 2 ^ 32 - ss.rx.next % 2 ^ 32) % 2 ^ 32
    if d < windowSize then
      let s := finishClose (ackAdvance s i ack) i
      match getSes s i with
      | none => incReg s aDiscSession 1 cap32
      | some ss =>
        if d = 0 then acceptNext s i ss p
        else if ss.rx.buf.any fun x => x.1 = ss.rx.next + d then sendAck s i
        else sendAck (setSes s i { ss with rx := { ss.rx with buf := ss.rx.buf ++ [(ss.rx.next + d, s.now, p)] } }) i
    else if d < 2 ^ 31 then incReg s aDiscWindow 1 cap32
    else if d = 2 ^ 31 then s
    else sendAck (finishClose (ackAdvance s i ack) i) i

/-- An ack-only packet (R65, R73). DESIGN CHOICE (log entry 13): one that is malformed counts in CMD_DISCARD_FORMAT even
where its control counter is stale. -/
def takeAck (s : State) (i w ack : Nat) (p : RxPacket) : State :=
  match getSes s i with
  | none => s
  | some ss =>
    if p.op ≠ 0 ∨ p.payload ≠ [] ∨ p.tag ≠ 0 ∨ p.status ≠ 0 ∨ p.detail ≠ 0 then incReg s aDiscFormat 1 cap32
    else if newer w ss.rx.ctl then
      finishClose (ackAdvance (setSes s i { ss with rx := { ss.rx with ctl := wireCount ss.rx.ctl w } }) i ack) i
    else s

/-! ## A datagram (R51, R55, R62 to R65) -/

/-- The session id names no open session: at most one answer per source per 10 ms (R64). The answer echoes
the packet's own major, tenant, opcode and tag, of which R64 names none (DESIGN CHOICE, log entry 13). -/
def expiredSession (s : State) (d : Datagram) (id : Nat) : State :=
  let s := incReg s aDiscSession 1 cap32
  let recent := match s.link.expired.find? fun x => x.1 = d.src.ip with
    | some x => decide (s.now < x.2 + 10 * msTicks)
    | none => false
  if recent then s
  else
    let hd := wireHeader ndMajor 0 (leAt d.bytes 4 2) (leAt d.bytes 6 1) fgReply 0 0 0 4 (leAt d.bytes 24 4) stSessionExpired 0
    let s := { s with link := { s.link with
        expired := (d.src.ip, s.now) :: s.link.expired.filter fun x => x.1 ≠ d.src.ip } }
    out s (.handshake (unicast s d.frame.eth.val d.src (clearPacket hd (le4 id))))

def openArgs (p : List Byte) : SessionOpenArgs :=
  { ephKey := sliceAt p 0 32, nonce := sliceAt p 32 16, maxPayload := halfAt p 48, reserved := halfAt p 50 }

def authArgs (p : List Byte) : SessionAuthArgs :=
  { session := wordAt p 0, tenant := byteAt p 4, reserved := bvAt 24 p 5 3, credential := sliceAt p 8 32,
    signature := sliceAt p 40 64 }

/-- A packet on session id 0 (R62, R63, R103): its tag detects corruption only. -/
def takeHandshake (s : State) (d : Datagram) (hd payload tag : List Byte) : State :=
  let op := leAt hd 4 2
  let need := if op = opSessionOpen then 52 else 104
  let h : Handshake := { eth := d.frame.eth, src := d.src, major := byteAt hd 2, minor := byteAt hd 3,
                         tenant := byteAt hd 6, seq := wordAt hd 12, ack := wordAt hd 16, tag := wordAt hd 24 }
  let marked : Bool := leAt hd 7 1 ≠ 0 || leAt hd 28 4 ≠ 0
  if clearTag (packetNonce 0 (leAt hd 12 4) false false) hd payload ≠ tag then
    incReg s aDiscTag 1 cap32
  else if (op ≠ opSessionOpen ∧ op ≠ opSessionAuth) ∨ sourceBlocked s d.src.ip then s
  else
    match keptAnswer s h op payload, lengthFault payload.length need with
    | some y, _ => sendAnswer s h y.header y.payload
    | none, some e =>
      refuseHandshake s h op payload
        (if h.major.toNat ≠ ndMajor then (stVersionMismatch, 256 * ndMajor + fwMinor s)
         else if marked then (stBadParam, dtReservedNonzero)
         else (stBadLength, e))
    | none, none =>
      if marked ∧ h.major.toNat = ndMajor then refuseHandshake s h op payload (stBadParam, dtReservedNonzero)
      else if op = opSessionOpen then onSessionOpen h (openArgs payload) s
      else onSessionAuth h (authArgs payload) s

/-- A packet of an open session (R53, R59, R63, R75): authenticated, it moves the session's return
address and restarts the heartbeat. -/
def takeKeyed (s : State) (d : Datagram) (i : Nat) (ss : Session) (hd ct tag : List Byte) : State :=
  let w := leAt hd 12 4
  let ack := leAt hd 16 4
  let ackOnly : Bool := leAt hd 7 1 = fgAckOnly
  let count := if ackOnly then wireCount ss.rx.ctl w else wireCount ss.rx.next w
  match gcmOpen ss.keyIn (packetNonce i count false ackOnly) hd ct tag with
  | none => incReg s aDiscTag 1 cap32
  | some payload =>
    let s := setSes s i { ss with eth := d.frame.eth.val, src := d.src }
    let s := modTen s ss.tenant fun x => { x with lastAuth := some s.now }
    let p : RxPacket := { major := leAt hd 2 1, op := leAt hd 4 2, tenant := leAt hd 6 1, flags := leAt hd 7 1,
                          tag := leAt hd 24 4, status := leAt hd 28 2, detail := leAt hd 30 2, payload := payload }
    if ackOnly then takeAck s i w ack p else takeSequenced s i w ack p

/-- A whole datagram on the command port: checks 1 to 4 of R65, then its kind. -/
def takeDatagram (s : State) (d : Datagram) : State :=
  let hd := d.bytes.take 32
  let n := leAt hd 20 4
  let id := leAt hd 8 4
  if d.bytes.length < 48 ∨ d.bytes.length ≠ 48 + n ∨ leAt hd 0 2 ≠ 0x4E44 then incReg s aDiscFormat 1 cap32
  else
    let body := sliceAt d.bytes 32 n
    let tag := d.bytes.drop (32 + n)
    if id = 0 then takeHandshake s d hd body tag
    else
      match getSes s id with
      | none => expiredSession s d id
      | some ss => takeKeyed s d id ss hd body tag

/-- DATAGRAM_RECEIVE: a datagram to another port is no command packet; a fragment is discarded, and
counted where it carries the UDP header (R51, R55). -/
def onDatagram (d : Datagram) (s : State) : State :=
  receiveFrame s d.frame fun s =>
    match d.frag with
    | .later => s
    | .first => if d.dstPort.toNat = rField s aCmdPorts 15 0 then incReg s aDiscFormat 1 cap32 else s
    | .whole => if d.dstPort.toNat = rField s aCmdPorts 15 0 then takeDatagram s d else s

def execDatagramReceive (d : Datagram) (s : State) : Out := .next (onDatagram d s)

/-! ## What lets waiting requests go on -/

/-- MEM_WRITE_BACKED: the pages are backed and zeroed; the data is written, the reply goes, and the
requests behind it go on (R138). R129 bounds the time from above alone. The scheduler processor backs and zeroes (R530):
while it restarts, and while HBM stands, nothing is backed. -/
def onMemWriteBacked (session : Word) (s : State) : State :=
  if !isRunning s || restarting s 2 || !s.chip.hbmReady then s
  else
    match getSes s session.toNat with
    | none => s
    | some ss =>
      match ss.backing with
      | none => s
      | some b =>
        let s := pagesRaised (setSes s session.toNat { ss with backing := none }) ss.tenant none
        let s := storeBytes s ss.tenant b.va b.data
        let s := replyOk s opMemWrite { session := session, tag := BitVec.ofNat 32 b.tag } []
        resumeSession s session.toNat

def execMemWriteBacked (session : Word) (s : State) : Out := .next (onMemWriteBacked session s)

/-- Handshake requests that met a restarting session processor. -/
def resumeHandshakes (s : State) : State :=
  s.link.handshakes.foldl (fun s c =>
    match c with
    | .sessionOpen h a => onSessionOpen h a s
    | .sessionAuth h a => onSessionAuth h a s
    | _ => s) { s with link := { s.link with handshakes := [] } }

/-- Requests of every session that waited go on. -/
def resumeAll (s : State) : State := (s.link.sessions.map fun x => x.1).foldl resumeSession s

/-- Sequence-loop steps that a restart of the scheduler processor held back are formed (R542). -/
def formAll (s : State) : State := (tabKeys s.sched.loops).foldl formStep s

/-- PROCESSOR_RESTART_DONE: within 20 ms the restart completes, and what waited for the processor goes on (R541, R542).
The bound is on hardware alone: the end may come at any time before it. -/
def onRestartDone (p : Nat) (s : State) : State :=
  match (getProc s p).state with
  | .restarting _ =>
    if isRunning s then
      let s := restartDone s p
      resumeAll (if p = 1 then resumeHandshakes s else if p = 2 then formAll s else s)
    else s
  | _ => s

/-- HBM_TRAINED: what waited for HBM goes on (R45). -/
def onHbmTrained (s : State) : State :=
  if isRunning s && bit s.chip.clk 3 then resumeAll { s with chip := { s.chip with hbmReady := true } } else s

/-- The bank has stored the words of an enrolment, or has met one worn: SESSION_AUTH is answered, and the handshakes
behind it go on (R578). -/
def finishEnrol (s : State) : State :=
  match s.link.enrolling with
  | none => s
  | some e =>
    if (tabFind s.nvr.jobs e.job).isSome then s
    else
      let s := { s with link := { s.link with enrolling := none } }
      let key := fit 32 e.args.credential
      resumeHandshakes
        (if ownerEnrolled s ∧ credential s 0 = key then
           enterSession { s with sec := { s.sec with enroll := none } } e.shake e.args e.half
         else answer s e.shake opSessionAuth (authPayload e.args) 0 stWorn 0 [])

/-- NVR_WORD_STORED. -/
def onNvrWordStored (s : State) : State := finishEnrol (storeNvrWord s)

def execHbmTrained (s : State) : Out := .next (onHbmTrained s)
def execNvrWordStored (s : State) : Out := .next (onNvrWordStored s)

def execProcessorRestartDone (p : Fin 6) (s : State) : Out := .next (onRestartDone p.val s)

end Sys2Proof.Machine
end

