-- ==== Sys2Proof/Machine/VeOps.lean ====
section
/-! DEFINITION. Machine/VeOps.lean: the rows of the vector engine's instruction table (R231), one
meaning per operation. -/

namespace Sys2Proof.Machine

open Sys2Proof

/-! ## FP32 (R230) -/

def onVeNop (v : VeAt) (f : VeFields) (s : State) : State := veAt 0x00 v f s fun x => veNext s x f x.grp
def execVeNop (v : VeAt) (f : VeFields) (s : State) : Out := .next (onVeNop v f s)
def onVeFadd (v : VeAt) (f : VeFields) (s : State) : State := veAlu2 0x01 f32Add v f s
def execVeFadd (v : VeAt) (f : VeFields) (s : State) : Out := .next (onVeFadd v f s)
def onVeFsub (v : VeAt) (f : VeFields) (s : State) : State := veAlu2 0x02 f32Sub v f s
def execVeFsub (v : VeAt) (f : VeFields) (s : State) : Out := .next (onVeFsub v f s)
def onVeFmul (v : VeAt) (f : VeFields) (s : State) : State := veAlu2 0x03 f32Mul v f s
def execVeFmul (v : VeAt) (f : VeFields) (s : State) : Out := .next (onVeFmul v f s)
def onVeFfma (v : VeAt) (f : VeFields) (s : State) : State := veAlu3 0x04 f32Fma v f s
def execVeFfma (v : VeAt) (f : VeFields) (s : State) : Out := .next (onVeFfma v f s)
def onVeFmin (v : VeAt) (f : VeFields) (s : State) : State := veAlu2 0x05 f32Min v f s
def execVeFmin (v : VeAt) (f : VeFields) (s : State) : Out := .next (onVeFmin v f s)
def onVeFmax (v : VeAt) (f : VeFields) (s : State) : State := veAlu2 0x06 f32Max v f s
def execVeFmax (v : VeAt) (f : VeFields) (s : State) : Out := .next (onVeFmax v f s)
def onVeFabs (v : VeAt) (f : VeFields) (s : State) : State := veAlu1 0x07 f32Abs v f s
def execVeFabs (v : VeAt) (f : VeFields) (s : State) : Out := .next (onVeFabs v f s)
def onVeFneg (v : VeAt) (f : VeFields) (s : State) : State := veAlu1 0x08 f32Neg v f s
def execVeFneg (v : VeAt) (f : VeFields) (s : State) : Out := .next (onVeFneg v f s)
def onVeFcopysign (v : VeAt) (f : VeFields) (s : State) : State := veAlu2 0x09 f32CopySign v f s
def execVeFcopysign (v : VeAt) (f : VeFields) (s : State) : Out := .next (onVeFcopysign v f s)

/-! ## Compare and select (R230) -/

def onVeFeq (v : VeAt) (f : VeFields) (s : State) : State := veCmp 0x10 f32Eq v f s
def execVeFeq (v : VeAt) (f : VeFields) (s : State) : Out := .next (onVeFeq v f s)
def onVeFne (v : VeAt) (f : VeFields) (s : State) : State := veCmp 0x11 (fun a b => !f32Eq a b) v f s
def execVeFne (v : VeAt) (f : VeFields) (s : State) : Out := .next (onVeFne v f s)
def onVeFlt (v : VeAt) (f : VeFields) (s : State) : State := veCmp 0x12 f32Lt v f s
def execVeFlt (v : VeAt) (f : VeFields) (s : State) : Out := .next (onVeFlt v f s)
def onVeFle (v : VeAt) (f : VeFields) (s : State) : State := veCmp 0x13 f32Le v f s
def execVeFle (v : VeAt) (f : VeFields) (s : State) : Out := .next (onVeFle v f s)
def onVeFunord (v : VeAt) (f : VeFields) (s : State) : State := veCmp 0x14 (fun a b => f32Nan a || f32Nan b) v f s
def execVeFunord (v : VeAt) (f : VeFields) (s : State) : Out := .next (onVeFunord v f s)
def onVeIeq (v : VeAt) (f : VeFields) (s : State) : State := veCmp 0x15 (fun a b => a == b) v f s
def execVeIeq (v : VeAt) (f : VeFields) (s : State) : Out := .next (onVeIeq v f s)
def onVeIlt (v : VeAt) (f : VeFields) (s : State) : State := veCmp 0x16 sLt v f s
def execVeIlt (v : VeAt) (f : VeFields) (s : State) : Out := .next (onVeIlt v f s)
def onVeUlt (v : VeAt) (f : VeFields) (s : State) : State := veCmp 0x17 (fun a b => decide (a < b)) v f s
def execVeUlt (v : VeAt) (f : VeFields) (s : State) : Out := .next (onVeUlt v f s)
def onVeSel (v : VeAt) (f : VeFields) (s : State) : State := veLanes 0x18 v f s fun x l => if pred x.grp l (f.c.toNat % 8) then x.a f l else x.b f l
def execVeSel (v : VeAt) (f : VeFields) (s : State) : Out := .next (onVeSel v f s)

/-! ## Integer (R230) -/

def onVeIadd (v : VeAt) (f : VeFields) (s : State) : State := veAlu2 0x20 (fun a b => (a + b) % 2 ^ 32) v f s
def execVeIadd (v : VeAt) (f : VeFields) (s : State) : Out := .next (onVeIadd v f s)
def onVeIsub (v : VeAt) (f : VeFields) (s : State) : State := veAlu2 0x21 (fun a b => wrap ((a : Int) - b)) v f s
def execVeIsub (v : VeAt) (f : VeFields) (s : State) : Out := .next (onVeIsub v f s)
def onVeImullo (v : VeAt) (f : VeFields) (s : State) : State := veAlu2 0x22 (fun a b => a * b % 2 ^ 32) v f s
def execVeImullo (v : VeAt) (f : VeFields) (s : State) : Out := .next (onVeImullo v f s)
def onVeSmulhi (v : VeAt) (f : VeFields) (s : State) : State := veAlu2 0x23 iMulHiS v f s
def execVeSmulhi (v : VeAt) (f : VeFields) (s : State) : Out := .next (onVeSmulhi v f s)
def onVeUmulhi (v : VeAt) (f : VeFields) (s : State) : State := veAlu2 0x24 iMulHiU v f s
def execVeUmulhi (v : VeAt) (f : VeFields) (s : State) : Out := .next (onVeUmulhi v f s)
def onVeShl (v : VeAt) (f : VeFields) (s : State) : State := veAlu2 0x25 iShl v f s
def execVeShl (v : VeAt) (f : VeFields) (s : State) : Out := .next (onVeShl v f s)
def onVeShr (v : VeAt) (f : VeFields) (s : State) : State := veAlu2 0x26 iShr v f s
def execVeShr (v : VeAt) (f : VeFields) (s : State) : Out := .next (onVeShr v f s)
def onVeSra (v : VeAt) (f : VeFields) (s : State) : State := veAlu2 0x27 iSra v f s
def execVeSra (v : VeAt) (f : VeFields) (s : State) : Out := .next (onVeSra v f s)
def onVeAnd (v : VeAt) (f : VeFields) (s : State) : State := veAlu2 0x28 (fun a b => a &&& b) v f s
def execVeAnd (v : VeAt) (f : VeFields) (s : State) : Out := .next (onVeAnd v f s)
def onVeOr (v : VeAt) (f : VeFields) (s : State) : State := veAlu2 0x29 (fun a b => a ||| b) v f s
def execVeOr (v : VeAt) (f : VeFields) (s : State) : Out := .next (onVeOr v f s)
def onVeXor (v : VeAt) (f : VeFields) (s : State) : State := veAlu2 0x2A (fun a b => a ^^^ b) v f s
def execVeXor (v : VeAt) (f : VeFields) (s : State) : Out := .next (onVeXor v f s)
def onVeSmin (v : VeAt) (f : VeFields) (s : State) : State := veAlu2 0x2B sMin v f s
def execVeSmin (v : VeAt) (f : VeFields) (s : State) : Out := .next (onVeSmin v f s)
def onVeSmax (v : VeAt) (f : VeFields) (s : State) : State := veAlu2 0x2C sMax v f s
def execVeSmax (v : VeAt) (f : VeFields) (s : State) : Out := .next (onVeSmax v f s)
def onVeUmin (v : VeAt) (f : VeFields) (s : State) : State := veAlu2 0x2D min v f s
def execVeUmin (v : VeAt) (f : VeFields) (s : State) : Out := .next (onVeUmin v f s)
def onVeUmax (v : VeAt) (f : VeFields) (s : State) : State := veAlu2 0x2E max v f s
def execVeUmax (v : VeAt) (f : VeFields) (s : State) : Out := .next (onVeUmax v f s)
def onVeMov (v : VeAt) (f : VeFields) (s : State) : State := veLanes 0x2F v f s fun x l => x.b f l
def execVeMov (v : VeAt) (f : VeFields) (s : State) : Out := .next (onVeMov v f s)

/-! ## Conversion and bit fields (R230) -/

def onVeCvt (v : VeAt) (f : VeFields) (s : State) : State := veAlu2 0x30 (cvt f.imm.toNat) v f s
def execVeCvt (v : VeAt) (f : VeFields) (s : State) : Out := .next (onVeCvt v f s)
def onVeBfi (v : VeAt) (f : VeFields) (s : State) : State := veLanes 0x31 v f s fun x l => bfi f.imm.toNat (x.a f l) (x.c f l)
def execVeBfi (v : VeAt) (f : VeFields) (s : State) : Out := .next (onVeBfi v f s)
def onVeBfx (v : VeAt) (f : VeFields) (s : State) : State := veAlu1 0x32 (bfx f.imm.toNat) v f s
def execVeBfx (v : VeAt) (f : VeFields) (s : State) : Out := .next (onVeBfx v f s)

/-! ## Special and composite functions (R232, R233) -/

def onVeRcp (v : VeAt) (f : VeFields) (s : State) : State := veAlu1 0x40 f32Rcp v f s
def execVeRcp (v : VeAt) (f : VeFields) (s : State) : Out := .next (onVeRcp v f s)
def onVeDiv (v : VeAt) (f : VeFields) (s : State) : State := veAlu2 0x41 f32Div v f s
def execVeDiv (v : VeAt) (f : VeFields) (s : State) : Out := .next (onVeDiv v f s)
def onVeSqrt (v : VeAt) (f : VeFields) (s : State) : State := veAlu1 0x42 f32Sqrt v f s
def execVeSqrt (v : VeAt) (f : VeFields) (s : State) : Out := .next (onVeSqrt v f s)
def onVeRsqrt (v : VeAt) (f : VeFields) (s : State) : State := veAlu1 0x43 f32Rsqrt v f s
def execVeRsqrt (v : VeAt) (f : VeFields) (s : State) : Out := .next (onVeRsqrt v f s)
def onVeExp2 (v : VeAt) (f : VeFields) (s : State) : State := veAlu1 0x44 f32Exp2 v f s
def execVeExp2 (v : VeAt) (f : VeFields) (s : State) : Out := .next (onVeExp2 v f s)
def onVeLog2 (v : VeAt) (f : VeFields) (s : State) : State := veAlu1 0x45 f32Log2 v f s
def execVeLog2 (v : VeAt) (f : VeFields) (s : State) : Out := .next (onVeLog2 v f s)
def onVeSinpi (v : VeAt) (f : VeFields) (s : State) : State := veAlu1 0x46 f32SinPi v f s
def execVeSinpi (v : VeAt) (f : VeFields) (s : State) : Out := .next (onVeSinpi v f s)
def onVeCospi (v : VeAt) (f : VeFields) (s : State) : State := veAlu1 0x47 f32CosPi v f s
def execVeCospi (v : VeAt) (f : VeFields) (s : State) : Out := .next (onVeCospi v f s)
def onVeExp (v : VeAt) (f : VeFields) (s : State) : State := veAlu1 0x48 f32Exp v f s
def execVeExp (v : VeAt) (f : VeFields) (s : State) : Out := .next (onVeExp v f s)
def onVeLog (v : VeAt) (f : VeFields) (s : State) : State := veAlu1 0x49 f32Log v f s
def execVeLog (v : VeAt) (f : VeFields) (s : State) : Out := .next (onVeLog v f s)
def onVeSigmoid (v : VeAt) (f : VeFields) (s : State) : State := veAlu1 0x4A f32Sigmoid v f s
def execVeSigmoid (v : VeAt) (f : VeFields) (s : State) : Out := .next (onVeSigmoid v f s)
def onVeTanh (v : VeAt) (f : VeFields) (s : State) : State := veAlu1 0x4B f32Tanh v f s
def execVeTanh (v : VeAt) (f : VeFields) (s : State) : Out := .next (onVeTanh v f s)

/-! ## Lane exchange and reductions (R230, R234) -/

def onVeShuffle (v : VeAt) (f : VeFields) (s : State) : State := veLanes 0x50 v f s fun x l => x.reg (x.b f l % 64) f.a.toNat
def execVeShuffle (v : VeAt) (f : VeFields) (s : State) : Out := .next (onVeShuffle v f s)
def onVeBcast (v : VeAt) (f : VeFields) (s : State) : State := veLanes 0x51 v f s fun x _ => x.reg (f.imm.toNat % 64) f.a.toNat
def execVeBcast (v : VeAt) (f : VeFields) (s : State) : Out := .next (onVeBcast v f s)
def onVeGred (v : VeAt) (f : VeFields) (s : State) : State := veLanes 0x52 v f s fun x _ => groupReduce (f.imm.toNat % 4) x f
def execVeGred (v : VeAt) (f : VeFields) (s : State) : Out := .next (onVeGred v f s)
def onVeDred (v : VeAt) (f : VeFields) (s : State) : State := vePartial 0x53 v f s
def execVeDred (v : VeAt) (f : VeFields) (s : State) : Out := .next (onVeDred v f s)

/-! ## Scratchpad (R230, R235) -/

def onVeLd32 (v : VeAt) (f : VeFields) (s : State) : State := veLoad 0x60 4 v f s
def execVeLd32 (v : VeAt) (f : VeFields) (s : State) : Out := .next (onVeLd32 v f s)
def onVeLd64 (v : VeAt) (f : VeFields) (s : State) : State := veLoad 0x61 8 v f s
def execVeLd64 (v : VeAt) (f : VeFields) (s : State) : Out := .next (onVeLd64 v f s)
def onVeLd128 (v : VeAt) (f : VeFields) (s : State) : State := veLoad 0x62 16 v f s
def execVeLd128 (v : VeAt) (f : VeFields) (s : State) : Out := .next (onVeLd128 v f s)
def onVeSt32 (v : VeAt) (f : VeFields) (s : State) : State := veStore 0x63 4 v f s
def execVeSt32 (v : VeAt) (f : VeFields) (s : State) : Out := .next (onVeSt32 v f s)
def onVeSt64 (v : VeAt) (f : VeFields) (s : State) : State := veStore 0x64 8 v f s
def execVeSt64 (v : VeAt) (f : VeFields) (s : State) : Out := .next (onVeSt64 v f s)
def onVeSt128 (v : VeAt) (f : VeFields) (s : State) : State := veStore 0x65 16 v f s
def execVeSt128 (v : VeAt) (f : VeFields) (s : State) : Out := .next (onVeSt128 v f s)
def onVeAadd (v : VeAt) (f : VeFields) (s : State) : State := veAtomic 0x68 (fun w b _ => (w + b) % 2 ^ 32) v f s
def execVeAadd (v : VeAt) (f : VeFields) (s : State) : Out := .next (onVeAadd v f s)
def onVeAsmin (v : VeAt) (f : VeFields) (s : State) : State := veAtomic 0x69 (fun w b _ => sMin w b) v f s
def execVeAsmin (v : VeAt) (f : VeFields) (s : State) : Out := .next (onVeAsmin v f s)
def onVeAsmax (v : VeAt) (f : VeFields) (s : State) : State := veAtomic 0x6A (fun w b _ => sMax w b) v f s
def execVeAsmax (v : VeAt) (f : VeFields) (s : State) : Out := .next (onVeAsmax v f s)
def onVeAand (v : VeAt) (f : VeFields) (s : State) : State := veAtomic 0x6B (fun w b _ => w &&& b) v f s
def execVeAand (v : VeAt) (f : VeFields) (s : State) : Out := .next (onVeAand v f s)
def onVeAor (v : VeAt) (f : VeFields) (s : State) : State := veAtomic 0x6C (fun w b _ => w ||| b) v f s
def execVeAor (v : VeAt) (f : VeFields) (s : State) : Out := .next (onVeAor v f s)
def onVeAxor (v : VeAt) (f : VeFields) (s : State) : State := veAtomic 0x6D (fun w b _ => w ^^^ b) v f s
def execVeAxor (v : VeAt) (f : VeFields) (s : State) : Out := .next (onVeAxor v f s)
def onVeAxchg (v : VeAt) (f : VeFields) (s : State) : State := veAtomic 0x6E (fun _ b _ => b) v f s
def execVeAxchg (v : VeAt) (f : VeFields) (s : State) : Out := .next (onVeAxchg v f s)
def onVeAcas (v : VeAt) (f : VeFields) (s : State) : State := veAtomic 0x6F (fun w b c => if w = c then b else w) v f s
def execVeAcas (v : VeAt) (f : VeFields) (s : State) : Out := .next (onVeAcas v f s)

/-! ## Control (R230, R231) -/

def onVeBraAny (v : VeAt) (f : VeFields) (s : State) : State := veBranch 0x70 (fun x => x.lanes ≠ []) v f s
def execVeBraAny (v : VeAt) (f : VeFields) (s : State) : Out := .next (onVeBraAny v f s)
def onVeBraAll (v : VeAt) (f : VeFields) (s : State) : State := veBranch 0x71 (fun x => x.lanes = x.active) v f s
def execVeBraAll (v : VeAt) (f : VeFields) (s : State) : Out := .next (onVeBraAll v f s)
def onVeBarGroup (v : VeAt) (f : VeFields) (s : State) : State := veAt 0x72 v f s fun x => veNext s x f x.grp
def execVeBarGroup (v : VeAt) (f : VeFields) (s : State) : Out := .next (onVeBarGroup v f s)
def onVeBarDispatch (v : VeAt) (f : VeFields) (s : State) : State := veBarrier 0x73 v f s
def execVeBarDispatch (v : VeAt) (f : VeFields) (s : State) : Out := .next (onVeBarDispatch v f s)
def onVeDmaIssue (v : VeAt) (f : VeFields) (s : State) : State := veDmaStart 0x74 v f s
def execVeDmaIssue (v : VeAt) (f : VeFields) (s : State) : Out := .next (onVeDmaIssue v f s)
def onVeDmaWait (v : VeAt) (f : VeFields) (s : State) : State := veDmaHold 0x75 v f s
def execVeDmaWait (v : VeAt) (f : VeFields) (s : State) : Out := .next (onVeDmaWait v f s)
def onVeExit (v : VeAt) (f : VeFields) (s : State) : State := veEnd 0x76 v f s
def execVeExit (v : VeAt) (f : VeFields) (s : State) : Out := .next (onVeExit v f s)

end Sys2Proof.Machine
end

