-- ==== Sys2Proof/Machine/Dispatch.lean ====
section
/-! DEFINITION. Machine/Dispatch.lean: each command goes to its meaning. -/

namespace Sys2Proof.Machine

open Sys2Proof

def exec (i : Instr) (s : State) : Host.Outcome State Fault Refusal :=
  match i with
  | .datagramReceive d => Sys2Proof.Machine.execDatagramReceive d s
  | .ackDelayTimeout session => Sys2Proof.Machine.execAckDelayTimeout session s
  | .retransmitTimeout session => Sys2Proof.Machine.execRetransmitTimeout session s
  | .sessionOpen h a => Sys2Proof.Machine.execSessionOpen h a s
  | .sessionAuth h a => Sys2Proof.Machine.execSessionAuth h a s
  | .sessionClose rq reason => Sys2Proof.Machine.execSessionClose rq reason s
  | .heartbeat rq value => Sys2Proof.Machine.execHeartbeat rq value s
  | .echo rq payload => Sys2Proof.Machine.execEcho rq payload s
  | .deviceInfo rq => Sys2Proof.Machine.execDeviceInfo rq s
  | .completionQuery rq about => Sys2Proof.Machine.execCompletionQuery rq about s
  | .regRead rq address count reserved => Sys2Proof.Machine.execRegRead rq address count reserved s
  | .regWrite rq address count reserved values => Sys2Proof.Machine.execRegWrite rq address count reserved values s
  | .regUpdate rq address mask value => Sys2Proof.Machine.execRegUpdate rq address mask value s
  | .regReadList rq count reserved addresses => Sys2Proof.Machine.execRegReadList rq count reserved addresses s
  | .regWait rq address mask expected timeout => Sys2Proof.Machine.execRegWait rq address mask expected timeout s
  | .regWaitPoll rq => Sys2Proof.Machine.execRegWaitPoll rq s
  | .regWaitTimeout rq => Sys2Proof.Machine.execRegWaitTimeout rq s
  | .cmdPortsWrite rq value => Sys2Proof.Machine.execCmdPortsWrite rq value s
  | .halfOpenTimeout session => Sys2Proof.Machine.execHalfOpenTimeout session s
  | .authBlockExpiry ip => Sys2Proof.Machine.execAuthBlockExpiry ip s
  | .beaconTimer port => Sys2Proof.Machine.execBeaconTimer port s
  | .heartbeatTimeout tenant => Sys2Proof.Machine.execHeartbeatTimeout tenant s
  | .orphanTimeout tenant => Sys2Proof.Machine.execOrphanTimeout tenant s
  | .reclaimTimeout tenant => Sys2Proof.Machine.execReclaimTimeout tenant s
  | .forceReclaim rq tenant enabled => Sys2Proof.Machine.execForceReclaim rq tenant enabled s
  | .release rq => Sys2Proof.Machine.execRelease rq s
  | .tenLimitsWrite rq tenant value => Sys2Proof.Machine.execTenLimitsWrite rq tenant value s
  | .reclaimComplete tenant => Sys2Proof.Machine.execReclaimComplete tenant s
  | .memMap rq a => Sys2Proof.Machine.execMemMap rq a s
  | .memMapBacked tenant va => Sys2Proof.Machine.execMemMapBacked tenant va s
  | .memUnmap rq va size => Sys2Proof.Machine.execMemUnmap rq va size s
  | .memProtect rq va size flags reserved => Sys2Proof.Machine.execMemProtect rq va size flags reserved s
  | .memWrite rq va length reserved data => Sys2Proof.Machine.execMemWrite rq va length reserved data s
  | .memRead rq va length reserved => Sys2Proof.Machine.execMemRead rq va length reserved s
  | .mmuWalk rq va => Sys2Proof.Machine.execMmuWalk rq va s
  | .faultResume rq faultId action => Sys2Proof.Machine.execFaultResume rq faultId action s
  | .pageFault ref va write cause => Sys2Proof.Machine.execPageFault ref va write cause s
  | .demandBackingDone ref => Sys2Proof.Machine.execDemandBackingDone ref s
  | .faultTimeout tenant faultId => Sys2Proof.Machine.execFaultTimeout tenant faultId s
  | .uncorrectableError site => Sys2Proof.Machine.execUncorrectableError site s
  | .patrolScrub found => Sys2Proof.Machine.execPatrolScrub found s
  | .zeroFillDone loop => Sys2Proof.Machine.execZeroFillDone loop s
  | .killedWritesSettled ref => Sys2Proof.Machine.execKilledWritesSettled ref s
  | .loopCreate rq a => Sys2Proof.Machine.execLoopCreate rq a s
  | .loopDestroy rq loop => Sys2Proof.Machine.execLoopDestroy rq loop s
  | .stepSubmit rq a => Sys2Proof.Machine.execStepSubmit rq a s
  | .seqSubmit rq a => Sys2Proof.Machine.execSeqSubmit rq a s
  | .funcDisable rq a => Sys2Proof.Machine.execFuncDisable rq a s
  | .funcEnable rq a => Sys2Proof.Machine.execFuncEnable rq a s
  | .schedulerTick => Sys2Proof.Machine.execSchedulerTick s
  | .urgentTick => Sys2Proof.Machine.execUrgentTick s
  | .commandCommit ref => Sys2Proof.Machine.execCommandCommit ref s
  | .sysCompatWrite rq value => Sys2Proof.Machine.execSysCompatWrite rq value s
  | .dmaDescriptorStart ref => Sys2Proof.Machine.execDmaDescriptorStart ref s
  | .dmaDescriptorDone ref index => Sys2Proof.Machine.execDmaDescriptorDone ref index s
  | .veNop v f => Sys2Proof.Machine.execVeNop v f s
  | .veFadd v f => Sys2Proof.Machine.execVeFadd v f s
  | .veFsub v f => Sys2Proof.Machine.execVeFsub v f s
  | .veFmul v f => Sys2Proof.Machine.execVeFmul v f s
  | .veFfma v f => Sys2Proof.Machine.execVeFfma v f s
  | .veFmin v f => Sys2Proof.Machine.execVeFmin v f s
  | .veFmax v f => Sys2Proof.Machine.execVeFmax v f s
  | .veFabs v f => Sys2Proof.Machine.execVeFabs v f s
  | .veFneg v f => Sys2Proof.Machine.execVeFneg v f s
  | .veFcopysign v f => Sys2Proof.Machine.execVeFcopysign v f s
  | .veFeq v f => Sys2Proof.Machine.execVeFeq v f s
  | .veFne v f => Sys2Proof.Machine.execVeFne v f s
  | .veFlt v f => Sys2Proof.Machine.execVeFlt v f s
  | .veFle v f => Sys2Proof.Machine.execVeFle v f s
  | .veFunord v f => Sys2Proof.Machine.execVeFunord v f s
  | .veIeq v f => Sys2Proof.Machine.execVeIeq v f s
  | .veIlt v f => Sys2Proof.Machine.execVeIlt v f s
  | .veUlt v f => Sys2Proof.Machine.execVeUlt v f s
  | .veSel v f => Sys2Proof.Machine.execVeSel v f s
  | .veIadd v f => Sys2Proof.Machine.execVeIadd v f s
  | .veIsub v f => Sys2Proof.Machine.execVeIsub v f s
  | .veImullo v f => Sys2Proof.Machine.execVeImullo v f s
  | .veSmulhi v f => Sys2Proof.Machine.execVeSmulhi v f s
  | .veUmulhi v f => Sys2Proof.Machine.execVeUmulhi v f s
  | .veShl v f => Sys2Proof.Machine.execVeShl v f s
  | .veShr v f => Sys2Proof.Machine.execVeShr v f s
  | .veSra v f => Sys2Proof.Machine.execVeSra v f s
  | .veAnd v f => Sys2Proof.Machine.execVeAnd v f s
  | .veOr v f => Sys2Proof.Machine.execVeOr v f s
  | .veXor v f => Sys2Proof.Machine.execVeXor v f s
  | .veSmin v f => Sys2Proof.Machine.execVeSmin v f s
  | .veSmax v f => Sys2Proof.Machine.execVeSmax v f s
  | .veUmin v f => Sys2Proof.Machine.execVeUmin v f s
  | .veUmax v f => Sys2Proof.Machine.execVeUmax v f s
  | .veMov v f => Sys2Proof.Machine.execVeMov v f s
  | .veCvt v f => Sys2Proof.Machine.execVeCvt v f s
  | .veBfi v f => Sys2Proof.Machine.execVeBfi v f s
  | .veBfx v f => Sys2Proof.Machine.execVeBfx v f s
  | .veRcp v f => Sys2Proof.Machine.execVeRcp v f s
  | .veDiv v f => Sys2Proof.Machine.execVeDiv v f s
  | .veSqrt v f => Sys2Proof.Machine.execVeSqrt v f s
  | .veRsqrt v f => Sys2Proof.Machine.execVeRsqrt v f s
  | .veExp2 v f => Sys2Proof.Machine.execVeExp2 v f s
  | .veLog2 v f => Sys2Proof.Machine.execVeLog2 v f s
  | .veSinpi v f => Sys2Proof.Machine.execVeSinpi v f s
  | .veCospi v f => Sys2Proof.Machine.execVeCospi v f s
  | .veExp v f => Sys2Proof.Machine.execVeExp v f s
  | .veLog v f => Sys2Proof.Machine.execVeLog v f s
  | .veSigmoid v f => Sys2Proof.Machine.execVeSigmoid v f s
  | .veTanh v f => Sys2Proof.Machine.execVeTanh v f s
  | .veShuffle v f => Sys2Proof.Machine.execVeShuffle v f s
  | .veBcast v f => Sys2Proof.Machine.execVeBcast v f s
  | .veGred v f => Sys2Proof.Machine.execVeGred v f s
  | .veDred v f => Sys2Proof.Machine.execVeDred v f s
  | .veLd32 v f => Sys2Proof.Machine.execVeLd32 v f s
  | .veLd64 v f => Sys2Proof.Machine.execVeLd64 v f s
  | .veLd128 v f => Sys2Proof.Machine.execVeLd128 v f s
  | .veSt32 v f => Sys2Proof.Machine.execVeSt32 v f s
  | .veSt64 v f => Sys2Proof.Machine.execVeSt64 v f s
  | .veSt128 v f => Sys2Proof.Machine.execVeSt128 v f s
  | .veAadd v f => Sys2Proof.Machine.execVeAadd v f s
  | .veAsmin v f => Sys2Proof.Machine.execVeAsmin v f s
  | .veAsmax v f => Sys2Proof.Machine.execVeAsmax v f s
  | .veAand v f => Sys2Proof.Machine.execVeAand v f s
  | .veAor v f => Sys2Proof.Machine.execVeAor v f s
  | .veAxor v f => Sys2Proof.Machine.execVeAxor v f s
  | .veAxchg v f => Sys2Proof.Machine.execVeAxchg v f s
  | .veAcas v f => Sys2Proof.Machine.execVeAcas v f s
  | .veBraAny v f => Sys2Proof.Machine.execVeBraAny v f s
  | .veBraAll v f => Sys2Proof.Machine.execVeBraAll v f s
  | .veBarGroup v f => Sys2Proof.Machine.execVeBarGroup v f s
  | .veBarDispatch v f => Sys2Proof.Machine.execVeBarDispatch v f s
  | .veDmaIssue v f => Sys2Proof.Machine.execVeDmaIssue v f s
  | .veDmaWait v f => Sys2Proof.Machine.execVeDmaWait v f s
  | .veExit v f => Sys2Proof.Machine.execVeExit v f s
  | .dlState ref => Sys2Proof.Machine.execDlState ref s
  | .dlTriangles ref => Sys2Proof.Machine.execDlTriangles ref s
  | .dlRects ref => Sys2Proof.Machine.execDlRects ref s
  | .dlEnd ref => Sys2Proof.Machine.execDlEnd ref s
  | .dlNop ref => Sys2Proof.Machine.execDlNop ref s
  | .haloRowSend ref dir => Sys2Proof.Machine.execHaloRowSend ref dir s
  | .haloSlotRead ref dir => Sys2Proof.Machine.execHaloSlotRead ref dir s
  | .haloCredit ref dir => Sys2Proof.Machine.execHaloCredit ref dir s
  | .haloTimeout ref dir wait => Sys2Proof.Machine.execHaloTimeout ref dir wait s
  | .reelEccError ref corrected => Sys2Proof.Machine.execReelEccError ref corrected s
  | .fgEnable rq pipe value => Sys2Proof.Machine.execFgEnable rq pipe value s
  | .fgDisable rq pipe value => Sys2Proof.Machine.execFgDisable rq pipe value s
  | .fgStepEligible pipe => Sys2Proof.Machine.execFgStepEligible pipe s
  | .captureComplete pipe => Sys2Proof.Machine.execCaptureComplete pipe s
  | .publishCopyStart pipe => Sys2Proof.Machine.execPublishCopyStart pipe s
  | .publishCopyDone pipe => Sys2Proof.Machine.execPublishCopyDone pipe s
  | .galliardDecision pipe => Sys2Proof.Machine.execGalliardDecision pipe s
  | .galEnable rq pipe value => Sys2Proof.Machine.execGalEnable rq pipe value s
  | .streamBandWrite ref => Sys2Proof.Machine.execStreamBandWrite ref s
  | .streamTimeout ref => Sys2Proof.Machine.execStreamTimeout ref s
  | .tileMemoryEcc ref => Sys2Proof.Machine.execTileMemoryEcc ref s
  | .csiFrameStart rx vc number header => Sys2Proof.Machine.execCsiFrameStart rx vc number header s
  | .csiFrameEnd rx vc header => Sys2Proof.Machine.execCsiFrameEnd rx vc header s
  | .csiLongPacket rx vc dataType header wordCount crcOk data => Sys2Proof.Machine.execCsiLongPacket rx vc dataType header wordCount crcOk data s
  | .csiIgnoredPacket rx vcExt dataType header => Sys2Proof.Machine.execCsiIgnoredPacket rx vcExt dataType header s
  | .frameTimeout ctx => Sys2Proof.Machine.execFrameTimeout ctx s
  | .sourceLost rx vc dataType => Sys2Proof.Machine.execSourceLost rx vc dataType s
  | .csiLinkChange rx link mbps => Sys2Proof.Machine.execCsiLinkChange rx link mbps s
  | .tdmFrame port bitClocks samples hz => Sys2Proof.Machine.execTdmFrame port bitClocks samples hz s
  | .tdmSyncTimeout port => Sys2Proof.Machine.execTdmSyncTimeout port s
  | .fifoOverflow site => Sys2Proof.Machine.execFifoOverflow site s
  | .snsFeed rq a => Sys2Proof.Machine.execSnsFeed rq a s
  | .snsScan rq => Sys2Proof.Machine.execSnsScan rq s
  | .decOpen rq a => Sys2Proof.Machine.execDecOpen rq a s
  | .decClose rq stream reserved => Sys2Proof.Machine.execDecClose rq stream reserved s
  | .decPush rq a => Sys2Proof.Machine.execDecPush rq a s
  | .recordDispatch stream => Sys2Proof.Machine.execRecordDispatch stream s
  | .laneStart lane => Sys2Proof.Machine.execLaneStart lane s
  | .decodeFinish lane => Sys2Proof.Machine.execDecodeFinish lane s
  | .budgetTimeout lane => Sys2Proof.Machine.execBudgetTimeout lane s
  | .frameStart pipe => Sys2Proof.Machine.execFrameStart pipe s
  | .dspCommitApply rq pipe => Sys2Proof.Machine.execDspCommitApply rq pipe s
  | .dspStop rq pipe => Sys2Proof.Machine.execDspStop rq pipe s
  | .teEdge unit rising => Sys2Proof.Machine.execTeEdge unit rising s
  | .teTimeout pipe => Sys2Proof.Machine.execTeTimeout pipe s
  | .hpdChange tx sink => Sys2Proof.Machine.execHpdChange tx sink s
  | .irqHpd tx linkLost => Sys2Proof.Machine.execIrqHpd tx linkLost s
  | .linkTrainingDone tx result => Sys2Proof.Machine.execLinkTrainingDone tx result s
  | .dspScan rq => Sys2Proof.Machine.execDspScan rq s
  | .dspAux rq a => Sys2Proof.Machine.execDspAux rq a s
  | .auxDone tx result => Sys2Proof.Machine.execAuxDone tx result s
  | .dspFallbackSet rq a => Sys2Proof.Machine.execDspFallbackSet rq a s
  | .fallbackCopyDone pipe => Sys2Proof.Machine.execFallbackCopyDone pipe s
  | .dspDsiCmd rq a => Sys2Proof.Machine.execDspDsiCmd rq a s
  | .dsiCmdSend unit result => Sys2Proof.Machine.execDsiCmdSend unit result s
  | .dsiCmdTimeout unit => Sys2Proof.Machine.execDsiCmdTimeout unit s
  | .memSleepEnter => Sys2Proof.Machine.execMemSleepEnter s
  | .memSleepExit => Sys2Proof.Machine.execMemSleepExit s
  | .linkUp port => Sys2Proof.Machine.execLinkUp port s
  | .linkDown port => Sys2Proof.Machine.execLinkDown port s
  | .arpRequest port a => Sys2Proof.Machine.execArpRequest port a s
  | .neighbourSolicitation port a => Sys2Proof.Machine.execNeighbourSolicitation port a s
  | .icmpEchoRequest port a => Sys2Proof.Machine.execIcmpEchoRequest port a s
  | .netPortConfigWrite rq port value => Sys2Proof.Machine.execNetPortConfigWrite rq port value s
  | .sync port m => Sys2Proof.Machine.execSync port m s
  | .followUp port m => Sys2Proof.Machine.execFollowUp port m s
  | .pdelayReq port m => Sys2Proof.Machine.execPdelayReq port m s
  | .pdelayResp port m => Sys2Proof.Machine.execPdelayResp port m s
  | .announce port m => Sys2Proof.Machine.execAnnounce port m s
  | .syncIntervalTimer port => Sys2Proof.Machine.execSyncIntervalTimer port s
  | .pdelayIntervalTimer port => Sys2Proof.Machine.execPdelayIntervalTimer port s
  | .syncTimeout base => Sys2Proof.Machine.execSyncTimeout base s
  | .netGclWrite rq a => Sys2Proof.Machine.execNetGclWrite rq a s
  | .gclSwitch port => Sys2Proof.Machine.execGclSwitch port s
  | .gateIntervalEnd port => Sys2Proof.Machine.execGateIntervalEnd port s
  | .netStreamTable rq a => Sys2Proof.Machine.execNetStreamTable rq a s
  | .timeRead rq => Sys2Proof.Machine.execTimeRead rq s
  | .wallKey rq key => Sys2Proof.Machine.execWallKey rq key s
  | .netWallEnable rq value => Sys2Proof.Machine.execNetWallEnable rq value s
  | .wallReady d => Sys2Proof.Machine.execWallReady d s
  | .wallAgree d => Sys2Proof.Machine.execWallAgree d s
  | .wallClaim d => Sys2Proof.Machine.execWallClaim d s
  | .agreeFallbackTimeout => Sys2Proof.Machine.execAgreeFallbackTimeout s
  | .wallAgreementMissing => Sys2Proof.Machine.execWallAgreementMissing s
  | .wallElectionTimeout => Sys2Proof.Machine.execWallElectionTimeout s
  | .fwLoad rq offset reserved data => Sys2Proof.Machine.execFwLoad rq offset reserved data s
  | .fwActivate rq imageBytes reserved => Sys2Proof.Machine.execFwActivate rq imageBytes reserved s
  | .fwVerifyDone => Sys2Proof.Machine.execFwVerifyDone s
  | .activationResume => Sys2Proof.Machine.execActivationResume s
  | .processorRestartDone p => Sys2Proof.Machine.execProcessorRestartDone p s
  | .fwRestart rq processor reserved => Sys2Proof.Machine.execFwRestart rq processor reserved s
  | .watchdogExpiry p => Sys2Proof.Machine.execWatchdogExpiry p s
  | .protectionViolation p => Sys2Proof.Machine.execProtectionViolation p s
  | .sramError p => Sys2Proof.Machine.execSramError p s
  | .consistencyCheckFail p => Sys2Proof.Machine.execConsistencyCheckFail p s
  | .holdRelease => Sys2Proof.Machine.execHoldRelease s
  | .selfTestDone r => Sys2Proof.Machine.execSelfTestDone r s
  | .logRead rq first maximum reserved => Sys2Proof.Machine.execLogRead rq first maximum reserved s
  | .sensorSample r => Sys2Proof.Machine.execSensorSample r s
  | .currentSample r => Sys2Proof.Machine.execCurrentSample r s
  | .powerLoopPeriod => Sys2Proof.Machine.execPowerLoopPeriod s
  | .parkPeriod => Sys2Proof.Machine.execParkPeriod s
  | .secCert rq => Sys2Proof.Machine.execSecCert rq s
  | .secAttest rq challenge => Sys2Proof.Machine.execSecAttest rq challenge s
  | .ownerChange rq key signature => Sys2Proof.Machine.execOwnerChange rq key signature s
  | .secKeyRevoke rq index reserved => Sys2Proof.Machine.execSecKeyRevoke rq index reserved s
  | .secRollbackRaise rq minimum => Sys2Proof.Machine.execSecRollbackRaise rq minimum s
  | .entropyFail => Sys2Proof.Machine.execEntropyFail s
  | .secEnrollArm => Sys2Proof.Machine.execSecEnrollArm s
  | .enrollWindowExpiry => Sys2Proof.Machine.execEnrollWindowExpiry s
  | .nvrWordStored => Sys2Proof.Machine.execNvrWordStored s
  | .powerOn straps => Sys2Proof.Machine.execPowerOn straps s
  | .brownout e => Sys2Proof.Machine.execBrownout e s
  | .resetAssert => Sys2Proof.Machine.execResetAssert s
  | .resetRelease straps => Sys2Proof.Machine.execResetRelease straps s
  | .hbmTrained => Sys2Proof.Machine.execHbmTrained s
  | .thermalHoldOffEnd => Sys2Proof.Machine.execThermalHoldOffEnd s
  | .rootPllUnlock => Sys2Proof.Machine.execRootPllUnlock s
  | .phyReferenceLost r => Sys2Proof.Machine.execPhyReferenceLost r s
  | .phyReferenceLock r => Sys2Proof.Machine.execPhyReferenceLock r s
  | .sysResetReq rq value => Sys2Proof.Machine.execSysResetReq rq value s
  | .resetRequestTimer => Sys2Proof.Machine.execResetRequestTimer s
  | .jtagBypass => Sys2Proof.Machine.execJtagBypass s
  | .jtagIdcode => Sys2Proof.Machine.execJtagIdcode s
  | .jtagSamplePreload => Sys2Proof.Machine.execJtagSamplePreload s
  | .jtagExtest => Sys2Proof.Machine.execJtagExtest s
  | .jtagDebugRead address => Sys2Proof.Machine.execJtagDebugRead address s
  | .jtagDebugWrite address value => Sys2Proof.Machine.execJtagDebugWrite address value s
  | .jtagReset => Sys2Proof.Machine.execJtagReset s
  | .i3cSetdasa address => Sys2Proof.Machine.execI3cSetdasa address s
  | .i3cEntdaa address => Sys2Proof.Machine.execI3cEntdaa address s
  | .i3cAddressWrite address => Sys2Proof.Machine.execI3cAddressWrite address s
  | .i3cRegisterWrite address value => Sys2Proof.Machine.execI3cRegisterWrite address value s
  | .i3cPrivateRead => Sys2Proof.Machine.execI3cPrivateRead s
  | .lineStart pipe fetch => Sys2Proof.Machine.execLineStart pipe fetch s
  | .memWriteBacked session => Sys2Proof.Machine.execMemWriteBacked session s
  | .wallMemberLost index => Sys2Proof.Machine.execWallMemberLost index s
  | .noPacketsTimeout rx => Sys2Proof.Machine.execNoPacketsTimeout rx s
  | .bitClockLoss port => Sys2Proof.Machine.execBitClockLoss port s
  | .bitClockDetected port => Sys2Proof.Machine.execBitClockDetected port s
  | .preemptionVerifyDone port => Sys2Proof.Machine.execPreemptionVerifyDone port s
  | .announceReceiptTimeout port => Sys2Proof.Machine.execAnnounceReceiptTimeout port s
  | .announceIntervalTimer port => Sys2Proof.Machine.execAnnounceIntervalTimer port s

end Sys2Proof.Machine
end

