-- ==== Sys2Proof/Safety.lean ====
section
/-! DEFINITION. Safety.lean: the terms that statements use: a safe step, memory in its canonical form, and
a request that the command sequencer serves. The Ndovik stops by no rule of its own but one: what it does
while a rail is out of tolerance is undefined (R598). -/

namespace Sys2Proof

open Sys2Proof.Machine

/-- A step that goes on. -/
def SafeStep (s : State) : Prop := ∃ t, step s = .next t

/-- Memory is in its canonical form. -/
def MemoryWf (s : State) : Prop := Memory.wf s.hbm = true ∧ Memory.wf s.pad = true

/-- The command sequencer serves a request (R77): the chip runs, the session is established and nothing of
it waits in front, checks 1 to 11 of R65 pass, and no control processor that handles it restarts (R542). Statements say it
of the state in which the request has been heard (R120). -/
structure Served (s : State) (i : Instr) (op : Nat) (rq : Req) (ss : Session) : Prop where
  running : isRunning s = true
  session : getSes s rq.session.toNat = some ss
  clear : inLine ss = false
  request : reqOf i = some rq
  passes : ∃ p, requestBytes i = some (op, p) ∧ requestFault s ss op rq.tag.toNat p = none
  ready : mustWait s op = false

/-- The same of the REG_WRITE of one register that carries a command with a row of its own. -/
structure ServedWrite (s : State) (rq : Req) (a : Nat) (ss : Session) : Prop where
  running : isRunning s = true
  session : getSes s rq.session.toNat = some ss
  clear : inLine ss = false
  passes : requestFault s ss opRegWrite rq.tag.toNat (le4 a ++ le2 1 ++ zeros 2 ++ le4 0) = none

/-- Commands that may store to tenants' memory or zero it: those that carry data, land the work of an engine, capture or
copy, end a session or a partition, let waiting requests go on, move the time of a pipe, or reset the chip. -/
def mayStoreMemory : Instr → Bool
  | .datagramReceive _ => true
  | .sessionAuth _ _ => true
  | .sessionClose _ _ => true
  | .regWrite _ _ _ _ _ => true
  | .regUpdate _ _ _ _ => true
  | .cmdPortsWrite _ _ => true
  | .heartbeatTimeout _ => true
  | .reclaimTimeout _ => true
  | .forceReclaim _ _ _ => true
  | .release _ => true
  | .tenLimitsWrite _ _ _ => true
  | .memUnmap _ _ _ => true
  | .memWrite _ _ _ _ _ => true
  | .uncorrectableError _ => true
  | .zeroFillDone _ => true
  | .funcDisable _ _ => true
  | .schedulerTick => true
  | .urgentTick => true
  | .commandCommit _ => true
  | .sysCompatWrite _ _ => true
  | .dmaDescriptorStart _ => true
  | .dmaDescriptorDone _ _ => true
  | .haloRowSend _ _ => true
  | .haloSlotRead _ _ => true
  | .fgEnable _ _ _ => true
  | .fgDisable _ _ _ => true
  | .captureComplete _ => true
  | .publishCopyDone _ => true
  | .galliardDecision _ => true
  | .galEnable _ _ _ => true
  | .csiFrameEnd _ _ _ => true
  | .tdmFrame _ _ _ _ => true
  | .snsFeed _ _ => true
  | .decPush _ _ => true
  | .recordDispatch _ => true
  | .laneStart _ => true
  | .decodeFinish _ => true
  | .budgetTimeout _ => true
  | .frameStart _ => true
  | .dspCommitApply _ _ => true
  | .dspStop _ _ => true
  | .teEdge _ _ => true
  | .netPortConfigWrite _ _ _ => true
  | .netWallEnable _ _ => true
  | .processorRestartDone _ => true
  | .sensorSample _ => true
  | .nvrWordStored => true
  | .powerOn _ => true
  | .brownout _ => true
  | .resetAssert => true
  | .resetRelease _ => true
  | .hbmTrained => true
  | .thermalHoldOffEnd => true
  | .rootPllUnlock => true
  | .sysResetReq _ _ => true
  | .resetRequestTimer => true
  | .jtagDebugWrite _ _ => true
  | .jtagReset => true
  | .i3cRegisterWrite _ _ => true
  | .memWriteBacked _ => true
  | _ => false

/-- Commands that may store to a scratchpad or zero it: those that run, place or end work on the cores, let waiting
requests go on, or reset the chip. -/
def mayStorePad : Instr → Bool
  | .datagramReceive _ => true
  | .sessionClose _ _ => true
  | .regWrite _ _ _ _ _ => true
  | .regUpdate _ _ _ _ => true
  | .cmdPortsWrite _ _ => true
  | .reclaimTimeout _ => true
  | .forceReclaim _ _ _ => true
  | .release _ => true
  | .tenLimitsWrite _ _ _ => true
  | .faultResume _ _ _ => true
  | .pageFault _ _ _ _ => true
  | .faultTimeout _ _ => true
  | .uncorrectableError _ => true
  | .funcDisable _ _ => true
  | .schedulerTick => true
  | .urgentTick => true
  | .commandCommit _ => true
  | .sysCompatWrite _ _ => true
  | .dmaDescriptorStart _ => true
  | .dmaDescriptorDone _ _ => true
  | .dlState _ => true
  | .dlTriangles _ => true
  | .dlRects _ => true
  | .dlEnd _ => true
  | .dlNop _ => true
  | .haloRowSend _ _ => true
  | .haloSlotRead _ _ => true
  | .haloTimeout _ _ _ => true
  | .reelEccError _ _ => true
  | .fgEnable _ _ _ => true
  | .fgDisable _ _ _ => true
  | .galEnable _ _ _ => true
  | .streamBandWrite _ => true
  | .streamTimeout _ => true
  | .tileMemoryEcc _ => true
  | .dspCommitApply _ _ => true
  | .dspStop _ _ => true
  | .netPortConfigWrite _ _ _ => true
  | .netWallEnable _ _ => true
  | .processorRestartDone _ => true
  | .watchdogExpiry _ => true
  | .protectionViolation _ => true
  | .sramError _ => true
  | .consistencyCheckFail _ => true
  | .sensorSample _ => true
  | .currentSample _ => true
  | .powerLoopPeriod => true
  | .parkPeriod => true
  | .powerOn _ => true
  | .brownout _ => true
  | .resetAssert => true
  | .resetRelease _ => true
  | .hbmTrained => true
  | .thermalHoldOffEnd => true
  | .rootPllUnlock => true
  | .sysResetReq _ _ => true
  | .resetRequestTimer => true
  | .jtagDebugWrite _ _ => true
  | .jtagReset => true
  | .i3cRegisterWrite _ _ => true
  | .memWriteBacked _ => true
  | .veNop _ _ => true
  | .veFadd _ _ => true
  | .veFsub _ _ => true
  | .veFmul _ _ => true
  | .veFfma _ _ => true
  | .veFmin _ _ => true
  | .veFmax _ _ => true
  | .veFabs _ _ => true
  | .veFneg _ _ => true
  | .veFcopysign _ _ => true
  | .veFeq _ _ => true
  | .veFne _ _ => true
  | .veFlt _ _ => true
  | .veFle _ _ => true
  | .veFunord _ _ => true
  | .veIeq _ _ => true
  | .veIlt _ _ => true
  | .veUlt _ _ => true
  | .veSel _ _ => true
  | .veIadd _ _ => true
  | .veIsub _ _ => true
  | .veImullo _ _ => true
  | .veSmulhi _ _ => true
  | .veUmulhi _ _ => true
  | .veShl _ _ => true
  | .veShr _ _ => true
  | .veSra _ _ => true
  | .veAnd _ _ => true
  | .veOr _ _ => true
  | .veXor _ _ => true
  | .veSmin _ _ => true
  | .veSmax _ _ => true
  | .veUmin _ _ => true
  | .veUmax _ _ => true
  | .veMov _ _ => true
  | .veCvt _ _ => true
  | .veBfi _ _ => true
  | .veBfx _ _ => true
  | .veRcp _ _ => true
  | .veDiv _ _ => true
  | .veSqrt _ _ => true
  | .veRsqrt _ _ => true
  | .veExp2 _ _ => true
  | .veLog2 _ _ => true
  | .veSinpi _ _ => true
  | .veCospi _ _ => true
  | .veExp _ _ => true
  | .veLog _ _ => true
  | .veSigmoid _ _ => true
  | .veTanh _ _ => true
  | .veShuffle _ _ => true
  | .veBcast _ _ => true
  | .veGred _ _ => true
  | .veDred _ _ => true
  | .veLd32 _ _ => true
  | .veLd64 _ _ => true
  | .veLd128 _ _ => true
  | .veSt32 _ _ => true
  | .veSt64 _ _ => true
  | .veSt128 _ _ => true
  | .veAadd _ _ => true
  | .veAsmin _ _ => true
  | .veAsmax _ _ => true
  | .veAand _ _ => true
  | .veAor _ _ => true
  | .veAxor _ _ => true
  | .veAxchg _ _ => true
  | .veAcas _ _ => true
  | .veBraAny _ _ => true
  | .veBraAll _ _ => true
  | .veBarGroup _ _ => true
  | .veBarDispatch _ _ => true
  | .veDmaIssue _ _ => true
  | .veDmaWait _ _ => true
  | .veExit _ _ => true
  | _ => false

/-- Of the network only a Pdelay_Req that waited for the line changed: it took the time of its start with it (R493). With
no port that paces its frames, nothing of it changed and none waits. -/
structure NetKept (s t : State) : Prop where
  rest : { t.net with ports := s.net.ports } = s.net
  ports : ∀ p, { getPort t p with gptp := { (getPort t p).gptp with pdelaySent := (getPort s p).gptp.pdelaySent } } = getPort s p
  free : (∀ p, paced s p = false) → t.net = s.net ∧ t.egress = s.egress

/-- Nothing of the machine differs but what packets of session i write: frames, that session's counters and queues, and
what waits for a reply of it: CMD_PORTS and the 10 ms before a reset. Every other session and register stays. -/
structure SameButReply (s t : State) (i : Nat) : Prop where
  rest : { t with sent := s.sent, egress := s.egress, net := s.net, link := s.link, regs := s.regs, chip := s.chip } = s
  net : NetKept s t
  link : { t.link with sessions := s.link.sessions, portsNext := s.link.portsNext, resetNext := s.link.resetNext } = s.link
  sessions : ∀ j, j ≠ i → getSes t j = getSes s j
  session : ∀ ss, getSes s i = some ss → ∃ u, getSes t i = some u ∧ { u with tx := ss.tx, rx := ss.rx } = ss
  regs : ∀ a, a ≠ 0x10000 → regW t a = regW s a
  chip : { t.chip with resetDue := s.chip.resetDue } = s.chip
  ports : s.link.portsNext = [] → t.regs = s.regs ∧ t.link.portsNext = []
  reset : s.link.resetNext = none → t.chip = s.chip ∧ t.link.resetNext = none

/-! ## Rows of the vector engine -/

/-- Register r of a lane, in the thread storage of the command's core (R228, R229). -/
def padReg (s : State) (x : VeCtx) (l r : Nat) : Nat := leNat (padRead s x.q.inst.core (regAddr x.head x.k l r) 4)

/-- The registers of the group lie in its core's scratchpad (the checks of R231 hold every program to it). -/
def StorageFits (x : VeCtx) : Prop := x.head.storage + (x.k + 1) * 16384 ≤ 2 ^ 22

/-- From s to u only registers changed, and of those only the ones named: all of them read as fn says, and no other byte
of a scratchpad changed. -/
def RegsChange (s u : State) (x : VeCtx) (named : Nat → Nat → Prop) [∀ l r, Decidable (named l r)] (fn : Nat → Nat → Nat) : Prop :=
  u = { s with pad := u.pad } ∧
  (StorageFits x →
    (∀ l r : Nat, l < 64 → r < 64 → padReg u x l r = if named l r then fn l r % 2 ^ 32 else padReg s x l r) ∧
    ∀ k a : Nat, a < 2 ^ 22 →
      (k ≠ x.q.inst.core ∨ ∀ l r : Nat, l < 64 → r < 64 → named l r →
        a < regAddr x.head x.k l r ∨ regAddr x.head x.k l r + 4 ≤ a) →
      padRead u k a 1 = padRead s k a 1)

/-- A lane row of operation op: the instruction that the group stands at runs to the group's next instruction; register
d of every lane in which the guard holds takes the value fn gives for that lane, and every other register, every
predicate and the place of the group among its fill stay. -/
def LaneRow (mk : VeAt → VeFields → Instr) (op : Nat) (fn : State → VeCtx → VeFields → Nat → Nat) : Prop :=
  ∀ (v : VeAt) (f : VeFields) (s : State) (x : VeCtx), veCtx s v op f = some x →
    ∃ u, exec (mk v f) s = .next (veNext u x f x.grp) ∧
      RegsChange s u x (fun l r => l ∈ x.lanes ∧ r = f.d.toNat) fun l _ => fn s x f l

def Row1 (mk : VeAt → VeFields → Instr) (op : Nat) (fn : Nat → Nat) : Prop :=
  LaneRow mk op fun _ x f l => fn (x.a f l)
def Row2 (mk : VeAt → VeFields → Instr) (op : Nat) (fn : Nat → Nat → Nat) : Prop :=
  LaneRow mk op fun _ x f l => fn (x.a f l) (x.b f l)

/-- A compare row: predicate d of every lane in which the guard holds takes the comparison's result; every other
predicate and every register stay. Predicate 0 reads true whatever is written. -/
def CompareRow (mk : VeAt → VeFields → Instr) (op : Nat) (fn : Nat → Nat → Bool) : Prop :=
  ∀ (v : VeAt) (f : VeFields) (s : State) (x : VeCtx), veCtx s v op f = some x →
    ∃ g, exec (mk v f) s = .next (veNext s x f g) ∧ g = { x.grp with preds := g.preds } ∧
      ∀ l p : Nat, p < 8 → f.d.toNat < 8 →
        pred g l p = if l ∈ x.lanes ∧ p = f.d.toNat ∧ p ≠ 0 then fn (x.a f l) (x.b f l) else pred x.grp l p

/-- A scratchpad load of n bytes into consecutive registers. -/
def LoadRow (mk : VeAt → VeFields → Instr) (op n : Nat) : Prop :=
  ∀ (v : VeAt) (f : VeFields) (s : State) (x : VeCtx), veCtx s v op f = some x →
    (lanesIn x f n = true →
      ∃ u, exec (mk v f) s = .next (veNext u x f x.grp) ∧
        RegsChange s u x (fun l r => l ∈ x.lanes ∧ f.d.toNat ≤ r ∧ r < f.d.toNat + n / 4)
          fun l r => leNat (padRead s v.core.val (laneAddr x f n l + 4 * (r - f.d.toNat)) 4)) ∧
    (lanesIn x f n = false → exec (mk v f) s = .next (padViolation s x.q))

/-- A scratchpad store of n bytes: lanes store in ascending order, so the bytes of each lane stand that no later lane
stores over; bytes that no lane stores to stay, and so does every byte of every tenant's memory. What a register beyond
63 stores is a free value (the model's choice, log entry 7). -/
def StoreRow (mk : VeAt → VeFields → Instr) (op n : Nat) : Prop :=
  ∀ (v : VeAt) (f : VeFields) (s : State) (x : VeCtx), veCtx s v op f = some x →
    (lanesIn x f n = true → ∃ u, exec (mk v f) s = .next (veNext u x f x.grp) ∧ u = { s with pad := u.pad } ∧
      (∀ k a : Nat, a < 2 ^ 22 →
        (k ≠ v.core.val ∨ ∀ l ∈ x.lanes, a < laneAddr x f n l % 2 ^ 22 ∨ laneAddr x f n l % 2 ^ 22 + n ≤ a) →
        padRead u k a 1 = padRead s k a 1) ∧
      (∀ l ∈ x.lanes, (∀ m ∈ x.lanes, l < m → laneAddr x f n m % 2 ^ 22 ≠ laneAddr x f n l % 2 ^ 22) →
        padRead u v.core.val (laneAddr x f n l) n = ((List.range (n / 4)).map fun k => le4 (storeWord x f l k)).flatten)) ∧
    (lanesIn x f n = false → exec (mk v f) s = .next (padViolation s x.q))

/-- A word of a scratchpad as the atomics of some lanes leave it one after the other (R235). -/
def atomicWord (x : VeCtx) (f : VeFields) (fn : Nat → Nat → Nat → Nat) (a word : Nat) (lanes : List Nat) : Nat :=
  lanes.foldl (fun w l => if laneAddr x f 4 l % 2 ^ 22 = a then fn w (x.b f l) (x.c f l) % 2 ^ 32 else w) word

/-- An atomic: the lanes act in ascending order on 32-bit words, from the word before to what fn gives of it and the
operands b and c; then register d of each lane takes the word that the lane found. -/
def AtomicRow (mk : VeAt → VeFields → Instr) (op : Nat) (fn : Nat → Nat → Nat → Nat) : Prop :=
  ∀ (v : VeAt) (f : VeFields) (s : State) (x : VeCtx), veCtx s v op f = some x →
    (lanesIn x f 4 = true → ∃ (u w : State) (found : Nat → Nat), exec (mk v f) s = .next (veNext u x f x.grp) ∧ w = { s with pad := w.pad } ∧
      RegsChange w u x (fun l r => l ∈ x.lanes ∧ r = f.d.toNat) (fun l _ => found l) ∧
      (∀ k a : Nat, a < 2 ^ 22 →
        (k ≠ v.core.val ∨ ∀ l ∈ x.lanes, a < laneAddr x f 4 l % 2 ^ 22 ∨ laneAddr x f 4 l % 2 ^ 22 + 4 ≤ a) →
        padRead w k a 1 = padRead s k a 1) ∧
      (∀ l ∈ x.lanes,
        let a := laneAddr x f 4 l % 2 ^ 22
        let before := leNat (padRead s v.core.val a 4)
        found l = atomicWord x f fn a before (x.lanes.filter fun m => m < l) ∧
        padRead w v.core.val a 4 = le4 (atomicWord x f fn a before x.lanes))) ∧
    (lanesIn x f 4 = false → exec (mk v f) s = .next (padViolation s x.q))

/-- The raster front end of a running command stands before a well-formed packet of type ty (R332, R338): its header and
body lie in the display list, may be read, and pass the checks of the packet's type. -/
structure PacketAhead (s : State) (ref : CmdRef) (ty size : Nat) (q : Placed) (body : List Byte) : Prop where
  running  : isRunning s = true
  found    : findInst s ref = some q
  runs     : isRun q.inst = true
  engine   : q.cmd.spec.engine = 5
  open_    : q.inst.ras.ended = false
  within   : q.inst.ras.pos < (rasHeadOf s q).dlBytes
  header   : firstStop s q [{ va := (rasHeadOf s q).dl + q.inst.ras.pos,
                              n := min 8 ((rasHeadOf s q).dlBytes - q.inst.ras.pos), write := false }] = none
  kind     : leAt (hbmRead s q.loop.tenant ((rasHeadOf s q).dl + q.inst.ras.pos) 8) 0 2 = ty
  flags    : leAt (hbmRead s q.loop.tenant ((rasHeadOf s q).dl + q.inst.ras.pos) 8) 2 2 = 0
  length   : leAt (hbmRead s q.loop.tenant ((rasHeadOf s q).dl + q.inst.ras.pos) 8) 4 4 = size
  least    : 8 ≤ size
  whole    : size % 8 = 0
  fits     : q.inst.ras.pos + size ≤ (rasHeadOf s q).dlBytes
  readable : firstStop s q [{ va := (rasHeadOf s q).dl + q.inst.ras.pos, n := size, write := false }] = none
  content  : body = hbmRead s q.loop.tenant ((rasHeadOf s q).dl + q.inst.ras.pos + 8) (size - 8)
  passes   : packetOk (rasHeadOf s q) q.inst.ras.state q.inst.ras.pos ty size body = true

/-- The front end goes on behind a packet, while its command still runs. -/
def behindPacket (u : State) (ref : CmdRef) (place : Nat) : State :=
  modInst u ref fun i => if isRun i then { i with ras := { i.ras with pos := place } } else i

/-- What the host is sent at once: the port's link is up and lets every frame go as it comes (no gate list, shaper or
pre-emption, R486 to R491), and the port may use its IPv4 address (R482). -/
abbrev PortFree (s : State) (p : Nat) (v6 : Bool) : Prop :=
  (getPort s p).link = true ∧ paced s p = false ∧ (v6 = true ∨ ip4Up s p = true)

/-- A packet of a session has been received in sequence, with none buffered behind it and no burst full: the session's
return address and its tenant's heartbeat are new, and the receipt awaits its acknowledgement (R53, R71, R75). -/
def received (s : State) (d : Datagram) (id : Nat) (ss : Session) : State :=
  setSes (modTen s ss.tenant fun x => { x with lastAuth := some s.now }) id { ss with
    eth := d.frame.eth.val
    src := d.src
    rx := { ss.rx with
      next := ss.rx.next + 1
      unacked := ss.rx.unacked + 1
      ackDue := some (min (ss.rx.ackDue.getD (s.now + 80000)) (s.now + 80000)) } }

/-- A request that is answered at once and completes later (R79), and the machine when it has been answered so. -/
def asyncOf (op : Nat) (rq : Req) : Async := { session := rq.session.toNat, op := op, tag := rq.tag.toNat }
def answered (s : State) (op : Nat) (rq : Req) (t status : Nat) (p : List Byte) : State :=
  reply (modTen s t fun x => { x with async := x.async ++ [asyncOf op rq] }) op rq status 0 p

end Sys2Proof
end

