-- ==== Sys2Proof/WellFormed.lean ====
section
/-! DEFINITION. WellFormed.lean: which command terms something could send. A list operand has the
length that the rule of its row fixes, and a count operand agrees with the list it counts. A term
that fails a check is no command of the part: a host can send it only as a packet of the wrong
length, which check 10 of R65 refuses. -/

namespace Sys2Proof

/-- The longest UDP payload of one datagram over IPv4 (16-bit lengths of IP and UDP). -/
def maxDatagram : Nat := 65507

/-- The largest payload that any session grants (R52). -/
def maxPayloadLimit : Nat := 8192

/-- The operands have the lengths that the rule of the row fixes. -/
def Instr.wellFormed : Instr → Bool
  | .datagramReceive d => decide (d.bytes.length ≤ maxDatagram)
  | .sessionOpen _ a => decide (a.ephKey.length = 32 ∧ a.nonce.length = 16)
  | .sessionAuth _ a => decide (a.credential.length = 32 ∧ a.signature.length = 64)
  | .echo _ p => decide (p.length ≤ maxPayloadLimit)
  | .regWrite _ _ count _ values => decide (values.length = count.toNat)
  | .regReadList _ count _ addresses => decide (addresses.length = count.toNat)
  | .memWrite _ _ _ _ data => decide (data.length ≤ maxPayloadLimit)
  | .csiLongPacket _ _ _ _ wordCount _ data => decide (data.length = wordCount.toNat)
  | .tdmFrame _ _ samples _ => decide (samples.length ≤ 16)
  | .snsFeed _ a => decide (a.data.length ≤ maxPayloadLimit)
  | .lineStart _ fetch => decide (fetch.length = 4)
  | .dspAux _ a => decide (a.data.length ≤ maxPayloadLimit)
  | .auxDone _ (.acknowledged data) => decide (data.length ≤ maxPayloadLimit)
  | .dspDsiCmd _ a => decide (a.data.length ≤ maxPayloadLimit)
  | .dsiCmdSend _ (.acknowledged data) => decide (data.length ≤ maxPayloadLimit)
  | .netGclWrite _ a => decide (a.entries.length = a.count.toNat)
  | .netStreamTable _ a => decide (a.entry.length = 16)
  | .wallKey _ key => decide (key.length = 32)
  | .wallReady d => decide (d.bytes.length ≤ maxDatagram)
  | .wallAgree d => decide (d.bytes.length ≤ maxDatagram)
  | .wallClaim d => decide (d.bytes.length ≤ maxDatagram)
  | .fwLoad _ _ _ data => decide (data.length ≤ maxPayloadLimit)
  | .sensorSample r => decide (r.core.length = 128 ∧ r.uncore.length = 24)
  | .currentSample r => decide (r.rails.length = 8)
  | .secAttest _ challenge => decide (challenge.length = 32)
  | .ownerChange _ key signature => decide (key.length = 32 ∧ signature.length = 64)
  | _ => true

end Sys2Proof
end

