-- ==== Sys2Proof/Certificates/Slice0/Obligations.lean ====
section
/-! DEFINITION. Certificates/Slice0/Obligations.lean: what is to be proved of the model. -/

open Sys2Proof Sys2Proof.Machine

/-! ## The queue, idling, reset and the stops -/

/-- One step takes the command at the front of the queue and runs it on the rest. -/
def Obligations.StepTakesFront : Prop :=
  ∀ (c : Instr) (r : List Instr) (s : State), s.pending = c :: r → step s = exec c { s with pending := r }

/-- With no command waiting, one PERI cycle of 2.5 ns passes (the model's choice, log entry 1; R497 gives the
advance of a time base), and frames that wait at the ports of a running chip leave as their time comes; where none waits,
nothing else changes. -/
def Obligations.IdleStepPassesOneCycle : Prop :=
  ∀ s : State, s.pending = [] →
    (isRunning s = false → step s = .next { s with now := s.now + 1 }) ∧
    (isRunning s = true →
      let u := { s with
        now := s.now + 1
        net := { s.net with bases := (List.range 4).map fun b => (b, advance (getBase s b)) } }
      step s = .next (drainPorts u) ∧ ((∀ p, (getEgress s p).queue = []) → step s = .next u)) ∧
    (∀ b : TimeBase, b.y = 0 → advance b = { b with t := frAdd b.t (fr 5 2) })

/-- What reset leaves: nothing queued, every register word at its reset value, tenant 0 CONFIGURED and every other
tenant UNCONFIGURED, no session, every byte of memory 0, cause power-on. That a scratchpad byte reads 0 is the model's
choice (log entry 5), and so is the state of RESET_N (log entry 4). -/
def Obligations.ResetLeaves : Prop :=
  State.reset.pending = [] ∧ State.reset.chip.phase = .inReset ∧ State.reset.chip.cause = 1 ∧
  (∀ a : Nat, regW State.reset a = resetWord a % 2 ^ 32) ∧
  (getTen State.reset 0).state = .configured ∧
  (∀ t : Nat, t ≠ 0 → (getTen State.reset t).state = .unconfigured) ∧
  (∀ i : Nat, getSes State.reset i = none) ∧
  (∀ t va n : Nat, hbmRead State.reset t va n = List.replicate n 0) ∧
  (∀ c a n : Nat, padRead State.reset c a n = List.replicate n 0)

/-- Memory is in its canonical form at reset. -/
def Obligations.MemoryWfAtReset : Prop :=  MemoryWf State.reset

/-- Every step keeps memory in its canonical form, from every state. -/
def Obligations.StepKeepsMemoryWf : Prop :=
  ∀ s t : State, MemoryWf s → step s = .next t → MemoryWf t

/-- No command touches the queue: a step takes exactly the command at its front. -/
def Obligations.ExecKeepsQueue : Prop :=
  ∀ (c : Instr) (s t : State), exec c s = .next t → t.pending = s.pending

/-- Every command but those that mayStoreMemory names leaves every byte of every tenant, and every command but those that
mayStorePad names leaves every byte of every scratchpad. -/
def Obligations.OnlyStoresChangeMemory : Prop :=
  ∀ (c : Instr) (s t : State), exec c s = .next t →
    (mayStoreMemory c = false → ∀ u va n : Nat, hbmRead t u va n = hbmRead s u va n) ∧
    (mayStorePad c = false → ∀ k a n : Nat, padRead t k a n = padRead s k a n)

/-- No command is refused, and every command answers a next state but BROWNOUT while a rail is out of tolerance and has
crossed no threshold, whose effect R598 leaves undefined (log entry 54). -/
def Obligations.OnlyBrownoutStops : Prop :=
  ∀ (c : Instr) (s : State),
    (∃ t, exec c s = .next t) ∨
    (exec c s = .fault .supplyUndefined ∧ ∃ e, c = .brownout e ∧
      (e = .outOfTolerance ∨ ∃ mv ns, e = .monitorLow mv ns ∧ (700 ≤ mv ∨ ns < 1000) ∧ (mv < 728 ∨ 772 < mv)))

/-! ## Requests in general -/

/-- Requests with an opcode of their own: on a chip that does not run they have no effect; those of a session that
does not exist are discarded and counted in CMD_DISCARD_SESSION (R64); those behind a waiting request wait (R78); those
that fail a check are refused with that check's status and detail (R65); those whose control processor restarts wait (R542).
Each restarts the heartbeat of its session's tenant (R120). The order among these outcomes is the model's reading (log entry
11). -/
def Obligations.RequestsAreChecked : Prop :=
  ∀ (i : Instr) (s : State) (op : Nat) (p : List Byte) (rq : Req),
    requestBytes i = some (op, p) → reqOf i = some rq →
    let u := hear rq s
    (isRunning s = false → exec i s = .next s) ∧
    (isRunning s = true → getSes s rq.session.toNat = none → exec i s = .next (incReg s aDiscSession 1 cap32)) ∧
    (∀ ss, isRunning s = true → getSes s rq.session.toNat = some ss →
      u = modTen s ss.tenant (fun x => { x with lastAuth := some s.now }) ∧
      (inLine ss = true → exec i s = .next (stall u rq.session.toNat ss op rq.tag.toNat p)) ∧
      (∀ e, inLine ss = false → requestFault u ss op rq.tag.toNat p = some e → exec i s = .next (refuse u op rq e)) ∧
      (inLine ss = false → requestFault u ss op rq.tag.toNat p = none → mustWait u op = true →
        exec i s = .next (stall u rq.session.toNat ss op rq.tag.toNat p)))

/-- A request's payload spells that request: no operand is lost between a command and its bytes. -/
def Obligations.RequestRoundTrip : Prop :=
  ∀ (i : Instr) (op : Nat) (p : List Byte) (rq : Req),
    i.wellFormed = true → requestBytes i = some (op, p) → reqOf i = some rq → requestOf op rq p = some i

/-- A reply goes out at once while the send window has room: it carries the request's opcode and tag, the next sequence
number and the cumulative acknowledgement, waits for its own acknowledgement, and changes nothing else of the machine but
the session's counters and queues, and what waits for this reply (CMD_PORTS, the 10 ms before a reset): every other session
and register stays, and of the network all but the start of a Pdelay_Req that waited for the line. A port whose link is up
and that lets frames go as they come sends it at once: sealed under the session's key, from the command port to the source
of the host's last packet. With the window of 256 full it waits. -/
def Obligations.RepliesGoOut : Prop :=
  ∀ (s : State) (op status detail : Nat) (rq : Req) (p : List Byte) (ss : Session),
    getSes s rq.session.toNat = some ss →
    SameButReply s (reply s op rq status detail p) rq.session.toNat ∧
    (ss.tx.waiting = [] → ss.tx.unacked.length < 256 →
      let x : TxPacket :=
        { seq := ss.tx.next, ack := ss.rx.next - 1,
          msg := { op := op, flags := fgReply, tag := rq.tag.toNat, status := status, detail := detail, payload := p } }
      (PortFree s ss.eth ss.src.v6 →
        (reply s op rq status detail p).sent = .packet rq.session.toNat x (unicast s ss.eth ss.src
          (sealed ss.keyOut (packetNonce rq.session.toNat x.seq true false)
            (wireHeader 3 0 op ss.tenant fgReply rq.session.toNat x.seq x.ack p.length rq.tag.toNat status detail) p)) :: s.sent) ∧
      ∃ u, getSes (reply s op rq status detail p) rq.session.toNat = some u ∧ u.tx.next = ss.tx.next + 1 ∧
        u.tx.unacked.length = ss.tx.unacked.length + 1 ∧ u.rx.ackDue = none ∧ u.rx.unacked = 0) ∧
    (256 ≤ ss.tx.unacked.length →
      (reply s op rq status detail p).sent = s.sent ∧
      ∃ u, getSes (reply s op rq status detail p) rq.session.toNat = some u ∧ u.tx.next = ss.tx.next ∧
        u.tx.waiting.length = ss.tx.waiting.length + 1)

/-! ## The session group -/

/-- ECHO takes any payload of 0 bytes to max_payload and returns it unchanged with status OK (R88): whatever the payload
within that length, a request that waits behind none, under a tag that is not 0 and not held, is answered so. -/
def Obligations.EchoAnswersPayload : Prop :=
  ∀ (rq : Req) (p : List Byte) (s₀ : State) (ss : Session),
    let s := hear rq s₀
    isRunning s = true → getSes s rq.session.toNat = some ss → inLine ss = false → mustWait s opEcho = false →
    p.length ≤ ss.maxPayload → rq.tag ≠ 0 → tagHeld s ss rq.tag.toNat = false →
    exec (.echo rq p) s₀ = .next (reply s opEcho rq stOk 0 p)

/-- HEARTBEAT, DEVICE_INFO and COMPLETION_QUERY answer the fields of their rules and change nothing but the session. -/
def Obligations.SessionGroupAnswers : Prop :=
  (∀ (rq : Req) (v : DWord) (s₀ : State) (ss : Session),
    let s := hear rq s₀
    Served s (.heartbeat rq v) opHeartbeat rq ss →
    exec (.heartbeat rq v) s₀ = .next (replyOk s opHeartbeat rq
      (b64 v ++ leBytes 6 (tbNs s 0 / 1000000000 % 2 ^ 48) ++ zeros 2 ++ leBytes 4 (tbNs s 0 % 2 ^ 32)))) ∧
  (∀ (rq : Req) (s₀ : State) (ss : Session),
    let s := hear rq s₀
    Served s (.deviceInfo rq) opDeviceInfo rq ss →
    exec (.deviceInfo rq) s₀ = .next (replyOk s opDeviceInfo rq
      (leBytes 1 3 ++ leBytes 1 (fwMinor s) ++ zeros 2 ++ leBytes 1 s.fw.major ++ leBytes 1 s.fw.minor
        ++ leBytes 2 s.fw.build ++ leBytes 4 Config.siliconRevision.toNat ++ leBytes 2 (onlineCores s)
        ++ leBytes 1 ss.tenant ++ zeros 1 ++ leBytes 2 ss.maxPayload ++ leBytes 2 4096 ++ zeros 4 ++ partNumber))) ∧
  (∀ (rq : Req) (about : Word) (s₀ : State) (ss : Session),
    let s := hear rq s₀
    Served s (.completionQuery rq about) opCompletionQuery rq ss →
    exec (.completionQuery rq about) s₀ = .next (replyOk s opCompletionQuery rq
      (b32 about ++ leBytes 1 (if about = rq.tag then 1 else (tagState s ss about.toNat).1) ++ zeros 1
        ++ leBytes 2 (if about = rq.tag then 0 else (tagState s ss about.toNat).2))))

/-- SESSION_CLOSE is answered, then the session ends: the tenant is orphaned, or reclaimed where TEN_SELF.release asked for
it. Behind a full send window the answer waits, and the session with it.
A session that ends is gone, its reason is recorded, its waits are cancelled, and the completions that the host has
not acknowledged stay with the tenant (R75, R115, R121). -/
def Obligations.SessionCloseEnds : Prop :=
  (∀ (rq : Req) (reason : Word) (s₀ : State) (ss : Session),
    let s := hear rq s₀
    Served s (.sessionClose rq reason) opSessionClose rq ss →
    let u := replyOk s opSessionClose rq []
    let s1 := modTen (dropSession u ss.tenant (closeReason reason.toNat)) ss.tenant fun x =>
      { x with closeValue := reason.toNat }
    (ss.tx.waiting = [] → ss.tx.unacked.length < 256 → exec (.sessionClose rq reason) s₀ =
      .next (if (getTen s1 ss.tenant).release then startReclaim s1 ss.tenant
        else ctxOrphaned (setTenState s1 ss.tenant .orphaned) ss.tenant)) ∧
    (∀ v, getSes u rq.session.toNat = some v → v.tx.waiting ≠ [] →
      exec (.sessionClose rq reason) s₀ = .next (setSes u rq.session.toNat { v with closing := some reason.toNat }))) ∧
  (∀ (s : State) (t i reason : Nat) (ss : Session), (getTen s t).session = some i → getSes s i = some ss →
     getSes (dropSession s t reason) i = none ∧
     (getTen (dropSession s t reason) t).session = none ∧
     (getTen (dropSession s t reason) t).reason = reason ∧
     (getTen (dropSession s t reason) t).held = ((getTen s t).held ++ keptCompletions ss).take 4096 ∧
     (∀ a ∈ (getTen (dropSession s t reason) t).async, ¬ (a.op = opRegWait ∧ a.session = i)) ∧
     (∀ u, u ≠ t → getTen (dropSession s t reason) u = getTen s u) ∧
     (∀ j, j ≠ i → getSes (dropSession s t reason) j = getSes s j))

/-! ## The stream of a session, handshakes and tenants -/

/-- ACK_DELAY_TIMEOUT sends an ack-only packet, sealed under the control counter, and RETRANSMIT_TIMEOUT sends the oldest
unacknowledged packet again byte for byte with a timer that doubles up to 64 ms; both go to the source of the host's last
packet. BEACON_TIMER sends the signed beacon of a port to its groups over IPv4 and IPv6 as CMD_BEACON asks, under the next
sequence number, and changes nothing else but the beacon's own clock. That both copies carry one sequence number, and that it
advances where CMD_BEACON asks for neither, is the model's choice (log entry 17; R101 gives the number alone). -/
def Obligations.TimersSend : Prop :=
  ((∀ (id : Word) (s : State) (ss : Session) (d : Nat), isRunning s = true → getSes s id.toNat = some ss →
     ss.rx.ackDue = some d → d ≤ s.now →
     exec (.ackDelayTimeout id) s = .next (out (setSes s id.toNat { ss with
         tx := { ss.tx with ctl := ss.tx.ctl + 1 }
         rx := { ss.rx with unacked := 0, ackDue := none } })
       (.ackOnly id.toNat ss.tx.ctl (ss.rx.next - 1) (unicast s ss.eth ss.src
         (sealed ss.keyOut (packetNonce id.toNat ss.tx.ctl true true)
           (wireHeader 3 0 0 ss.tenant fgAckOnly id.toNat ss.tx.ctl (ss.rx.next - 1) 0 0 0 0) []))))) ∧
   (∀ (id : Word) (s : State) (ss : Session) (d : Nat) (p : TxPacket) (r : List TxPacket), isRunning s = true →
     getSes s id.toNat = some ss → ss.tx.rtoDue = some d → ss.tx.unacked = p :: r → d ≤ s.now →
     exec (.retransmitTimeout id) s = .next (out (setSes s id.toNat { ss with
         tx := { ss.tx with
           rtoStep := min (ss.tx.rtoStep + 1) 5
           rtoDue := some (s.now + 800000 * 2 ^ min (ss.tx.rtoStep + 1) 5) } })
       (.packet id.toNat p (unicast s ss.eth ss.src (packetBytes id.toNat ss p)))))) ∧
  (∀ (p : Fin 4) (s : State), isRunning s = true → (getPort s p).link = true → restarting s 1 = false →
     s.link.beaconDue.getD p 0 ≤ s.now → (∀ t, s.link.beaconLast.getD p none = some t → t + 40000000 ≤ s.now) →
     exec (.beaconTimer p) s = .next (sendBeacon s p) ∧
     (let seq := (s.link.beaconSeq.getD p 0 + 1) % 2 ^ 32
      let b := beaconBytes s p seq ++ signIdentity (beaconBytes s p seq)
      (PortFree s p false → (sendBeacon s p).sent =
         (if rField s aCmdBeacon 31 31 = 1 then [Output.beacon (beaconWire s p true b)] else []) ++
         (if rField s aCmdBeacon 30 30 = 1 then [Output.beacon (beaconWire s p false b)] else []) ++ s.sent) ∧
      (sendBeacon s p).link.beaconSeq = s.link.beaconSeq.set p seq) ∧
     NetKept s (sendBeacon s p) ∧
     { sendBeacon s p with sent := s.sent, egress := s.egress, net := s.net, link := s.link } = s ∧
     { (sendBeacon s p).link with beaconSeq := s.link.beaconSeq, beaconLast := s.link.beaconLast
                                  beaconDue := s.link.beaconDue, beaconBody := s.link.beaconBody } = s.link)

/-- SESSION_OPEN, where no check refuses it, answers in clear with the chip's ephemeral key, nonce and identity under a
signature, and keeps a half-open session for 1 s, or is refused with KEY_INVALID where the shared secret comes out zero;
SESSION_AUTH, where no row of R109 refuses it, opens the session under the derived keys, and answers; where it enrols the
owner's credential (R578), its nine words join the queue of the bank first, and the answer waits for them (how it waits is the
model's reading, log entry 15). -/
def Obligations.HandshakeOpensSession : Prop :=
  (∀ (h : Handshake) (a : SessionOpenArgs) (s : State),
    isRunning s = true → sourceBlocked s h.src.ip = false → keptAnswer s h opSessionOpen (openPayload a) = none →
    restarting s 1 = false → s.link.enrolling = none → h.major.toNat = 3 → h.tag ≠ 0 → a.reserved = 0 → 1400 ≤ a.maxPayload.toNat →
    a.maxPayload.toNat ≤ 8192 → s.sec.entropyFail = false → (s.link.half.filter (halfLive s)).length < 32 →
    let useless := (x25519 (fit 32 (Config.randomBytes s.fresh)) (fit 32 a.ephKey)).all fun b => decide (b = 0)
    (useless = false → ∃ t x sig, exec (.sessionOpen h a) s = .next t ∧ t.link.half = s.link.half ++ [x] ∧
      x.ip = h.src.ip ∧ x.minor = min h.minor.toNat (fwMinor s) ∧ x.maxPayload = a.maxPayload.toNat ∧
      x.due = s.now + 400000000 ∧ t.fresh = s.fresh + 3 ∧
      (let body := leBytes 4 x.id ++ leBytes 1 x.minor ++ zeros 1 ++ b16 a.maxPayload
         ++ x25519 (fit 32 (Config.randomBytes s.fresh)) x25519Base ++ fit 16 (Config.randomBytes (s.fresh + 1)) ++ identityPublic
       (PortFree s h.eth h.src.v6 → t.sent = .handshake (unicast s h.eth h.src (clearPacket
          (answerHeader h opSessionOpen 0 (body ++ sig).length stOk 0) (body ++ sig))) :: s.sent)) ∧
      t.tenants = s.tenants ∧ t.link.sessions = s.link.sessions ∧ t.regs = s.regs) ∧
    (useless = true → exec (.sessionOpen h a) s =
      .next (draw (answer s h opSessionOpen (openPayload a) 0 stBadParam dtKeyInvalid [])))) ∧
  (∀ (h : Handshake) (a : SessionAuthArgs) (s : State) (x : HalfOpen),
    isRunning s = true → sourceBlocked s h.src.ip = false → keptAnswer s h opSessionAuth (authPayload a) = none →
    restarting s 1 = false → s.link.enrolling = none → h.major.toNat = 3 → h.tag ≠ 0 → a.reserved = 0 →
    a.tenant.toNat ≤ 15 → authFault s h a = none → findHalf s a.session.toNat = some x →
    (enrols s a.tenant.toNat = true → exec (.sessionAuth h a) s = .next (nvrEnqueue { s with link := { s.link with
        half := s.link.half.filter fun y => y.id ≠ x.id
        enrolling := some { shake := h, args := a, half := x, job := s.nvr.nextJob } } }
      0 noRequest 0 (ownerQueue (fit 32 a.credential)))) ∧
    (enrols s a.tenant.toNat = false → exec (.sessionAuth h a) s = .next (enterSession s h a x)) ∧
    ((getTen s a.tenant.toNat).state = .configured → (getTen s a.tenant.toNat).held = [] →
      enrols s a.tenant.toNat = false → bit (regW s aTrace) 13 = false → bit (regW s aTrace) 12 = false →
      ∃ t ss, exec (.sessionAuth h a) s = .next t ∧ getSes t x.id = some ss ∧ ss.tenant = a.tenant.toNat ∧
        ss.maxPayload = x.maxPayload ∧ ss.eth = h.eth.val ∧ ss.src = h.src ∧
        ss.keyIn ++ ss.keyOut = sessionKeys x (x.transcript ++ requestHeader h opSessionAuth 104 ++ authHead a) ∧
        (getTen t a.tenant.toNat).session = some x.id ∧
        (getTen t a.tenant.toNat).state = .active ∧ (getTen t a.tenant.toNat).lastAuth = some s.now ∧
        (PortFree s h.eth h.src.v6 → t.sent = .handshake (unicast s h.eth h.src (clearPacket
          (answerHeader h opSessionAuth a.tenant.toNat 16 stOk 0)
          (leBytes 4 x.id ++ leBytes 1 a.tenant.toNat ++ leBytes 1 0 ++ zeros 2 ++ leBytes 4 0
            ++ leBytes 4 (tenStateWord s a.tenant.toNat)))) :: s.sent) ∧
        (∀ u, u ≠ a.tenant.toNat → getTen t u = getTen s u)))

/-- The clocks of sessions and tenants: a half-open session lives 1 s, a blocked source is heard again, and a tenant
goes from ACTIVE to ORPHANED, FALLBACK and RECLAIMING as its timeouts pass, and back to CONFIGURED or UNCONFIGURED. That
all of the reclaim happens at its start is the model's reading (log entry 16). -/
def Obligations.TenantTimers : Prop :=
  (∀ (id : Word) (s : State), isRunning s = true → exec (.halfOpenTimeout id) s = .next { s with
    link := { s.link with half := s.link.half.filter fun x => x.id ≠ id.toNat || decide (s.now < x.due) } }) ∧
  (∀ (ip : BitVec 128) (s : State), isRunning s = true → exec (.authBlockExpiry ip) s = .next { s with
    link := { s.link with blocked := s.link.blocked.filter fun b => b.1 ≠ ip || decide (s.now < b.2) } }) ∧
  (∀ (t : Fin 16) (s : State), isRunning s = true → (getTen s t).state = .active →
    (getTen s t).lastAuth.getD 0 + msTicks * rField s (aTen t 0x14) 15 0 ≤ s.now →
    exec (.heartbeatTimeout t) s = .next (ctxOrphaned (setTenState (dropSession s t 2) t .orphaned) t)) ∧
  (∀ (t : Fin 16) (s : State), isRunning s = true → (getTen s t).state = .orphaned →
    (getTen s t).lastAuth.getD 0 + secTicks * rField s (aTen t 0x18) 15 0 ≤ s.now →
    exec (.orphanTimeout t) s = .next (setTenState s t .fallback)) ∧
  (∀ (t : Fin 16) (s : State), isRunning s = true → t ≠ 0 →
    (getTen s t).state = .orphaned ∨ (getTen s t).state = .fallback →
    (getTen s t).lastAuth.getD 0 + secTicks * rField s (aTen t 0x18) 31 16 ≤ s.now →
    exec (.reclaimTimeout t) s = .next (startReclaim s t)) ∧
  (∀ (t : Fin 16) (s : State), isRunning s = true → (getTen s t).state = .reclaiming →
    exec (.reclaimComplete t) s = .next (setTenState (modTen s t fun x => { x with reclaimDue := none }) t
      (if tenEnabled s t then .configured else .unconfigured))) ∧
  (∀ (s : State) (t : Nat) (st : TenState), (getTen (setTenState s t st) t).state = st ∧
    (∀ u, u ≠ t → getTen (setTenState s t st) u = getTen s u))

/-- Reclaim zeroes every byte of the tenant's memory and leaves the other tenants' bytes (that it does so at its start is the
model's reading, log entry 16). -/
def Obligations.ReclaimZeroesMemory : Prop :=
  ∀ (s : State) (t : Nat),
    (∀ va n : Nat, va % 2 ^ 48 + n ≤ 2 ^ 48 → hbmRead (startReclaim s t) t va n = List.replicate n 0) ∧
    (∀ u va n : Nat, u ≠ t → va % 2 ^ 48 + n ≤ 2 ^ 48 → hbmRead (startReclaim s t) u va n = hbmRead s u va n)

/-! ## Registers -/

/-- REG_READ and REG_READ_LIST answer the words of readable registers in order. -/
def Obligations.RegisterReads : Prop :=
  (∀ (rq : Req) (a : Word) (n : Half) (s₀ : State) (ss : Session),
    let s := hear rq s₀
    Served s (.regRead rq a n 0) opRegRead rq ss →
    1 ≤ n.toNat → n.toNat ≤ 256 →
    firstReadFault s ss.tenant ((List.range n.toNat).map fun k => a.toNat + 4 * k) = none →
    exec (.regRead rq a n 0) s₀ = .next (replyOk s opRegRead rq (leBytes 4 a.toNat ++ leBytes 2 n.toNat ++ leBytes 2 0 ++
      ((List.range n.toNat).map fun k => leBytes 4 ((readWord s ss.tenant (a.toNat + 4 * k)).getD 0)).flatten))) ∧
  (∀ (rq : Req) (n : Half) (as : List Word) (s₀ : State) (ss : Session),
    let s := hear rq s₀
    Served s (.regReadList rq n 0 as) opRegReadList rq ss → 1 ≤ n.toNat → n.toNat ≤ 128 →
    firstReadFault s ss.tenant (as.map fun a => a.toNat) = none →
    exec (.regReadList rq n 0 as) s₀ = .next (replyOk s opRegReadList rq (leBytes 2 n.toNat ++ leBytes 2 0 ++
      (as.map fun a => leBytes 4 ((readWord s ss.tenant a.toNat).getD 0)).flatten)))

/-- REG_WRITE and REG_UPDATE, where the checks of R94 pass, write the words in address order and answer; a REG_WRITE that
touches an RWN field is answered ACCEPTED and its words join the queue of the nonvolatile bank; a count outside 1 to 256 draws
COUNT_RANGE and an address that is no multiple of 4 UNALIGNED_ADDRESS, at index 0 (that the count is tested before the
alignment is the model's choice, log entry 18); a refused REG_WRITE changes nothing but the session that carries its
answer. -/
def Obligations.RegisterWrites : Prop :=
  (∀ (rq : Req) (a : Word) (n : Half) (vs : List Word) (s₀ : State) (ss : Session),
    let s := hear rq s₀
    Served s (.regWrite rq a n 0 vs) opRegWrite rq ss →
    let ws := writesOf a.toNat (vs.map fun v => v.toNat)
    let head (index : Nat) := leBytes 4 a.toNat ++ leBytes 2 n.toNat ++ leBytes 2 index
    (1 ≤ n.toNat → n.toNat ≤ 256 → a.toNat % 4 = 0 → writeFault s ss.tenant .packet ws = none →
      ((ws.any fun w => isRwn w.1) = false →
        exec (.regWrite rq a n 0 vs) s₀ = .next (commitWrites s opRegWrite rq ss.tenant ws (head 0))) ∧
      ((ws.any fun w => isRwn w.1) = true → asyncCount s ss.tenant rq.session.toNat < 4096 →
        exec (.regWrite rq a n 0 vs) s₀ = .next (nvrEnqueue (answered s opRegWrite rq ss.tenant stAccepted (head 0)) ss.tenant
          (asyncOf opRegWrite rq) a.toNat (ws.map fun w => ((w.1 - 0x140000) / 4, w.2))))) ∧
    (∀ e : (Nat × Nat) × Nat,
      (1 ≤ n.toNat ∧ n.toNat ≤ 256 ∧ a.toNat % 4 = 0 ∧ writeFault s ss.tenant .packet ws = some e) ∨
        (n.toNat < 1 ∨ 256 < n.toNat) ∧ e = ((stBadParam, dtCountRange), 0) ∨
        1 ≤ n.toNat ∧ n.toNat ≤ 256 ∧ a.toNat % 4 ≠ 0 ∧ e = ((stBadParam, dtUnalignedAddress), 0) →
      ∃ t, exec (.regWrite rq a n 0 vs) s₀ = .next t ∧ SameButReply s t rq.session.toNat ∧
        t = reply s opRegWrite rq e.1.1 e.1.2 (head e.2))) ∧
  (∀ (rq : Req) (a m v : Word) (s₀ : State) (ss : Session) (i old : Nat) (r : RegSpec),
    let s := hear rq s₀
    Served s (.regUpdate rq a m v) opRegUpdate rq ss → a.toNat % 4 = 0 → findReg a.toNat = some (i, r) →
    readWord s ss.tenant a.toNat = some old →
    (r.has fun x => x = .wo || x = .w1c || x = .w1s || x = .rwn) = false →
    let new := (old &&& (0xFFFFFFFF ^^^ m.toNat)) ||| (v.toNat &&& m.toNat)
    writeFault s ss.tenant .packet [(a.toNat, new)] = none →
    exec (.regUpdate rq a m v) s₀ =
      .next (commitWrites s opRegUpdate rq ss.tenant [(a.toNat, new)] (leBytes 4 old ++ leBytes 4 new))) ∧
  (∀ (rq : Req) (a m v : Word) (s₀ : State) (ss : Session),
    let s := hear rq s₀
    Served s (.regUpdate rq a m v) opRegUpdate rq ss → a.toNat % 4 ≠ 0 →
    exec (.regUpdate rq a m v) s₀ = .next (refuse s opRegUpdate rq (stBadParam, dtUnalignedAddress)))

/-- REG_WAIT answers OK at once where the condition holds, and is ACCEPTED with a wait where it does not; REG_WAIT_POLL
completes the wait once it holds; REG_WAIT_TIMEOUT completes it with TIMEOUT and the last value. -/
def Obligations.RegisterWaits : Prop :=
  (∀ (rq : Req) (a m e us : Word) (s₀ : State) (ss : Session),
    let s := hear rq s₀
    Served s (.regWait rq a m e us) opRegWait rq ss →
    1 ≤ us.toNat → us.toNat ≤ 10000000 → readFault s ss.tenant a.toNat = none →
    let v := (readWord s ss.tenant a.toNat).getD 0
    (v &&& m.toNat = e.toNat → exec (.regWait rq a m e us) s₀ = .next (replyOk s opRegWait rq (leBytes 4 v))) ∧
    (v &&& m.toNat ≠ e.toNat → ss.waits.length < 16 → asyncCount s ss.tenant rq.session.toNat < 4096 →
      ∃ t u, exec (.regWait rq a m e us) s₀ = .next t ∧ getSes t rq.session.toNat = some u ∧
        u.waits = ss.waits ++ [{ tag := rq.tag.toNat, address := a.toNat, mask := m.toNat, expected := e.toNat, last := v,
                                 due := s.now + us.toNat * 400 }])) ∧
  (∀ (rq : Req) (s : State) (ss : Session) (w : RegWait), isRunning s = true →
    getSes s rq.session.toNat = some ss → ss.waits.find? (fun w => w.tag = rq.tag.toNat) = some w →
    (readWord s ss.tenant w.address).getD 0 &&& w.mask = w.expected →
    exec (.regWaitPoll rq) s =
      .next (endWait s rq.session.toNat ss w stOk ((readWord s ss.tenant w.address).getD 0))) ∧
  (∀ (rq : Req) (s : State) (ss : Session) (w : RegWait), isRunning s = true →
    getSes s rq.session.toNat = some ss → ss.waits.find? (fun w => w.tag = rq.tag.toNat) = some w → w.due ≤ s.now →
    exec (.regWaitTimeout rq) s = .next (endWait s rq.session.toNat ss w stTimeout w.last))

/-- The register writes with rows of their own, where the checks of R94 pass, are that REG_WRITE of one word.
What those writes do beyond the stored word: CMD_PORTS waits for its reply, a release is noted with the tenant, a
reset request runs 10 ms from its reply, which may wait for the send window, and a forced reclaim frees the partition after
the reply (that its memory reads zero at once is the model's reading, log entry 16; R124 and R129 give the zero). What the
rows that set or clear one bit write in the word's other bits is the model's reading (log entry 19). -/
def Obligations.RegisterRows : Prop :=
  (∀ (c : Instr) (rq : Req) (s₀ : State) (ss : Session) (a v : Nat),
    let s := hear rq s₀
    ((∃ w : Word, c = .cmdPortsWrite rq w ∧ a = 0x10000 ∧ v = w.toNat) ∨
      (∃ (t : Fin 16) (e : Bool), c = .forceReclaim rq t e ∧ a = 0x2001C + 0x100 * t ∧ v = 0x100 + boolNat e) ∨
      (c = .release rq ∧ a = 0x21004 ∧ v = 0x100 + ss.tenant) ∨
      (∃ (t : Fin 16) (w : Word), c = .tenLimitsWrite rq t w ∧ a = 0x20004 + 0x100 * t ∧ v = w.toNat) ∨
      (∃ w : Word, c = .sysCompatWrite rq w ∧ a = 0x10 ∧ v = w.toNat) ∨
      (∃ (p : Fin 8) (w : Word), c = .fgEnable rq p w ∧ a = 0x80000 + 0x100 * p ∧ v = w.toNat % 2 ^ 31 + 2 ^ 31) ∨
      (∃ (p : Fin 8) (w : Word), c = .fgDisable rq p w ∧ a = 0x80000 + 0x100 * p ∧ v = w.toNat % 2 ^ 31) ∨
      (∃ (p : Fin 8) (w : Word), c = .galEnable rq p w ∧ a = 0xA0000 + 0x100 * p ∧ v = w.toNat % 2 ^ 31 + 2 ^ 31) ∨
      (∃ p : Fin 8, c = .dspCommitApply rq p ∧ a = 0xE0004 + 0x1000 * p ∧ v = 1) ∨
      (∃ p : Fin 8, c = .dspStop rq p ∧ a = 0xE0000 + 0x1000 * p ∧
        v = putBits (currentWord s ss.tenant (0xE0000 + 0x1000 * p)) 31 31 1) ∨
      (∃ w : Word, c = .sysResetReq rq w ∧ a = 0x20 ∧ v = w.toNat) ∨
      (∃ (p : Fin 4) (w : Word), c = .netPortConfigWrite rq p w ∧ a = 0xF0000 + 0x1000 * p ∧ v = w.toNat) ∨
      (∃ w : Word, c = .netWallEnable rq w ∧ a = 0xF8000 ∧ v = w.toNat % 2 ^ 31 + 2 ^ 31)) →
     ServedWrite s rq a ss → writeFault s ss.tenant .packet [(a, v)] = none →
     exec c s₀ = .next (commitWrites s opRegWrite rq ss.tenant [(a, v)] (leBytes 4 a ++ leBytes 2 1 ++ leBytes 2 0))) ∧
  (∀ (s : State) (rq : Req) (t : Nat) (p : List Byte) (ss : Session), getSes s rq.session.toNat = some ss →
     (∀ v, ss.tx.waiting = [] → ss.tx.unacked.length < 256 → s.link.portsNext = [] →
       regW (commitWrites s opRegWrite rq t [(0x10000, v)] p) 0x10000 = v % 2 ^ 32) ∧
     (∀ v, bit v 8 = true → (getTen (commitWrites s opRegWrite rq t [(0x21004, v)] p) t).release = true) ∧
     (∀ v, s.link.resetNext = none → s.chip.resetDue = none →
       (ss.tx.waiting = [] → ss.tx.unacked.length < 256 →
         (commitWrites s opRegWrite rq t [(0x20, v)] p).chip.resetDue = some (s.now + 4000000)) ∧
       (256 ≤ ss.tx.unacked.length →
         (commitWrites s opRegWrite rq t [(0x20, v)] p).chip.resetDue = none ∧
         (commitWrites s opRegWrite rq t [(0x20, v)] p).link.resetNext = some (rq.session.toNat, rq.tag.toNat))) ∧
     (∀ (n : Fin 16) v, bit v 8 = true → hasPartition (getTen s n) = true →
       ∀ va k : Nat, va % 2 ^ 48 + k ≤ 2 ^ 48 →
         hbmRead (commitWrites s opRegWrite rq t [(0x2001C + 0x100 * n, v)] p) n va k = List.replicate k 0))

/-- The map keeps a written word by the access of its bits: the kept bits take the written ones, a written 1 clears a
W1C bit, a word with RWS bits is pending, and no other address changes.
A tenant-class register that acts for another tenant reads 0 (R308, R361, R397, R441 and R449 say so of their registers; of the
others it is the model's reading, log entry 19), and a write of a device-class register is refused as a matter of its
permission class. A permitted write with a 1 in a reserved bit draws RESERVED_NONZERO, one that changes a read-only field
READ_ONLY_FIELD, and one with a field outside its range VALUE_RANGE, in this order. -/
def Obligations.RegisterAccess : Prop :=
  (∀ (s : State) (a v i : Nat) (r : RegSpec), findReg a = some (i, r) → a ≠ 0x10000 →
     ((r.has fun x => x = .rws) = false →
       regW (keepWord s a v) a = (((regW s a &&& (0xFFFFFFFF ^^^ r.kept)) ||| (v &&& r.kept)) &&&
         (0xFFFFFFFF ^^^ (v &&& maskOf (fun x => x = .w1c) r.fields))) % 2 ^ 32) ∧
     ((r.has fun x => x = .rws) = true →
       regW (keepWord s a v) a = regW s a ∧
       pendW (keepWord s a v) a = ((pendW s a &&& (0xFFFFFFFF ^^^ r.kept)) ||| (v &&& r.kept)) % 2 ^ 32) ∧
     (∀ b, b ≠ a → regW (keepWord s a v) b = regW s b ∧ pendW (keepWord s a v) b = pendW s b)) ∧
  ((∀ (s : State) (t a i : Nat) (r : RegSpec), findReg a = some (i, r) → r.cls = .tenant →
     actsFor s t i a r.part = false → readWord s t a = some 0) ∧
   (∀ (s : State) (t a v i : Nat) (via : Via) (r : RegSpec), findReg a = some (i, r) → r.cls = .device →
     wordFault s t via a v = some (stNotPermitted, dtPermissionClass)) ∧
   (∀ (s : State) (t a v i : Nat) (r : RegSpec), findReg a = some (i, r) → r.cls = .owner → t ≠ 0 →
     wordFault s t .packet a v = some (stNotPermitted, dtPermissionClass)) ∧
   (∀ (s : State) (t a v : Nat) (via : Via), findReg a = none →
     wordFault s t via a v = some (stBadParam, dtUnmappedAddress)) ∧
   (∀ (s : State) (t a v i : Nat) (via : Via) (r : RegSpec), findReg a = some (i, r) → mayWrite s t via i a r = true →
     (v &&& (0xFFFFFFFF ^^^ r.covered) ≠ 0 → wordFault s t via a v = some (stBadParam, dtReservedNonzero)) ∧
     (v &&& (0xFFFFFFFF ^^^ r.covered) = 0 →
       let changes := (v ^^^ currentWord s t a) &&& maskOf (fun x => x = .ro) r.fields
       (changes ≠ 0 → wordFault s t via a v = some (stNotPermitted, dtReadOnlyField)) ∧
       (changes = 0 → r.inRange v = false → wordFault s t via a v = some (stBadParam, dtValueRange)))))

/-! ## Memory -/

/-- MEM_MAP of a demand mapping adds it and answers OK; of a pinned mapping it is ACCEPTED, and the completion follows
once its pages are backed; MEM_UNMAP and MEM_PROTECT change the range and answer OK. -/
def Obligations.MemoryMaps : Prop :=
  (∀ (rq : Req) (a : MemMapArgs) (s₀ : State) (ss : Session),
    let s := hear rq s₀
    Served s (.memMap rq a) opMemMap rq ss →
    firstFault (memMapChecks s ss.tenant a) = none →
    (bit a.flags.toNat 2 = false →
      exec (.memMap rq a) s₀ = .next (replyOk (addMapping s ss.tenant (newMapping a)) opMemMap rq [])) ∧
    (bit a.flags.toNat 2 = true → asyncCount s ss.tenant rq.session.toNat < 4096 →
      ∃ t b, exec (.memMap rq a) s₀ = .next t ∧
        (getTen t ss.tenant).mem.maps = insertMap (getTen s ss.tenant).mem.maps (newMapping a) ∧
        (getTen t ss.tenant).mem.backing = (getTen s ss.tenant).mem.backing ++ [b] ∧ b.va = a.va.toNat ∧
        (∀ u, u ≠ ss.tenant → getTen t u = getTen s u))) ∧
  (∀ (t : Fin 16) (va : DWord) (s : State) (b : PinBacking),
    (getTen s t).mem.backing.find? (fun b => b.va = va.toNat) = some b → restarting s 2 = false →
    exec (.memMapBacked t va) s = .next (complete
      (modMem s t fun x => { x with backing := x.backing.erase b }) t b.request stOk 0 [])) ∧
  (∀ (rq : Req) (va size : DWord) (s₀ : State) (ss : Session),
    let s := hear rq s₀
    Served s (.memUnmap rq va size) opMemUnmap rq ss →
    firstFault (rangeChecks s ss.tenant va.toNat size.toNat ++ mapBusyChecks s ss.tenant va.toNat size.toNat) = none →
    exec (.memUnmap rq va size) s₀ = .next (replyOk (unmapRange s ss.tenant va.toNat size.toNat) opMemUnmap rq []) ∧
    (∀ t, exec (.memUnmap rq va size) s₀ = .next t →
      (getTen t ss.tenant).mem.maps = ((splitMaps va.toNat (va.toNat + size.toNat) (getTen s ss.tenant).mem.maps).filter
        fun p => !p.1).map fun p => p.2)) ∧
  (∀ (rq : Req) (va size : DWord) (fl : Byte) (r : BitVec 56) (s₀ : State) (ss : Session),
    let s := hear rq s₀
    Served s (.memProtect rq va size fl r) opMemProtect rq ss →
    firstFault (protectChecks fl r ++ rangeChecks s ss.tenant va.toNat size.toNat
      ++ mapBusyChecks s ss.tenant va.toNat size.toNat) = none →
    exec (.memProtect rq va size fl r) s₀ =
      .next (replyOk (protectRange s ss.tenant va.toNat size.toNat fl.toNat) opMemProtect rq []))

/-- MEM_WRITE stores its bytes where no page waits to be backed, and waits for the backing otherwise; MEM_WRITE_BACKED
then stores them and answers; MEM_READ answers the bytes that memory holds.
MMU_WALK answers the entries that the walk of the caller's tables meets, and refuses an address whose bits 63:48 are not 0
(R135; that the detail is VALUE_RANGE, of R619, is the model's reading, log entry 21). -/
def Obligations.MemoryReadsAndWrites : Prop :=
  ((∀ (rq : Req) (va : DWord) (n : Word) (data : List Byte) (s₀ : State) (ss : Session),
     let s := hear rq s₀
     Served s (.memWrite rq va n 0 data) opMemWrite rq ss →
     firstFault (accessChecks s ss.tenant ss va n 0 (fun m => m.write) ++ writeBusyChecks s ss.tenant va.toNat n.toNat)
       = none → partialBad s ss.tenant va.toNat n.toNat = none →
     let pages := unbacked (getTen s ss.tenant)
       [{ va := va.toNat, rowBytes := n.toNat, rows := 1, pitch := n.toNat, read := false, write := true }]
     (pages = [] → exec (.memWrite rq va n 0 data) s₀ =
       .next (replyOk (storeBytes s ss.tenant va.toNat data) opMemWrite rq [])) ∧
     (∀ u, backPages s ss.tenant none pages = some u → pages ≠ [] →
       exec (.memWrite rq va n 0 data) s₀ = .next (setSes u rq.session.toNat { ss with
         backing := some { tag := rq.tag.toNat, va := va.toNat, data := data
                           due := u.now + ceilDiv (pagesBytes pages) 160 } }))) ∧
   (∀ (id : Word) (s : State) (ss : Session) (b : Backing), isRunning s = true → getSes s id.toNat = some ss →
     ss.backing = some b → restarting s 2 = false → s.chip.hbmReady = true →
     let u := pagesRaised (setSes s id.toNat { ss with backing := none }) ss.tenant none
     exec (.memWriteBacked id) s = .next (resumeSession
       (replyOk (storeBytes u ss.tenant b.va b.data) opMemWrite { session := id, tag := BitVec.ofNat 32 b.tag } []) id.toNat)) ∧
   (∀ (rq : Req) (va : DWord) (n : Word) (s₀ : State) (ss : Session),
     let s := hear rq s₀
     Served s (.memRead rq va n 0) opMemRead rq ss →
     firstFault (accessChecks s ss.tenant ss va n 0 (fun m => m.read) ++
       [(((stepExtents s ss.tenant).filter fun e => e.write).any fun e => e.meets va.toNat n.toNat,
         (stBusy, dtRangeUncommitted))]) = none → firstBad s ss.tenant va.toNat n.toNat = none →
     exec (.memRead rq va n 0) s₀ = .next (replyOk s opMemRead rq
       (leBytes 8 va.toNat ++ leBytes 4 n.toNat ++ zeros 4 ++ hbmRead s ss.tenant va.toNat n.toNat)))) ∧
  (∀ (rq : Req) (va : DWord) (s₀ : State) (ss : Session),
    let s := hear rq s₀
    Served s (.mmuWalk rq va) opMmuWalk rq ss →
     (va.toNat < 2 ^ 48 → exec (.mmuWalk rq va) s₀ =
       .next (replyOk s opMmuWalk rq (mmuWalkReply s ss.tenant va.toNat))) ∧
     (2 ^ 48 ≤ va.toNat → exec (.mmuWalk rq va) s₀ = .next (refuse s opMmuWalk rq (stBadParam, dtValueRange))))

/-- A store to a tenant's memory: each byte reads as it was stored, every other byte of that tenant and every byte of every
other tenant reads as before; beside memory only the tenant's record of bad lines changes: it loses those that the store
covers whole. -/
def Obligations.StoreBytesStores : Prop :=
  ∀ (s : State) (t va : Nat) (l : List Byte), va + l.length ≤ 2 ^ 48 →
    hbmRead (storeBytes s t va l) t va l.length = l ∧
    (∀ u a n : Nat, a + n ≤ 2 ^ 48 → (u ≠ t ∨ a + n ≤ va ∨ va + l.length ≤ a) →
      hbmRead (storeBytes s t va l) u a n = hbmRead s u a n) ∧
    { storeBytes s t va l with hbm := s.hbm, tenants := s.tenants } = s ∧
    (∀ u, u ≠ t → getTen (storeBytes s t va l) u = getTen s u) ∧
    let x := getTen (storeBytes s t va l) t
    { x with mem := { x.mem with badLines := (getTen s t).mem.badLines } } = getTen s t ∧
    x.mem.badLines = (getTen s t).mem.badLines.filter fun b => !(decide (va ≤ b) && decide (b + 64 ≤ va + l.length))

/-! ## Faults -/

/-- FAULT_RESUME of a held fault reruns the command (action 0) or fails its step (action 1), reported by FAULT_EVENT;
PAGE_FAULT outside the declared sets fails the step, and on a demand page backs it or holds the command; the backing's
end lets the command rerun; a fault held past its time fails the step; while the scheduler processor restarts, neither a demand
page nor a held fault goes on (R542). The FAULT_EVENT of a held fault that is refused or times out, and detail 0 of corrupt
tables, are the model's reading (log entry 23). -/
def Obligations.PageFaults : Prop :=
  (∀ (rq : Req) (id action : Word) (s₀ : State) (ss : Session) (h : HeldFault),
    let s := hear rq s₀
    Served s (.faultResume rq id action) opFaultResume rq ss →
    (getTen s ss.tenant).mem.held.find? (fun h => h.id = id.toNat) = some h →
    (action = 0 → exec (.faultResume rq id action) s₀ = .next (refresh (modInst
      (modMem (replyOk s opFaultResume rq []) ss.tenant fun m => { m with held := m.held.erase h })
      { loop := h.loop, cmd := h.cmd, inst := h.inst } afterHold))) ∧
    (action = 1 → exec (.faultResume rq id action) s₀ =
      .next (failHeld (replyOk s opFaultResume rq []) h dtFaultRefused))) ∧
  (∀ (ref : CmdRef) (va : DWord) (w : Bool) (s : State) (q : Placed), isRunning s = true → findInst s ref = some q →
    isRun q.inst = true →
    (exec (.pageFault ref va w .tableCorrupt) s = .next (faultFail s q 3 va.toNat 0)) ∧
    (withinSet (if w then writeSet q.cmd.spec else readSet q.cmd.spec) va.toNat 1 = false →
      exec (.pageFault ref va w .access) s = .next (faultFail s q 2 va.toNat dtSetViolation)) ∧
    (withinSet (if w then writeSet q.cmd.spec else readSet q.cmd.spec) va.toNat 1 = true →
      isDemandPage (getTen s q.loop.tenant) va.toNat = true →
      exec (.pageFault ref va w .access) s = .next (demandFault s q va.toNat) ∧
      (restarting s 2 = true → demandFault s q va.toNat = s))) ∧
  (∀ (ref : CmdRef) (s : State) (q : Placed) (due : Nat), findInst s ref = some q → q.inst.phase = .backing due →
    (restarting s 2 = false →
      exec (.demandBackingDone ref) s = .next (refresh (modInst (raisedFor s ref) ref afterHold))) ∧
    (restarting s 2 = true → exec (.demandBackingDone ref) s = .next s)) ∧
  (∀ (t : Fin 16) (id : Word) (s : State) (h : HeldFault),
    (getTen s t).mem.held.find? (fun h => h.id = id.toNat && decide (h.due ≤ s.now)) = some h →
    (restarting s 2 = false → exec (.faultTimeout t id) s = .next (failHeld s h dtFaultTimeout)) ∧
    (restarting s 2 = true → exec (.faultTimeout t id) s = .next s)) ∧
  (∀ (s : State) (h : HeldFault) (q : Placed) (detail : Nat),
    findInst s { loop := h.loop, cmd := h.cmd, inst := h.inst } = some q →
    failHeld s h detail = failStep (event s q.loop.tenant opFaultEvent stPageFault detail
        (faultPayload h.id q.ref.loop q.step.seq q.ref.cmd (engineCode q) 1 h.va (eventCore q) 1))
      h.loop stPageFault detail h.cmd)

/-- UNCORRECTABLE_ERROR in a line of a running command's data counts, marks the line, and kills the run for a rerun or fails
the step; PATROL_SCRUB counts what it corrected, marks the lines it lost, and falls due again MMU_CONFIG.scrub_hours later;
KILLED_WRITES_SETTLED lets a killed instance be dispatched again; ZERO_FILL_DONE ends a failed step.
The zeroes of a failed step fall on its write sets alone: no other byte of any tenant changes, and each byte of a
write set reads 0. -/
def Obligations.ErrorsAndSettling : Prop :=
  ((∀ (ref : CmdRef) (va : DWord) (s : State) (q : Placed), isRunning s = true → findInst s ref = some q →
     isRun q.inst = true → (q.cmd.spec.extents.any fun e => e.meets (va.toNat / 64 * 64) 64) = true →
     exec (.uncorrectableError (.hbm ref va)) s =
       .next (eccHbm (markBad s q.loop.tenant (va.toNat / 64 * 64)) q (va.toNat / 64 * 64))) ∧
   (∀ (ref : CmdRef) (off : Word) (s : State) (q : Placed), isRunning s = true → findInst s ref = some q →
     isRun q.inst = true → exec (.uncorrectableError (.scratchpad ref off)) s = .next (eccPad s q)) ∧
   (∀ (found : ScrubReport) (s : State), isRunning s = true → s.chip.hbmReady = true → restarting s 0 = false →
     s.chip.scrubDue ≤ s.now → exec (.patrolScrub found) s = .next (found.uncorrectable.foldl scrubOne { s with chip := { s.chip with
       scrubDue := s.now + 3600 * secTicks * rField s aMmuConfig 23 16
       eccCorr := min (s.chip.eccCorr + found.corrected) 0xFFFFFFFF } })) ∧
   (∀ (ref : CmdRef) (s : State) (q : Placed), findInst s ref = some q → q.inst.wasOn ≠ [] →
     exec (.killedWritesSettled ref) s = .next (settleFuncs (refresh (modInst s ref fun i => { i with
       wasOn := []
       phase := if isSettling i then .waiting else i.phase })))) ∧
   (∀ (id : Nat) (s : State) (l : Loop) (st : Step) (r : List Step) (f : Failing), isRunning s = true →
     getLoop s id = some l → l.queue = st :: r → st.failing = some f →
     ((stepInsts id l st).any fun p => p.inst.wasOn ≠ []) = false →
     let s1 := failSeqs (fgFail (zeroStep s l.tenant st) id st) id l st f.status f.detail
     exec (.zeroFillDone id) s =
       .next (settleFuncs (refresh (formStep (popStep s1 id f.status f.detail f.cmd false) id))))) ∧
  (∀ (s : State) (t : Nat) (st : Step) (u va : Nat), va < 2 ^ 48 →
     (∀ c ∈ st.cmds, ∀ e ∈ writeSet c.spec, ∀ r < e.norm.rows, e.norm.va + r * e.norm.pitch + e.norm.rowBytes ≤ 2 ^ 48) →
     ((u ≠ t ∨ ∀ c ∈ st.cmds, ∀ e ∈ writeSet c.spec, ∀ r < e.norm.rows,
         va < e.norm.va + r * e.norm.pitch ∨ e.norm.va + r * e.norm.pitch + e.norm.rowBytes ≤ va) →
       hbmRead (zeroStep s t st) u va 1 = hbmRead s u va 1) ∧
     ((∃ c ∈ st.cmds, ∃ e ∈ writeSet c.spec, ∃ r < e.norm.rows,
         e.norm.va + r * e.norm.pitch ≤ va ∧ va < e.norm.va + r * e.norm.pitch + e.norm.rowBytes) →
       hbmRead (zeroStep s t st) t va 1 = [0]))

/-! ## Loops, steps and function disable -/

/-- LOOP_CREATE makes a loop with the fields of the request and answers its id; LOOP_DESTROY removes an idle loop. -/
def Obligations.LoopsComeAndGo : Prop :=
  (∀ (rq : Req) (a : LoopCreateArgs) (s₀ : State) (ss : Session) (q : Option SeqParams) (id : Nat),
    let s := hear rq s₀
    Served s (.loopCreate rq a) opLoopCreate rq ss → firstFault (loopCreateChecks s ss.tenant a) = none →
    seqParams s ss.tenant a = .ok q → newLoopId s = some id →
    ∃ t, exec (.loopCreate rq a) s₀ = .next t ∧
      getLoop t id = some { tenant := ss.tenant, lc := a.cls = 0, depth := a.queueDepth.toNat,
                            notify := bit a.flags.toNat 0, pipe := if a.pipe = 0xFF then none else some a.pipe.toNat,
                            sequence := q } ∧
      (∀ j, j ≠ id → getLoop t j = getLoop s j) ∧ t.tenants = s.tenants ∧ t.hbm = s.hbm ∧ t.pad = s.pad ∧
      t = replyOk { s with fresh := s.fresh + 1, sched := t.sched } opLoopCreate rq (leBytes 4 id)) ∧
  (∀ (rq : Req) (id : Word) (s₀ : State) (ss : Session) (l : Loop),
    let s := hear rq s₀
    Served s (.loopDestroy rq id) opLoopDestroy rq ss →
    getLoop s id.toNat = some l → l.tenant = ss.tenant → l.queue = [] → l.seqs = [] →
    namedByFg s ss.tenant id.toNat = false →
    ∃ t, exec (.loopDestroy rq id) s₀ = .next t ∧ getLoop t id.toNat = none ∧
      (∀ j, j ≠ id.toNat → getLoop t j = getLoop s j) ∧ t.tenants = s.tenants ∧ t.hbm = s.hbm ∧ t.pad = s.pad)

/-- STEP_SUBMIT of a step that passes its checks is ACCEPTED with the step's sequence number and joins its loop's queue;
SEQ_SUBMIT is ACCEPTED and the sequence joins its loop. SYS_COMPAT is locked from the first step accepted on (the model's
reading of R200, log entry 32); the prompt must be mapped, at 4 bytes a token (presumed, log entry 31).
A step that joins a loop stands last in its queue, under the loop's next sequence number, which moves on. -/
def Obligations.SubmissionsQueue : Prop :=
  ((∀ (rq : Req) (a : StepSubmitArgs) (s₀ : State) (ss : Session) (l : Loop) (x : StepRec),
     let s := hear rq s₀
     Served s (.stepSubmit rq a) opStepSubmit rq ss → submitChecks s ss.tenant a = none →
     getLoop s a.loop.toNat = some l →
     parseStep s ss.tenant l.lc (hbmRead s ss.tenant a.va.toNat a.length.toNat) = .ok x →
     presentFault s ss.tenant a.loop.toNat x = none → asyncCount s ss.tenant rq.session.toNat < 4096 →
     let r : Async := { session := rq.session.toNat, op := opStepSubmit, tag := rq.tag.toNat }
     let s1 := reply (modTen s ss.tenant fun y => { y with async := y.async ++ [r] }) opStepSubmit rq stAccepted 0
       (leBytes 4 l.nextSeq)
     exec (.stepSubmit rq a) s₀ = .next (enqueue { s1 with sched := { s1.sched with locked := true } } a.loop.toNat
       fun l n => newStep l n r x)) ∧
   (∀ (rq : Req) (a : SeqSubmitArgs) (s₀ : State) (ss : Session) (l : Loop),
     let s := hear rq s₀
     Served s (.seqSubmit rq a) opSeqSubmit rq ss → getLoop s a.loop.toNat = some l → l.tenant = ss.tenant →
     1 ≤ a.promptLength.toNat → a.promptLength.toNat ≤ 65536 → 1 ≤ a.maxNewTokens.toNat →
     a.maxNewTokens.toNat ≤ 65536 → l.sequence.isSome = true → l.func.phase = .enabled → l.seqs.length < 4096 →
     rangeOk s ss.tenant (fun m => m.read) a.promptVa.toNat (a.promptLength.toNat * tokenBytes) = true →
     asyncCount s ss.tenant rq.session.toNat < 4096 →
     let r : Async := { session := rq.session.toNat, op := opSeqSubmit, tag := rq.tag.toNat }
     let s1 := reply (modTen s ss.tenant fun y => { y with async := y.async ++ [r] }) opSeqSubmit rq stAccepted 0 []
     exec (.seqSubmit rq a) s₀ = .next (formStep (modLoop s1 a.loop.toNat fun l => { l with
       nextOrder := l.nextOrder + 1
       seqs := l.seqs ++ [{ order := l.nextOrder, tag := a.seqTag.toNat, request := r, promptVa := a.promptVa.toNat
                            prompt := a.promptLength.toNat, maxNew := a.maxNewTokens.toNat }] }) a.loop.toNat))) ∧
  (∀ (s : State) (id : Nat) (l : Loop) (f : Loop → Nat → Step), getLoop s id = some l →
     ∃ u, getLoop (enqueue s id f) id = some u ∧ u.queue.length = l.queue.length + 1 ∧
       u.nextSeq = (l.nextSeq + 1) % 2 ^ 32 ∧ u.tenant = l.tenant ∧
       (u.queue.map fun x => x.seq) = (l.queue.map fun x => x.seq) ++ [(f l s.sched.nextOrder).seq])

/-- FUNC_DISABLE of a target in service is ACCEPTED and drains or aborts it, and of a disabled one is answered OK at once;
FUNC_ENABLE of a disabled target puts it back in service. The payload of the reply for a disabled target is the model's reading
(log entry 25). -/
def Obligations.FunctionDisable : Prop :=
  (∀ (rq : Req) (a : FuncArgs) (s₀ : State) (ss : Session),
    let s := hear rq s₀
    Served s (.funcDisable rq a) opFuncDisable rq ss →
    funcFault s ss.tenant a 2 = none →
    let k := a.target.toNat
    let i := a.id.toNat
    let f := targetFunc s k i
    let r : Async := { session := rq.session.toNat, op := opFuncDisable, tag := rq.tag.toNat }
    let s1 := reply (modTen s ss.tenant fun y => { y with async := y.async ++ [r] }) opFuncDisable rq stAccepted 0 []
    (f.phase = .disabled → exec (.funcDisable rq a) s₀ =
      .next (replyOk s opFuncDisable rq (leBytes 1 k ++ zeros 3 ++ leBytes 4 i ++ leBytes 4 0 ++ leBytes 4 0))) ∧
    (f.phase = .enabled → a.mode = 0 → asyncCount s ss.tenant rq.session.toNat < 4096 →
      exec (.funcDisable rq a) s₀ =
        .next (drainTarget (setTargetFunc s1 k i { f with phase := .draining, drain := some (ss.tenant, r) }) k i)) ∧
    (f.phase = .enabled → a.mode = 1 → asyncCount s ss.tenant rq.session.toNat < 4096 →
      exec (.funcDisable rq a) s₀ =
        .next (abortTarget (setTargetFunc s1 k i { f with phase := .aborting, abort := f.abort ++ [(ss.tenant, r)] }) k i))) ∧
  (∀ (rq : Req) (a : FuncArgs) (s₀ : State) (ss : Session),
    let s := hear rq s₀
    Served s (.funcEnable rq a) opFuncEnable rq ss →
    funcFault s ss.tenant a 1 = none → (targetFunc s a.target.toNat a.id.toNat).phase = .disabled →
    enableFault s ss.tenant a.target.toNat a.id.toNat = none →
    exec (.funcEnable rq a) s₀ = .next (replyOk (enableTarget s a.target.toNat a.id.toNat) opFuncEnable rq []))

/-! ## The scheduler and commit -/

/-- SCHEDULER_TICK, once its 10 µs of time base 0 have passed, admits, loads and places; URGENT_TICK does so for LC commands
alone; COMMAND_COMMIT of a run that is ready lands its writes and commits what may; each of a chip that does not run does
nothing. What one tick does of R174 to R187, and in which order, is the model's reading (log entry 26). -/
def Obligations.SchedulerActs : Prop :=
  (∀ s : State, isRunning s = true → s.sched.nextTick ≤ tbNs s 0 →
    let s1 := refresh (moveBound (applyLimits (admitCores
      { s with sched := { s.sched with nextTick := (tbNs s 0 / 10000 + 1) * 10000 } })))
    let s2 := lcPass (loadWaiting s1.sched.loops.length s1) {}
    let s3 := bePass (allInsts s2).length s2
    exec .schedulerTick s = .next (settleFuncs (refresh { s3 with sched := { s3.sched with evicted := [] } }))) ∧
  (∀ s : State, isRunning s = true →
    let x := urgentLoad (refresh s)
    let loaded := x.1.sched.evicted
    let s1 := lcPass x.1 { kill := true, loaded := loaded }
    let s2 := match x.2 with | some b => evictPass s1 b loaded | none => s1
    exec .urgentTick s = .next (refresh { s2 with sched := { s2.sched with evicted := [] } })) ∧
  (∀ (ref : CmdRef) (s : State) (q : Placed), isRunning s = true →
    let v := pumpRun s ref
    findInst v ref = some q → isRun q.inst = true → runReady v q = true →
    exec (.commandCommit ref) s = .next (finishRun v q fun u =>
      wallReady (settleFuncs (refresh (commitStep (commitCmds ref.loop 512 u) ref.loop))))) ∧
  (∀ (c : Instr) (s : State), isRunning s = false →
    c = .schedulerTick ∨ c = .urgentTick ∨ (∃ ref, c = .commandCommit ref) → exec c s = .next s)

/-- A command whose accesses all pass lands its writes: first those to the tenant's memory, then those to scratchpads. A
stop leaves memory as it was. -/
def Obligations.WorkLands : Prop :=
  (∀ (s : State) (q : Placed) (w : Work) (k : State → State), firstStop s q w.hbm = none → w.bad = none →
    runWork s q w k = k (applyPads (applyStores s q.loop.tenant w.stores) w.pads)) ∧
  (∀ (s : State) (q : Placed) (w : Work) (k : State → State) (x : Stop), firstStop s q w.hbm = some x →
    (runWork s q w k).hbm = s.hbm)

/-! ## DMA -/

/-- DMA_DESCRIPTOR_START makes the next valid descriptor of a running DMA command outstanding, or the next write or fill of
a WE or Minuet command, at most 8 of each; DMA_DESCRIPTOR_DONE of the oldest one lands what it moves. That a write goes out
before a fill is the model's choice (log entry 29). -/
def Obligations.DmaDescriptors : Prop :=
  (∀ (ref : CmdRef) (s : State) (q : Placed), isRunning s = true → findInst s ref = some q → isRun q.inst = true →
    q.cmd.spec.engine = 4 → q.inst.dma.next < dmaCount s q.loop.tenant q.cmd.spec → q.inst.dma.jobs.length < 64 →
    let bytes := progBytes s q.loop.tenant q.cmd.spec (16 + 48 * q.inst.dma.next) 48
    let d := descOf bytes
    (bit (leAt bytes 40 4) 1 = true → q.inst.dma.jobs = []) → descFault d = none →
    d.hbm.findSome? (outside q) = none → descPadsOk s q d = true →
    exec (.dmaDescriptorStart ref) s = .next (modInst s q.ref fun i => { i with dma := { i.dma with
      next := q.inst.dma.next + 1
      jobs := i.dma.jobs ++ [{ index := q.inst.dma.next, desc := bytes }] } })) ∧
  (∀ (ref : CmdRef) (s : State) (q : Placed), isRunning s = true →
    let u := pumpRun s ref
    findInst u ref = some q → isRun q.inst = true → isWindow q = true →
    let h := winHeadOf u q
    let writes := (q.inst.dma.jobs.filter fun j => j.out.isSome).length
    (∀ o r, q.inst.win.out = o :: r → writes < 8 → outside q { va := o.at_, n := o.bytes.length, write := true } = none →
      exec (.dmaDescriptorStart ref) s = .next (dmaJobs (modWin u q.ref fun w => { w with out := r }) q.ref
        { index := q.inst.dma.next, out := some o })) ∧
    (∀ f, q.inst.win.out = [] → (runFills q h)[q.inst.win.issued]? = some f → q.inst.dma.jobs.length < writes + 8 →
      ringFree q h (if h.inCodec ≠ 0 then min (8 * f.1 + 7) (h.inH - 1) else f.1) = true →
      outside q (fillAccess h f) = none →
      exec (.dmaDescriptorStart ref) s = .next (dmaJobs (modWin u q.ref fun w => { w with issued := w.issued + 1 }) q.ref
        { index := q.inst.dma.next }))) ∧
  (∀ (ref : CmdRef) (s : State) (q : Placed) (j : DmaJob) (r : List DmaJob) (ws : List (Nat × List Byte)) (ms : List Nat),
    isRunning s = true → findInst s ref = some q → isRun q.inst = true → isWindow q = false → q.inst.dma.jobs = j :: r →
    let d := descOf j.desc
    d.srcSpace = 0 → d.dstSpace = 0 → transfer s q d = some (ws, ms) →
    firstStop s q ((d.srcRanges.map fun r => { va := r.1, n := r.2, write := false }) ++
      d.dstRanges.map fun r => { va := r.1, n := r.2, write := true }) = none →
    exec (.dmaDescriptorDone ref j.index) s = .next (modInst (applyStores s q.loop.tenant ws) q.ref fun i => { i with
      dma := { i.dma with
        jobs := i.dma.jobs.drop 1
        done := i.dma.done ++ [j.index]
        exact := i.dma.exact + (ms.filter exactMode).length
        lossy := i.dma.lossy + (ms.filter fun m => !exactMode m).length } })) ∧
  (∀ (ref : CmdRef) (s : State) (q : Placed) (j : DmaJob) (r : List DmaJob),
    isRunning s = true → findInst s ref = some q → isRun q.inst = true → isWindow q = true → q.inst.dma.jobs = j :: r →
    (∀ o, j.out = some o → firstStop s q [{ va := o.at_, n := o.bytes.length, write := true }] = none →
      exec (.dmaDescriptorDone ref j.index) s = .next (modInst (dropJob (applyStores s q.loop.tenant [(o.at_, o.bytes)]) q.ref)
        q.ref fun i => { i with dma := { i.dma with
          exact := i.dma.exact + (o.modes.filter exactMode).length
          lossy := i.dma.lossy + (o.modes.filter fun m => !exactMode m).length } })) ∧
    (let h := winHeadOf s q
     ∀ f, j.out = none → (runFills q h)[q.inst.win.filled]? = some f → firstStop s q [fillAccess h f] = none →
      fillBad s q h f = false →
      exec (.dmaDescriptorDone ref j.index) s = .next (pumpRun (modWin (dropJob (fillRing s q h f) q.ref) q.ref fun w =>
        { w with filled := w.filled + 1 }) q.ref)))

/-! ## The vector engine -/

/-- The lane rows of the vector engine's table: each writes register d in the lanes where its guard holds, with the
result the row gives. A group cut between stripe instances runs whole in each of them (the model's reading, log entry 29).
FP32 arithmetic of the vector engine answers the canonical NaN for a NaN operand; minima and maxima order -0 below
+0. -/
def Obligations.VectorLaneRows : Prop :=
  (Row2 .veFadd 0x01 f32Add ∧ Row2 .veFsub 0x02 f32Sub ∧ Row2 .veFmul 0x03 f32Mul ∧
   LaneRow .veFfma 0x04 (fun _ x f l => f32Fma (x.a f l) (x.b f l) (x.c f l)) ∧
   Row2 .veFmin 0x05 f32Min ∧ Row2 .veFmax 0x06 f32Max ∧ Row1 .veFabs 0x07 f32Abs ∧ Row1 .veFneg 0x08 f32Neg ∧
   Row2 .veFcopysign 0x09 f32CopySign ∧
   LaneRow .veSel 0x18 (fun _ x f l => if pred x.grp l (f.c.toNat % 8) then x.a f l else x.b f l) ∧
   Row2 .veIadd 0x20 (fun a b => a + b) ∧ Row2 .veIsub 0x21 (fun a b => wrap ((a : Int) - b)) ∧
   Row2 .veImullo 0x22 (fun a b => a * b) ∧ Row2 .veSmulhi 0x23 (fun a b => wrap (sInt 32 a * sInt 32 b / 2 ^ 32)) ∧
   Row2 .veUmulhi 0x24 (fun a b => a * b / 2 ^ 32) ∧ Row2 .veShl 0x25 (fun a b => a * 2 ^ (b % 32)) ∧
   Row2 .veShr 0x26 (fun a b => a / 2 ^ (b % 32)) ∧ Row2 .veSra 0x27 (fun a b => wrap (sInt 32 a / 2 ^ (b % 32))) ∧
   Row2 .veAnd 0x28 (fun a b => a &&& b) ∧ Row2 .veOr 0x29 (fun a b => a ||| b) ∧ Row2 .veXor 0x2A (fun a b => a ^^^ b) ∧
   Row2 .veSmin 0x2B (fun a b => if sInt 32 b < sInt 32 a then b else a) ∧
   Row2 .veSmax 0x2C (fun a b => if sInt 32 a < sInt 32 b then b else a) ∧
   Row2 .veUmin 0x2D min ∧ Row2 .veUmax 0x2E max ∧ LaneRow .veMov 0x2F (fun _ x f l => x.b f l) ∧
   LaneRow .veCvt 0x30 (fun _ x f l => cvt f.imm.toNat (x.a f l) (x.b f l)) ∧
   LaneRow .veBfi 0x31 (fun _ x f l => bfi f.imm.toNat (x.a f l) (x.c f l)) ∧
   LaneRow .veBfx 0x32 (fun _ x f l => bfx f.imm.toNat (x.a f l)) ∧
   Row1 .veRcp 0x40 f32Rcp ∧ Row2 .veDiv 0x41 f32Div ∧ Row1 .veSqrt 0x42 f32Sqrt ∧ Row1 .veRsqrt 0x43 f32Rsqrt ∧
   Row1 .veExp2 0x44 f32Exp2 ∧ Row1 .veLog2 0x45 f32Log2 ∧ Row1 .veSinpi 0x46 f32SinPi ∧ Row1 .veCospi 0x47 f32CosPi ∧
   LaneRow .veShuffle 0x50 (fun _ x f l => x.reg (x.b f l % 64) f.a.toNat) ∧
   LaneRow .veBcast 0x51 (fun _ x f _ => x.reg (f.imm.toNat % 64) f.a.toNat) ∧
   LaneRow .veGred 0x52 (fun _ x f _ => pairwise (f.imm.toNat % 4) (laneValues (f.imm.toNat % 4) x f))) ∧
  ((∀ a b : Nat, f32Nan a = true ∨ f32Nan b = true →
     f32Add a b = 0x7FC00000 ∧ f32Sub a b = 0x7FC00000 ∧ f32Mul a b = 0x7FC00000 ∧ f32Min a b = 0x7FC00000 ∧
     f32Max a b = 0x7FC00000 ∧ f32Div a b = 0x7FC00000) ∧
   (∀ a : Nat, f32Nan a = true →
     f32Abs a = 0x7FC00000 ∧ f32Neg a = 0x7FC00000 ∧ f32Rcp a = 0x7FC00000 ∧ f32Sqrt a = 0x7FC00000 ∧
     f32Rsqrt a = 0x7FC00000 ∧ f32Exp2 a = 0x7FC00000 ∧ f32Log2 a = 0x7FC00000 ∧ f32SinPi a = 0x7FC00000 ∧
     f32CosPi a = 0x7FC00000) ∧
   f32Min 0x80000000 0 = 0x80000000 ∧ f32Max 0x80000000 0 = 0 ∧ f32Min 0 0x80000000 = 0x80000000 ∧ f32Max 0 0x80000000 = 0)

/-- The composite functions return exactly what the compositions of R233 return, each operation rounding once. The
constants are the binary32 codes of 1.44269504, 0.693147182, -1.44269504, -2.88539008, 0x1p-12 and 9. -/
def Obligations.CompositeFunctions : Prop :=
  Row1 .veExp 0x48 (fun x => f32Exp2 (f32Mul x 0x3FB8AA3B)) ∧
  Row1 .veLog 0x49 (fun x => f32Mul (f32Log2 x) 0x3F317218) ∧
  Row1 .veSigmoid 0x4A (fun x => f32Rcp (f32Add 0x3F800000 (f32Exp2 (f32Mul x 0xBFB8AA3B)))) ∧
  Row1 .veTanh 0x4B (fun x =>
    let a := f32Abs x
    if f32Lt a 0x39800000 then x
    else if f32Le 0x41100000 a then f32CopySign 0x3F800000 x
    else
      let e := f32Exp2 (f32Mul a 0xC038AA3B)
      let q := f32Div (f32Sub 0x3F800000 e) (f32Add 0x3F800000 e)
      if f32Nan q then 0x7FC00000 else f32CopySign q x)

/-- The compare rows of the vector engine write predicate d in the lanes where the guard holds: exact comparisons, false
with a NaN but for FNE and FUNORD. -/
def Obligations.VectorCompareRows : Prop :=
  CompareRow .veFeq 0x10 f32Eq ∧ CompareRow .veFne 0x11 (fun a b => !f32Eq a b) ∧ CompareRow .veFlt 0x12 f32Lt ∧
  CompareRow .veFle 0x13 f32Le ∧ CompareRow .veFunord 0x14 (fun a b => f32Nan a || f32Nan b) ∧
  CompareRow .veIeq 0x15 (fun a b => a == b) ∧ CompareRow .veIlt 0x16 (fun a b => decide (sInt 32 a < sInt 32 b)) ∧
  CompareRow .veUlt 0x17 (fun a b => decide (a < b)) ∧
  (∀ a b : Nat, f32Nan a = true ∨ f32Nan b = true → f32Eq a b = false ∧ f32Lt a b = false ∧ f32Le a b = false)

/-- The scratchpad rows of the vector engine: loads, stores and atomics, the bytes they touch, the bytes they leave, and
the stop of the command whose access leaves the command's regions. -/
def Obligations.VectorScratchpadRows : Prop :=
  LoadRow .veLd32 0x60 4 ∧ LoadRow .veLd64 0x61 8 ∧ LoadRow .veLd128 0x62 16 ∧
  StoreRow .veSt32 0x63 4 ∧ StoreRow .veSt64 0x64 8 ∧ StoreRow .veSt128 0x65 16 ∧
  AtomicRow .veAadd 0x68 (fun w b _ => (w + b) % 2 ^ 32) ∧ AtomicRow .veAsmin 0x69 (fun w b _ => sMin w b) ∧
  AtomicRow .veAsmax 0x6A (fun w b _ => sMax w b) ∧ AtomicRow .veAand 0x6B (fun w b _ => w &&& b) ∧
  AtomicRow .veAor 0x6C (fun w b _ => w ||| b) ∧ AtomicRow .veAxor 0x6D (fun w b _ => w ^^^ b) ∧
  AtomicRow .veAxchg 0x6E (fun _ b _ => b) ∧ AtomicRow .veAcas 0x6F (fun w b c => if w = c then b else w)

/-- The control rows of the vector engine: NOP and BAR_GROUP go on; BRA_ANY and BRA_ALL jump where the guard holds in any
or in every active lane; BAR_DISPATCH holds the group, and releases the fill with its last group; DMA_ISSUE makes a
descriptor outstanding; DMA_WAIT holds the group until it is done; EXIT ends the group; DRED keeps the group's partial. -/
def Obligations.VectorControlRows : Prop :=
  ∀ (v : VeAt) (f : VeFields) (s : State) (x : VeCtx),
    (veCtx s v 0x00 f = some x → exec (.veNop v f) s = .next (veNext s x f x.grp)) ∧
    (veCtx s v 0x72 f = some x → exec (.veBarGroup v f) s = .next (veNext s x f x.grp)) ∧
    (∀ off, veTarget (veProgram s x.q) x.grp.pc (veImm f) = some off →
      (veCtx s v 0x70 f = some x → x.lanes ≠ [] → exec (.veBraAny v f) s = .next (putGroup s x { x.grp with pc := off })) ∧
      (veCtx s v 0x71 f = some x → x.lanes = x.active →
        exec (.veBraAll v f) s = .next (putGroup s x { x.grp with pc := off }))) ∧
    (veCtx s v 0x70 f = some x → x.lanes = [] → exec (.veBraAny v f) s = .next (veNext s x f x.grp)) ∧
    (veCtx s v 0x71 f = some x → x.lanes ≠ x.active → exec (.veBraAll v f) s = .next (veNext s x f x.grp)) ∧
    (veCtx s v 0x73 f = some x → x.lanes = [] → exec (.veBarDispatch v f) s = .next (veNext s x f x.grp)) ∧
    (veCtx s v 0x73 f = some x → x.lanes ≠ [] →
      let wait : VeRun → List VeGroup := fun r => listMod r.groups x.k fun g => { g with barrier := true }
      let next : VeGroup → Nat := fun g => g.pc + veLen (veWord (veCode s x.q) g.pc).f
      exec (.veBarDispatch v f) s = .next (nextFill (modInst s x.q.ref fun i =>
        if (wait i.ve).all (fun g => g.barrier) = true then
          { i with ve := { i.ve with
              groups := (wait i.ve).map fun g =>
                { g with
                  barrier := false
                  pc := next g
                  exited := g.exited || decide (x.head.codeBytes ≤ next g) } } }
        else { i with ve := { i.ve with groups := wait i.ve } }) x.q.ref)) ∧
    (∀ (l : Nat) (r : List Nat), veCtx s v 0x74 f = some x → x.lanes = l :: r → x.q.inst.dma.jobs.length < 16 →
      let d := progBytes s x.q.loop.tenant x.q.cmd.spec (x.head.desc + 48 * f.imm.toNat) 48
      let d' := le8 (leAt d 0 8 + x.a f l) ++ le8 (leAt d 8 8 + x.b f l) ++ d.drop 16
      descFault (descOf d') = none → (descOf d').hbm.findSome? (outside x.q) = none →
      descPadsOk s x.q (descOf d') = true →
      exec (.veDmaIssue v f) s = .next (veNext (modInst s x.q.ref fun i => { i with dma := { i.dma with
        next := f.imm.toNat + 1
        jobs := i.dma.jobs ++ [{ index := f.imm.toNat, group := x.gid, desc := d' }] } }) x f x.grp)) ∧
    (veCtx s v 0x75 f = some x → veWaitOver x f.imm.toNat = true →
      exec (.veDmaWait v f) s = .next (veNext s x f x.grp)) ∧
    (veCtx s v 0x75 f = some x → x.lanes ≠ [] → veWaitOver x f.imm.toNat = false → exec (.veDmaWait v f) s = .next s) ∧
    (veCtx s v 0x76 f = some x → x.lanes ≠ [] →
      exec (.veExit v f) s = .next (putGroup s x { x.grp with exited := true })) ∧
    (veCtx s v 0x53 f = some x → ∃ u, exec (.veDred v f) s = .next (veNext u x f x.grp) ∧
      u = modInst s x.q.ref fun i => { i with ve := { i.ve with
        partials := i.ve.partials.filter (fun e => !(e.value = f.imm.toNat % 64 && e.group = x.gid))
          ++ [{ value := f.imm.toNat % 64, group := x.gid, core := v.core.val
                lanes := (laneValues x.head.op x f).map (BitVec.ofNat 32) }] } }) ∧
    (∀ (mk : VeAt → VeFields → Instr) (op : Nat), veCtx s v op f = none →
      (mk, op) ∈ [(Instr.veNop, 0x00), (.veBarGroup, 0x72), (.veBraAny, 0x70), (.veBraAll, 0x71), (.veBarDispatch, 0x73),
        (.veDmaIssue, 0x74), (.veDmaWait, 0x75), (.veExit, 0x76), (.veDred, 0x53)] → exec (mk v f) s = .next s)

/-! ## Raster, halos and vision -/

/-- The raster front end takes the packet it stands before and goes on behind it: STATE becomes the raster state, triangles
and rectangles become primitives of their tiles under the bin limit, END ends the list, NOP changes nothing else. -/
def Obligations.RasterPackets : Prop :=
  ∀ (s : State) (ref : CmdRef) (size : Nat) (q : Placed) (body : List Byte),
    let place := q.inst.ras.pos + size
    (PacketAhead s ref 1 size q body →
      exec (.dlState ref) s = .next (behindPacket (modRas s ref fun r => { r with state := body }) ref place)) ∧
    (PacketAhead s ref 2 size q body →
      let h := rasHeadOf s q
      let n := leAt body 0 4
      let ps := ((List.range n).map fun k => triPieces h q.inst.ras.state body (q.inst.ras.count + k) k).flatten
      (binOverflow h (ps.reverse ++ q.inst.ras.prims) = false →
        exec (.dlTriangles ref) s = .next (behindPacket (modRas s q.ref fun r =>
          { r with prims := ps.reverse ++ q.inst.ras.prims, count := r.count + n }) ref place)) ∧
      (binOverflow h (ps.reverse ++ q.inst.ras.prims) = true →
        exec (.dlTriangles ref) s =
          .next (behindPacket (failStep s q.ref.loop stLimitExceeded dtBinOverflow q.ref.cmd) ref place))) ∧
    (PacketAhead s ref 3 size q body →
      let h := rasHeadOf s q
      let n := leAt body 0 4
      let ps := (List.range n).map fun k => rectPrim h q.inst.ras.state body (q.inst.ras.count + k) k
      (binOverflow h (ps.reverse ++ q.inst.ras.prims) = false →
        exec (.dlRects ref) s = .next (behindPacket (modRas s q.ref fun r =>
          { r with prims := ps.reverse ++ q.inst.ras.prims, count := r.count + n }) ref place)) ∧
      (binOverflow h (ps.reverse ++ q.inst.ras.prims) = true →
        exec (.dlRects ref) s =
          .next (behindPacket (failStep s q.ref.loop stLimitExceeded dtBinOverflow q.ref.cmd) ref place))) ∧
    (PacketAhead s ref 4 size q body →
      (binOverflow (rasHeadOf s q) q.inst.ras.prims = false →
        exec (.dlEnd ref) s = .next (behindPacket (modRas s ref fun r => { r with ended := true }) ref place)) ∧
      (binOverflow (rasHeadOf s q) q.inst.ras.prims = true →
        exec (.dlEnd ref) s =
          .next (behindPacket (failStep s q.ref.loop stLimitExceeded dtBinOverflow q.ref.cmd) ref place))) ∧
    (PacketAhead s ref 5 size q body → exec (.dlNop ref) s = .next (behindPacket s ref place))

/-- Halo streams: a drained row, with its scales, goes into its slot of the consumer's scratchpad and takes a credit
while the producer still runs, and without a credit the sender waits; the consumer takes the row it expects into its
ring, frees the slot, and a credit returns; a wait that runs out ends the pair; an error of the reel's memory is
counted, and ends the command where it cannot be corrected. That rows from above are taken before rows from below, and that
an in-place consumer fails its step, are the model's readings (log entries 29 and 30). The vision front end streams its next
band into the consumer's slot once the consumer has freed it, and waits until then; a wait that runs out ends producer and
consumer; an error of its tile memory is handled as one of a scratchpad. An in-place producer that streams anew sends the
bands it has kept (the model's reading, log entry 23). -/
def Obligations.RowStreams : Prop :=
  ((∀ (ref : CmdRef) (d : HaloDir) (s : State) (x : HaloCtx),
     let u := pumpSender s ref d
     let r := haloOf x.q.inst d
     haloCtx u ref d = some x → rowDrained x r.sent = true → r.sent < x.rows.1 →
     (0 < r.credits →
       let a := slotAddr x d (r.sent + 1)
       let y := x.rows.2 + r.sent
       exec (.haloRowSend ref d) s = .next (modInst
         (padWrite (padWrite u x.q.inst.core (a + 64) (fit x.b.rowBytes (haloRowData u x y))) x.q.inst.core a
           (le4 (r.sent + 1) ++ le4 y ++ by1 1 ++ zeros 55)) x.q.ref
         fun i => setHalo i d { r with sent := r.sent + 1, credits := r.credits - 1, waitCredit := none })) ∧
     (r.credits = 0 →
       exec (.haloRowSend ref d) s = .next (modInst u x.q.ref fun i =>
         setHalo i d { r with waitCredit := some (r.waitCredit.getD (haloDue u)) }))) ∧
   (∀ (ref : CmdRef) (d : HaloDir) (s : State) (x : HaloCtx),
     let u := pumpRun s ref
     let r := haloOf x.q.inst d
     let y := x.rows.2 + r.taken
     let a := slotAddr x d (r.taken + 1)
     let c := x.q.inst.core
     haloCtx u ref d = some x → r.taken < x.rows.1 → ringFree x.q x.h y = true →
     (d = .below → aboveTaken u x.q x.h = true) →
     (leNat (padRead u c (a + 8) 1) = 1 → leNat (padRead u c a 4) = r.taken + 1 →
       let ring := padWrite u c (ringPos x.h y) (padRead u c (a + 64) (ringRow x.h))
       exec (.haloSlotRead ref d) s = .next (modInst
         (padWrite ((List.range (scaleRows x.h)).foldl (fun w g => padWrite w c (scaleAt x.h g y)
             (padRead u c (a + 64 + ringRow x.h + g * roundUp (spanScaleBytes x.h) 64) (spanScaleBytes x.h))) ring)
           c (a + 8) [0]) x.q.ref
         fun i => setHalo i d { r with taken := r.taken + 1, waitSlot := none })) ∧
     (¬ (leNat (padRead u c (a + 8) 1) = 1 ∧ leNat (padRead u c a 4) = r.taken + 1) →
       exec (.haloSlotRead ref d) s = .next (modInst u x.q.ref fun i =>
         setHalo i d { r with waitSlot := some (r.waitSlot.getD (u.now, haloTicks u)) }))) ∧
   (∀ (ref : CmdRef) (d : HaloDir) (s : State) (x : HaloCtx), haloCtx s ref d = some x →
     let r := haloOf x.q.inst d
     (r.credits + r.sent < r.taken + x.b.slots →
       exec (.haloCredit ref d) s = .next (modInst s ref fun i =>
         setHalo i d { r with credits := r.credits + 1, waitCredit := none })) ∧
     (∀ from_ span, r.waitSlot = some (from_, span) → isRun x.from_.inst = true →
       span ≤ s.now - max from_ x.from_.inst.since →
       exec (.haloTimeout ref d .slot) s = .next (haloTimeout s x)) ∧
     (∀ t, r.waitCredit = some t → isRun x.q.inst = true → t ≤ s.now →
       exec (.haloTimeout ref d .credit) s = .next (haloTimeout s x))) ∧
   (∀ (ref : CmdRef) (s : State) (q : Placed), isRunning s = true → findInst s ref = some q → isRun q.inst = true →
     (haloProducer s q.loop.tenant q.step q.ref.cmd).isSome = true →
     let w := regW s aReelEcc
     exec (.reelEccError ref true) s = .next (setRegW s aReelEcc (putBits w 15 0 (satAdd (bits w 15 0) 1 0xFFFF))) ∧
     (inPlace q.cmd.spec = false → exec (.reelEccError ref false) s =
       .next (killInsts (setRegW s aReelEcc (putBits w 31 16 (satAdd (bits w 31 16) 1 0xFFFF))) [ref] kcEcc)) ∧
     (inPlace q.cmd.spec = true → exec (.reelEccError ref false) s =
       .next (failStep (eccEvent (setRegW s aReelEcc (putBits w 31 16 (satAdd (bits w 31 16) 1 0xFFFF))) q 1 1
         dtEccScratchpad 0) ref.loop stEccUncorrectable dtEccScratchpad ref.cmd)))) ∧
  (∀ (ref : CmdRef) (s : State) (q : Placed), isRunning s = true → findInst s ref = some q → isRun q.inst = true →
     q.cmd.spec.engine = 6 ∨ q.cmd.spec.engine = 7 →
     let h := visHeadOf s q.loop.tenant q.cmd.spec
     exec (.tileMemoryEcc ref) s = .next (eccPad s q) ∧
     (∀ (c : Placed) (b : Nat × Nat × Nat), consumerOf s q h = some c → (bands h)[q.inst.strm.bands]? = some b →
       let slot := h.streamAddr + q.inst.strm.bands % h.slots * slotBytes h
       let old := q.inst.strm.kept[q.inst.strm.bands]?
       let data := old.getD (bandBytes s q h b)
       (leNat (padRead s c.inst.core (slot + 8) 1) = 0 → old.isSome = true ∨ firstStop s q (sourceReads h) = none →
         exec (.streamBandWrite ref) s = .next (modInst
           (padWrite (padWrite s c.inst.core (slot + 64) data) c.inst.core slot
             (le4 (q.inst.strm.bands + 1) ++ le2 b.2.1 ++ le2 b.2.2 ++ by1 1 ++ by1 b.1 ++ zeros 54)) ref
           fun i => { i with strm := { i.strm with
             bands := q.inst.strm.bands + 1
             wait := none
             kept := if old.isNone ∧ inPlace q.cmd.spec = true then q.inst.strm.kept ++ [data] else q.inst.strm.kept } })) ∧
       (leNat (padRead s c.inst.core (slot + 8) 1) ≠ 0 →
         exec (.streamBandWrite ref) s = .next (modInst s ref fun i => { i with strm := { i.strm with
           wait := some (i.strm.wait.getD (s.now + usTicks * rField s aVisConfig 15 0)) } }))) ∧
     (∀ (c : Placed) (due : Nat), consumerOf s q h = some c → q.inst.strm.wait = some due → isRun c.inst = true →
       due ≤ s.now →
       leNat (padRead s c.inst.core (h.streamAddr + q.inst.strm.bands % h.slots * slotBytes h + 8) 1) ≠ 0 →
       exec (.streamTimeout ref) s = .next (killInsts (incReg s aVisTimeouts 1 cap32) [ref, c.ref] kcHalo)))

/-! ## Frame generation and Galliard -/

/-- Frame generation of a pipe: a step becomes eligible when the pipe's next frame leaves it its lead and its budget; a
capture that holds is stored in its buffer, and one that does not is counted and its buffer freed; a publish copies the
candidate into the bank that is not shown. What becomes of a capture or a candidate that an uncorrectable error touches is
the model's choice (log entry 33). -/
def Obligations.FrameGeneration : Prop :=
  (∀ (p : Fin 8) (s : State) (l : Loop) (st : Step) (r : List Step), isRunning s = true →
    getLoop s (lcLoop s p) = some l → l.queue = st :: r → (getFg s p).bound = true → st.ready.isSome = true →
    st.eligible = none → st.failing = none →
    (∀ c, (getFg s p).claims.find? (fun c => c.step = st.order ∧ c.sub = 0) = some c →
      frLe (frSub (frSub c.fmax (usNs c.lead)) (budgetNs s p)) (pipeNow s p) = true →
      exec (.fgStepEligible p) s = .next (fgEligible s p (lcLoop s p) l st (some c))) ∧
    ((getFg s p).claims.find? (fun c => c.step = st.order ∧ c.sub = 0) = none →
      exec (.fgStepEligible p) s = .next (if (getPipe s p).state = 2 then claimFrames s p st.order (pipeNow s p)
        else fgEligible s p (lcLoop s p) l st none))) ∧
  (∀ (p : Fin 8) (s : State) (t b ref last render : Nat) (table : List Byte) (reads : List Extent), isRunning s = true →
    pipeHolder s p = some t → openCapture (getFg s p) = some (b, ref, last, render, table, reads) →
    restarting s 2 = false →
    (badInExtents s t reads = false → captureOk s t p table reads = true → exec (.captureComplete p) s = .next (rePromote
      (modFg ((captureRuns s t p ref last render table).foldl
          (fun s r => storeBytes s t (fgCapBuf s p b + r.1) r.2) s) p
        fun g => { setCap g b (.held ref) with capOrder := g.capOrder ++ [b] }) p)) ∧
    (badInExtents s t reads = false → captureOk s t p table reads = false →
      exec (.captureComplete p) s = .next (refresh (capFail s p b))) ∧
    (badInExtents s t reads = true → exec (.captureComplete p) s = .next (refresh (capFail (countUncorr s) p b)))) ∧
  (∀ (p : Fin 8) (s : State), isRunning s = true → restarting s 2 = false → (getFg s p).publish = 1 →
    (getFg s p).pubWait = [] →
    exec (.publishCopyStart p) s = .next (modFg s p fun x => { x with publish := 2 })) ∧
  (∀ (p : Fin 8) (s : State) (t : Nat), isRunning s = true → restarting s 2 = false → pipeHolder s p = some t →
    (getFg s p).publish = 2 →
    (badLineIn s t (fgBank s p 2) (bankBytes s p) = none →
      exec (.publishCopyDone p) s = .next (modFg (storeBytes s t (fgBank s p (1 - (getFg s p).bank))
        (hbmRead s t (fgBank s p 2) (bankBytes s p))) p fun x => { x with publish := 3 })) ∧
    ((badLineIn s t (fgBank s p 2) (bankBytes s p)).isSome = true →
      exec (.publishCopyDone p) s = .next (incReg (modFg (countUncorr s) p fun x => { x with publish := 0 })
        (fgRolled p) 1 cap32)))

/-- At the deadline of a frame Galliard decides it: a committed buffer that is due is shown and becomes the anchor;
with none due Galliard holds where a reason of R354 stands, and the last image is repeated where Galliard is off or its
tenant's pipes are suppressed. Where the pipe was not due, nothing is decided. What a decision sees of the buffers of a frame
start that comes early is the model's reading (log entry 33). -/
def Obligations.GalliardDecides : Prop :=
  ∀ (p : Fin 8) (s : State), isRunning s = true →
    (let x := getPipe s p
     x.state = 2 → x.decided = none → frLe x.time.deadline (pipeNow s p) = true →
      exec (.galliardDecision p) s =
        .next (wallReady (decideFrame s p x.time.deadline ((nextStart s p).getD x.time.fmax)))) ∧
    ((getPipe s p).state ≠ 2 → exec (.galliardDecision p) s = .next (wallReady s)) ∧
    (∀ (a f : Frac),
      let x := getPipe s p
      let cut := frMin x.time.deadline a
      (∀ b, dueBuffer x cut = some b →
        (getPipe (decideFrame s p a f) p).decided = some (.show b.va b.order) ∧
        (getGal (decideFrame s p a f) p).anchor = some b.va) ∧
      (dueBuffer x cut = none → bit (regW s (aGal p 0)) 31 = false ∨ suppressed s p = true →
        (getPipe (decideFrame s p a f) p).decided = some .repeat_) ∧
      (∀ r, let u := decideFrame s p a f
        x.fg.bound = false → nextClaim x.fg.claims = none → dueBuffer x cut = none → bit (regW s (aGal p 0)) 31 = true →
        suppressed s p = false → holdReason s p = some r →
        (getPipe u p).decided = some (.hold r)))

/-! ## Sensors -/

/-- A CSI-2 packet at a receiver that is on and linked: an uncorrectable header is counted and the packet dropped, a
corrected one is counted, used, and marks the records of its frame; a frame start loses what was open and opens a record
in each camera context that takes one; a long packet of a pixel type adds its row, and one whose CRC or length is wrong
spoils the frame; a frame end writes the records out. That a packet error spoils the whole frame, and that a source is noted
before the records of its frame end, are the model's readings (log entry 38). -/
def Obligations.CsiPackets : Prop :=
  ∀ (rx : Fin 12) (s : State), isRunning s = true → rxOn s rx = true → 2 ≤ (getRx s rx).state →
    let u := modRx s rx fun x => { x with state := 3, lastPacket := s.now }
    (∀ (h : CsiHeader), h ≠ .uncorrectable →
     let fixed := decide (h = .corrected)
     let w := if fixed then countRx u rx 24 else u
     (∀ (vc : Fin 4) (n : Half),
       let u1 := (camerasOn w rx vc).foldl (fun s c => loseCurrent s c hrIncomplete) w
       let u2 := setFrame u1 rx vc (some { number := n.toNat, start := u1.now, fixed := fixed })
       exec (.csiFrameStart rx vc n h) s =
         .next (((camerasOn u2 rx vc).filter (ctxTakes u2)).foldl (fun s c => openRecord s c n.toNat) u2)) ∧
     (∀ (vc : Fin 4) (dt : BitVec 6) (wc : Half) (data : List Byte),
       let w := markFixed w rx vc fixed
       (∀ ok, pixelBits dt.toNat = none → exec (.csiLongPacket rx vc dt h wc ok data) s = .next (countRx w rx 0)) ∧
       (∀ f, (pixelBits dt.toNat).isSome = true → frameOf w rx vc = some f →
         f.types.find? (fun x => x.1 = dt.toNat) = none →
         let u1 := setFrame (touchSource w rx vc dt.toNat f.start) rx vc (some { f with
           types := f.types ++ [(dt.toNat, wc.toNat, 1)] })
         exec (.csiLongPacket rx vc dt h wc true data) s =
           .next (((camerasOn u1 rx vc).filter fun c => ctxSelect u1 c % 64 = dt.toNat).foldl
             (fun s c => addRow s c dt.toNat wc.toNat (storedRow dt.toNat data)) u1)) ∧
       (∀ f, (pixelBits dt.toNat).isSome = true → frameOf (countRx w rx 8) rx vc = some f →
         exec (.csiLongPacket rx vc dt h wc false data) s =
           .next (spoilFrame (touchSource (countRx w rx 8) rx vc dt.toNat f.start) rx vc f))) ∧
     (∀ (vc : Fin 4),
       (frameOf w rx vc = none → exec (.csiFrameEnd rx vc h) s = .next w) ∧
       (∀ f, frameOf w rx vc = some f →
         let u1 := setFrame w rx vc none
         let u2 := if f.bad then u1 else f.types.foldl (fun s x => noteSource s rx vc f x) u1
         exec (.csiFrameEnd rx vc h) s = .next ((camerasOn u2 rx vc).foldl (fun s c =>
           writeRecord (modCtx s c fun x => { x with current := x.current.map fun y =>
             { y with last := tbStamp s (ctxBase s c), fixed := f.fixed || fixed } }) c) u2)))) ∧
    (∀ (vc : Fin 4) (n wc : Half) (dt : BitVec 6) (ok : Bool) (data : List Byte),
      exec (.csiFrameStart rx vc n .uncorrectable) s = .next (countRx u rx 16) ∧
      exec (.csiLongPacket rx vc dt .uncorrectable wc ok data) s = .next (countRx u rx 16) ∧
      exec (.csiFrameEnd rx vc .uncorrectable) s = .next (countRx u rx 16)) ∧
    (∀ (vcExt : BitVec 4) (dt : BitVec 6),
      exec (.csiIgnoredPacket rx vcExt dt .uncorrectable) s = .next (countRx u rx 16) ∧
      (4 ≤ vcExt.toNat → exec (.csiIgnoredPacket rx vcExt dt .good) s = .next (countRx u rx 0)) ∧
      (vcExt.toNat < 4 → ignoredType dt.toNat = true →
        exec (.csiIgnoredPacket rx vcExt dt .good) s = .next u ∧
        exec (.csiIgnoredPacket rx vcExt dt .corrected) s = .next (markFixed (countRx u rx 24) rx vcExt.toNat true)))

/-- The clocks and links of the sensors: a camera frame that takes too long is lost as incomplete; a source unseen for the
lost time is taken off the table with a source event; a receiver's link comes and goes with an event, and falls silent
without packets; a full FIFO loses the open records behind it.
An audio port locks after four frames of the right length in a row, adds the samples of a locked frame to the records of
its arrays, and unlocks on a wrong length or a missing sync; its bit clock comes and goes with an event. That a frame's
samples are taken at its sync, and that a lost record counts at once, are the model's readings (log entry 38). -/
def Obligations.SensorPorts : Prop :=
  ((∀ (c : Fin 48) (s : State) (r : Record), isRunning s = true → (getCtx s c).current = some r → ctxKind s c = 1 →
     r.opened + frameTicks s ≤ s.now → exec (.frameTimeout c) s = .next (loseCurrent s c hrIncomplete)) ∧
   (∀ (rx : Fin 12) (vc : Fin 4) (dt : BitVec 6) (s : State) (q : Source), isRunning s = true →
     (getRx s rx).sources.find? (fun q => q.vc = vc.val && q.dataType = dt.toNat) = some q → q.seen + lostTicks s ≤ s.now →
     mayCarry s rx vc = false →
     ∃ t, exec (.sourceLost rx vc dt) s = .next t ∧
       (∀ z ∈ (getRx t rx).sources, ¬ (z.vc = vc.val ∧ z.dataType = dt.toNat)) ∧
       t = sourceEvent (modRx s rx fun y => { y with
             sources := y.sources.filter fun z => !(z.vc = vc.val && z.dataType = dt.toNat) })
           ((camerasOn (modRx s rx fun y => { y with
               sources := y.sources.filter fun z => !(z.vc = vc.val && z.dataType = dt.toNat) }) rx vc).filter fun c =>
             ctxSelect s c % 64 = dt.toNat)
           (sourcePayload s 0 rx 1 vc dt.toNat q.words q.rows)) ∧
   (∀ (rx : Fin 12) (mbps : Half) (s : State), isRunning s = true → rxOn s rx = true → bit s.chip.clk 6 = true →
     (getRx s rx).state < 2 →
     exec (.csiLinkChange rx true mbps) s =
       .next (linkChange (modRx s rx fun x => { x with state := 2, mbps := mbps.toNat }) rx true)) ∧
   (∀ (rx : Fin 12) (mbps : Half) (s : State), isRunning s = true → rxOn s rx = true → 2 ≤ (getRx s rx).state →
     exec (.csiLinkChange rx false mbps) s =
       .next (linkChange (modRx s rx fun x => { x with state := 1, mbps := 0 }) rx false)) ∧
   (∀ (rx : Fin 12) (s : State), isRunning s = true → (getRx s rx).state = 3 → (getRx s rx).lastPacket + lostTicks s ≤ s.now →
     exec (.noPacketsTimeout rx) s = .next (modRx s rx fun y => { y with state := 2 })) ∧
   (∀ (rx : Fin 12) (s : State), isRunning s = true → exec (.fifoOverflow (.csi rx)) s =
     .next ((camerasOf s rx).foldl (fun s c => loseCurrent s c hrOverflow) s)) ∧
   (∀ (p : Fin 6) (s : State), isRunning s = true → exec (.fifoOverflow (.tdm p)) s =
     .next ((arraysOn s p).foldl (fun s c => loseCurrent s c hrOverflow) s))) ∧
  (∀ (p : Fin 6) (s : State), isRunning s = true →
     let x := getTdm s p
     (∀ (n : Nat) (w : List Word) (hz : Nat), tdmOn s p = true → 2 ≤ x.state →
       let u := modTdm s p fun y => { y with last := s.now, clocks := n }
       (x.state = 3 → n = portBits s p →
         let v := modTdm u p fun y => { y with hz := hz }
         exec (.tdmFrame p n w hz) s = .next ((arraysOn v p).foldl (fun s c => addSamples s p w c) v)) ∧
       (x.state = 3 → n ≠ portBits s p → exec (.tdmFrame p n w hz) s = .next (unlockPort u p)) ∧
       (x.state = 2 → n = portBits s p → 4 ≤ x.run + 1 → exec (.tdmFrame p n w hz) s =
         .next (portEvent (modTdm u p fun y => { y with state := 3, run := x.run + 1, hz := hz }) p 5)) ∧
       (x.state = 2 → n = portBits s p → x.run + 1 < 4 → exec (.tdmFrame p n w hz) s =
         .next (modTdm u p fun y => { y with run := x.run + 1 })) ∧
       (x.state = 2 → n ≠ portBits s p → exec (.tdmFrame p n w hz) s = .next (modTdm u p fun y => { y with run := 0 }))) ∧
     (x.state = 3 → twoPeriods s p = true → exec (.tdmSyncTimeout p) s = .next (unlockPort s p)) ∧
     (x.state = 2 → twoPeriods s p = true → exec (.bitClockLoss p) s =
       .next (portEvent (modTdm s p fun y => { y with state := 1, run := 0 }) p 4)) ∧
     (x.state = 1 → exec (.bitClockDetected p) s =
       .next (portEvent (modTdm s p fun y => { y with state := 2, run := 0 }) p 3)))

/-- SNS_FEED adds the bytes of a chunk to the record of a host-fed context, opens the record with the first and writes it
out with the last; SNS_SCAN answers the source table and changes nothing but the session. -/
def Obligations.SensorRequests : Prop :=
  (∀ (rq : Req) (a : SnsFeedArgs) (s₀ : State) (ss : Session),
    let s := hear rq s₀
    Served s (.snsFeed rq a) opSnsFeed rq ss →
    let c := a.context.toNat
    firstFault (feedChecks s ss.tenant a) = none →
    (bit a.flags.toNat 0 = true → slotUsable s ss.tenant c (getCtx s c).nextSlot = true) →
    (bit a.flags.toNat 0 = false → continues (getCtx s c) a = true) →
    let u := if bit a.flags.toNat 0 = true then feedOpen s c a else s
    ∀ r, (getCtx u c).current = some r → r.bytes + a.data.length ≤ slotRoom u c →
      let v := modCtx u c fun x => { x with current := some { r with
        bytes := r.bytes + a.data.length, last := tbStamp u (ctxBase u c), data := a.data :: r.data } }
      exec (.snsFeed rq a) s₀ =
        .next (replyOk (if bit a.flags.toNat 1 = true then writeRecord v c else v) opSnsFeed rq [])) ∧
  (∀ (rq : Req) (s₀ : State) (ss : Session),
    let s := hear rq s₀
    Served s (.snsScan rq) opSnsScan rq ss →
    exec (.snsScan rq) s₀ = .next (replyOk s opSnsScan rq (snsScanReply s)))

/-! ## Data decode -/

/-- DEC_OPEN opens the lowest free stream; DEC_PUSH makes bytes of the ring known and answers the counters, and with the
end flag completes when the stream is done; DEC_CLOSE is ACCEPTED, aborts a push that waits for the end, drops the stream's
records and completes when no lane works on it (the model's readings: log entry 40). -/
def Obligations.DecodeRequests : Prop :=
  (∀ (rq : Req) (a : DecOpenArgs) (s₀ : State) (ss : Session) (i : Nat),
    let s := hear rq s₀
    Served s (.decOpen rq a) opDecOpen rq ss →
    a.reserved0 = 0 → a.reserved1 = 0 → decFieldsOk a = true →
    decRegionsOk s ss.tenant { tenant := ss.tenant, args := a } = true → freeStream s = some i →
    exec (.decOpen rq a) s₀ =
      .next (replyOk (setStream s i { tenant := ss.tenant, args := a }) opDecOpen rq (by1 i ++ zeros 3))) ∧
  (∀ (rq : Req) (a : DecPushArgs) (s₀ : State) (ss : Session) (x : Stream),
    let s := hear rq s₀
    Served s (.decPush rq a) opDecPush rq ss →
    isStreamOf s ss.tenant a.stream.toNat = some x → a.reserved0 = 0 → a.reserved1 = 0 → a.flags.toNat < 2 →
    x.endPushed = false → x.pushed - x.consumed + a.bytes.toNat ≤ ringBytes x →
    let y := parse s { x with pushed := x.pushed + a.bytes.toNat }
    (a.flags = 0 → exec (.decPush rq a) s₀ = .next (deliverAll
      (replyOk (setStream s a.stream.toNat y) opDecPush rq (le8 y.pushed ++ le8 y.consumed)) a.stream.toNat)) ∧
    (a.flags = 1 → asyncCount s ss.tenant rq.session.toNat < 4096 → exec (.decPush rq a) s₀ = .next (deliverAll
      (setStream (answered s opDecPush rq ss.tenant stAccepted (le8 y.pushed ++ le8 y.consumed)) a.stream.toNat
        { y with endPushed := true, ending := some (asyncOf opDecPush rq), state := if y.state = 1 then 2 else y.state })
      a.stream.toNat))) ∧
  (∀ (rq : Req) (id : Byte) (s₀ : State) (ss : Session) (x : Stream),
    let s := hear rq s₀
    Served s (.decClose rq id 0) opDecClose rq ss →
    isStreamOf s ss.tenant id.toNat = some x → asyncCount s ss.tenant rq.session.toNat < 4096 →
    let u := answered s opDecClose rq ss.tenant stAccepted []
    let v := match x.ending with | some a => complete u ss.tenant a stAborted 0 [] | none => u
    exec (.decClose rq id 0) s₀ = .next (closeDone (setStream v id.toNat
      { x with state := 5, records := [], ending := none, closing := some (asyncOf opDecClose rq) }) id.toNat))

/-- The decode lanes: a record is dispatched in order into the next output slot; an idle lane takes the next record of the
tenant whose turn it is; the record's image lands in its slot when the lane is done, and data that breaks the codec's rules
ends it with DATA_CORRUPT, and data that an uncorrectable error touches with an ECC event; a lane whose budget runs out ends its record with TIMEOUT (log entries 39 and 40). -/
def Obligations.DecodeLanes : Prop :=
  (∀ (id : Fin 64) (s : State) (x : Stream) (k : Nat) (r : DecRecord), isRunning s = true → getStream s id = some x →
    x.records.findIdx? (fun r => !r.dispatched) = some k → x.records[k]? = some r → x.state ≠ 5 →
    mayDispatch s x k r = true →
    exec (.recordDispatch id) s = .next (deliverAll (setStream s id { x with
      records := x.records.set k { r with
        dispatched := true
        slot := x.nextSlot
        done := if r.bad then some (stBadParam, dtRecordFormat) else none }
      nextSlot := (x.nextSlot + 1) % max 1 x.args.outSlots.toNat }) id)) ∧
  (∀ (l : Fin 8) (s : State) (t id : Nat) (x : Stream) (r : DecRecord), isRunning s = true → (getLane s l).job = none →
    (getLane s l).func.phase = .enabled → pickStream s = some (t, id) → getStream s id = some x →
    waitingRecord x = some r →
    let bytes := recordBytes s x r
    let c := claimsOf r.codec (payloadOf r bytes)
    let v := modRecord (setLane { s with dec := { s.dec with
        lastTenant := t, lastStream := tabSet s.dec.lastStream t id } } l { getLane s l with job := some (id, r.start) })
      id r.start fun y => { y with
        lane := some l.val
        started := tbNs s 0
        budget := 1000000 * rField s (aDecTenant t) 31 22
        width := c.size.1
        height := c.size.2 }
    (∀ va, recordBad v x r = some va → exec (.laneStart l) s = .next (eccLane v l va)) ∧
    (recordBad v x r = none → claimFault v x r bytes c = none → exec (.laneStart l) s = .next v) ∧
    (∀ e, recordBad v x r = none → claimFault v x r bytes c = some e → exec (.laneStart l) s =
      .next (endLane (if limitDetail e.2 then incReg v aDecLimits 1 cap32 else v) l e.1 e.2 false))) ∧
  (∀ (l : Fin 8) (s : State) (id : Nat) (x : Stream) (r : DecRecord), isRunning s = true →
    laneRecord s l = some (id, x, r) →
    let bytes := recordBytes s x r
    let image := if r.codec = 1 then jpegDecode (payloadOf r bytes) else pngDecode (payloadOf r bytes)
    (∀ va, recordBad s x r = some va → exec (.decodeFinish l) s = .next (eccLane s l va)) ∧
    (recordBad s x r = none → image = none →
      exec (.decodeFinish l) s = .next (endLane s l stBadParam dtDataCorrupt false)) ∧
    (∀ m, recordBad s x r = none → image = some m →
      let a := augOf x r (blockOf r bytes) m.width m.height
      let z := augSize a m.width m.height
      exec (.decodeFinish l) s = .next (endLane (modRecord
        ((imageRows x m a).foldl (fun s p => storeBytes s x.tenant (outSlotVa x r.slot + p.1) p.2) s) id r.start
        fun r => { r with width := z.1, height := z.2, channels := m.channels, ops := a.ops, seeded := a.seeded })
        l stOk 0 false)) ∧
    (r.started + r.budget ≤ tbNs s 0 →
      exec (.budgetTimeout l) s = .next (endLane (incReg s aDecTimeouts 1 cap32) l stTimeout 0 false)))

/-! ## Display -/

/-- A display pipe: at its frame start the next frame begins; a tearing-effect edge that counts sets the next start; a
panel that gives none in one and a half periods is driven on time, with an error and a link event; each active line is
composed of the planes and sent while the pipe's link carries it. That a frame start before its time does nothing is the
model's choice (log entry 3), that an edge whose frame start is still to come is kept its reading, and a compressed line's
bytes are free (log entry 36). -/
def Obligations.DisplayPipes : Prop :=
  (∀ (p : Fin 8) (s : State) (f : Frac), isRunning s = true → pipeOn s p = true → nextStart s p = some f →
    (frLe f (pipeNow s p) = true → exec (.frameStart p) s = .next (startFrame s p f)) ∧
    (frLe f (pipeNow s p) = false → exec (.frameStart p) s = .next s)) ∧
  (∀ (u : Fin 2) (rising : Bool) (s : State) (p : Nat), isRunning s = true → tePipe s u = some p →
    rising ≠ bit (regW s (aPipe p 0x2C)) 0 → teAccepted s p (pipeNow s p) = true →
    (getTx s (4 + u)).teLost = false → (getPipe s p).state ≠ 2 →
    exec (.teEdge u rising) s = .next (modPipe s p fun y => { y with time := { y.time with
      teEdges := keptEdges y.time.last (teDelay s p) (pipeNow s p :: y.time.teEdges)
      next := some (y.time.next.getD (frAdd (pipeNow s p) (teDelay s p))) } })) ∧
  (∀ (p : Fin 8) (s : State), isRunning s = true → pipeOn s p = true → syncMode s p = 2 →
    (getPipe s p).time.next = none → (getTx s (pipeTx s p)).teLost = false →
    let x := getPipe s p
    let limit := frAdd (x.time.teEdges.headD x.time.last)
      (fr ((timing s p).period.num * 3) ((timing s p).period.den * 2))
    frLe limit (pipeNow s p) = true →
    let v := modPipe (dspErr s p 4) p fun y => { y with time := { y.time with next := some (frAdd limit (teDelay s p)) } }
    exec (.teTimeout p) s = .next (linkEvent
      (setTx v (pipeTx s p) { getTx v (pipeTx s p) with teLost := true }) (pipeTx s p) 5 p)) ∧
  (∀ (p : Fin 8) (fetch : List LineFetch) (s : State), isRunning s = true → pipeOn s p = true →
    (getPipe s p).line < (timing s p).vactive → regW s (aPipe p 0x4C) ≠ 0 →
    frLt (pipeNow s p) (frAdd (getPipe s p).time.last (frScale (timing s p).line (getPipe s p).line)) = false →
    (composeLine s p (getPipe s p).line fetch).2 = [] → (getPipe s p).carried = true →
    ∃ t, exec (.lineStart p fetch) s = .next t ∧ (getPipe t p).line = (getPipe s p).line + 1 ∧
      t.hbm = s.hbm ∧ t.regs = s.regs ∧
      (bit (regW s (aPipe p 8)) 0 = false → t.sent = .line p (getPipe s p).line (portOf s p)
        ((composeLine s p (getPipe s p).line fetch).1.map (sentPixel (bit (regW s (aPipe p 8)) 1))) :: s.sent) ∧
      (bit (regW s (aPipe p 8)) 0 = true → t.sent = .dscLine p (getPipe s p).line (portOf s p)
        (fit (dscLineBytes (regW s) p) (Config.freeBytes s.fresh)) :: s.sent ∧ t.fresh = s.fresh + 1))

/-- DisplayPort links: plug, unplug and a lost link give their link events and start or end training; training that
succeeds, with the reference locked and within what register and sink allow, gives the link its rate and lanes; a change of
the transmitter's state takes its time; training waits while the display processor restarts (R542). -/
def Obligations.DisplayLinks : Prop :=
  ∀ (x : Fin 4) (s : State), isRunning s = true →
    (∀ c, exec (.hpdChange x (some c)) s = .next (stampTx s (startTraining (linkEvent
      (setTx s x { getTx s x with hpd := true, sink := some c }) x 0 0xFF) x) x)) ∧
    ((getTx s x).hpd = true → exec (.hpdChange x none) s = .next (stampTx s (linkEvent (loseLink (setTx s x { getTx s x with
      hpd := false, sink := none, training := false, trained := none, failed := false, idle := [] }) x) x 1 0xFF) x)) ∧
    ((getTx s x).trained.isSome = true →
      exec (.irqHpd x true) s = .next (stampTx s (startTraining (linkEvent (loseLink s x) x 4 0xFF) x) x)) ∧
    (exec (.irqHpd x false) s = .next s) ∧
    (∀ (r : Fin 4) (n : Fin 3), (getTx s x).training = true → restarting s 4 = false → bit s.chip.clk 4 = true →
      resultPossible s x r n = true → exec (.linkTrainingDone x (.trained r n)) s =
        .next (refreshIdle (stampTx s (linkEvent (setTx s x { getTx s x with
          training := false, trained := some (r.val, n.val) }) x 2 0xFF) x) x)) ∧
    ((getTx s x).training = true → restarting s 4 = false → exec (.linkTrainingDone x .failed) s =
      .next (stampTx s (linkEvent (setTx s x { getTx s x with training := false, failed := true }) x 3 0xFF) x)) ∧
    (∀ r, restarting s 4 = true → exec (.linkTrainingDone x r) s = .next s)

/-- Requests of the display group: DSP_SCAN answers the table of transmitters; DSP_AUX, DSP_DSI_CMD and DSP_FALLBACK_SET
are ACCEPTED and wait their turn, and complete when the transfer, the command or the copy is done; a transfer or a command
waits while the reference of its transmitters is lost (R45), and all while the display processor restarts (R542). An image that an uncorrectable error has spoilt is not stored (log
entry 35). -/
def Obligations.DisplayRequests : Prop :=
  (∀ (rq : Req) (s₀ : State) (ss : Session),
    let s := hear rq s₀
    Served s (.dspScan rq) opDspScan rq ss →
    exec (.dspScan rq) s₀ = .next (replyOk s opDspScan rq (dspScanReply s))) ∧
  (∀ (rq : Req) (a : DspAuxArgs) (s₀ : State) (ss : Session),
    let s := hear rq s₀
    Served s (.dspAux rq a) opDspAux rq ss →
    auxFieldsOk a = true → mayUseTx s ss.tenant a.unit.toNat = true → (a.op = 1 → ss.tenant = 0) →
    asyncCount s ss.tenant rq.session.toNat < 4096 →
    let u := answered s opDspAux rq ss.tenant stAccepted []
    let x := getTx u a.unit.toNat
    exec (.dspAux rq a) s₀ =
      .next (setTx u a.unit.toNat { x with aux := x.aux ++ [(ss.tenant, asyncOf opDspAux rq, a)] })) ∧
  (∀ (rq : Req) (a : DsiCmdArgs) (s₀ : State) (ss : Session),
    let s := hear rq s₀
    Served s (.dspDsiCmd rq a) opDspDsiCmd rq ss →
    a.reserved = 0 → dsiFieldsOk a = true → mayUseTx s ss.tenant (4 + a.unit.toNat) = true →
    asyncCount s ss.tenant rq.session.toNat < 4096 →
    let u := answered s opDspDsiCmd rq ss.tenant stAccepted []
    let x := getTx u (4 + a.unit.toNat)
    exec (.dspDsiCmd rq a) s₀ =
      .next (setTx u (4 + a.unit.toNat) { x with dsi := x.dsi ++ [(ss.tenant, asyncOf opDspDsiCmd rq, a, none)] })) ∧
  (∀ (rq : Req) (a : FallbackArgs) (s₀ : State) (ss : Session),
    let s := hear rq s₀
    Served s (.dspFallbackSet rq a) opDspFallbackSet rq ss →
    firstFault (fallbackChecks s ss.tenant a) = none → asyncCount s ss.tenant rq.session.toNat < 4096 →
    let u := answered s opDspFallbackSet rq ss.tenant stAccepted []
    exec (.dspFallbackSet rq a) s₀ = .next (modPipe u a.pipe.toNat fun x => { x with
      storing := x.storing ++ [(ss.tenant, asyncOf opDspFallbackSet rq,
        (decide (a.va = 0) || (firstBad u ss.tenant a.va.toNat (fallbackBytes a)).isNone), fallbackImage u ss.tenant a)] })) ∧
  (∀ (x : Fin 4) (s : State) (t : Nat) (q : Async) (a : DspAuxArgs) (r : List (Nat × Async × DspAuxArgs)) (d : List Byte),
    isRunning s = true → restarting s 4 = false → (getTx s x).training = false → (getTx s x).aux = (t, q, a) :: r →
    let v := setTx s x { getTx s x with aux := r }
    let head := b32 a.address ++ b16 a.length ++ zeros 2
    ((getTx s x).hpd = true → bit s.chip.clk 4 = true → exec (.auxDone x (.acknowledged d)) s =
      .next (complete v t q stOk 0 (head ++ if a.op = 1 then [] else fit a.length.toNat d))) ∧
    ((getTx s x).hpd = true → bit s.chip.clk 4 = true →
      exec (.auxDone x .noAcknowledge) s = .next (complete v t q stTimeout 0 head)) ∧
    ((getTx s x).hpd = true → bit s.chip.clk 4 = false → exec (.auxDone x .noAcknowledge) s = .next s) ∧
    ((getTx s x).hpd = false → exec (.auxDone x (.acknowledged d)) s = .next (complete v t q stNotEnabled 0 head))) ∧
  (∀ (p : Fin 8) (s : State) (t : Nat) (q : Async) (good : Bool) (im : Option FallbackImage)
    (r : List (Nat × Async × Bool × Option FallbackImage)), isRunning s = true → restarting s 4 = false →
    (getPipe s p).storing = (t, q, good, im) :: r →
    (good = true → exec (.fallbackCopyDone p) s =
      .next (complete (modPipe s p fun x => { x with stored := im, storing := r }) t q stOk 0 [])) ∧
    (good = false → exec (.fallbackCopyDone p) s =
      .next (complete (modPipe (countUncorr s) p fun x => { x with storing := r }) t q stEccUncorrectable dtEccHbm []))) ∧
  (∀ (u : Fin 2) (s : State) (t : Nat) (q : Async) (a : DsiCmdArgs) (due : Nat)
    (r : List (Nat × Async × DsiCmdArgs × Option Nat)) (d : List Byte), isRunning s = true →
    (getTx s (4 + u)).dsi = (t, q, a, some due) :: r →
    let v := setTx s (4 + u) { getTx s (4 + u) with dsi := r }
    ((liveOn s (4 + u)).all (inVblank s) = true → restarting s 4 = false → bit s.chip.clk 5 = true →
      exec (.dsiCmdSend u (.acknowledged d)) s = .next (complete v t q stOk 0 (dsiData a d))) ∧
    (due ≤ s.now → exec (.dsiCmdTimeout u) s = .next (complete v t q stTimeout 0 []))) ∧
  (∀ (u : Fin 2) (s : State) (t : Nat) (q : Async) (a : DsiCmdArgs)
    (r : List (Nat × Async × DsiCmdArgs × Option Nat)) (d : List Byte), isRunning s = true →
    (getTx s (4 + u)).dsi = (t, q, a, none) :: r → (liveOn s (4 + u)).all (inVblank s) = true → restarting s 4 = false →
    (bit s.chip.clk 5 = true → exec (.dsiCmdSend u (.acknowledged d)) s = .next (complete (out (setTx s (4 + u)
      { getTx s (4 + u) with dsi := r }) (.dsiSend u a)) t q stOk 0 (dsiData a d))) ∧
    (bit s.chip.clk 5 = false → exec (.dsiCmdSend u (.acknowledged d)) s = .next s))

/-! ## Packets from hosts -/

/-- A whole datagram on the command port of a linked port, which its stream filters pass, goes through the checks of R65: a
malformed one is counted and dropped, one of no open session is answered as expired, and one whose tag does not fit is
counted. A fragment is dropped, and so is a frame that is too long. In a session, a packet behind the window is never executed again: it draws an ack-only
packet and nothing else of the machine changes but the session; a packet ahead of the window is counted and dropped; one in
the window behind a gap is kept; and the packet that the stream waits for, where its tag and its header are right, is received,
and its request runs. -/
def Obligations.DatagramsAreChecked : Prop :=
  (∀ (d : Datagram) (s u : State) (c : Nat), isRunning s = true → (getPort s d.frame.eth).link = true →
    d.frame.length ≤ maxFrame → qci s d.frame.eth d.frame = (u, some c) →
    let v := countClass u d.frame.eth c
    (d.frag = .whole → d.dstPort.toNat = rField v aCmdPorts 15 0 →
      exec (.datagramReceive d) s = .next (takeDatagram v d)) ∧
    (d.frag = .first → d.dstPort.toNat = rField v aCmdPorts 15 0 →
      exec (.datagramReceive d) s = .next (incReg v aDiscFormat 1 cap32)) ∧
    (d.frag = .later ∨ d.dstPort.toNat ≠ rField v aCmdPorts 15 0 → exec (.datagramReceive d) s = .next v)) ∧
  (∀ (d : Datagram) (s u : State), isRunning s = true → (getPort s d.frame.eth).link = true →
    d.frame.length ≤ maxFrame → qci s d.frame.eth d.frame = (u, none) →
    exec (.datagramReceive d) s = .next (incReg u (aPort d.frame.eth 0x50) 1 cap32)) ∧
  (∀ (d : Datagram) (s : State), maxFrame < d.frame.length → exec (.datagramReceive d) s = .next s) ∧
  (∀ (d : Datagram) (s : State),
    (d.bytes.length < 48 → takeDatagram s d = incReg s aDiscFormat 1 cap32) ∧
    (leAt (d.bytes.take 32) 0 2 ≠ 0x4E44 → takeDatagram s d = incReg s aDiscFormat 1 cap32)) ∧
  (∀ (d : Datagram) (s : State) (i : Nat) (ss : Session) (hd ct tag : List Byte), leAt hd 7 1 ≠ fgAckOnly →
    gcmOpen ss.keyIn (packetNonce i (wireCount ss.rx.next (leAt hd 12 4)) false false) hd ct tag = none →
    takeKeyed s d i ss hd ct tag = incReg s aDiscTag 1 cap32) ∧
  (∀ (s : State) (i w ack : Nat) (p : RxPacket) (ss : Session), getSes s i = some ss → w < 2 ^ 32 → ss.closing = none →
    let d := (w + 2 ^ 32 - ss.rx.next % 2 ^ 32) % 2 ^ 32
    (2 ^ 31 < d → SameButReply s (takeSequenced s i w ack p) i ∧
      (∃ u, getSes (takeSequenced s i w ack p) i = some u ∧ u.rx.next = ss.rx.next ∧ u.rx.buf = ss.rx.buf) ∧
      (PortFree s ss.eth ss.src.v6 → ∃ x y,
        (takeSequenced s i w ack p).sent.head? = some (.ackOnly i x (ss.rx.next - 1) y))) ∧
    (256 ≤ d → d < 2 ^ 31 → takeSequenced s i w ack p = incReg s aDiscWindow 1 cap32) ∧
    (0 < d → d < 256 → SameButReply s (takeSequenced s i w ack p) i ∧
      ∃ u, getSes (takeSequenced s i w ack p) i = some u ∧ u.rx.next = ss.rx.next ∧
        (u.rx.buf.any fun x => x.1 = ss.rx.next + d) = true)) ∧
  (∀ (d : Datagram) (s u : State) (k : Nat) (ss ss' : Session) (payload : List Byte) (c : Instr),
    isRunning s = true → (getPort s d.frame.eth).link = true → d.frame.length ≤ maxFrame → qci s d.frame.eth d.frame = (u, some k) →
    let v := countClass u d.frame.eth k
    let hd := d.bytes.take 32
    let n := leAt hd 20 4
    let id := leAt hd 8 4
    let r := received v d id ss
    d.frag = .whole → d.dstPort.toNat = rField v aCmdPorts 15 0 → d.bytes.length = 48 + n → leAt hd 0 2 = 0x4E44 →
    id ≠ 0 → getSes v id = some ss → leAt hd 12 4 = ss.rx.next % 2 ^ 32 →
    gcmOpen ss.keyIn (packetNonce id ss.rx.next false false) hd (sliceAt d.bytes 32 n) (d.bytes.drop (32 + n)) = some payload →
    leAt hd 2 1 = 3 → leAt hd 6 1 = ss.tenant → leAt hd 7 1 = 0 → leAt hd 28 2 = 0 → leAt hd 30 2 = 0 →
    ackCovers ss.tx.unacked (leAt hd 16 4) = 0 → ss.rx.buf = [] → ss.rx.unacked + 1 < 32 → inLine ss = false →
    requestOf (leAt hd 4 2) ⟨BitVec.ofNat 32 id, BitVec.ofNat 32 (leAt hd 24 4)⟩ payload = some c →
    getSes r id = some ss' → requestFault r ss' (leAt hd 4 2) (leAt hd 24 4) payload = none →
    ∃ t, exec (.datagramReceive d) s = .next t ∧ exec c r = .next t)

/-! ## Network and time -/

/-- A network port: link up reports multicast, begins to probe the link-local address and beacons; link down ends its time
and loses what waited; ARP, neighbour solicitations and echo requests for its addresses that pass the stream filters are
answered; a link-local address is probed three times and announced twice, and one in conflict is not used; preemption holds
once verified; the gate lists are staged, switched at their time and run through; a frame leaves no port whose link is down,
leaves a port that paces nothing at once, and waits at a closed gate; the stream tables are written; TIME_READ answers the
four time bases. How frames wait, what a link that goes down loses, and what RFC 5227 and the filters mean here are the
model's readings (log entries 43 and 44). -/
def Obligations.NetworkPorts : Prop :=
  (∀ (p : Fin 4) (s : State), isRunning s = true → portOn s p = true → (getPort s p).link = false →
    bit s.chip.clk 7 = true → bootPending s = false →
    let u := modPort s p fun x => { x with
      link := true, mode := portCfg s p 30 28, rate := portCfg s p 27 26, conflict := false, defended := none, probes := 0
      probeDue := s.now, preempt := bit (regW s (aPort p 0x48)) 31 && bit (regW s (aPort p 0x48)) 30, verified := false }
    let mld := out u (.mldReport p false)
    let w := if wallOn mld && wallPort mld = p && rField mld (aWall 0) 30 30 = 1 then out mld (.mldReport p true) else mld
    let v := reselect (gptpUp w p) (ptpBase w p)
    exec (.linkUp p) s =
      .next (onBeaconTimer p { v with link := { v.link with beaconDue := setAt v.link.beaconDue p v.now } })) ∧
  (∀ (p : Fin 4) (s : State), isRunning s = true → (getPort s p).link = true →
    exec (.linkDown p) s = .next (gptpDown (setEgress (modPort s p fun x => { x with
      link := false, preempt := false, verified := false }) p {}) p (ptpBase s p))) ∧
  (∀ (p : Fin 4) (f : FrameInfo) (s u : State) (c : Nat), isRunning s = true → (getPort s p).link = true →
    f.length ≤ maxFrame → qci s p (frameOn p f) = (u, some c) →
    let v := countClass u p c
    (∀ a : ArpPacket, ip4Up v p = true → a.request = true → a.targetIp.toNat = portIp4 v p →
      a.senderIp.toNat ≠ portIp4 v p → exec (.arpRequest p (.packet f a)) s = .next (out v (.arpReply p
        { request := false, senderMac := Config.portMac p, senderIp := a.targetIp, targetIp := a.senderIp }))) ∧
    (∀ a : ArpPacket, (getPort v p).conflict = false → ip4Up v p = false → probeConflict v p a = true →
      exec (.arpRequest p (.packet f a)) s = .next (modPort v p fun x => { x with conflict := true })) ∧
    (∀ a : NsPacket, a.frame = f → ownIp6 v p a.target.toNat = true →
      exec (.neighbourSolicitation p a) s = .next (out v (.neighbourAdvert p a.target))) ∧
    (∀ a : EchoRequest, a.frame = f → ownAddress v p a.src.v6 a.dst.toNat = true →
      exec (.icmpEchoRequest p a) s = .next (out v (.echoReply p a)))) ∧
  (∀ (p : Fin 4) (s : State), isRunning s = true → (getPort s p).link = true → (getPort s p).conflict = false →
    regW s (aPort p 0x10) = 0 → (getPort s p).probes < 5 → (getPort s p).probeDue ≤ s.now →
    let u := modPort s p fun x => { x with probes := x.probes + 1, probeDue := s.now + probeGap x.probes }
    let ip := BitVec.ofNat 32 (portIp4 s p)
    exec (.arpRequest p .probeTimer) s =
      .next (out u (if (getPort s p).probes < 3 then .arpProbe p ip else .arpAnnounce p ip))) ∧
  (∀ (p : Fin 4) (s : State), isRunning s = true → (getPort s p).link = true → bit (regW s (aPort p 0x48)) 31 = true →
    exec (.preemptionVerifyDone p) s =
      .next (drainPort (modPort s p fun x => { x with preempt := true, verified := true }) p)) ∧
  (∀ (rq : Req) (a : GclWriteArgs) (s₀ : State) (ss : Session),
    let s := hear rq s₀
    Served s (.netGclWrite rq a) opNetGclWrite rq ss →
    gclForm a = true → ss.tenant = 0 →
    let p := a.port.toNat
    (a.apply = 0 → exec (.netGclWrite rq a) s₀ = .next (replyOk (stageGcl s p a) opNetGclWrite rq [])) ∧
    (a.apply = 1 → asyncCount s 0 rq.session.toNat < 4096 →
      let u := answered s opNetGclWrite rq 0 stAccepted []
      exec (.netGclWrite rq a) s₀ = .next (modPort (stageGcl (cancelSwitch u p) p a) p fun x => { x with
        switching := some (0, asyncOf opNetGclWrite rq,
          firstCycle a.baseTime.toNat a.cycle.toNat (tbNs u (tsnBase u p) + 1000000)) })) ∧
    (a.apply = 2 → exec (.netGclWrite rq a) s₀ =
      .next (replyOk (drainPort (modPort (cancelSwitch s p) p fun x => { x with gclOn := false, gclIndex := 0 }) p)
        opNetGclWrite rq []))) ∧
  (∀ (p : Fin 4) (s : State) (t at_ : Nat) (q : Async), isRunning s = true →
    (getPort s p).switching = some (t, q, at_) → at_ ≤ tbNs s (tsnBase s p) →
    let entries := (List.range (getPort s p).stagedLen).map fun i => tabGet (getPort s p).staged (0, 0) i
    let list : Gcl := ⟨entries, (getPort s p).stagedCycle, (getPort s p).stagedBase⟩
    exec (.gclSwitch p) s = .next (complete (drainPort (modPort s p fun x => { x with
      gcl := list, gclOn := true, gclStart := at_, gclIndex := 0, switching := none }) p) t q stOk 0 [])) ∧
  (∀ (p : Fin 4) (s : State), isRunning s = true → (getPort s p).gclOn = true →
    let x := getPort s p
    let stop := gclEntryEnd x.gcl x.gclIndex
    let span := stop - (if x.gclIndex = 0 then 0 else gclEntryEnd x.gcl (x.gclIndex - 1))
    let u := freezeCredit s p (openGates s p) span
    x.gclStart + stop ≤ tbNs s (tsnBase s p) →
    (stop = x.gcl.cycle → exec (.gateIntervalEnd p) s =
      .next (drainPort (setPort u p { x with gclStart := x.gclStart + stop, gclIndex := 0 }) p)) ∧
    (stop ≠ x.gcl.cycle →
      exec (.gateIntervalEnd p) s = .next (drainPort (setPort u p { x with gclIndex := x.gclIndex + 1 }) p))) ∧
  (∀ (s : State) (p c : Nat) (o : Output) (n : Nat), ethFrame s o = some (p, c, n) → muted s o = false →
    ((getPort s p).link = false → out s o = s) ∧
    ((getPort s p).link = true → paced s p = false → (∀ k l, o ≠ .gptp p k l) → out s o = { s with sent := o :: s.sent }) ∧
    ((getPort s p).link = true → paced s p = true → bit (openGates s p) c = false →
      (∀ f ∈ (getEgress s p).queue, bit (openGates s p) f.cls = false) →
      (out s o).sent = s.sent ∧
      (getEgress (out s o) p).queue = (getEgress s p).queue ++ [{ out := o, cls := c, bytes := n, left := none }])) ∧
  (∀ (rq : Req) (a : StreamTableArgs) (s₀ : State) (ss : Session),
    let s := hear rq s₀
    Served s (.netStreamTable rq a) opNetStreamTable rq ss →
    tableForm a = true → ss.tenant = 0 →
    let i := a.index.toNat
    let e := fit 16 a.entry
    exec (.netStreamTable rq a) s₀ = .next (replyOk (modPort s a.port.toNat fun x =>
      if a.table = 0 then { x with filters := tabSet x.filters i e }
      else if a.table = 1 then { x with gates := tabSet x.gates i e }
      else { x with meters := tabSet x.meters i e, buckets := tabSet x.buckets i (fullBucket s e) })
      opNetStreamTable rq [])) ∧
  (∀ (rq : Req) (s₀ : State) (ss : Session),
    let s := hear rq s₀
    Served s (.timeRead rq) opTimeRead rq ss →
    exec (.timeRead rq) s₀ = .next (replyOk s opTimeRead rq ((List.range 4).map (timeEntry s)).flatten))

/-- gPTP on a port: a Sync of the master, with its Follow_Up where it is two-step, sets the base to it; a peer-delay request
is answered, and a response gives the port's delay; an Announce that is better becomes the best master; the interval timers
send; missing Syncs put the base into holdover, and missing Announces drop the master. What is 802.1AS's alone is presumed
(log entries 41 and 42). -/
def Obligations.TimeSync : Prop :=
  (∀ (p : Fin 4) (m : SyncMsg) (s : State),
    let c := countGptp s p
    fromMaster c p m.source = true → domainOk c p m.domain = true →
    let u := modBase c (ptpBase c p) fun x => { x with lastSync := c.now }
    (m.twoStep = true → exec (.sync p m) s = .next (modGptp u p fun g => { g with pending := some m })) ∧
    (m.twoStep = false → exec (.sync p m) s =
      .next (useSync (modGptp u p fun g => { g with pending := none }) p m m.origin m.correction m.rateRatio))) ∧
  (∀ (p : Fin 4) (m : FollowUpMsg) (s : State) (y : SyncMsg),
    let c := countGptp s p
    (getPort c p).gptp.pending = some y → fromMaster c p m.source = true → domainOk c p m.domain = true → y.source = m.source → y.sequence = m.sequence →
    exec (.followUp p m) s =
      .next (useSync (modGptp c p fun g => { g with pending := none }) p y m.origin m.correction m.rateRatio)) ∧
  (∀ (p : Fin 4) (m : PdelayReqMsg) (s : State),
    let c := countGptp s p
    gptpOn c p = true → timeRuns c = true →
    let o := out c (.gptp p 3 [m.source.toNat, m.sequence.toNat, toScaled (rxInstant c p m.macStamp)])
    exec (.pdelayReq p m) s = .next o ∧
    (paced c p = false → o.sent = .gptp p 4 [m.source.toNat, m.sequence.toNat, toScaled (txInstant c p)]
      :: .gptp p 3 [m.source.toNat, m.sequence.toNat, toScaled (rxInstant c p m.macStamp)] :: c.sent)) ∧
  (∀ (p : Fin 4) (m : PdelayRespMsg) (s : State) (t1 : Frac),
    let c := countGptp s p
    (getPort c p).gptp.pdelaySent = some t1 → gptpOn c p = true → timeRuns c = true →
    m.sequence.toNat = (getPort c p).gptp.pdelaySeq →
    exec (.pdelayResp p m) s = .next (reselect (modGptp (draw c) p fun g => { g with
      delay := some (meanDelay t1 (scaled m.receipt) (scaled m.transmit) (rxInstant c p m.macStamp)
        (Config.neighbourRate c.fresh))
      pdelaySent := none }) (ptpBase c p))) ∧
  (∀ (p : Fin 4) (m : AnnounceMsg) (s : State),
    let c := countGptp s p
    gptpOn c p = true → timeRuns c = true → domainOk c p m.domain = true →
    qualified m = true → (getPort c p).gptp.best = none →
    exec (.announce p m) s =
      .next (reselect (modGptp c p fun g => { g with best := some m, bestSeen := c.now }) (ptpBase c p))) ∧
  (∀ (p : Fin 4) (s : State), gptpOn s p = true → timeRuns s = true → (getPort s p).gptp.role = 2 →
    (getBase s (ptpBase s p)).state = 5 → (getPort s p).gptp.syncDue ≤ s.now →
    let seq := ((getPort s p).gptp.syncSeq + 1) % 65536
    let d : Int := timCfg s (ptpBase s p) 30 24
    let at_ := txInstant s p
    let stamp : List Int := [frFloor at_, toScaled (frSub at_ (frOf (frFloor at_)))]
    let o := out (modGptp s p fun g => { g with syncSeq := seq, syncDue := s.now + logTicks (logSync s p) })
      (.gptp p 0 [d, seq, (portCfg s p 25 25 : Nat)])
    exec (.syncIntervalTimer p) s = .next o ∧
    (paced s p = false → portCfg s p 25 25 = 1 → o.sent = .gptp p 0 ([d, (seq : Int), 1] ++ stamp) :: s.sent) ∧
    (paced s p = false → portCfg s p 25 25 = 0 →
      o.sent = .gptp p 1 ([d, (seq : Int)] ++ stamp) :: .gptp p 0 [d, seq, 0] :: s.sent)) ∧
  (∀ (p : Fin 4) (s : State), gptpOn s p = true → timeRuns s = true → (getPort s p).gptp.pdelayDue ≤ s.now →
    let seq := ((getPort s p).gptp.pdelaySeq + 1) % 65536
    let o := out (modGptp s p fun g => { g with
      pdelaySeq := seq, pdelaySent := none, pdelayDue := s.now + logTicks (logPdelay s p) }) (.gptp p 2 [(seq : Int)])
    exec (.pdelayIntervalTimer p) s = .next o ∧
    (paced s p = false → o.sent = .gptp p 2 [(seq : Int)] :: s.sent ∧
      (getPort o p).gptp.pdelaySent = some (txInstant s p))) ∧
  (∀ (p : Fin 4) (s : State), gptpOn s p = true → timeRuns s = true → (getPort s p).gptp.role = 2 →
    (getPort s p).gptp.announceDue ≤ s.now →
    let b := ptpBase s p
    let seq := ((getPort s p).gptp.announceSeq + 1) % 65536
    let m : Output :=
      .gptp p 5 [timCfg s b 30 24, seq, timCfg s b 23 16, 248, 0xFE, 0x4E5D, timCfg s b 15 8, ownClock, 0]
    let o := out (modGptp s p fun g => { g with announceSeq := seq, announceDue := s.now + secTicks }) m
    exec (.announceIntervalTimer p) s = .next o ∧ (paced s p = false → o.sent = m :: s.sent)) ∧
  (∀ (b : Fin 4) (s : State), isRunning s = true → (getBase s b).state = 2 ∨ (getBase s b).state = 3 →
    (getBase s b).lastSync + 3 * logTicks (logSync s (getBase s b).slave) ≤ s.now →
    exec (.syncTimeout b) s = .next (enterHoldover s b)) ∧
  (∀ (p : Fin 4) (s : State) (m : AnnounceMsg), gptpOn s p = true → timeRuns s = true →
    (getPort s p).gptp.best = some m →
    (getPort s p).gptp.bestSeen + 3 * logTicks (max (-7) (min 22 m.logInterval)) ≤ s.now →
    exec (.announceReceiptTimeout p) s =
      .next (reselect (modGptp s p fun g => { g with best := none }) (ptpBase s p)))

/-! ## Wall sync -/

/-- Wall sync: the key is stored for tenant 0; a message of a known member is taken with its READY, AGREE or CLAIM; the
leader agrees at the fallback time; a member without an agreement starts its frame on time and is leaderless; the lowest
rank of an election leads; a member unheard for three periods is lost (the model's readings: log entry 45). -/
def Obligations.WallSync : Prop :=
  (∀ (rq : Req) (key : List Byte) (s₀ : State) (ss : Session),
    let s := hear rq s₀
    Served s (.wallKey rq key) opWallKey rq ss →
    ss.tenant = 0 →
    exec (.wallKey rq key) s₀ = .next (modWall (replyOk s opWallKey rq []) fun w => { w with key := some (fit 32 key) })) ∧
  (∀ (d : WallDatagram) (s u : State) (c : Nat) (m : WallMsg) (o : WallMember), isRunning s = true →
    (getPort s d.frame.eth).link = true → d.frame.length ≤ maxFrame → qci s d.frame.eth d.frame = (u, some c) →
    let v := countClass u d.frame.eth c
    let heard : WallMember → WallMember := fun x => { x with
      last := tbNs v (wallBase v), boot := m.boot, counter := m.counter, priority := m.priority }
    let w := modWall v fun w => { w with
      seen := tabSet w.seen m.index (m.boot, m.counter)
      members := tabSet w.members m.index (heard o) }
    wallLive v = true → d.frame.eth.val = wallPort v → m.index ≠ wallIndex v → tabFind v.net.wall.members m.index = some o →
    (wallMsg v wkReady d = some m → newer m.frame v.net.wall.frame = true →
      exec (.wallReady d) s = .next (checkAgree (modMember w m.index fun x => { x with ready := some m.a }))) ∧
    (wallMsg v wkClaim d = some m → exec (.wallClaim d) s =
      .next (modMember w m.index fun x => { x with claim := some (tbNs w (wallBase w)) })) ∧
    (wallMsg v wkAgree d = some m → v.net.wall.joined = true → v.net.wall.leader = m.index →
      let j := modWall w fun y => { y with
        joined := true, leader := m.index, isLeader := false, frame := m.frame, candidate := none, claimAt := none,
        members := tabMap (fun _ x => { x with claim := none, ready := none }) y.members }
      exec (.wallAgree d) s = .next (takeAgreed (setLeaderless j false) m.a))) ∧
  (∀ (s : State) (p : Nat) (r : List Nat), isRunning s = true → wallPipes s = p :: r → wallLive s = true →
    s.net.wall.isLeader = true → unagreed s = true →
    frLe (frSub (frSub (getPipe s p).time.fmax (marginNs s p)) (usNs 100)) (pipeNow s p) = true →
    exec .agreeFallbackTimeout s = .next (sendAgree s)) ∧
  (∀ (s : State), isRunning s = true →
    let late : Nat → Bool := fun p => (getPipe s p).time.agreed.isNone && (getPipe s p).time.next.isNone &&
      (!(getPipe s p).time.leaderless || regW s (aPipe p 0x4C) = 0) &&
      frLe (frSub (getPipe s p).time.fmax (marginNs s p)) (pipeNow s p)
    (wallPipes s).filter late ≠ [] →
    let u := ((wallPipes s).filter late).foldl (fun s p =>
      setRegW (modPipe s p fun x => { x with time := { x.time with next := some x.time.fmax } })
        (aPipe p 0x50) (regW s (aPipe p 0x50) ||| 8)) s
    exec .wallAgreementMissing s = .next (if wallOn u && !u.net.wall.isLeader && !u.net.wall.leaderless
      then wallEvent (setLeaderless (modWall u fun w => { w with joined := false }) true) 4 (wallIndex u) else u)) ∧
  (∀ (s : State) (c : Nat) (per : Frac), isRunning s = true → wallLive s = true → s.net.wall.leaderless = true →
    s.net.wall.claimAt = some c → wallPeriods s 1 = some per →
    frLe (frAdd (frOf (c : Nat)) per) (getBase s (wallBase s)).t = true →
    (∀ m ∈ s.net.wall.members, ∀ t, m.2.claim = some t → c ≤ t →
      wallCfg s 23 16 * 64 + wallIndex s < m.2.priority * 64 + m.1) →
    exec .wallElectionTimeout s = .next (checkAgree (wallReady (wallEvent
      (setLeaderless (modWall s fun w => { w with
        claimAt := none, members := tabMap (fun _ m => { m with claim := none }) w.members, isLeader := true,
        joined := true, leader := wallIndex s }) false) 0 (wallIndex s))))) ∧
  (∀ (i : Fin 64) (s : State) (m : WallMember) (per : Frac), isRunning s = true → wallLive s = true →
    tabFind s.net.wall.members i = some m → wallPeriods s 3 = some per →
    frLe (frAdd (frOf (m.last : Nat)) per) (getBase s (wallBase s)).t = true →
    exec (.wallMemberLost i) s =
      .next (checkAgree (wallEvent (modWall s fun w => { w with members := tabErase w.members i }) 2 i)))

/-! ## Firmware, power, security and storage -/

/-- Firmware: FW_LOAD stages bytes; FW_ACTIVATE of a good image is ACCEPTED, or DEFERRED while the level is 2 or has been
within 500 ms (R546); the verified image is refused where its signature or version fails; a processor fault restarts the
processor, and one of the power processor at a level above 0 holds it at level 3; a hold ends after 500 ms; a restart reloads
the processor's section, clears its data SRAM and lets what waited for it go on; FW_RESTART restarts; self-test fixes the core
states and the frames it retires; LOG_READ answers records. When a resumed activation looks again, and what LOG_READ counts
as missed, are the model's readings (log entries 46 and 47). -/
def Obligations.FirmwareRuns : Prop :=
  (∀ (rq : Req) (off : Word) (data : List Byte) (s₀ : State) (ss : Session),
    let s := hear rq s₀
    Served s (.fwLoad rq off 0 data) opFwLoad rq ss →
    off.toNat + data.length ≤ stageBytes → s.chip.hbmReady = true → fwPending s = false → ss.tenant = 0 →
    exec (.fwLoad rq off 0 data) s₀ = .next (replyOk
      (modFw s fun f => { f with staging := putBytes f.staging off.toNat data }) opFwLoad rq [])) ∧
  (∀ (rq : Req) (n : Word) (s₀ : State) (ss : Session),
    let s := hear rq s₀
    Served s (.fwActivate rq n 0) opFwActivate rq ss →
    imageForm (fit 160 s.fw.staging) n.toNat = true → imgMajor (fit 160 s.fw.staging) = ndMajor → fwPending s = false →
    ss.tenant = 0 → asyncCount s 0 rq.session.toNat < 4096 →
    exec (.fwActivate rq n 0) s₀ = .next (modFw
      (answered s opFwActivate rq 0 (if s.fw.device = 0 ∨ quietLevel s = true then stAccepted else stDeferred) [])
      fun f => { f with
        next := fit n.toNat f.staging
        request := some (asyncOf opFwActivate rq)
        actState := 1
        actNext := 0
        device := if f.device = 2 then 3 else f.device })) ∧
  (∀ s : State, isRunning s = true → s.fw.actState = 1 →
    let back := if s.fw.device = 3 then 2 else s.fw.device
    (imageSigned s s.fw.next = false → exec .fwVerifyDone s = .next (endActivation
      { s with sec := { s.sec with authFails := satAdd s.sec.authFails 1 cap32 } } back stAuthFailed dtFwSignature)) ∧
    (imageSigned s s.fw.next = true → imgSecver s.fw.next < nvrWord s 64 →
      exec .fwVerifyDone s = .next (endActivation s back stRollbackRefused 0)) ∧
    (imageSigned s s.fw.next = true → nvrWord s 64 ≤ imgSecver s.fw.next → s.fw.device = 0 →
      exec .fwVerifyDone s = .next (startProcessors (modFw s fun f => { f with actState := 3, device := 1 })
        (imgBuild s.fw.next))) ∧
    (imageSigned s s.fw.next = true → nvrWord s 64 ≤ imgSecver s.fw.next → s.fw.device ≠ 0 →
      exec .fwVerifyDone s = .next (activationStep (modFw s fun f => { f with actState := 2 })))) ∧
  (∀ s : State, isRunning s = true → exec .activationResume s = .next (activationStep s)) ∧
  (∀ (p : Fin 6) (s : State), isRunning s = true → (getProc s p).state = .running → (p.val ≠ 5 ∨ s.pwr.level = 0) →
    exec (.watchdogExpiry p) s = .next (startRestart s p 1) ∧
    exec (.protectionViolation p) s = .next (startRestart s p 2) ∧
    exec (.sramError p) s = .next (startRestart s p 3) ∧
    exec (.consistencyCheckFail p) s = .next (startRestart s p 4)) ∧
  (∀ (s : State), isRunning s = true → (getProc s 5).state = .running → 1 ≤ s.pwr.level → s.pwr.level < 3 →
    exec (.watchdogExpiry 5) s = .next (judgeHold (setLevel (fwEvent (modPwr
      (setProc s 5 { getProc s 5 with state := .held, pending := 1 }) fun y =>
        { y with held := true, clear := none, leaving := none })
      5 1 1 (getProc s 5).build) 3 3))) ∧
  (∀ (s : State) (t : Nat), isRunning s = true → s.pwr.held = true → s.pwr.clear = some t → t + 500 * msTicks ≤ s.now →
    exec .holdRelease s =
      .next (startRestart (modPwr s fun x => { x with held := false, clear := none }) 5 (getProc s 5).pending)) ∧
  (∀ (p : Fin 6) (s : State) (due : Nat), isRunning s = true → (getProc s p).state = .restarting due →
    let u := restartDone s p
    exec (.processorRestartDone p) s =
      .next (resumeAll (if p.val = 1 then resumeHandshakes u else if p.val = 2 then formAll u else u)) ∧
    (getProc u p).dmem = [] ∧
    ((getProc s p).pending ≠ 6 → (getProc u p).imem = sectionOf s.fw.image p)) ∧
  (∀ (rq : Req) (p : Byte) (s₀ : State) (ss : Session),
    let s := hear rq s₀
    Served s (.fwRestart rq p 0) opFwRestart rq ss → p.toNat ≤ 5 →
    (p = 5 → s.pwr.level = 0) → fwPending s = false → (getProc s p.toNat).state = .running → ss.tenant = 0 →
    asyncCount s 0 rq.session.toNat < 4096 →
    let u := answered s opFwRestart rq 0 stAccepted []
    (getProc u p.toNat).state = .running ∧ exec (.fwRestart rq p 0) s₀ =
      .next (modProc (startRestart u p.toNat 5) p.toNat fun x => { x with
        requests := x.requests ++ [asyncOf opFwRestart rq] })) ∧
  (∀ (r : SelfTestReport) (s : State), isRunning s = true → s.fw.device = 1 →
    let u := testCores s r
    let failed := ((List.range 128).filter fun c => (getCore u c).state = 4).length
    let gone := testRetired r
    (failed ≤ 64 → gone.length ≤ 4096 → exec (.selfTestDone r) s = .next (finishActivation
      { u with chip := { u.chip with selftest := 1, failed := failed, retired := gone.length, retiredFrames := gone } })) ∧
    (∀ f : Nat, f ∈ gone ↔ ∃ e ∈ r.frames, e.1 = f ∧ (0 < e.2.1 ∨ 1 < e.2.2))) ∧
  (∀ (rq : Req) (first : Word) (n : Half) (s₀ : State) (ss : Session),
    let s := hear rq s₀
    Served s (.logRead rq first n 0) opLogRead rq ss →
    1 ≤ n.toNat → n.toNat ≤ 255 → exec (.logRead rq first n 0) s₀ =
      .next (replyOk s opLogRead rq (logReply s ss.tenant ss.maxPayload first.toNat n.toNat)))

/-- Power: samples are stored with their peaks, the limiter acts on the current now and its average, and levels are judged
at each; two samples in a row at the trip temperature trip the chip; the power loop takes the new thresholds, moves the duty
by at most 4 steps in its millisecond, up to its level's floor at that pace, and judges the level; the park period parks or releases up to 8 cores (log entry 48 names the
model's choices).
HBM sleeps when the register allows it and nothing needs it, which MEM_SLEEPS counts, and wakes. -/
def Obligations.PowerLevels : Prop :=
  ((∀ (r : SensorReadings) (s : State), isRunning s = true → sensed s = true →
     let hot := (r.core ++ r.uncore).any fun v => decide (tripC ≤ v)
     let u := modPwr (storeReadings s r) fun x => { x with hot115 := hot }
     (hot = true → s.pwr.hot115 = true → exec (.sensorSample r) s = .next (tripChip u)) ∧
     (hot = false ∨ s.pwr.hot115 = false → exec (.sensorSample r) s = .next (judgeLevel (judgeHold u)))) ∧
   (∀ s : State, (tripChip s).chip.phase = .tripped ∧ (tripChip s).chip.trip = true ∧ (tripChip s).pwr.level = 4 ∧
     (∀ p < 4, (getPort (tripChip s) p).link = false) ∧ (∀ x, (getTx (tripChip s) x).trained = none) ∧
     (∀ r, (getRx (tripChip s) r).state = 0) ∧ (tripChip s).sent = .ibi 4 :: .thermTrip :: s.sent ∧
     (tripChip s).hbm = s.hbm) ∧
   (∀ (r : RailReadings) (s : State), sensed s = true →
     let v := keepSample s r
     let act := limiterActs v (coreAmps r)
     let p := powerSum v / packTicks
     let u := modPwr v fun x => { x with
       now16 := coreAmps r, avg16 := currentSum v / avgTicks, package := p, packPeak := max x.packPeak p, limiter := act,
       limEvents := if act && !x.limiter then satAdd x.limEvents 1 cap32 else x.limEvents }
     (16 * peakA s < coreAmps r → act = true) ∧
     (coreAmps r < 16 * peakA s → currentSum v < 16 * burstA s * avgTicks → act = false) ∧
     (s.pwr.limiter = true → 16 * peakA s ≤ coreAmps r → act = true) ∧
     (isRunning s = true → exec (.currentSample r) s = .next (judgeLevel (judgeHold u))) ∧
     (isRunning s = false → exec (.currentSample r) s = .next u)) ∧
   (∀ s : State, loopsRun s = true → s.pwr.loopDue ≤ s.now →
     let v := modPwr s fun x => { x with
       loopDue := s.now + msTicks, thermal := regW s (aPwr 4), limits := regW s (aPwr 8), park := regW s (aPwr 0xC) }
     exec .powerLoopPeriod s = .next (judgeLevel (modPwr (draw v) fun x => { x with
       duty := nextDuty v
       at32 := if x.level = 1 ∧ nextDuty v = 32 then some (x.at32.getD s.now) else none })) ∧
     (s.pwr.duty ≤ 64 →
       min (dutyFloor s.pwr.level) (s.pwr.duty + 4) ≤ nextDuty v ∧ nextDuty v ≤ 64 ∧ nextDuty v ≤ s.pwr.duty + 4 ∧
       s.pwr.duty ≤ nextDuty v + 4 ∧
       (throttleC v < hottest v → dutyFloor s.pwr.level ≤ s.pwr.duty → nextDuty v ≤ s.pwr.duty))) ∧
   (∀ s : State, loopsRun s = true → s.pwr.parkDue ≤ s.now →
     let u := modPwr s fun x => { x with parkDue := s.now + 10 * msTicks }
     (s.pwr.level = 2 → throttleC s ≤ hottest s → exec .parkPeriod s =
       .next (refresh (((sortBy (parkBefore u) (parkable u)).take
         (min 8 ((stayingCores u).length - max (bits s.pwr.park 7 0) s.sched.reserve))).foldl parkCore u))) ∧
     (s.pwr.level ≤ 1 →
       exec .parkPeriod s = .next (((releaseOrder u).take 8).foldl (fun s c => setCoreState s c 5) u)))) ∧
  ((∀ s : State, isRunning s = true → s.chip.hbmReady = true → s.disp.asleep = false → sleepAllowed s = true →
     exec .memSleepEnter s = .next (incReg { s with disp := { s.disp with asleep := true } } aMemSleeps 1 cap32)) ∧
   (∀ s : State, exec .memSleepExit s = .next { s with disp := { s.disp with asleep := false } }) ∧
   (∀ s : State, sleepAllowed s = false → exec .memSleepEnter s = .next s))

/-- Security and storage: certificate and attestation are answered; an owner change, a key revocation and a new minimum that
pass their checks are ACCEPTED and queued as non-volatile words; a stored word leaves the queue, and the last of a job
completes it; an entropy fault stays; the enrolment window closes at its time and opens over I3C (the model's readings: log
entries 15 and 51). -/
def Obligations.SecurityAndStorage : Prop :=
  (∀ (rq : Req) (s₀ : State) (ss : Session),
    let s := hear rq s₀
    Served s (.secCert rq) opSecCert rq ss →
    exec (.secCert rq) s₀ = .next (replyOk s opSecCert rq (certificate s))) ∧
  (∀ (rq : Req) (c : List Byte) (s₀ : State) (ss : Session),
    let s := hear rq s₀
    Served s (.secAttest rq c) opSecAttest rq ss →
    exec (.secAttest rq c) s₀ =
      .next (replyOk s opSecAttest rq (attestation s ss.tenant rq.session.toNat ss.credential c))) ∧
  (∀ (rq : Req) (k g : List Byte) (s₀ : State) (ss : Session),
    let s := hear rq s₀
    Served s (.ownerChange rq k g) opOwnerChange rq ss →
    ss.tenant = 0 → (k.all fun b => b = 0) = false →
    (edVerify (fit 32 k) (ownerMessage s k) (fit 64 g) = true → asyncCount s 0 rq.session.toNat < 4096 →
      exec (.ownerChange rq k g) s₀ = .next (nvrEnqueue (answered s opOwnerChange rq 0 stAccepted []) 0
        (asyncOf opOwnerChange rq) 0 (ownerQueue k))) ∧
    (edVerify (fit 32 k) (ownerMessage s k) (fit 64 g) = false → exec (.ownerChange rq k g) s₀ = .next (refuse
      { s with sec := { s.sec with authFails := satAdd s.sec.authFails 1 cap32 } } opOwnerChange rq
      (stAuthFailed, dtOwnerSignature)))) ∧
  (∀ (rq : Req) (i : Byte) (s₀ : State) (ss : Session),
    let s := hear rq s₀
    Served s (.secKeyRevoke rq i 0) opSecKeyRevoke rq ss →
    ss.tenant = 0 → i.toNat ≤ 3 →
    let all := if bit (nvrComing s 65) i.toNat then nvrComing s 65 else nvrComing s 65 + 2 ^ i.toNat
    (bit (nvrWord s 65) i.toNat = true → exec (.secKeyRevoke rq i 0) s₀ = .next (replyOk s opSecKeyRevoke rq [])) ∧
    (bit (nvrWord s 65) i.toNat = false → i.toNat ≠ imgKey (runningImage s) → all % 16 ≠ 15 →
      (nvrWorn s 65 = true ∨ fwPending s = false → asyncCount s 0 rq.session.toNat < 4096 →
        exec (.secKeyRevoke rq i 0) s₀ = .next (nvrEnqueue (answered s opSecKeyRevoke rq 0 stAccepted []) 0
          (asyncOf opSecKeyRevoke rq) 0 [(65, all)])) ∧
      (nvrWorn s 65 = false → fwPending s = true →
        exec (.secKeyRevoke rq i 0) s₀ = .next (refuse s opSecKeyRevoke rq (stBusy, dtFwPending))))) ∧
  (∀ (rq : Req) (m : Word) (s₀ : State) (ss : Session),
    let s := hear rq s₀
    Served s (.secRollbackRaise rq m) opSecRollbackRaise rq ss →
    ss.tenant = 0 →
    (m.toNat = nvrWord s 64 → exec (.secRollbackRaise rq m) s₀ = .next (replyOk s opSecRollbackRaise rq [])) ∧
    (nvrWord s 64 < m.toNat → m.toNat ≤ imgSecver (runningImage s) →
      (nvrWorn s 64 = true ∨ fwPending s = false → asyncCount s 0 rq.session.toNat < 4096 →
        exec (.secRollbackRaise rq m) s₀ = .next (nvrEnqueue (answered s opSecRollbackRaise rq 0 stAccepted []) 0
          (asyncOf opSecRollbackRaise rq) 0 [(64, max m.toNat (nvrComing s 64))])) ∧
      (nvrWorn s 64 = false → fwPending s = true →
        exec (.secRollbackRaise rq m) s₀ = .next (refuse s opSecRollbackRaise rq (stBusy, dtFwPending))))) ∧
  (∀ s : State, isRunning s = true → exec .entropyFail s = .next { s with sec := { s.sec with entropyFail := true } }) ∧
  (∀ s : State, enrollArmed s = false → exec .enrollWindowExpiry s = .next { s with sec := { s.sec with enroll := none } }) ∧
  (∀ s : State, i3cAwake s = true → wordFault s 0 .i3c aSecEnroll (putBits (enrollWord s) 0 0 1) = none →
    exec .secEnrollArm s = .next (armEnroll (out (setI3cAddr s aSecEnroll) .i3cAck))) ∧
  (∀ (s : State) (w : Nat) (v : Word) (job t n addr : Nat) (a : Async), isRunning s = true → s.nvr.due ≤ s.now →
    s.nvr.queue = [(w, v, job)] → w < 84 → s.link.enrolling = none → tabFind s.nvr.jobs job = some (t, a, n, addr) →
    ∃ u, exec .nvrWordStored s = .next u ∧ u.nvr.queue = [] ∧ nvrWord u w = v.toNat ∧
      nvrWrites u w = nvrWrites s w + 1 ∧ (∀ x, x ≠ w → nvrWord u x = nvrWord s x) ∧ tabFind u.nvr.jobs job = none)

/-! ## Start-up, reset and the debug ports -/

/-- A reset empties the machine but for its pins, its non-volatile words, its queue and what it sent: every register returns
to its reset value, every session goes, every byte of memory reads 0, and the cause is recorded; RESET_N low, brown-out,
root PLL loss, a reset request and JTAG reset do it; RESET_N high boots with the straps sampled, and after a trip only once
the pulse has lasted 1 ms and the device is cool; an internal reset samples the straps as the last command left their pins;
references come and go, and what uses a lost one stops. The scratchpads' zeroes, the corners of the causes, and a RESET_RELEASE
on a chip whose RESET_N is high, which says how the pins stand, are the model's choices (log entries 5 and 49). -/
def Obligations.ResetRestarts : Prop :=
  (∀ (s : State) (k : Nat), (resetChip s k).pending = s.pending ∧ (resetChip s k).chip.phase = .inReset ∧
    (resetChip s k).chip.cause = k ∧ (∀ i, getSes (resetChip s k) i = none) ∧
    (∀ a, regW (resetChip s k) a = resetWord a % 2 ^ 32) ∧
    (∀ t va n, hbmRead (resetChip s k) t va n = List.replicate n 0) ∧
    (∀ c a n, padRead (resetChip s k) c a n = List.replicate n 0)) ∧
  (∀ s : State, s.chip.phase = .running →
    exec .resetAssert s = .next (resetChip s causePin) ∧
    exec (.brownout .pwrGoodFell) s = .next (resetChip s causeBrownout) ∧
    (∀ mv ns, mv < 700 → 1000 ≤ ns → exec (.brownout (.monitorLow mv ns)) s = .next (resetNow s causeBrownout)) ∧
    exec .rootPllUnlock s = .next (resetNow s causePll) ∧
    exec .jtagReset s = .next (resetNow s causeJtag) ∧
    (∀ d, s.chip.resetDue = some d → d ≤ s.now → exec .resetRequestTimer s = .next (resetNow s causeRequest))) ∧
  (∀ (s : State) (k : Nat), resetNow s k =
    boot { resetChip s k with chip := { (resetChip s k).chip with straps := s.chip.pins } }) ∧
  (∀ (x : StrapLevels) (s : State), exec (.powerOn x) s =
    .next { resetChip s causePowerOn with chip := { (resetChip s causePowerOn).chip with pins := x, straps := x } }) ∧
  (∀ (x : StrapLevels) (s : State), s.chip.phase ≠ .inReset →
    exec (.resetRelease x) s = .next { s with chip := { s.chip with pins := x } }) ∧
  (∀ (x : StrapLevels) (s : State), s.chip.phase = .inReset →
    (s.chip.wasTripped = false →
      exec (.resetRelease x) s = .next (boot { s with chip := { s.chip with pins := x, straps := x } })) ∧
    (s.chip.wasTripped = true → s.now < s.chip.lowAt + msTicks →
      exec (.resetRelease x) s = .next { s with chip := { s.chip with pins := x, phase := .tripped } }) ∧
    (s.chip.wasTripped = true → s.chip.lowAt + msTicks ≤ s.now →
      (stillHot s = false →
        exec (.resetRelease x) s = .next (resetAfterTrip { s with chip := { s.chip with pins := x, straps := x } })) ∧
      (stillHot s = true → exec (.resetRelease x) s =
        .next { s with chip := { s.chip with pins := x, straps := x, phase := .holdOff } }))) ∧
  (∀ s : State, s.chip.phase = .holdOff →
    (stillHot s = false → exec .thermalHoldOffEnd s = .next (resetAfterTrip s)) ∧
    (stillHot s = true → exec .thermalHoldOffEnd s = .next s)) ∧
  (∀ s : State, isRunning s = true → bit s.chip.clk 3 = true →
    exec .hbmTrained s = .next (resumeAll { s with chip := { s.chip with hbmReady := true } })) ∧
  (∀ (r : PhyRef) (s : State), isRunning s = true →
    (bit s.chip.clk (refBit r) = false → r ≠ .dp → r ≠ .dsi →
      exec (.phyReferenceLock r) s = .next (setClk s (refBit r) true)) ∧
    (bit s.chip.clk (refBit r) = false → r = .dsi → exec (.phyReferenceLock r) s =
      .next ((List.range 2).foldl (fun s u => if txOn s (4 + u) then
        setTx s (4 + u) { getTx s (4 + u) with changed := tbStamp s 0 } else s) (setClk s (refBit r) true))) ∧
    (bit s.chip.clk (refBit r) = false → r = .dp →
      exec (.phyReferenceLock r) s = .next ((List.range 4).foldl startTraining (setClk s (refBit r) true))) ∧
    (bit s.chip.clk (refBit r) = true → r = .hbm → exec (.phyReferenceLost r) s = .next { setClk s (refBit r) false with
      chip := { (setClk s (refBit r) false).chip with hbmReady := false } }) ∧
    (bit s.chip.clk (refBit r) = true → r = .eth → exec (.phyReferenceLost r) s =
      .next ((List.range 4).foldl (fun s p => dropLink s p (ptpBase s p)) (setClk s (refBit r) false))) ∧
    (bit s.chip.clk (refBit r) = true → r = .csi → exec (.phyReferenceLost r) s =
      .next ((List.range 12).foldl (fun s i => onCsiLink i false 0 s) (setClk s (refBit r) false))) ∧
    (bit s.chip.clk (refBit r) = true → r = .dsi → exec (.phyReferenceLost r) s =
      .next ((List.range 2).foldl (fun s u => if txOn s (4 + u) then
        linkEvent (loseLink (setTx s (4 + u) { getTx s (4 + u) with changed := tbStamp s 0 }) (4 + u)) (4 + u) 4 0xFF
        else s) (setClk s (refBit r) false))) ∧
    (bit s.chip.clk (refBit r) = true → r = .dp → exec (.phyReferenceLost r) s =
      .next ((List.range 4).foldl (fun u x =>
        let v := setTx u x { getTx u x with training := false, trained := none, idle := [] }
        if (getTx u x).trained.isSome then
          stampTx (setClk s (refBit r) false) (linkEvent (loseLink v x) x 4 0xFF) x
        else v) (setClk s (refBit r) false))) ∧
    (bit s.chip.clk (refBit r) = true → r = .dp → ∃ t, exec (.phyReferenceLost r) s = .next t ∧
      ∀ x < 4, (getTx t x).trained = none ∧ (getTx t x).training = false) ∧
    (bit s.chip.clk (refBit r) = false → exec (.phyReferenceLost r) s = .next s))

/-- The debug ports: BYPASS shifts one 0, IDCODE its constant, SAMPLE/PRELOAD and an EXTEST in reset change nothing, a debug
read shifts a device-class register's word, and a debug write writes an owner-class register where SYS_JTAG allows it and
the checks of R94 pass; I3C takes one dynamic address, a readable address, the word at it, and the writes it allows (the
model's readings: log entries 52 and 53). -/
def Obligations.DebugPorts : Prop :=
  (∀ s : State, exec .jtagBypass s = .next (out s (.tdo 1 0)) ∧ exec .jtagIdcode s = .next (out s (.tdo 32 idcode)) ∧
    exec .jtagSamplePreload s = .next s ∧ (s.chip.phase = .inReset → exec .jtagExtest s = .next s) ∧
    (s.chip.phase ≠ .inReset → exec .jtagExtest s = .next (out s (.tdo 1 0)))) ∧
  (∀ (a : Word) (s : State) (i : Nat) (r : RegSpec), findReg a.toNat = some (i, r) →
    (r.cls = .device → exec (.jtagDebugRead a) s = .next (out s (.tdo 32 ((readWord s 0 a.toNat).getD 0)))) ∧
    (∀ v : Word, isRunning s = true → bit (regW s aSysJtag) 0 = true → r.cls = .owner →
      writeFault s 0 .jtag [(a.toNat, v.toNat)] = none →
      exec (.jtagDebugWrite a v) s = .next (plainWrite s a.toNat v.toNat)) ∧
    (∀ v : Word, bit (regW s aSysJtag) 0 = false → exec (.jtagDebugWrite a v) s = .next s)) ∧
  (∀ (a : BitVec 7) (s : State), i3cAwake s = true → s.chip.i3cDyn = none →
    exec (.i3cSetdasa a) s = .next (out { s with chip := { s.chip with i3cDyn := some a } } .i3cAck) ∧
    exec (.i3cEntdaa a) s = .next (out { s with chip := { s.chip with i3cDyn := some a } } .i3cAck)) ∧
  (∀ (a : Word) (s : State), i3cAwake s = true →
    (i3cReadable a.toNat = true ∨ i3cWritable a.toNat = true →
      exec (.i3cAddressWrite a) s = .next (out (setI3cAddr s a.toNat) .i3cAck)) ∧
    (i3cReadable a.toNat = false → i3cWritable a.toNat = false →
      exec (.i3cAddressWrite a) s = .next (out s .i3cNack))) ∧
  (∀ s : State, i3cAwake s = true → i3cReadable s.chip.i3cAddr = true →
    exec .i3cPrivateRead s = .next (out s (.i3cRead (le4 ((readWord s 0 s.chip.i3cAddr).getD 0))))) ∧
  (∀ (v : Word) (s : State), isRunning s = true → wordFault s 0 .i3c aSysResetReq v.toNat = none →
    exec (.i3cRegisterWrite (BitVec.ofNat 32 aSysResetReq) v) s =
      .next (resetNow (out (setI3cAddr s aSysResetReq) .i3cAck) causeRequest)) ∧
  (∀ (a v : Word) (s : State), i3cWritable a.toNat = false →
    exec (.i3cRegisterWrite a v) s = .next (out s .i3cNack))
end

