-- ==== Sys2Proof/Laws/Tab.lean ====
section
/-! SUPPORT. Laws/Tab.lean: reads of a sparse table after a put, and the canonical form that each
table operation keeps. -/

namespace Sys2Proof.Machine

open Sys2Proof

/-! ## A read after a put -/

@[simp] theorem tabGet_tabSet_self {α : Type} (t : Tab α) (d : α) (k : Nat) (v : α) :
    tabGet (tabSet t k v) d k = v := by
  induction t with
  | nil => simp [tabSet, tabGet]
  | cons x r ih =>
    obtain ⟨j, w⟩ := x
    simp only [tabSet]
    split
    · simp [tabGet]
    · split
      · simp [tabGet]
      · rename_i h1 h2
        simp [tabGet, ih, Ne.symm h2]

theorem tabGet_tabSet_ne {α : Type} (t : Tab α) (d : α) {k a : Nat} (v : α) (h : a ≠ k) :
    tabGet (tabSet t k v) d a = tabGet t d a := by
  induction t with
  | nil => simp [tabSet, tabGet, Ne.symm h]
  | cons x r ih =>
    obtain ⟨j, w⟩ := x
    simp only [tabSet]
    split
    · simp [tabGet, Ne.symm h]
    · split
      · rename_i h2; subst h2; simp [tabGet, Ne.symm h]
      · simp [tabGet, ih]

@[simp] theorem tabFind_tabSet_self {α : Type} (t : Tab α) (k : Nat) (v : α) :
    tabFind (tabSet t k v) k = some v := by
  induction t with
  | nil => simp [tabSet, tabFind]
  | cons x r ih =>
    obtain ⟨j, w⟩ := x
    simp only [tabSet]
    split
    · simp [tabFind]
    · split
      · simp [tabFind]
      · rename_i h1 h2
        simp [tabFind, ih, Ne.symm h2]

theorem tabFind_tabSet_ne {α : Type} (t : Tab α) {k a : Nat} (v : α) (h : a ≠ k) :
    tabFind (tabSet t k v) a = tabFind t a := by
  induction t with
  | nil => simp [tabSet, tabFind, Ne.symm h]
  | cons x r ih =>
    obtain ⟨j, w⟩ := x
    simp only [tabSet]
    split
    · simp [tabFind, Ne.symm h]
    · split
      · rename_i h2; subst h2; simp [tabFind, Ne.symm h]
      · simp [tabFind, ih]

@[simp] theorem tabGet_tabErase_self {α : Type} (t : Tab α) (d : α) (k : Nat) :
    tabGet (tabErase t k) d k = d := by
  induction t with
  | nil => simp [tabErase, tabGet]
  | cons x r ih =>
    obtain ⟨j, w⟩ := x
    simp only [tabErase]
    split
    · exact ih
    · rename_i h; simp [tabGet, ih, h]

theorem tabGet_tabErase_ne {α : Type} (t : Tab α) (d : α) {k a : Nat} (h : a ≠ k) :
    tabGet (tabErase t k) d a = tabGet t d a := by
  induction t with
  | nil => simp [tabErase]
  | cons x r ih =>
    obtain ⟨j, w⟩ := x
    simp only [tabErase]
    split
    · rename_i h2; subst h2; simp [tabGet, ih, Ne.symm h]
    · simp [tabGet, ih]

@[simp] theorem tabGet_tabPut_self {α : Type} [DecidableEq α] (t : Tab α) (d : α) (k : Nat) (v : α) :
    tabGet (tabPut t d k v) d k = v := by
  unfold tabPut
  split
  · rename_i h; simp [h]
  · simp

theorem tabGet_tabPut_ne {α : Type} [DecidableEq α] (t : Tab α) (d : α) {k a : Nat} (v : α) (h : a ≠ k) :
    tabGet (tabPut t d k v) d a = tabGet t d a := by
  unfold tabPut
  split
  · exact tabGet_tabErase_ne t d h
  · exact tabGet_tabSet_ne t d v h

/-! ## The canonical form: keys rising, no entry equal to the default -/

theorem tabSorted_iff {α : Type} (t : Tab α) :
    tabSorted t = true ↔ t.Pairwise fun x y => x.1 < y.1 := by
  induction t with
  | nil => simp [tabSorted]
  | cons x r ih =>
    cases r with
    | nil => simp [tabSorted]
    | cons y q =>
      obtain ⟨j, v⟩ := x
      obtain ⟨k, w⟩ := y
      simp only [tabSorted, Bool.and_eq_true, decide_eq_true_eq, ih, List.pairwise_cons]
      constructor
      · rintro ⟨h, h1, h2⟩
        refine ⟨fun z hz => ?_, h1, h2⟩
        rcases List.mem_cons.1 hz with rfl | hz
        · exact h
        · exact Nat.lt_trans h (h1 z hz)
      · rintro ⟨h, h1, h2⟩
        exact ⟨h (k, w) (by simp), h1, h2⟩

theorem mem_tabSet {α : Type} {t : Tab α} {k : Nat} {v : α} {z : Nat × α}
    (h : z ∈ tabSet t k v) : z = (k, v) ∨ z ∈ t := by
  induction t with
  | nil => simpa [tabSet] using h
  | cons x r ih =>
    obtain ⟨j, w⟩ := x
    simp only [tabSet] at h
    split at h
    · simpa using h
    · split at h
      · rcases List.mem_cons.1 h with h | h
        · exact .inl h
        · exact .inr (List.mem_cons_of_mem _ h)
      · rcases List.mem_cons.1 h with h | h
        · exact .inr (by simp [h])
        · rcases ih h with h | h
          · exact .inl h
          · exact .inr (List.mem_cons_of_mem _ h)

theorem tabSorted_tabSet {α : Type} (t : Tab α) (k : Nat) (v : α) (h : tabSorted t = true) :
    tabSorted (tabSet t k v) = true := by
  rw [tabSorted_iff] at h ⊢
  induction t with
  | nil => simp [tabSet]
  | cons x r ih =>
    obtain ⟨j, w⟩ := x
    obtain ⟨h1, h2⟩ := List.pairwise_cons.1 h
    simp only [tabSet]
    split
    · rename_i hk
      refine List.pairwise_cons.2 ⟨fun z hz => ?_, h⟩
      rcases List.mem_cons.1 hz with rfl | hz
      · exact hk
      · exact Nat.lt_trans hk (h1 z hz)
    · split
      · rename_i hk; subst hk
        exact List.pairwise_cons.2 ⟨h1, h2⟩
      · rename_i a b
        refine List.pairwise_cons.2 ⟨fun z hz => ?_, ih h2⟩
        rcases mem_tabSet hz with rfl | hz
        · exact by simpa using (by omega : j < k)
        · exact h1 z hz

theorem tabErase_eq_filter {α : Type} (t : Tab α) (k : Nat) :
    tabErase t k = t.filter fun x => decide (x.1 ≠ k) := by
  induction t with
  | nil => rfl
  | cons x r ih =>
    obtain ⟨j, w⟩ := x
    by_cases h : j = k <;> simp [tabErase, h, ih]

theorem tabSorted_filter {α : Type} (t : Tab α) (p : Nat × α → Bool) (h : tabSorted t = true) :
    tabSorted (t.filter p) = true := by
  rw [tabSorted_iff] at h ⊢
  exact h.filter p

end Sys2Proof.Machine
end

