-- ==== Sys2Proof/Laws/Memory.lean ====
section
/-! SUPPORT. Laws/Memory.lean: a read after a write, and the canonical form that every memory operation
keeps. -/

namespace Sys2Proof.Machine

open Sys2Proof

/-! ## A read after a write -/

@[simp] theorem memRead_memWrite_self (m : Memory) (a : Nat) (v : Byte) : memRead (memWrite m a v) a = v := by
  simp [memRead, memWrite]

theorem memRead_memWrite_ne (m : Memory) {a b : Nat} (v : Byte) (h : b ≠ a) :
    memRead (memWrite m a v) b = memRead m b := by
  simp [memRead, memWrite, tabGet_tabPut_ne _ _ _ h]

/-- A write of a run of bytes leaves every address outside the run alone. -/
theorem memRead_memWrites_out (m : Memory) (a : Nat) (l : List Byte) {b : Nat} (h : b < a ∨ a + l.length ≤ b) :
    memRead (memWrites m a l) b = memRead m b := by
  induction l generalizing m a with
  | nil => rfl
  | cons v r ih =>
    simp only [List.length_cons] at h
    rw [memWrites, ih _ _ (by omega), memRead_memWrite_ne _ _ (by omega)]

/-- Each byte of a run reads as it was written. -/
theorem memRead_memWrites_in (m : Memory) (a : Nat) (l : List Byte) (i : Nat) (h : i < l.length) :
    memRead (memWrites m a l) (a + i) = l[i] := by
  induction l generalizing m a i with
  | nil => simp at h
  | cons v r ih =>
    cases i with
    | zero =>
      rw [memWrites, memRead_memWrites_out _ _ _ (by omega)]
      simp
    | succ i =>
      have := ih (memWrite m a v) (a + 1) i (by simpa using h)
      simpa [memWrites, Nat.add_assoc, Nat.add_comm 1 i] using this

/-! ## The canonical form -/

theorem Memory.wf_memWrite (m : Memory) (a : Nat) (v : Byte) (h : Memory.wf m = true) :
    Memory.wf (memWrite m a v) = true := by
  simp only [Memory.wf, Bool.and_eq_true, List.all_eq_true] at h ⊢
  unfold memWrite tabPut
  split
  · rw [tabErase_eq_filter]
    exact ⟨tabSorted_filter _ _ h.1, fun x hx => h.2 x (List.mem_of_mem_filter hx)⟩
  · rename_i hv
    refine ⟨tabSorted_tabSet _ _ _ h.1, fun x hx => ?_⟩
    rcases mem_tabSet hx with rfl | hx
    · simpa using hv
    · exact h.2 x hx

theorem Memory.wf_memWrites (m : Memory) (a : Nat) (l : List Byte) (h : Memory.wf m = true) :
    Memory.wf (memWrites m a l) = true := by
  induction l generalizing m a with
  | nil => exact h
  | cons v r ih => exact ih _ _ (Memory.wf_memWrite m a v h)

theorem Memory.wf_memZero (m : Memory) (a n : Nat) (h : Memory.wf m = true) :
    Memory.wf (memZero m a n) = true := by
  simp only [Memory.wf, Bool.and_eq_true, List.all_eq_true] at h ⊢
  exact ⟨tabSorted_filter _ _ h.1, fun x hx => h.2 x (List.mem_of_mem_filter hx)⟩

/-- A zeroed range reads as 0, and every other address as before. -/
theorem memRead_memZero (m : Memory) (a n b : Nat) :
    memRead (memZero m a n) b = if a ≤ b ∧ b < a + n then memUnlisted else memRead m b := by
  induction m with
  | nil => simp [memZero, memRead, tabGet]
  | cons x r ih =>
    obtain ⟨j, v⟩ := x
    simp only [memRead, memZero] at ih ⊢
    by_cases hj : a ≤ j ∧ j < a + n
    · rw [List.filter_cons_of_neg (by simpa using hj), ih]
      by_cases hb : a ≤ b ∧ b < a + n
      · simp [hb]
      · have : j ≠ b := fun e => hb (e ▸ hj)
        simp [hb, tabGet, this]
    · rw [List.filter_cons_of_pos (by simp; omega)]
      by_cases h : j = b
      · subst h; simp only [tabGet, hj, if_false, if_true]
      · simp only [tabGet, h, if_false, ih]

/-! ## Whole reads -/

@[simp] theorem memReads_length (m : Memory) (a n : Nat) : (memReads m a n).length = n := by simp [memReads]

theorem memReads_memWrites (m : Memory) (a : Nat) (l : List Byte) :
    memReads (memWrites m a l) a l.length = l := by
  apply List.ext_getElem
  · simp
  · intro i h1 h2
    simp [memReads, memRead_memWrites_in m a l i h2]

end Sys2Proof.Machine
end

