-- ==== Sys2Proof/Laws/Keeps.lean ====
section
/-! SUPPORT. Laws/Keeps.lean: what every operation keeps: the queue, the canonical form of memory and, unless
it may store, memory itself. The Keep files say so of every operation of the model, one lemma each. -/

namespace Sys2Proof.Machine

open Sys2Proof

/-- From z to s the queue stands and memory keeps its canonical form; tenant memory stands unless h, scratchpads stand
unless p. -/
structure Keeps (h p : Bool) (z s : State) : Prop where
  pending : s.pending = z.pending
  hbm : h = false → s.hbm = z.hbm
  pad : p = false → s.pad = z.pad
  wf : MemoryWf z → MemoryWf s

namespace Keeps

theorem refl {wh wp : Bool} (s : State) : Keeps wh wp s s := ⟨rfl, fun _ => rfl, fun _ => rfl, id⟩

theorem trans {wh wp : Bool} {a b c : State} (h : Keeps wh wp a b) (k : Keeps wh wp b c) : Keeps wh wp a c :=
  ⟨k.1.trans h.1, fun e => (k.2 e).trans (h.2 e), fun e => (k.3 e).trans (h.3 e), fun e => k.4 (h.4 e)⟩

theorem upd {wh wp : Bool} {s t : State} (h : Keeps wh wp s t) (a b : Nat) (c : List Output) (d e : Tab Word) (f : Chip)
    (g : Transport) (i : Tab Tenant) (j : Sched) (k : Display) (l : Sensors) (m : Decoder) (n : Net) (e2 : Tab Egress)
    (o : Firmware) (p : Power) (q : Nvr) (r : Security) :
    Keeps wh wp s { t with
      now := a, fresh := b, sent := c, regs := d, pend := e, chip := f, link := g, tenants := i, sched := j, disp := k,
      sens := l, dec := m, net := n, egress := e2, fw := o, pwr := p, nvr := q, sec := r } :=
  ⟨h.1, h.2, h.3, h.4⟩

theorem foldl {wh wp : Bool} {α : Type} {f : State → α → State} (l : List α) {s t : State} (h : Keeps wh wp s t)
    (hf : ∀ t x, Keeps wh wp s t → Keeps wh wp s (f t x)) : Keeps wh wp s (l.foldl f t) := by
  induction l generalizing t with
  | nil => exact h
  | cons x r ih => exact ih (hf t x h)

theorem ofFoldl {wh wp : Bool} {α β : Type} {g : β → State} {f : β → α → β} (l : List α) {s : State} {t : β}
    (h : Keeps wh wp s (g t)) (hf : ∀ t x, Keeps wh wp s (g t) → Keeps wh wp s (g (f t x))) : Keeps wh wp s (g (l.foldl f t)) := by
  induction l generalizing t with
  | nil => exact h
  | cons x r ih => exact ih (hf t x h)

theorem ite {wh wp : Bool} {c : Prop} [Decidable c] {s a b : State} (ha : Keeps wh wp s a) (hb : Keeps wh wp s b) :
    Keeps wh wp s (if c then a else b) := by
  split <;> assumption

theorem weaken {s t : State} (h : Keeps false false s t) (wh wp : Bool) : Keeps wh wp s t :=
  ⟨h.1, fun _ => h.2 rfl, fun _ => h.3 rfl, h.4⟩

end Keeps

/-! ## The operations that store -/

theorem hbmWrite_keeps {wp : Bool} {z s : State} (t va : Nat) (l : List Byte) (hz : Keeps true wp z s) :
    Keeps true wp z (hbmWrite s t va l) :=
  ⟨hz.1, nofun, hz.3, fun h => ⟨Memory.wf_memWrites _ _ _ (hz.4 h).1, (hz.4 h).2⟩⟩

theorem hbmZero_keeps {wp : Bool} {z s : State} (t va n : Nat) (hz : Keeps true wp z s) :
    Keeps true wp z (hbmZero s t va n) :=
  ⟨hz.1, nofun, hz.3, fun h => ⟨Memory.wf_memZero _ _ _ (hz.4 h).1, (hz.4 h).2⟩⟩

theorem padWrite_keeps {wh : Bool} {z s : State} (c a : Nat) (l : List Byte) (hz : Keeps wh true z s) :
    Keeps wh true z (padWrite s c a l) :=
  ⟨hz.1, hz.2, nofun, fun h => ⟨(hz.4 h).1, Memory.wf_memWrites _ _ _ (hz.4 h).2⟩⟩

theorem padZero_keeps {wh : Bool} {z s : State} (c a n : Nat) (hz : Keeps wh true z s) :
    Keeps wh true z (padZero s c a n) :=
  ⟨hz.1, hz.2, nofun, fun h => ⟨(hz.4 h).1, Memory.wf_memZero _ _ _ (hz.4 h).2⟩⟩

end Sys2Proof.Machine
end

