-- ==== Sys2Proof/Laws/KeepLink.lean ====
section
/-! SUPPORT. Laws/KeepLink.lean: the operations of packets, storage words, ports and the wall keep the queue, the canonical form of memory and, where they store nothing,
memory itself. -/

namespace Sys2Proof.Machine

open Sys2Proof

theorem setRegW_keeps {wh wp : Bool} {z0 : State} {s : State} (a : Nat) (v : Nat) (hk0 : Keeps wh wp z0 s) :
    Keeps wh wp z0 (setRegW s a v) := by
  unfold setRegW
  repeat' with_reducible first | assumption | (fail_if_no_progress apply Keeps.upd)

theorem incReg_keeps {wh wp : Bool} {z0 : State} {s : State} (a : Nat) (n : Nat) (cap : Nat) (hk0 : Keeps wh wp z0 s) :
    Keeps wh wp z0 (incReg s a n cap) := by
  unfold incReg
  repeat' with_reducible first | assumption | apply setRegW_keeps

theorem setTen_keeps {wh wp : Bool} {z0 : State} {s : State} (t : Nat) (v : Tenant) (hk0 : Keeps wh wp z0 s) :
    Keeps wh wp z0 (setTen s t v) := by
  unfold setTen
  repeat' with_reducible first | assumption | (fail_if_no_progress apply Keeps.upd)

theorem modTen_keeps {wh wp : Bool} {z0 : State} {s : State} (t : Nat) (f : Tenant → Tenant) (hk0 : Keeps wh wp z0 s) :
    Keeps wh wp z0 (modTen s t f) := by
  unfold modTen
  repeat' with_reducible first | assumption | apply setTen_keeps

theorem setSes_keeps {wh wp : Bool} {z0 : State} {s : State} (i : Nat) (v : Session) (hk0 : Keeps wh wp z0 s) :
    Keeps wh wp z0 (setSes s i v) := by
  unfold setSes
  repeat' with_reducible first | assumption | (fail_if_no_progress apply Keeps.upd)

theorem setLoop_keeps {wh wp : Bool} {z0 : State} {s : State} (i : Nat) (v : Loop) (hk0 : Keeps wh wp z0 s) :
    Keeps wh wp z0 (setLoop s i v) := by
  unfold setLoop
  repeat' with_reducible first | assumption | (fail_if_no_progress apply Keeps.upd)

theorem setCore_keeps {wh wp : Bool} {z0 : State} {s : State} (c : Nat) (v : Core) (hk0 : Keeps wh wp z0 s) :
    Keeps wh wp z0 (setCore s c v) := by
  unfold setCore
  repeat' with_reducible first | assumption | (fail_if_no_progress apply Keeps.upd)

theorem setUnit_keeps {wh wp : Bool} {z0 : State} {s : State} (u : Nat) (v : Func) (hk0 : Keeps wh wp z0 s) :
    Keeps wh wp z0 (setUnit s u v) := by
  unfold setUnit
  repeat' with_reducible first | assumption | (fail_if_no_progress apply Keeps.upd)

theorem setPipe_keeps {wh wp : Bool} {z0 : State} {s : State} (p : Nat) (v : Pipe) (hk0 : Keeps wh wp z0 s) :
    Keeps wh wp z0 (setPipe s p v) := by
  unfold setPipe
  repeat' with_reducible first | assumption | (fail_if_no_progress apply Keeps.upd)

theorem modPipe_keeps {wh wp : Bool} {z0 : State} {s : State} (p : Nat) (f : Pipe → Pipe) (hk0 : Keeps wh wp z0 s) :
    Keeps wh wp z0 (modPipe s p f) := by
  unfold modPipe
  repeat' with_reducible first | assumption | apply setPipe_keeps

theorem setTx_keeps {wh wp : Bool} {z0 : State} {s : State} (t : Nat) (v : Transmitter) (hk0 : Keeps wh wp z0 s) :
    Keeps wh wp z0 (setTx s t v) := by
  unfold setTx
  repeat' with_reducible first | assumption | (fail_if_no_progress apply Keeps.upd)

theorem setRx_keeps {wh wp : Bool} {z0 : State} {s : State} (r : Nat) (v : Receiver) (hk0 : Keeps wh wp z0 s) :
    Keeps wh wp z0 (setRx s r v) := by
  unfold setRx
  repeat' with_reducible first | assumption | (fail_if_no_progress apply Keeps.upd)

theorem setTdm_keeps {wh wp : Bool} {z0 : State} {s : State} (p : Nat) (v : TdmPort) (hk0 : Keeps wh wp z0 s) :
    Keeps wh wp z0 (setTdm s p v) := by
  unfold setTdm
  repeat' with_reducible first | assumption | (fail_if_no_progress apply Keeps.upd)

theorem setCtx_keeps {wh wp : Bool} {z0 : State} {s : State} (c : Nat) (v : Context) (hk0 : Keeps wh wp z0 s) :
    Keeps wh wp z0 (setCtx s c v) := by
  unfold setCtx
  repeat' with_reducible first | assumption | (fail_if_no_progress apply Keeps.upd)

theorem setStream_keeps {wh wp : Bool} {z0 : State} {s : State} (i : Nat) (v : Stream) (hk0 : Keeps wh wp z0 s) :
    Keeps wh wp z0 (setStream s i v) := by
  unfold setStream
  repeat' with_reducible first | assumption | (fail_if_no_progress apply Keeps.upd)

theorem setLane_keeps {wh wp : Bool} {z0 : State} {s : State} (l : Nat) (v : Lane) (hk0 : Keeps wh wp z0 s) :
    Keeps wh wp z0 (setLane s l v) := by
  unfold setLane
  repeat' with_reducible first | assumption | (fail_if_no_progress apply Keeps.upd)

theorem setPort_keeps {wh wp : Bool} {z0 : State} {s : State} (p : Nat) (v : Port) (hk0 : Keeps wh wp z0 s) :
    Keeps wh wp z0 (setPort s p v) := by
  unfold setPort
  repeat' with_reducible first | assumption | (fail_if_no_progress apply Keeps.upd)

theorem setBase_keeps {wh wp : Bool} {z0 : State} {s : State} (b : Nat) (v : TimeBase) (hk0 : Keeps wh wp z0 s) :
    Keeps wh wp z0 (setBase s b v) := by
  unfold setBase
  repeat' with_reducible first | assumption | (fail_if_no_progress apply Keeps.upd)

theorem setWall_keeps {wh wp : Bool} {z0 : State} {s : State} (w : Wall) (hk0 : Keeps wh wp z0 s) :
    Keeps wh wp z0 (setWall s w) := by
  unfold setWall
  repeat' with_reducible first | assumption | (fail_if_no_progress apply Keeps.upd)

theorem setProc_keeps {wh wp : Bool} {z0 : State} {s : State} (p : Nat) (v : Processor) (hk0 : Keeps wh wp z0 s) :
    Keeps wh wp z0 (setProc s p v) := by
  unfold setProc
  repeat' with_reducible first | assumption | (fail_if_no_progress apply Keeps.upd)

theorem draw_keeps {wh wp : Bool} {z0 : State} {s : State} (hk0 : Keeps wh wp z0 s) :
    Keeps wh wp z0 (draw s) := by
  unfold draw
  repeat' with_reducible first | assumption | (fail_if_no_progress apply Keeps.upd)

theorem healLines_keeps {wh wp : Bool} {z0 : State} {s : State} (t : Nat) (va : Nat) (n : Nat) (hk0 : Keeps wh wp z0 s) :
    Keeps wh wp z0 (healLines s t va n) := by
  unfold healLines
  repeat' with_reducible first | assumption | apply modTen_keeps | (fail_if_no_progress apply Keeps.upd) | split | intro _

theorem pushLog_keeps {wh wp : Bool} {z0 : State} {s : State} (source : Nat) (severity : Nat) (code : Nat) (tenant : Nat) (args : List Nat) (hk0 : Keeps wh wp z0 s) :
    Keeps wh wp z0 (pushLog s source severity code tenant args) := by
  unfold pushLog; try dsimp only
  repeat' with_reducible first | assumption | (fail_if_no_progress apply Keeps.upd) | split

theorem trace_keeps {wh wp : Bool} {z0 : State} {s : State} (point : Nat) (tenant : Nat) (args : List Nat) (hk0 : Keeps wh wp z0 s) :
    Keeps wh wp z0 (trace s point tenant args) := by
  unfold trace
  repeat' with_reducible first | assumption | apply pushLog_keeps | split

theorem modPort_keeps {wh wp : Bool} {z0 : State} {s : State} (p : Nat) (f : Port → Port) (hk0 : Keeps wh wp z0 s) :
    Keeps wh wp z0 (modPort s p f) := by
  unfold modPort
  repeat' with_reducible first | assumption | apply setPort_keeps

theorem setEgress_keeps {wh wp : Bool} {z0 : State} {s : State} (p : Nat) (e : Egress) (hk0 : Keeps wh wp z0 s) :
    Keeps wh wp z0 (setEgress s p e) := by
  unfold setEgress
  repeat' with_reducible first | assumption | (fail_if_no_progress apply Keeps.upd)

theorem depart_keeps {wh wp : Bool} {z0 : State} {s : State} (o : Output) (hk0 : Keeps wh wp z0 s) :
    Keeps wh wp z0 (depart s o).1 := by
  unfold depart; try dsimp only
  repeat' with_reducible first | assumption | apply modPort_keeps | (fail_if_no_progress apply Keeps.upd) | split | intro _

theorem depart_eq_keeps {wh wp : Bool} {z0 s t : State} {o : Output} {r : List Output}
    (hk0 : Keeps wh wp z0 s) (h : depart s o = (t, r)) : Keeps wh wp z0 t := by
  have := depart_keeps o hk0
  rwa [h] at this

theorem joinPort_keeps {wh wp : Bool} {z0 : State} {s : State} (o : Output) (hk0 : Keeps wh wp z0 s) :
    Keeps wh wp z0 (joinPort s o) := by
  unfold joinPort; try dsimp only
  repeat' with_reducible first | assumption | apply setEgress_keeps | split

theorem drainClass_keeps {wh wp : Bool} {z0 : State} (p c n : Nat) {s : State} (hk0 : Keeps wh wp z0 s) :
    Keeps wh wp z0 (drainClass p c n s) := by
  induction n generalizing s with
  | zero => exact hk0
  | succ n ih =>
    unfold drainClass; try dsimp only
    repeat' with_reducible first | assumption | apply ih | (refine Keeps.foldl _ ?_ (fun _ _ h => joinPort_keeps _ h)) | apply depart_keeps | apply setEgress_keeps | split

theorem drainPort_keeps {wh wp : Bool} {z0 : State} {s : State} (p : Nat) (hk0 : Keeps wh wp z0 s) :
    Keeps wh wp z0 (drainPort s p) := by
  unfold drainPort; try dsimp only
  repeat' with_reducible first | assumption | apply drainClass_keeps | apply setEgress_keeps | (refine Keeps.foldl _ ?_ (fun _ _ _ => ?_)) | split | intro _

theorem drainPorts_keeps {wh wp : Bool} {z0 : State} {s : State} (hk0 : Keeps wh wp z0 s) :
    Keeps wh wp z0 (drainPorts s) := by
  unfold drainPorts
  repeat' with_reducible first | assumption | apply drainPort_keeps | (refine Keeps.foldl _ ?_ (fun _ _ _ => ?_)) | split | intro _

theorem out_keeps {wh wp : Bool} {z0 s : State} (o : Output) (hk0 : Keeps wh wp z0 s) : Keeps wh wp z0 (out s o) := by
  unfold out; try dsimp only
  repeat' with_reducible first | assumption | apply drainPort_keeps | apply joinPort_keeps | (refine Keeps.foldl _ ?_ (fun _ _ _ => ?_)) | apply depart_keeps | split | intro _

theorem freezeCredit_keeps {wh wp : Bool} {z0 : State} {s : State} (p : Nat) (gates : Nat) (span : Nat) (hk0 : Keeps wh wp z0 s) :
    Keeps wh wp z0 (freezeCredit s p gates span) := by
  unfold freezeCredit; try dsimp only
  repeat' with_reducible first | assumption | apply setEgress_keeps | (fail_if_no_progress apply Keeps.upd) | split

theorem sendPacket_keeps {wh wp : Bool} {z0 : State} {s : State} (i : Nat) (ss : Session) (p : TxPacket) (hk0 : Keeps wh wp z0 s) :
    Keeps wh wp z0 (sendPacket s i ss p) := by
  unfold sendPacket
  repeat' with_reducible first | assumption | apply out_keeps

theorem armReset_keeps {wh wp : Bool} {z0 : State} {s : State} (i : Nat) (tag : Nat) (hk0 : Keeps wh wp z0 s) :
    Keeps wh wp z0 (armReset s i tag) := by
  unfold armReset
  repeat' with_reducible first | assumption | (fail_if_no_progress apply Keeps.upd) | split

theorem afterSent_keeps {wh wp : Bool} {z0 : State} {s : State} (i : Nat) (m : Msg) (hk0 : Keeps wh wp z0 s) :
    Keeps wh wp z0 (afterSent s i m) := by
  unfold afterSent; try dsimp only
  repeat' with_reducible first | assumption | apply armReset_keeps | apply setRegW_keeps | (fail_if_no_progress apply Keeps.upd) | split | intro _

theorem transmit_keeps {wh wp : Bool} {z0 : State} {s : State} (i : Nat) (ss : Session) (m : Msg) (hk0 : Keeps wh wp z0 s) :
    Keeps wh wp z0 (transmit s i ss m) := by
  unfold transmit; try dsimp only
  repeat' with_reducible first | assumption | apply afterSent_keeps | apply sendPacket_keeps | apply setSes_keeps | (fail_if_no_progress apply Keeps.upd) | split

theorem sendMsg_keeps {wh wp : Bool} {z0 : State} {s : State} (i : Nat) (m : Msg) (hk0 : Keeps wh wp z0 s) :
    Keeps wh wp z0 (sendMsg s i m) := by
  unfold sendMsg
  repeat' with_reducible first | assumption | apply transmit_keeps | apply setSes_keeps | (fail_if_no_progress apply Keeps.upd) | split

theorem sendAck_keeps {wh wp : Bool} {z0 : State} {s : State} (i : Nat) (hk0 : Keeps wh wp z0 s) :
    Keeps wh wp z0 (sendAck s i) := by
  unfold sendAck; try dsimp only
  repeat' with_reducible first | assumption | apply out_keeps | apply setSes_keeps | (fail_if_no_progress apply Keeps.upd) | split

theorem reply_keeps {wh wp : Bool} {z0 : State} {s : State} (op : Nat) (rq : Req) (status : Nat) (detail : Nat) (payload : List Byte) (hk0 : Keeps wh wp z0 s) :
    Keeps wh wp z0 (reply s op rq status detail payload) := by
  unfold reply
  repeat' with_reducible first | assumption | apply sendMsg_keeps | (fail_if_no_progress apply Keeps.upd)

theorem refuse_keeps {wh wp : Bool} {z0 : State} {s : State} (op : Nat) (rq : Req) (e : Nat × Nat) (hk0 : Keeps wh wp z0 s) :
    Keeps wh wp z0 (refuse s op rq e) := by
  unfold refuse
  repeat' with_reducible first | assumption | apply reply_keeps

theorem replyOk_keeps {wh wp : Bool} {z0 : State} {s : State} (op : Nat) (rq : Req) (payload : List Byte) (hk0 : Keeps wh wp z0 s) :
    Keeps wh wp z0 (replyOk s op rq payload) := by
  unfold replyOk
  repeat' with_reducible first | assumption | apply reply_keeps

theorem toTenant_keeps {wh wp : Bool} {z0 : State} {s : State} (t : Nat) (m : Msg) (keep : Bool) (hk0 : Keeps wh wp z0 s) :
    Keeps wh wp z0 (toTenant s t m keep) := by
  unfold toTenant
  repeat' with_reducible first | assumption | apply sendMsg_keeps | apply modTen_keeps | (fail_if_no_progress apply Keeps.upd) | split | intro _

theorem complete_keeps {wh wp : Bool} {z0 : State} {s : State} (t : Nat) (a : Async) (status : Nat) (detail : Nat) (payload : List Byte) (hk0 : Keeps wh wp z0 s) :
    Keeps wh wp z0 (complete s t a status detail payload) := by
  unfold complete
  repeat' with_reducible first | assumption | apply toTenant_keeps | apply modTen_keeps | (fail_if_no_progress apply Keeps.upd) | split | intro _

theorem event_keeps {wh wp : Bool} {z0 : State} {s : State} (t : Nat) (op : Nat) (status : Nat) (detail : Nat) (payload : List Byte) (hk0 : Keeps wh wp z0 s) :
    Keeps wh wp z0 (event s t op status detail payload) := by
  unfold event
  repeat' with_reducible first | assumption | apply toTenant_keeps | (fail_if_no_progress apply Keeps.upd)

theorem accept_keeps {wh wp : Bool} {z0 s : State} (op : Nat) (rq : Req) (t status : Nat) (payload : List Byte)
    {k : State → Async → State} (hk0 : Keeps wh wp z0 s) (hk : ∀ u a, Keeps wh wp z0 u → Keeps wh wp z0 (k u a)) :
    Keeps wh wp z0 (accept s op rq t status payload k) := by
  unfold accept
  repeat' with_reducible first | assumption | apply refuse_keeps | apply reply_keeps | apply modTen_keeps | apply hk | (fail_if_no_progress apply Keeps.upd) | (refine Keeps.foldl _ ?_ (fun _ _ _ => ?_)) | split | intro _

theorem stall_keeps {wh wp : Bool} {z0 : State} {s : State} (i : Nat) (ss : Session) (op : Nat) (tag : Nat) (payload : List Byte) (hk0 : Keeps wh wp z0 s) :
    Keeps wh wp z0 (stall s i ss op tag payload) := by
  unfold stall
  repeat' with_reducible first | assumption | apply setSes_keeps | (fail_if_no_progress apply Keeps.upd)

theorem request_keeps {wh wp : Bool} {z0 s : State} (op : Nat) (rq : Req) (payload : List Byte)
    {k : Nat → Session → State} (hk0 : Keeps wh wp z0 s) (hk : ∀ t ss, Keeps wh wp z0 (k t ss)) :
    Keeps wh wp z0 (request s op rq payload k) := by
  unfold request
  repeat' with_reducible first | assumption | apply incReg_keeps | apply stall_keeps | apply refuse_keeps | apply hk | (fail_if_no_progress apply Keeps.upd) | (refine Keeps.foldl _ ?_ (fun _ _ _ => ?_)) | split | intro _

theorem hear_keeps {wh wp : Bool} {z0 : State} (rq : Req) {s : State} (hk0 : Keeps wh wp z0 s) :
    Keeps wh wp z0 (hear rq s) := by
  unfold hear
  repeat' with_reducible first | assumption | apply modTen_keeps | (fail_if_no_progress apply Keeps.upd) | split | intro _

theorem take_keeps {wh wp : Bool} {z0 : State} (i : Instr) {s : State}
    {k : Nat → Nat → Session → Req → State} (hk0 : Keeps wh wp z0 s) (hk : ∀ op t ss rq, Keeps wh wp z0 (k op t ss rq)) :
    Keeps wh wp z0 (take i s k) := by
  unfold take
  repeat' with_reducible first | assumption | apply request_keeps | apply hk | (fail_if_no_progress apply Keeps.upd) | (refine Keeps.foldl _ ?_ (fun _ _ _ => ?_)) | split | intro _

theorem checked_keeps {wh wp : Bool} {z0 s : State} (op : Nat) (rq : Req) (l : List (Bool × (Nat × Nat))) {k : State}
    (hk0 : Keeps wh wp z0 s) (hk : Keeps wh wp z0 k) : Keeps wh wp z0 (checked s op rq l k) := by
  unfold checked
  repeat' with_reducible first | assumption | apply refuse_keeps | (fail_if_no_progress apply Keeps.upd) | (refine Keeps.foldl _ ?_ (fun _ _ _ => ?_)) | split | intro _

theorem passCycle_keeps {wh wp : Bool} {z0 : State} {s : State} (hk0 : Keeps wh wp z0 s) :
    Keeps wh wp z0 (passCycle s) := by
  unfold passCycle
  repeat' with_reducible first | assumption | apply drainPorts_keeps | (fail_if_no_progress apply Keeps.upd) | split | intro _

theorem flushWaiting_keeps {wh wp : Bool} {z0 : State} (n : Nat) {s : State} (i : Nat) (hk0 : Keeps wh wp z0 s) :
    Keeps wh wp z0 (flushWaiting n s i) := by
  induction n generalizing s with
  | zero => exact hk0
  | succ n ih =>
    unfold flushWaiting
    repeat' with_reducible first | assumption | apply transmit_keeps | apply ih | (fail_if_no_progress apply Keeps.upd) | (refine Keeps.foldl _ ?_ (fun _ _ _ => ?_)) | split | intro _

theorem ackAdvance_keeps {wh wp : Bool} {z0 : State} {s : State} (i : Nat) (ack : Nat) (hk0 : Keeps wh wp z0 s) :
    Keeps wh wp z0 (ackAdvance s i ack) := by
  unfold ackAdvance; try dsimp only
  repeat' with_reducible first | assumption | apply flushWaiting_keeps | apply setSes_keeps | (fail_if_no_progress apply Keeps.upd) | split

theorem onAckDelay_keeps {wh wp : Bool} {z0 : State} (session : Word) {s : State} (hk0 : Keeps wh wp z0 s) :
    Keeps wh wp z0 (onAckDelay session s) := by
  unfold onAckDelay
  repeat' with_reducible first | assumption | apply sendAck_keeps | split

theorem onRetransmit_keeps {wh wp : Bool} {z0 : State} (session : Word) {s : State} (hk0 : Keeps wh wp z0 s) :
    Keeps wh wp z0 (onRetransmit session s) := by
  unfold onRetransmit; try dsimp only
  repeat' with_reducible first | assumption | apply sendPacket_keeps | apply setSes_keeps | (fail_if_no_progress apply Keeps.upd) | split

theorem setTenState_keeps {wh wp : Bool} {z0 : State} {s : State} (t : Nat) (st : TenState) (hk0 : Keeps wh wp z0 s) :
    Keeps wh wp z0 (setTenState s t st) := by
  unfold setTenState; try dsimp only
  repeat' with_reducible first | assumption | apply modTen_keeps | apply trace_keeps | (fail_if_no_progress apply Keeps.upd) | intro _

theorem dropSession_keeps {wp : Bool} {z0 : State} {s : State} (t : Nat) (reason : Nat) (hk0 : Keeps true wp z0 s) :
    Keeps true wp z0 (dropSession s t reason) := by
  unfold dropSession; try dsimp only
  repeat' with_reducible first | assumption | apply modTen_keeps | apply hbmWrite_keeps | apply incReg_keeps | apply take_keeps | apply trace_keeps | (fail_if_no_progress apply Keeps.upd) | split | intro _

theorem onHeartbeat_keeps {wh wp : Bool} {z0 : State} (rq : Req) (v : DWord) {s : State} (hk0 : Keeps wh wp z0 s) :
    Keeps wh wp z0 (onHeartbeat rq v s) := by
  unfold onHeartbeat
  repeat' with_reducible first | assumption | apply take_keeps | apply replyOk_keeps | intro _

theorem onEcho_keeps {wh wp : Bool} {z0 : State} (rq : Req) (p : List Byte) {s : State} (hk0 : Keeps wh wp z0 s) :
    Keeps wh wp z0 (onEcho rq p s) := by
  unfold onEcho
  repeat' with_reducible first | assumption | apply take_keeps | apply replyOk_keeps | intro _

theorem onDeviceInfo_keeps {wh wp : Bool} {z0 : State} (rq : Req) {s : State} (hk0 : Keeps wh wp z0 s) :
    Keeps wh wp z0 (onDeviceInfo rq s) := by
  unfold onDeviceInfo
  repeat' with_reducible first | assumption | apply take_keeps | apply replyOk_keeps | intro _

theorem onCompletionQuery_keeps {wh wp : Bool} {z0 : State} (rq : Req) (about : Word) {s : State} (hk0 : Keeps wh wp z0 s) :
    Keeps wh wp z0 (onCompletionQuery rq about s) := by
  unfold onCompletionQuery
  repeat' with_reducible first | assumption | apply take_keeps | apply replyOk_keeps | intro _

theorem nvrStore_keeps {wh wp : Bool} {z0 : State} {s : State} (w : Nat) (v : Nat) (hk0 : Keeps wh wp z0 s) :
    Keeps wh wp z0 (nvrStore s w v) := by
  unfold nvrStore
  repeat' with_reducible first | assumption | (fail_if_no_progress apply Keeps.upd)

theorem endJob_keeps {wh wp : Bool} {z0 : State} {s : State} (job : Nat) (status : Nat) (index : Nat) (count : Nat) (hk0 : Keeps wh wp z0 s) :
    Keeps wh wp z0 (endJob s job status index count) := by
  unfold endJob
  repeat' with_reducible first | assumption | apply complete_keeps | (fail_if_no_progress apply Keeps.upd) | split

theorem nvrRefuse_keeps {wh wp : Bool} {z0 : State} (n : Nat) {s : State} (hk0 : Keeps wh wp z0 s) :
    Keeps wh wp z0 (nvrRefuse n s) := by
  induction n generalizing s with
  | zero => exact hk0
  | succ n ih =>
    unfold nvrRefuse
    repeat' with_reducible first | assumption | apply endJob_keeps | apply ih | (fail_if_no_progress apply Keeps.upd) | (refine Keeps.foldl _ ?_ (fun _ _ _ => ?_)) | split | intro _

theorem nvrEnqueue_keeps {wh wp : Bool} {z0 : State} {s : State} (t : Nat) (a : Async) (addr : Nat) (ws : List (Nat × Nat)) (hk0 : Keeps wh wp z0 s) :
    Keeps wh wp z0 (nvrEnqueue s t a addr ws) := by
  unfold nvrEnqueue; try dsimp only
  repeat' with_reducible first | assumption | apply nvrRefuse_keeps | (fail_if_no_progress apply Keeps.upd) | split | intro _

theorem storeNvrWord_keeps {wh wp : Bool} {z0 : State} {s : State} (hk0 : Keeps wh wp z0 s) :
    Keeps wh wp z0 (storeNvrWord s) := by
  unfold storeNvrWord; try dsimp only
  repeat' with_reducible first | assumption | apply nvrStore_keeps | apply endJob_keeps | apply nvrRefuse_keeps | (fail_if_no_progress apply Keeps.upd) | split | intro _

theorem raiseBoot_keeps {wh wp : Bool} {z0 : State} {s : State} (hk0 : Keeps wh wp z0 s) :
    Keeps wh wp z0 (raiseBoot s) := by
  unfold raiseBoot; try dsimp only
  repeat' with_reducible first | assumption | apply nvrEnqueue_keeps | (fail_if_no_progress apply Keeps.upd) | (refine Keeps.foldl _ ?_ (fun _ _ _ => ?_)) | split

theorem qci_keeps {wh wp : Bool} {z0 : State} {s : State} (p : Nat) (f : FrameInfo) (hk0 : Keeps wh wp z0 s) :
    Keeps wh wp z0 (qci s p f).1 := by
  unfold qci; try dsimp only
  repeat' with_reducible first | assumption | apply setPort_keeps | (fail_if_no_progress apply Keeps.upd) | (refine Keeps.foldl _ ?_ (fun _ _ _ => ?_)) | split | intro _

theorem qci_eq_keeps {wh wp : Bool} {z0 s t : State} {p : Nat} {f : FrameInfo} {r : Option Nat}
    (hk0 : Keeps wh wp z0 s) (h : qci s p f = (t, r)) : Keeps wh wp z0 t := by
  have := qci_keeps p f hk0
  rwa [h] at this

theorem countIn_keeps {wh wp : Bool} {z0 : State} {s : State} (p : Nat) (c : Nat) (b : Nat) (hk0 : Keeps wh wp z0 s) :
    Keeps wh wp z0 (countIn s p c b) := by
  unfold countIn; try dsimp only
  repeat' with_reducible first | assumption | apply modPort_keeps | (fail_if_no_progress apply Keeps.upd) | intro _

theorem countClass_keeps {wh wp : Bool} {z0 : State} {s : State} (p : Nat) (c : Nat) (hk0 : Keeps wh wp z0 s) :
    Keeps wh wp z0 (countClass s p c) := by
  unfold countClass
  repeat' with_reducible first | assumption | apply countIn_keeps

theorem countGptp_keeps {wh wp : Bool} {z0 : State} {s : State} (p : Nat) (hk0 : Keeps wh wp z0 s) :
    Keeps wh wp z0 (countGptp s p) := by
  unfold countGptp
  repeat' with_reducible first | assumption | apply countIn_keeps | split

theorem receiveFrame_keeps {wh wp : Bool} {z0 s : State} (f : FrameInfo) {k : State → State} (hk0 : Keeps wh wp z0 s)
    (hk : ∀ t, Keeps wh wp z0 t → Keeps wh wp z0 (k t)) : Keeps wh wp z0 (receiveFrame s f k) := by
  unfold receiveFrame
  dsimp only
  split
  · exact hk0
  · split
    · exact incReg_keeps _ _ _ (qci_eq_keeps hk0 ‹_›)
    · exact hk _ (countClass_keeps _ _ (qci_eq_keeps hk0 ‹_›))

theorem armNext_keeps {wh wp : Bool} {z0 : State} {s : State} (p : Nat) (f : Frac) (hk0 : Keeps wh wp z0 s) :
    Keeps wh wp z0 (armNext s p f) := by
  unfold armNext
  repeat' with_reducible first | assumption | apply modPipe_keeps | (fail_if_no_progress apply Keeps.upd) | intro _

theorem claimFrames_keeps {wh wp : Bool} {z0 : State} {s : State} (p : Nat) (order : Nat) (ready : Frac) (hk0 : Keeps wh wp z0 s) :
    Keeps wh wp z0 (claimFrames s p order ready) := by
  unfold claimFrames
  repeat' with_reducible first | assumption | apply modPipe_keeps | (fail_if_no_progress apply Keeps.upd) | split | intro _

theorem modWall_keeps {wh wp : Bool} {z0 : State} {s : State} (f : Wall → Wall) (hk0 : Keeps wh wp z0 s) :
    Keeps wh wp z0 (modWall s f) := by
  unfold modWall
  repeat' with_reducible first | assumption | apply setWall_keeps

theorem sendWall_keeps {wh wp : Bool} {z0 : State} {s : State} (kind : Nat) (frame : Nat) (a : Nat) (b : Nat) (hk0 : Keeps wh wp z0 s) :
    Keeps wh wp z0 (sendWall s kind frame a b) := by
  unfold sendWall; try dsimp only
  repeat' with_reducible first | assumption | apply out_keeps | apply setWall_keeps | (fail_if_no_progress apply Keeps.upd) | split

theorem wallEvent_keeps {wh wp : Bool} {z0 : State} {s : State} (change : Nat) (member : Nat) (hk0 : Keeps wh wp z0 s) :
    Keeps wh wp z0 (wallEvent s change member) := by
  unfold wallEvent
  repeat' with_reducible first | assumption | apply event_keeps

theorem setLeaderless_keeps {wh wp : Bool} {z0 : State} {s : State} (v : Bool) (hk0 : Keeps wh wp z0 s) :
    Keeps wh wp z0 (setLeaderless s v) := by
  unfold setLeaderless
  repeat' with_reducible first | assumption | apply modPipe_keeps | apply modWall_keeps | (fail_if_no_progress apply Keeps.upd) | (refine Keeps.foldl _ ?_ (fun _ _ _ => ?_)) | intro _

theorem takeAgreed_keeps {wh wp : Bool} {z0 : State} {s : State} (at_ : Nat) (hk0 : Keeps wh wp z0 s) :
    Keeps wh wp z0 (takeAgreed s at_) := by
  unfold takeAgreed
  repeat' with_reducible first | assumption | apply modPipe_keeps | apply modWall_keeps | (fail_if_no_progress apply Keeps.upd) | (refine Keeps.foldl _ ?_ (fun _ _ _ => ?_)) | intro _

theorem sendAgree_keeps {wh wp : Bool} {z0 : State} {s : State} (hk0 : Keeps wh wp z0 s) :
    Keeps wh wp z0 (sendAgree s) := by
  unfold sendAgree; try dsimp only
  repeat' with_reducible first | assumption | apply modWall_keeps | apply takeAgreed_keeps | apply sendWall_keeps | (fail_if_no_progress apply Keeps.upd) | (refine Keeps.foldl _ ?_ (fun _ _ _ => ?_)) | split | intro _

theorem checkAgree_keeps {wh wp : Bool} {z0 : State} {s : State} (hk0 : Keeps wh wp z0 s) :
    Keeps wh wp z0 (checkAgree s) := by
  unfold checkAgree
  repeat' with_reducible first | assumption | apply sendAgree_keeps | split | intro _

theorem wallReady_keeps {wh wp : Bool} {z0 : State} {s : State} (hk0 : Keeps wh wp z0 s) :
    Keeps wh wp z0 (wallReady s) := by
  unfold wallReady; try dsimp only
  repeat' with_reducible first | assumption | apply modWall_keeps | apply checkAgree_keeps | apply sendWall_keeps | (fail_if_no_progress apply Keeps.upd) | (refine Keeps.foldl _ ?_ (fun _ _ _ => ?_)) | split | intro _

theorem onAgreeFallback_keeps {wh wp : Bool} {z0 : State} {s : State} (hk0 : Keeps wh wp z0 s) :
    Keeps wh wp z0 (onAgreeFallback s) := by
  unfold onAgreeFallback; try dsimp only
  repeat' with_reducible first | assumption | apply sendAgree_keeps | split

theorem onAgreementMissing_keeps {wh wp : Bool} {z0 : State} {s : State} (hk0 : Keeps wh wp z0 s) :
    Keeps wh wp z0 (onAgreementMissing s) := by
  unfold onAgreementMissing; try dsimp only
  repeat' with_reducible first | assumption | apply setRegW_keeps | apply modPipe_keeps | apply wallEvent_keeps | apply setLeaderless_keeps | apply modWall_keeps | (fail_if_no_progress apply Keeps.upd) | (refine Keeps.foldl _ ?_ (fun _ _ _ => ?_)) | split | intro _

theorem wallFrame_keeps {wh wp : Bool} {z0 : State} {s : State} (p : Nat) (hk0 : Keeps wh wp z0 s) :
    Keeps wh wp z0 (wallFrame s p) := by
  unfold wallFrame; try dsimp only
  repeat' with_reducible first | assumption | apply modWall_keeps | apply sendWall_keeps | (fail_if_no_progress apply Keeps.upd) | split | intro _

theorem onElection_keeps {wh wp : Bool} {z0 : State} {s : State} (hk0 : Keeps wh wp z0 s) :
    Keeps wh wp z0 (onElection s) := by
  unfold onElection; try dsimp only
  repeat' with_reducible first | assumption | apply modWall_keeps | apply setLeaderless_keeps | apply checkAgree_keeps | apply wallReady_keeps | apply wallEvent_keeps | (fail_if_no_progress apply Keeps.upd) | split | intro _

theorem takeWall_keeps {wh wp : Bool} {z0 s : State} (kind : Nat) (d : WallDatagram) {k : State → WallMsg → State}
    (hk0 : Keeps wh wp z0 s) (hk : ∀ t m, Keeps wh wp z0 t → Keeps wh wp z0 (k t m)) : Keeps wh wp z0 (takeWall s kind d k) := by
  unfold takeWall
  try dsimp only
  repeat' with_reducible first | assumption | apply receiveFrame_keeps | apply wallEvent_keeps | apply setLeaderless_keeps | apply modWall_keeps | apply hk | (fail_if_no_progress apply Keeps.upd) | (refine Keeps.foldl _ ?_ (fun _ _ _ => ?_)) | split | intro _

theorem modMember_keeps {wh wp : Bool} {z0 : State} {s : State} (i : Nat) (f : WallMember → WallMember) (hk0 : Keeps wh wp z0 s) :
    Keeps wh wp z0 (modMember s i f) := by
  unfold modMember
  repeat' with_reducible first | assumption | apply modWall_keeps | (fail_if_no_progress apply Keeps.upd) | split | intro _

theorem onWallReady_keeps {wh wp : Bool} {z0 : State} (d : WallDatagram) {s : State} (hk0 : Keeps wh wp z0 s) :
    Keeps wh wp z0 (onWallReady d s) := by
  unfold onWallReady
  repeat' with_reducible first | assumption | apply takeWall_keeps | apply checkAgree_keeps | apply modMember_keeps | (fail_if_no_progress apply Keeps.upd) | split | intro _

theorem onWallAgree_keeps {wh wp : Bool} {z0 : State} (d : WallDatagram) {s : State} (hk0 : Keeps wh wp z0 s) :
    Keeps wh wp z0 (onWallAgree d s) := by
  unfold onWallAgree; try dsimp only
  repeat' with_reducible first | assumption | apply takeWall_keeps | apply modWall_keeps | apply takeAgreed_keeps | apply setLeaderless_keeps | apply wallEvent_keeps | (fail_if_no_progress apply Keeps.upd) | split | intro _

theorem onWallClaim_keeps {wh wp : Bool} {z0 : State} (d : WallDatagram) {s : State} (hk0 : Keeps wh wp z0 s) :
    Keeps wh wp z0 (onWallClaim d s) := by
  unfold onWallClaim
  repeat' with_reducible first | assumption | apply takeWall_keeps | apply modMember_keeps | (fail_if_no_progress apply Keeps.upd) | intro _

theorem onMemberLost_keeps {wh wp : Bool} {z0 : State} (i : Nat) {s : State} (hk0 : Keeps wh wp z0 s) :
    Keeps wh wp z0 (onMemberLost i s) := by
  unfold onMemberLost
  repeat' with_reducible first | assumption | apply checkAgree_keeps | apply wallEvent_keeps | apply modWall_keeps | (fail_if_no_progress apply Keeps.upd) | split | intro _

theorem onWallKey_keeps {wh wp : Bool} {z0 : State} (rq : Req) (key : List Byte) {s : State} (hk0 : Keeps wh wp z0 s) :
    Keeps wh wp z0 (onWallKey rq key s) := by
  unfold onWallKey
  repeat' with_reducible first | assumption | apply take_keeps | apply refuse_keeps | apply modWall_keeps | apply replyOk_keeps | (fail_if_no_progress apply Keeps.upd) | split | intro _

theorem joinGroup_keeps {wh wp : Bool} {z0 : State} {s : State} (hk0 : Keeps wh wp z0 s) : Keeps wh wp z0 (joinGroup s) := by
  unfold joinGroup
  repeat' with_reducible first | assumption | apply out_keeps | split

theorem wallEffect_keeps {wh wp : Bool} {z0 : State} {s : State} (off : Nat) (old : Nat) (new : Nat) (hk0 : Keeps wh wp z0 s) :
    Keeps wh wp z0 (wallEffect s off old new) := by
  unfold wallEffect
  repeat' with_reducible first | assumption | apply joinGroup_keeps | apply setLeaderless_keeps | apply setWall_keeps | (fail_if_no_progress apply Keeps.upd) | split

end Sys2Proof.Machine
end

