-- ==== Sys2Proof/Laws/KeepSched.lean ====
section
/-! SUPPORT. Laws/KeepSched.lean: the scheduler, memory, faults, loops and the data movers keep the queue, the canonical form of memory and, where they store nothing,
memory itself. -/

namespace Sys2Proof.Machine

open Sys2Proof

theorem modLoop_keeps {wh wp : Bool} {z0 : State} {s : State} (id : Nat) (f : Loop → Loop) (hk0 : Keeps wh wp z0 s) :
    Keeps wh wp z0 (modLoop s id f) := by
  unfold modLoop
  repeat' with_reducible first | assumption | apply setLoop_keeps | split

theorem modHead_keeps {wh wp : Bool} {z0 : State} {s : State} (id : Nat) (f : Step → Step) (hk0 : Keeps wh wp z0 s) :
    Keeps wh wp z0 (modHead s id f) := by
  unfold modHead
  repeat' with_reducible first | assumption | apply modLoop_keeps | (fail_if_no_progress apply Keeps.upd) | intro _

theorem modCmd_keeps {wh wp : Bool} {z0 : State} {s : State} (id : Nat) (c : Nat) (f : Cmd → Cmd) (hk0 : Keeps wh wp z0 s) :
    Keeps wh wp z0 (modCmd s id c f) := by
  unfold modCmd
  repeat' with_reducible first | assumption | apply modHead_keeps | (fail_if_no_progress apply Keeps.upd) | intro _

theorem modQueued_keeps {wh wp : Bool} {z0 : State} {s : State} (id : Nat) (n : Nat) (c : Nat) (f : Cmd → Cmd) (hk0 : Keeps wh wp z0 s) :
    Keeps wh wp z0 (modQueued s id n c f) := by
  unfold modQueued
  repeat' with_reducible first | assumption | apply modLoop_keeps | (fail_if_no_progress apply Keeps.upd) | intro _

theorem modInst_keeps {wh wp : Bool} {z0 : State} {s : State} (r : CmdRef) (f : Inst → Inst) (hk0 : Keeps wh wp z0 s) :
    Keeps wh wp z0 (modInst s r f) := by
  unfold modInst
  repeat' with_reducible first | assumption | apply modCmd_keeps | (fail_if_no_progress apply Keeps.upd) | intro _

theorem loadLoop_keeps {wh wp : Bool} {z0 : State} {s : State} (id : Nat) (hk0 : Keeps wh wp z0 s) :
    Keeps wh wp z0 (loadLoop s id) := by
  unfold loadLoop; try dsimp only
  repeat' with_reducible first | assumption | apply modLoop_keeps | (fail_if_no_progress apply Keeps.upd) | intro _

theorem unloadLoop_keeps {wh wp : Bool} {z0 : State} {s : State} (id : Nat) (by_ : Nat) (records : Nat) (hk0 : Keeps wh wp z0 s) :
    Keeps wh wp z0 (unloadLoop s id by_ records) := by
  unfold unloadLoop; try dsimp only
  repeat' with_reducible first | assumption | apply modLoop_keeps | apply trace_keeps | apply incReg_keeps | (fail_if_no_progress apply Keeps.upd) | split | intro _

theorem replaceLoop_keeps {wh wp : Bool} {z0 : State} {s : State} (out : Nat) (id : Nat) (records : Nat) (hk0 : Keeps wh wp z0 s) :
    Keeps wh wp z0 (replaceLoop s out id records) := by
  unfold replaceLoop; try dsimp only
  repeat' with_reducible first | assumption | apply out_keeps | apply loadLoop_keeps | apply unloadLoop_keeps | (fail_if_no_progress apply Keeps.upd)

theorem admitLoop_keeps {wh wp : Bool} {z0 : State} {s : State} (id : Nat) (hk0 : Keeps wh wp z0 s) :
    Keeps wh wp z0 (admitLoop s id) := by
  unfold admitLoop
  repeat' with_reducible first | assumption | apply loadLoop_keeps | apply replaceLoop_keeps | apply modLoop_keeps | (fail_if_no_progress apply Keeps.upd) | split | intro _

theorem refreshLoops_keeps {wh wp : Bool} {z0 : State} {s : State} (hk0 : Keeps wh wp z0 s) :
    Keeps wh wp z0 (refreshLoops s) := by
  unfold refreshLoops; try dsimp only
  repeat' with_reducible first | assumption | apply modLoop_keeps | apply admitLoop_keeps | (fail_if_no_progress apply Keeps.upd) | (refine Keeps.foldl _ ?_ (fun _ _ _ => ?_)) | split | intro _

theorem markEligible_keeps {wh wp : Bool} {z0 : State} {s : State} (hk0 : Keeps wh wp z0 s) :
    Keeps wh wp z0 (markEligible s) := by
  unfold markEligible
  repeat' with_reducible first | assumption | apply modInst_keeps | (fail_if_no_progress apply Keeps.upd) | (refine Keeps.foldl _ ?_ (fun _ _ _ => ?_)) | split | intro _

theorem raiseBlockers_keeps {wh wp : Bool} {z0 : State} {s : State} (hk0 : Keeps wh wp z0 s) :
    Keeps wh wp z0 (raiseBlockers s) := by
  unfold raiseBlockers
  repeat' with_reducible first | assumption | apply modQueued_keeps | (fail_if_no_progress apply Keeps.upd) | (refine Keeps.foldl _ ?_ (fun _ _ _ => ?_)) | split | intro _

theorem refresh_keeps {wh wp : Bool} {z0 : State} {s : State} (hk0 : Keeps wh wp z0 s) :
    Keeps wh wp z0 (refresh s) := by
  unfold refresh
  repeat' with_reducible first | assumption | apply markEligible_keeps | apply raiseBlockers_keeps | apply refreshLoops_keeps

theorem makeEligible_keeps {wh wp : Bool} {z0 : State} {s : State} (id : Nat) (l : Loop) (st : Step) (deadline : Option (Nat × Frac)) (hk0 : Keeps wh wp z0 s) :
    Keeps wh wp z0 (makeEligible s id l st deadline) := by
  unfold makeEligible; try dsimp only
  repeat' with_reducible first | assumption | apply modHead_keeps | apply trace_keeps | (fail_if_no_progress apply Keeps.upd) | split | intro _

theorem promote_keeps {wh wp : Bool} {z0 : State} {s : State} (id : Nat) (hk0 : Keeps wh wp z0 s) :
    Keeps wh wp z0 (promote s id) := by
  unfold promote; try dsimp only
  repeat' with_reducible first | assumption | apply modHead_keeps | apply claimFrames_keeps | apply makeEligible_keeps | (fail_if_no_progress apply Keeps.upd) | split | intro _

theorem killPads_keeps {wh : Bool} {z0 : State} {s : State} (p : Placed) (hk0 : Keeps wh true z0 s) :
    Keeps wh true z0 (killPads s p) := by
  unfold killPads
  repeat' with_reducible first | assumption | apply padZero_keeps | (refine Keeps.foldl _ ?_ (fun _ _ _ => ?_)) | intro _

theorem haltWaits_keeps {wh wp : Bool} {z0 : State} {s : State} (q : Placed) (hk0 : Keeps wh wp z0 s) :
    Keeps wh wp z0 (haltWaits s q) := by
  unfold haltWaits; try dsimp only
  repeat' with_reducible first | assumption | apply modInst_keeps | (fail_if_no_progress apply Keeps.upd) | split | intro _

theorem restream_keeps {wh wp : Bool} {z0 : State} {s : State} (q : Placed) (hk0 : Keeps wh wp z0 s) :
    Keeps wh wp z0 (restream s q) := by
  unfold restream; try dsimp only
  repeat' with_reducible first | assumption | apply modInst_keeps | (fail_if_no_progress apply Keeps.upd) | split | intro _

theorem stopInst_keeps {wh : Bool} {z0 : State} {s : State} (r : CmdRef) (ph : Phase) (hk0 : Keeps wh true z0 s) :
    Keeps wh true z0 (stopInst s r ph) := by
  unfold stopInst; try dsimp only
  repeat' with_reducible first | assumption | apply restream_keeps | apply modInst_keeps | apply killPads_keeps | apply haltWaits_keeps | (fail_if_no_progress apply Keeps.upd) | split | intro _

theorem killEvent_keeps {wh wp : Bool} {z0 : State} {s : State} (q : Placed) (kills : Nat) (cause : Nat) (core : Nat) (hk0 : Keeps wh wp z0 s) :
    Keeps wh wp z0 (killEvent s q kills cause core) := by
  unfold killEvent
  repeat' with_reducible first | assumption | apply event_keeps | split

theorem countKill_keeps {wh wp : Bool} {z0 : State} {s : State} (q : Placed) (cause : Nat) (hk0 : Keeps wh wp z0 s) :
    Keeps wh wp z0 (countKill s q cause) := by
  unfold countKill; try dsimp only
  repeat' with_reducible first | assumption | apply modCmd_keeps | apply modHead_keeps | apply incReg_keeps | apply trace_keeps | apply killEvent_keeps | (fail_if_no_progress apply Keeps.upd) | split | intro _

theorem countQuiet_keeps {wh wp : Bool} {z0 : State} {s : State} (qs : List Placed) (hk0 : Keeps wh wp z0 s) :
    Keeps wh wp z0 (countQuiet s qs) := by
  unfold countQuiet
  repeat' with_reducible first | assumption | apply incReg_keeps | apply modHead_keeps | (fail_if_no_progress apply Keeps.upd) | (refine Keeps.foldl _ ?_ (fun _ _ _ => ?_)) | intro _

theorem killInsts_keeps {wh : Bool} {z0 : State} {s : State} (rs : List CmdRef) (cause : Nat) (hk0 : Keeps wh true z0 s) :
    Keeps wh true z0 (killInsts s rs cause) := by
  unfold killInsts; try dsimp only
  repeat' with_reducible first | assumption | apply countKill_keeps | apply refresh_keeps | apply stopInst_keeps | (refine Keeps.foldl _ ?_ (fun _ _ _ => ?_)) | intro _

theorem endFunc_keeps {wh wp : Bool} {z0 : State} {s : State} (target id : Nat) (f : Func) (hk0 : Keeps wh wp z0 s) :
    Keeps wh wp z0 (endFunc s target id f).1 := by
  unfold endFunc; try dsimp only
  repeat' with_reducible first | assumption | apply complete_keeps | (fail_if_no_progress apply Keeps.upd) | (refine Keeps.foldl _ ?_ (fun _ _ _ => ?_)) | split | intro _

theorem endFunc_eq_keeps {wh wp : Bool} {z0 s t : State} {target id : Nat} {f : Func} {r : Func}
    (hk0 : Keeps wh wp z0 s) (h : endFunc s target id f = (t, r)) : Keeps wh wp z0 t := by
  have := endFunc_keeps target id f hk0
  rwa [h] at this

theorem setCoreState_keeps {wh wp : Bool} {z0 : State} {s : State} (c : Nat) (st : Nat) (hk0 : Keeps wh wp z0 s) :
    Keeps wh wp z0 (setCoreState s c st) := by
  unfold setCoreState; try dsimp only
  repeat' with_reducible first | assumption | apply trace_keeps | apply setCore_keeps | (fail_if_no_progress apply Keeps.upd) | split

theorem settleCore_keeps {wh wp : Bool} {z0 : State} {s : State} (c : Nat) (hk0 : Keeps wh wp z0 s) :
    Keeps wh wp z0 (settleCore s c) := by
  unfold settleCore; try dsimp only
  repeat' with_reducible first | assumption | apply setCoreState_keeps | apply setCore_keeps | refine endFunc_eq_keeps ?_ ‹_› | apply endFunc_keeps | (fail_if_no_progress apply Keeps.upd) | split | intro _

theorem settleLoop_keeps {wh wp : Bool} {z0 : State} {s : State} (id : Nat) (hk0 : Keeps wh wp z0 s) :
    Keeps wh wp z0 (settleLoop s id) := by
  unfold settleLoop; try dsimp only
  repeat' with_reducible first | assumption | refine endFunc_eq_keeps ?_ ‹_› | apply endFunc_keeps | apply modLoop_keeps | (fail_if_no_progress apply Keeps.upd) | split | intro _

theorem settleUnit_keeps {wh wp : Bool} {z0 : State} {s : State} (u : Nat) (hk0 : Keeps wh wp z0 s) :
    Keeps wh wp z0 (settleUnit s u) := by
  unfold settleUnit; try dsimp only
  repeat' with_reducible first | assumption | refine endFunc_eq_keeps ?_ ‹_› | apply endFunc_keeps | apply setUnit_keeps | split

theorem settleFuncs_keeps {wh wp : Bool} {z0 : State} {s : State} (hk0 : Keeps wh wp z0 s) :
    Keeps wh wp z0 (settleFuncs s) := by
  unfold settleFuncs; try dsimp only
  repeat' with_reducible first | assumption | apply settleCore_keeps | apply settleLoop_keeps | apply settleUnit_keeps | (refine Keeps.foldl _ ?_ (fun _ _ _ => ?_))

theorem dropHeld_keeps {wh wp : Bool} {z0 : State} {s : State} (t : Nat) (id : Nat) (hk0 : Keeps wh wp z0 s) :
    Keeps wh wp z0 (dropHeld s t id) := by
  unfold dropHeld
  repeat' with_reducible first | assumption | apply modTen_keeps | (fail_if_no_progress apply Keeps.upd) | intro _

theorem failStep_keeps {wh : Bool} {z0 : State} {s : State} (id : Nat) (status : Nat) (detail : Nat) (cmd : Nat) (hk0 : Keeps wh true z0 s) :
    Keeps wh true z0 (failStep s id status detail cmd) := by
  unfold failStep; try dsimp only
  repeat' with_reducible first | assumption | apply countQuiet_keeps | apply stopInst_keeps | apply modInst_keeps | apply dropHeld_keeps | apply refresh_keeps | apply modHead_keeps | (fail_if_no_progress apply Keeps.upd) | (refine Keeps.foldl _ ?_ (fun _ _ _ => ?_)) | split | intro _

theorem popStep_keeps {wh wp : Bool} {z0 : State} {s : State} (id : Nat) (status : Nat) (detail : Nat) (cmd : Nat) (ok : Bool) (hk0 : Keeps wh wp z0 s) :
    Keeps wh wp z0 (popStep s id status detail cmd ok) := by
  unfold popStep; try dsimp only
  repeat' with_reducible first | assumption | apply trace_keeps | apply setLoop_keeps | apply complete_keeps | apply promote_keeps | (fail_if_no_progress apply Keeps.upd) | split | intro _

theorem zeroStep_keeps {wp : Bool} {z0 : State} {s : State} (t : Nat) (st : Step) (hk0 : Keeps true wp z0 s) :
    Keeps true wp z0 (zeroStep s t st) := by
  unfold zeroStep; try dsimp only
  repeat' with_reducible first | assumption | apply healLines_keeps | apply hbmZero_keeps | (refine Keeps.foldl _ ?_ (fun _ _ _ => ?_)) | intro _

theorem modMem_keeps {wh wp : Bool} {z0 : State} {s : State} (t : Nat) (f : TenMem → TenMem) (hk0 : Keeps wh wp z0 s) :
    Keeps wh wp z0 (modMem s t f) := by
  unfold modMem
  repeat' with_reducible first | assumption | apply modTen_keeps | (fail_if_no_progress apply Keeps.upd) | intro _

theorem backPages_keeps {wh wp : Bool} {z0 t : State} {s : State} {n : Nat} {who : Option CmdRef} {l : List (Nat × Nat)} (hk0 : Keeps wh wp z0 s) (h : backPages s n who l = some t) :
    Keeps wh wp z0 t := by
  unfold backPages at h
  split at h
  · cases h
  · cases h; exact modMem_keeps _ _ hk0

theorem pagesRaised_keeps {wh wp : Bool} {z0 : State} {s : State} (t : Nat) (who : Option CmdRef) (hk0 : Keeps wh wp z0 s) :
    Keeps wh wp z0 (pagesRaised s t who) := by
  unfold pagesRaised
  repeat' with_reducible first | assumption | apply modMem_keeps | (fail_if_no_progress apply Keeps.upd) | intro _

theorem addMapping_keeps {wh wp : Bool} {z0 : State} {s : State} (t : Nat) (m : Mapping) (hk0 : Keeps wh wp z0 s) :
    Keeps wh wp z0 (addMapping s t m) := by
  unfold addMapping
  repeat' with_reducible first | assumption | apply modMem_keeps | (fail_if_no_progress apply Keeps.upd) | intro _

theorem onMemMap_keeps {wh wp : Bool} {z0 : State} (rq : Req) (a : MemMapArgs) {s : State} (hk0 : Keeps wh wp z0 s) :
    Keeps wh wp z0 (onMemMap rq a s) := by
  unfold onMemMap; try dsimp only
  repeat' with_reducible first | assumption | apply take_keeps | apply checked_keeps | apply accept_keeps | apply modMem_keeps | apply addMapping_keeps | apply request_keeps | apply replyOk_keeps | (fail_if_no_progress apply Keeps.upd) | split | intro _

theorem onMemMapBacked_keeps {wh wp : Bool} {z0 : State} (t : Nat) (va : Nat) {s : State} (hk0 : Keeps wh wp z0 s) :
    Keeps wh wp z0 (onMemMapBacked t va s) := by
  unfold onMemMapBacked
  repeat' with_reducible first | assumption | apply complete_keeps | apply modMem_keeps | apply request_keeps | (fail_if_no_progress apply Keeps.upd) | split | intro _

theorem retireFrames_keeps {wh wp : Bool} {z0 : State} {s : State} (t : Nat) (pages : List Nat) (hk0 : Keeps wh wp z0 s) :
    Keeps wh wp z0 (retireFrames s t pages) := by
  unfold retireFrames; try dsimp only
  repeat' with_reducible first | assumption | (fail_if_no_progress apply Keeps.upd) | intro _

theorem unmapRange_keeps {wp : Bool} {z0 : State} {s : State} (t : Nat) (va : Nat) (n : Nat) (hk0 : Keeps true wp z0 s) :
    Keeps true wp z0 (unmapRange s t va n) := by
  unfold unmapRange; try dsimp only
  repeat' with_reducible first | assumption | apply retireFrames_keeps | apply modMem_keeps | apply hbmZero_keeps | (fail_if_no_progress apply Keeps.upd) | intro _

theorem onMemUnmap_keeps {wp : Bool} {z0 : State} (rq : Req) (va : DWord) (size : DWord) {s : State} (hk0 : Keeps true wp z0 s) :
    Keeps true wp z0 (onMemUnmap rq va size s) := by
  unfold onMemUnmap
  repeat' with_reducible first | assumption | apply take_keeps | apply checked_keeps | apply replyOk_keeps | apply unmapRange_keeps | intro _

theorem protectRange_keeps {wh wp : Bool} {z0 : State} {s : State} (t : Nat) (va : Nat) (n : Nat) (fl : Nat) (hk0 : Keeps wh wp z0 s) :
    Keeps wh wp z0 (protectRange s t va n fl) := by
  unfold protectRange
  repeat' with_reducible first | assumption | apply modMem_keeps | (fail_if_no_progress apply Keeps.upd) | split | intro _

theorem onMemProtect_keeps {wh wp : Bool} {z0 : State} (rq : Req) (va : DWord) (size : DWord) (flags : Byte) (reserved : BitVec 56) {s : State} (hk0 : Keeps wh wp z0 s) :
    Keeps wh wp z0 (onMemProtect rq va size flags reserved s) := by
  unfold onMemProtect
  repeat' with_reducible first | assumption | apply take_keeps | apply checked_keeps | apply replyOk_keeps | apply protectRange_keeps | intro _

theorem countUncorr_keeps {wh wp : Bool} {z0 : State} {s : State} (hk0 : Keeps wh wp z0 s) :
    Keeps wh wp z0 (countUncorr s) := by
  unfold countUncorr
  repeat' with_reducible first | assumption | (fail_if_no_progress apply Keeps.upd)

theorem storeBytes_keeps {wp : Bool} {z0 : State} {s : State} (t : Nat) (va : Nat) (l : List Byte) (hk0 : Keeps true wp z0 s) :
    Keeps true wp z0 (storeBytes s t va l) := by
  unfold storeBytes
  repeat' with_reducible first | assumption | apply healLines_keeps | apply hbmWrite_keeps

theorem onMemWrite_keeps {wp : Bool} {z0 : State} (rq : Req) (va : DWord) (length : Word) (reserved : Word) (data : List Byte)
    {s : State} (hk0 : Keeps true wp z0 s) : Keeps true wp z0 (onMemWrite rq va length reserved data s) := by
  unfold onMemWrite
  refine take_keeps _ hk0 fun op t ss rq => ?_
  extract_lets a n pages b
  refine checked_keeps _ _ _ hk0 ?_
  split
  · exact reply_keeps _ _ _ _ _ (countUncorr_keeps hk0)
  · split
    · exact replyOk_keeps _ _ _ (storeBytes_keeps _ _ _ hk0)
    · cases hb : backPages s t none pages with
      | none => exact refuse_keeps _ _ _ hk0
      | some u => exact setSes_keeps _ _ (backPages_keeps hk0 hb)

theorem onMemRead_keeps {wh wp : Bool} {z0 : State} (rq : Req) (va : DWord) (length : Word) (reserved : Word) {s : State} (hk0 : Keeps wh wp z0 s) :
    Keeps wh wp z0 (onMemRead rq va length reserved s) := by
  unfold onMemRead; try dsimp only
  repeat' with_reducible first | assumption | apply take_keeps | apply checked_keeps | apply reply_keeps | apply countUncorr_keeps | apply replyOk_keeps | split | intro _

theorem onMmuWalk_keeps {wh wp : Bool} {z0 : State} (rq : Req) (va : DWord) {s : State} (hk0 : Keeps wh wp z0 s) :
    Keeps wh wp z0 (onMmuWalk rq va s) := by
  unfold onMmuWalk
  repeat' with_reducible first | assumption | apply take_keeps | apply refuse_keeps | apply replyOk_keeps | split | intro _

theorem countFault_keeps {wh wp : Bool} {z0 : State} {s : State} (t : Nat) (loop : Nat) (kind : Nat) (va : Nat) (hk0 : Keeps wh wp z0 s) :
    Keeps wh wp z0 (countFault s t loop kind va) := by
  unfold countFault
  repeat' with_reducible first | assumption | apply trace_keeps | apply modMem_keeps | (fail_if_no_progress apply Keeps.upd) | intro _

theorem takeFaultId_keeps {wh wp : Bool} {z0 : State} {s : State} (n : Nat) (hk0 : Keeps wh wp z0 s) :
    Keeps wh wp z0 (takeFaultId s n).1 := by
  unfold takeFaultId; try dsimp only
  repeat' with_reducible first | assumption | apply modMem_keeps | (fail_if_no_progress apply Keeps.upd) | (refine Keeps.foldl _ ?_ (fun _ _ _ => ?_)) | split | intro _

theorem takeFaultId_eq_keeps {wh wp : Bool} {z0 s t : State} {n : Nat} {r : Nat}
    (hk0 : Keeps wh wp z0 s) (h : takeFaultId s n = (t, r)) : Keeps wh wp z0 t := by
  have := takeFaultId_keeps n hk0
  rwa [h] at this

theorem faultReport_keeps {wh wp : Bool} {z0 : State} {s : State} (q : Placed) (id : Nat) (kind : Nat) (va : Nat) (outcome : Nat) (detail : Nat) (hk0 : Keeps wh wp z0 s) :
    Keeps wh wp z0 (faultReport s q id kind va outcome detail) := by
  unfold faultReport
  repeat' with_reducible first | assumption | apply event_keeps | split

theorem faultEvent_keeps {wh wp : Bool} {z0 s : State} (q : Placed) (kind va outcome detail : Nat) (hk0 : Keeps wh wp z0 s) :
    Keeps wh wp z0 (faultEvent s q kind va outcome detail).1 :=
  event_keeps _ _ _ _ _ (takeFaultId_keeps _ (countFault_keeps _ _ _ _ hk0))

theorem faultEvent_eq_keeps {wh wp : Bool} {z0 s t : State} {q : Placed} {kind va outcome detail : Nat} {r : Nat}
    (hk0 : Keeps wh wp z0 s) (h : faultEvent s q kind va outcome detail = (t, r)) : Keeps wh wp z0 t := by
  have := faultEvent_keeps q kind va outcome detail hk0
  rwa [h] at this

theorem eccEvent_keeps {wh wp : Bool} {z0 : State} {s : State} (q : Placed) (loc : Nat) (outcome : Nat) (detail : Nat) (va : Nat) (hk0 : Keeps wh wp z0 s) :
    Keeps wh wp z0 (eccEvent s q loc outcome detail va) := by
  unfold eccEvent
  repeat' with_reducible first | assumption | apply event_keeps | apply trace_keeps | split

theorem faultKill_keeps {wh : Bool} {z0 : State} {s : State} (q : Placed) (ph : Phase) (hk0 : Keeps wh true z0 s) :
    Keeps wh true z0 (faultKill s q ph) := by
  unfold faultKill; try dsimp only
  repeat' with_reducible first | assumption | apply stopInst_keeps | apply countQuiet_keeps | apply refresh_keeps | (refine Keeps.foldl _ ?_ (fun _ _ _ => ?_)) | intro _

theorem faultFail_keeps {wh : Bool} {z0 : State} {s : State} (q : Placed) (kind : Nat) (va : Nat) (detail : Nat) (hk0 : Keeps wh true z0 s) :
    Keeps wh true z0 (faultFail s q kind va detail) := by
  unfold faultFail
  repeat' with_reducible first | assumption | apply failStep_keeps | refine faultEvent_eq_keeps ?_ ‹_› | apply faultEvent_keeps

theorem faultHold_keeps {wh : Bool} {z0 : State} {s : State} (q : Placed) (va : Nat) (hk0 : Keeps wh true z0 s) :
    Keeps wh true z0 (faultHold s q va) := by
  unfold faultHold; try dsimp only
  repeat' with_reducible first | assumption | apply faultFail_keeps | refine faultEvent_eq_keeps ?_ ‹_› | apply faultEvent_keeps | apply faultKill_keeps | apply modMem_keeps | (fail_if_no_progress apply Keeps.upd) | split | intro _

theorem demandFault_keeps {wh : Bool} {z0 : State} {s : State} (q : Placed) (va : Nat) (hk0 : Keeps wh true z0 s) :
    Keeps wh true z0 (demandFault s q va) := by
  unfold demandFault
  extract_lets t pages
  split
  · exact hk0
  · split
    · exact faultHold_keeps _ _ hk0
    · exact faultKill_keeps _ _ (countFault_keeps _ _ _ _ (backPages_keeps hk0 ‹_›))

theorem onPageFault_keeps {wh : Bool} {z0 : State} (ref : CmdRef) (va : DWord) (write : Bool) (cause : FaultCause) {s : State} (hk0 : Keeps wh true z0 s) :
    Keeps wh true z0 (onPageFault ref va write cause s) := by
  unfold onPageFault; try dsimp only
  repeat' with_reducible first | assumption | apply faultFail_keeps | apply demandFault_keeps | split

theorem raisedFor_keeps {wh wp : Bool} {z0 : State} {s : State} (ref : CmdRef) (hk0 : Keeps wh wp z0 s) :
    Keeps wh wp z0 (raisedFor s ref) := by
  unfold raisedFor
  repeat' with_reducible first | assumption | (fail_if_no_progress apply Keeps.upd) | intro _

theorem onDemandBackingDone_keeps {wh wp : Bool} {z0 : State} (ref : CmdRef) {s0 : State} (hk0 : Keeps wh wp z0 s0) :
    Keeps wh wp z0 (onDemandBackingDone ref s0) := by
  unfold onDemandBackingDone; try dsimp only
  repeat' with_reducible first | assumption | apply raisedFor_keeps | apply refresh_keeps | apply modInst_keeps | split

theorem failHeld_keeps {wh : Bool} {z0 : State} {s : State} (h : HeldFault) (detail : Nat) (hk0 : Keeps wh true z0 s) :
    Keeps wh true z0 (failHeld s h detail) := by
  unfold failHeld; try dsimp only
  repeat' with_reducible first | assumption | apply faultReport_keeps | apply failStep_keeps | (fail_if_no_progress apply Keeps.upd) | split

theorem onFaultTimeout_keeps {wh : Bool} {z0 : State} (t : Nat) (id : Nat) {s : State} (hk0 : Keeps wh true z0 s) :
    Keeps wh true z0 (onFaultTimeout t id s) := by
  unfold onFaultTimeout
  repeat' with_reducible first | assumption | apply failHeld_keeps | split | intro _

theorem onFaultResume_keeps {wh : Bool} {z0 : State} (rq : Req) (faultId : Word) (action : Word) {s : State} (hk0 : Keeps wh true z0 s) :
    Keeps wh true z0 (onFaultResume rq faultId action s) := by
  unfold onFaultResume; try dsimp only
  repeat' with_reducible first | assumption | apply take_keeps | apply refuse_keeps | apply replyOk_keeps | apply failHeld_keeps | apply modMem_keeps | apply refresh_keeps | apply modInst_keeps | (fail_if_no_progress apply Keeps.upd) | split | intro _

theorem markBad_keeps {wh wp : Bool} {z0 : State} {s : State} (t : Nat) (line : Nat) (hk0 : Keeps wh wp z0 s) :
    Keeps wh wp z0 (markBad s t line) := by
  unfold markBad
  repeat' with_reducible first | assumption | apply modMem_keeps | (fail_if_no_progress apply Keeps.upd) | split | intro _

theorem eccHbm_keeps {wh : Bool} {z0 : State} {s : State} (q : Placed) (line : Nat) (hk0 : Keeps wh true z0 s) :
    Keeps wh true z0 (eccHbm s q line) := by
  unfold eccHbm; try dsimp only
  repeat' with_reducible first | assumption | apply countUncorr_keeps | apply failStep_keeps | apply eccEvent_keeps | apply killInsts_keeps | apply modInst_keeps | (fail_if_no_progress apply Keeps.upd) | split | intro _

theorem eccPad_keeps {wh : Bool} {z0 : State} {s : State} (q : Placed) (hk0 : Keeps wh true z0 s) :
    Keeps wh true z0 (eccPad s q) := by
  unfold eccPad; try dsimp only
  repeat' with_reducible first | assumption | apply countUncorr_keeps | apply failStep_keeps | apply eccEvent_keeps | apply killInsts_keeps | split

theorem eccOfCommand_keeps {wh : Bool} {z0 : State} {s : State} (site : EccSite) (hk0 : Keeps wh true z0 s) :
    Keeps wh true z0 (eccOfCommand s site) := by
  unfold eccOfCommand; try dsimp only
  repeat' with_reducible first | assumption | apply eccHbm_keeps | apply markBad_keeps | apply eccPad_keeps | apply eccEvent_keeps | apply countUncorr_keeps | apply failStep_keeps | split | intro _

theorem scrubOne_keeps {wh wp : Bool} {z0 : State} {s : State} (x : Fin 16 × DWord) (hk0 : Keeps wh wp z0 s) :
    Keeps wh wp z0 (scrubOne s x) := by
  unfold scrubOne; try dsimp only
  repeat' with_reducible first | assumption | apply markBad_keeps | apply countUncorr_keeps | split

theorem onPatrolScrub_keeps {wh wp : Bool} {z0 : State} (found : ScrubReport) {s : State} (hk0 : Keeps wh wp z0 s) :
    Keeps wh wp z0 (onPatrolScrub found s) := by
  unfold onPatrolScrub; try dsimp only
  repeat' with_reducible first | assumption | apply scrubOne_keeps | (fail_if_no_progress apply Keeps.upd) | (refine Keeps.foldl _ ?_ (fun _ _ _ => ?_)) | split

theorem onKilledWritesSettled_keeps {wh wp : Bool} {z0 : State} (ref : CmdRef) {s : State} (hk0 : Keeps wh wp z0 s) :
    Keeps wh wp z0 (onKilledWritesSettled ref s) := by
  unfold onKilledWritesSettled
  repeat' with_reducible first | assumption | apply settleFuncs_keeps | apply refresh_keeps | apply modInst_keeps | (fail_if_no_progress apply Keeps.upd) | split | intro _

theorem enqueue_keeps {wh wp : Bool} {z0 : State} {s : State} (id : Nat) (f : Loop → Nat → Step) (hk0 : Keeps wh wp z0 s) :
    Keeps wh wp z0 (enqueue s id f) := by
  unfold enqueue; try dsimp only
  repeat' with_reducible first | assumption | apply modLoop_keeps | apply refresh_keeps | apply promote_keeps | (fail_if_no_progress apply Keeps.upd) | intro _

theorem lockCompat_keeps {wh wp : Bool} {z0 : State} {s : State} (hk0 : Keeps wh wp z0 s) :
    Keeps wh wp z0 (lockCompat s) := by
  unfold lockCompat
  repeat' with_reducible first | assumption | (fail_if_no_progress apply Keeps.upd)

theorem onStepSubmit_keeps {wh wp : Bool} {z0 : State} (rq : Req) (a : StepSubmitArgs) {s : State} (hk0 : Keeps wh wp z0 s) :
    Keeps wh wp z0 (onStepSubmit rq a s) := by
  unfold onStepSubmit; try dsimp only
  repeat' with_reducible first | assumption | apply take_keeps | apply refuse_keeps | apply countUncorr_keeps | apply accept_keeps | apply enqueue_keeps | apply lockCompat_keeps | split | intro _

theorem onLoopCreate_keeps {wh wp : Bool} {z0 : State} (rq : Req) (a : LoopCreateArgs) {s : State} (hk0 : Keeps wh wp z0 s) :
    Keeps wh wp z0 (onLoopCreate rq a s) := by
  unfold onLoopCreate; try dsimp only
  repeat' with_reducible first | assumption | apply take_keeps | apply checked_keeps | apply refuse_keeps | apply countUncorr_keeps | apply replyOk_keeps | apply setLoop_keeps | apply draw_keeps | (fail_if_no_progress apply Keeps.upd) | split | intro _

theorem onLoopDestroy_keeps {wh wp : Bool} {z0 : State} (rq : Req) (loop : Word) {s : State} (hk0 : Keeps wh wp z0 s) :
    Keeps wh wp z0 (onLoopDestroy rq loop s) := by
  unfold onLoopDestroy; try dsimp only
  repeat' with_reducible first | assumption | apply take_keeps | apply refuse_keeps | apply checked_keeps | apply replyOk_keeps | (fail_if_no_progress apply Keeps.upd) | split | intro _

theorem formStep_keeps {wh wp : Bool} {z0 : State} {s : State} (id : Nat) (hk0 : Keeps wh wp z0 s) :
    Keeps wh wp z0 (formStep s id) := by
  unfold formStep; try dsimp only
  repeat' with_reducible first | assumption | apply modLoop_keeps | apply enqueue_keeps | (fail_if_no_progress apply Keeps.upd) | split | intro _

theorem onSeqSubmit_keeps {wh wp : Bool} {z0 : State} (rq : Req) (a : SeqSubmitArgs) {s : State} (hk0 : Keeps wh wp z0 s) :
    Keeps wh wp z0 (onSeqSubmit rq a s) := by
  unfold onSeqSubmit; try dsimp only
  repeat' with_reducible first | assumption | apply take_keeps | apply refuse_keeps | apply checked_keeps | apply accept_keeps | apply modLoop_keeps | apply request_keeps | apply formStep_keeps | (fail_if_no_progress apply Keeps.upd) | split | intro _

theorem endSeq_keeps {wh wp : Bool} {z0 : State} {s : State} (id : Nat) (x : Seq) (status : Nat) (detail : Nat) (hk0 : Keeps wh wp z0 s) :
    Keeps wh wp z0 (endSeq s id x status detail) := by
  unfold endSeq; try dsimp only
  repeat' with_reducible first | assumption | apply setLoop_keeps | apply complete_keeps | apply request_keeps | (fail_if_no_progress apply Keeps.upd) | split | intro _

theorem commitSeqs_keeps {wh wp : Bool} {z0 : State} {s : State} (id : Nat) (l : Loop) (st : Step) (hk0 : Keeps wh wp z0 s) :
    Keeps wh wp z0 (commitSeqs s id l st) := by
  unfold commitSeqs; try dsimp only
  repeat' with_reducible first | assumption | apply modLoop_keeps | apply endSeq_keeps | (fail_if_no_progress apply Keeps.upd) | (refine Keeps.foldl _ ?_ (fun _ _ _ => ?_)) | split | intro _

theorem failSeqs_keeps {wh wp : Bool} {z0 : State} {s : State} (id : Nat) (l : Loop) (st : Step) (status : Nat) (detail : Nat) (hk0 : Keeps wh wp z0 s) :
    Keeps wh wp z0 (failSeqs s id l st status detail) := by
  unfold failSeqs
  repeat' with_reducible first | assumption | apply endSeq_keeps | (refine Keeps.foldl _ ?_ (fun _ _ _ => ?_)) | intro _

theorem padViolation_keeps {wh : Bool} {z0 : State} {s : State} (q : Placed) (hk0 : Keeps wh true z0 s) :
    Keeps wh true z0 (padViolation s q) := by
  unfold padViolation
  repeat' with_reducible first | assumption | apply faultFail_keeps

theorem stopRun_keeps {wh : Bool} {z0 : State} {s : State} (q : Placed) (x : Stop) (hk0 : Keeps wh true z0 s) :
    Keeps wh true z0 (stopRun s q x) := by
  unfold stopRun
  repeat' with_reducible first | assumption | apply faultFail_keeps | apply demandFault_keeps | apply eccHbm_keeps | split

theorem badParam_keeps {wh : Bool} {z0 : State} {s : State} (q : Placed) (detail : Nat) (hk0 : Keeps wh true z0 s) :
    Keeps wh true z0 (badParam s q detail) := by
  unfold badParam
  repeat' with_reducible first | assumption | apply failStep_keeps

theorem applyStores_keeps {wp : Bool} {z0 : State} {s : State} (t : Nat) (l : List (Nat × List Byte)) (hk0 : Keeps true wp z0 s) :
    Keeps true wp z0 (applyStores s t l) := by
  unfold applyStores
  repeat' with_reducible first | assumption | apply storeBytes_keeps | (refine Keeps.foldl _ ?_ (fun _ _ _ => ?_)) | intro _

theorem applyPads_keeps {wh : Bool} {z0 : State} {s : State} (l : List (Nat × Nat × List Byte)) (hk0 : Keeps wh true z0 s) :
    Keeps wh true z0 (applyPads s l) := by
  unfold applyPads
  repeat' with_reducible first | assumption | apply padWrite_keeps | (refine Keeps.foldl _ ?_ (fun _ _ _ => ?_)) | intro _

theorem runWork_keeps {z0 s : State} (q : Placed) (x : Work) {k : State → State} (hk0 : Keeps true true z0 s)
    (hk : ∀ t, Keeps true true z0 t → Keeps true true z0 (k t)) : Keeps true true z0 (runWork s q x k) := by
  unfold runWork
  repeat' with_reducible first | assumption | apply stopRun_keeps | apply badParam_keeps | apply applyPads_keeps | apply applyStores_keeps | apply hk | (fail_if_no_progress apply Keeps.upd) | (refine Keeps.foldl _ ?_ (fun _ _ _ => ?_)) | split | intro _

theorem copyRows_keeps {wh : Bool} {z0 : State} {s : State} (q : Placed) (h : WinHead) (y : Nat) (hk0 : Keeps wh true z0 s) :
    Keeps wh true z0 (copyRows s q h y) := by
  unfold copyRows; try dsimp only
  repeat' with_reducible first | assumption | apply padWrite_keeps | (refine Keeps.foldl _ ?_ (fun _ _ _ => ?_)) | split | intro _

theorem modWin_keeps {wh wp : Bool} {z0 : State} {s : State} (r : CmdRef) (f : WinRun → WinRun) (hk0 : Keeps wh wp z0 s) :
    Keeps wh wp z0 (modWin s r f) := by
  unfold modWin
  repeat' with_reducible first | assumption | apply modInst_keeps | (fail_if_no_progress apply Keeps.upd) | intro _

theorem putRow_keeps {wh : Bool} {z0 : State} {s : State} (q : Placed) (h : WinHead) (y : Nat) (px : List (List Nat)) (hk0 : Keeps wh true z0 s) :
    Keeps wh true z0 (putRow s q h y px) := by
  unfold putRow; try dsimp only
  repeat' with_reducible first | assumption | apply padWrite_keeps | apply draw_keeps | apply modWin_keeps | apply out_keeps | (fail_if_no_progress apply Keeps.upd) | (refine Keeps.foldl _ ?_ (fun _ _ _ => ?_)) | split | intro _

theorem drainRow_keeps {wh : Bool} {z0 s : State} (q : Placed) (h : WinHead) (y : Nat) (hk0 : Keeps wh true z0 s) :
    Keeps wh true z0 (drainRow s q h y) := by
  unfold drainRow
  have hc := copyRows_keeps q h y hk0
  simp only [runWork, applyStores, applyPads, List.foldl_nil]
  split
  · exact stopRun_keeps _ _ hc
  · exact putRow_keeps _ _ _ _ hc

theorem drainRows_keeps {wh : Bool} {z0 : State} (n : Nat) {s : State} (r : CmdRef) (hk0 : Keeps wh true z0 s) :
    Keeps wh true z0 (drainRows n s r) := by
  induction n generalizing s with
  | zero => exact hk0
  | succ n ih =>
    simp only [drainRows]
    split
    · exact hk0
    · split
      · exact hk0
      · exact ih (drainRow_keeps _ _ _ hk0)

theorem pump_keeps {wh : Bool} {z0 : State} (n : Nat) {s : State} (r : CmdRef) (hk0 : Keeps wh true z0 s) :
    Keeps wh true z0 (pump n s r) := by
  induction n generalizing s r with
  | zero => exact hk0
  | succ n ih =>
    simp only [pump]
    split
    · exact hk0
    · refine drainRows_keeps _ _ ?_
      split
      · exact ih _ hk0
      · exact hk0

theorem pumpRun_keeps {wh : Bool} {z0 : State} {s : State} (r : CmdRef) (hk0 : Keeps wh true z0 s) :
    Keeps wh true z0 (pumpRun s r) := by
  unfold pumpRun
  repeat' with_reducible first | assumption | apply pump_keeps | split

theorem dmaJobs_keeps {wh wp : Bool} {z0 : State} {s : State} (r : CmdRef) (j : DmaJob) (hk0 : Keeps wh wp z0 s) :
    Keeps wh wp z0 (dmaJobs s r j) := by
  unfold dmaJobs
  repeat' with_reducible first | assumption | apply modInst_keeps | (fail_if_no_progress apply Keeps.upd) | intro _

theorem winIssue_keeps {wh : Bool} {z0 : State} {s : State} (q : Placed) (hk0 : Keeps wh true z0 s) :
    Keeps wh true z0 (winIssue s q) := by
  unfold winIssue; try dsimp only
  repeat' with_reducible first | assumption | apply out_keeps | apply faultFail_keeps | apply dmaJobs_keeps | apply modWin_keeps | (fail_if_no_progress apply Keeps.upd) | split | intro _

theorem fillRing_keeps {wh : Bool} {z0 : State} {s : State} (q : Placed) (h : WinHead) (u : Nat × Nat) (hk0 : Keeps wh true z0 s) :
    Keeps wh true z0 (fillRing s q h u) := by
  unfold fillRing; try dsimp only
  repeat' with_reducible first | assumption | apply padWrite_keeps | (refine Keeps.foldl _ ?_ (fun _ _ _ => ?_)) | split | intro _

theorem dropJob_keeps {wh wp : Bool} {z0 : State} {s : State} (r : CmdRef) (hk0 : Keeps wh wp z0 s) :
    Keeps wh wp z0 (dropJob s r) := by
  unfold dropJob
  repeat' with_reducible first | assumption | apply modInst_keeps | (fail_if_no_progress apply Keeps.upd) | intro _

theorem winFinish_keeps {z0 : State} {s : State} (q : Placed) (j : DmaJob) (hk0 : Keeps true true z0 s) :
    Keeps true true z0 (winFinish s q j) := by
  unfold winFinish; try dsimp only
  repeat' with_reducible first | assumption | apply out_keeps | apply runWork_keeps | apply modInst_keeps | apply dropJob_keeps | apply pumpRun_keeps | apply modWin_keeps | apply fillRing_keeps | (fail_if_no_progress apply Keeps.upd) | split | intro _

theorem unbind_keeps {wh wp : Bool} {z0 : State} {s : State} (rs : List CmdRef) (hk0 : Keeps wh wp z0 s) :
    Keeps wh wp z0 (unbind s rs) := by
  unfold unbind
  repeat' with_reducible first | assumption | apply modInst_keeps | (fail_if_no_progress apply Keeps.upd) | (refine Keeps.foldl _ ?_ (fun _ _ _ => ?_)) | intro _

theorem rechain_keeps {wh : Bool} {z0 : State} {s : State} (q : Placed) (cause : Nat) (hk0 : Keeps wh true z0 s) :
    Keeps wh true z0 (rechain s q cause) := by
  unfold rechain
  repeat' with_reducible first | assumption | apply unbind_keeps | apply killInsts_keeps

theorem leaveCore_keeps {wh : Bool} {z0 : State} {s : State} (q : Placed) (cause : Nat) (hk0 : Keeps wh true z0 s) :
    Keeps wh true z0 (leaveCore s q cause) := by
  unfold leaveCore
  repeat' with_reducible first | assumption | apply unbind_keeps | apply killInsts_keeps

theorem takeHaloRow_keeps {wh : Bool} {z0 : State} {s : State} (x : HaloCtx) (slot : Nat) (y : Nat) (hk0 : Keeps wh true z0 s) :
    Keeps wh true z0 (takeHaloRow s x slot y) := by
  unfold takeHaloRow; try dsimp only
  repeat' with_reducible first | assumption | apply padWrite_keeps | (refine Keeps.foldl _ ?_ (fun _ _ _ => ?_)) | intro _

theorem sendHaloRow_keeps {wh : Bool} {z0 : State} {s : State} (x : HaloCtx) (d : HaloDir) (hk0 : Keeps wh true z0 s) :
    Keeps wh true z0 (sendHaloRow s x d) := by
  unfold sendHaloRow; try dsimp only
  repeat' with_reducible first | assumption | apply modInst_keeps | apply padWrite_keeps | (fail_if_no_progress apply Keeps.upd) | split | intro _

theorem pumpSender_keeps {wh : Bool} {z0 : State} {s : State} (ref : CmdRef) (d : HaloDir) (hk0 : Keeps wh true z0 s) :
    Keeps wh true z0 (pumpSender s ref d) := by
  unfold pumpSender
  repeat' with_reducible first | assumption | apply pumpRun_keeps | split

theorem onHaloRowSend_keeps {wh : Bool} {z0 : State} (ref : CmdRef) (d : HaloDir) {s : State} (hk0 : Keeps wh true z0 s) :
    Keeps wh true z0 (onHaloRowSend ref d s) := by
  unfold onHaloRowSend; try dsimp only
  repeat' with_reducible first | assumption | apply pumpSender_keeps | apply sendHaloRow_keeps | split

theorem readHaloSlot_keeps {wh : Bool} {z0 : State} {s : State} (x : HaloCtx) (d : HaloDir) (hk0 : Keeps wh true z0 s) :
    Keeps wh true z0 (readHaloSlot s x d) := by
  unfold readHaloSlot; try dsimp only
  repeat' with_reducible first | assumption | apply modInst_keeps | apply padWrite_keeps | apply takeHaloRow_keeps | (fail_if_no_progress apply Keeps.upd) | split | intro _

theorem onHaloSlotRead_keeps {wh : Bool} {z0 : State} (ref : CmdRef) (d : HaloDir) {s : State} (hk0 : Keeps wh true z0 s) :
    Keeps wh true z0 (onHaloSlotRead ref d s) := by
  unfold onHaloSlotRead; try dsimp only
  repeat' with_reducible first | assumption | apply pumpRun_keeps | apply readHaloSlot_keeps | split

theorem onHaloCredit_keeps {wh wp : Bool} {z0 : State} (ref : CmdRef) (d : HaloDir) {s : State} (hk0 : Keeps wh wp z0 s) :
    Keeps wh wp z0 (onHaloCredit ref d s) := by
  unfold onHaloCredit; try dsimp only
  repeat' with_reducible first | assumption | apply modInst_keeps | (fail_if_no_progress apply Keeps.upd) | split | intro _

theorem haloTimeout_keeps {wh : Bool} {z0 : State} {s : State} (x : HaloCtx) (hk0 : Keeps wh true z0 s) :
    Keeps wh true z0 (haloTimeout s x) := by
  unfold haloTimeout; try dsimp only
  repeat' with_reducible first | assumption | apply trace_keeps | apply incReg_keeps | apply modHead_keeps | apply rechain_keeps | apply modCmd_keeps | apply killInsts_keeps | (fail_if_no_progress apply Keeps.upd) | (refine Keeps.foldl _ ?_ (fun _ _ _ => ?_)) | split | intro _

theorem onHaloTimeout_keeps {wh : Bool} {z0 : State} (ref : CmdRef) (d : HaloDir) (w : HaloWait) {s : State} (hk0 : Keeps wh true z0 s) :
    Keeps wh true z0 (onHaloTimeout ref d w s) := by
  unfold onHaloTimeout; try dsimp only
  repeat' with_reducible first | assumption | apply haloTimeout_keeps | split

theorem onReelEccError_keeps {wh : Bool} {z0 : State} (ref : CmdRef) (corrected : Bool) {s : State} (hk0 : Keeps wh true z0 s) :
    Keeps wh true z0 (onReelEccError ref corrected s) := by
  unfold onReelEccError; try dsimp only
  repeat' with_reducible first | assumption | apply setRegW_keeps | apply failStep_keeps | apply eccEvent_keeps | apply killInsts_keeps | split

theorem startDesc_keeps {wh : Bool} {z0 s : State} (q : Placed) (index group : Nat) (bytes : List Byte) {k : State → State}
    (hk0 : Keeps wh true z0 s) (hk : ∀ t, Keeps wh true z0 t → Keeps wh true z0 (k t)) : Keeps wh true z0 (startDesc s q index group bytes k) := by
  unfold startDesc
  try dsimp only
  repeat' with_reducible first | assumption | apply badParam_keeps | apply faultFail_keeps | apply padViolation_keeps | apply modInst_keeps | apply hk | (fail_if_no_progress apply Keeps.upd) | (refine Keeps.foldl _ ?_ (fun _ _ _ => ?_)) | split | intro _

theorem finishDesc_keeps {z0 : State} {s : State} (q : Placed) (j : DmaJob) (hk0 : Keeps true true z0 s) :
    Keeps true true z0 (finishDesc s q j) := by
  unfold finishDesc; try dsimp only
  repeat' with_reducible first | assumption | apply runWork_keeps | apply modInst_keeps | (fail_if_no_progress apply Keeps.upd) | split | (dsimp only [id]; assumption) | (intro _ h; dsimp only [id]; exact h) | intro _

theorem dmaNext_keeps {wh : Bool} {z0 : State} {s : State} (q : Placed) (hk0 : Keeps wh true z0 s) :
    Keeps wh true z0 (dmaNext s q) := by
  unfold dmaNext; try dsimp only
  repeat' with_reducible first | assumption | apply startDesc_keeps | split | (dsimp only [id]; assumption) | (intro _ h; dsimp only [id]; exact h)

theorem onDmaStart_keeps {wh : Bool} {z0 : State} (ref : CmdRef) {s : State} (hk0 : Keeps wh true z0 s) :
    Keeps wh true z0 (onDmaStart ref s) := by
  unfold onDmaStart; try dsimp only
  repeat' with_reducible first | assumption | apply pumpRun_keeps | apply winIssue_keeps | apply dmaNext_keeps | split

theorem onDmaDone_keeps {z0 : State} (ref : CmdRef) (index : Nat) {s : State} (hk0 : Keeps true true z0 s) :
    Keeps true true z0 (onDmaDone ref index s) := by
  unfold onDmaDone
  repeat' with_reducible first | assumption | apply winFinish_keeps | apply finishDesc_keeps | split

end Sys2Proof.Machine
end

