-- ==== Sys2Proof/Laws/KeepVector.lean ====
section
/-! SUPPORT. Laws/KeepVector.lean: the vector engines, the raster, vision and frame units keep the queue, the canonical form of memory and, where they store nothing,
memory itself. -/

namespace Sys2Proof.Machine

open Sys2Proof

theorem initRegs_keeps {wh : Bool} {z0 : State} {s : State} (h : VeHead) (core : Nat) (seed : Nat) (gids : List Nat) (hk0 : Keeps wh true z0 s) :
    Keeps wh true z0 (initRegs s h core seed gids) := by
  unfold initRegs
  repeat' with_reducible first | assumption | apply padWrite_keeps | apply padZero_keeps | (refine Keeps.foldl _ ?_ (fun _ _ _ => ?_)) | intro _

theorem beginFill_keeps {wh : Bool} {z0 : State} {s : State} (q : Placed) (first : Nat) (hk0 : Keeps wh true z0 s) :
    Keeps wh true z0 (beginFill s q first) := by
  unfold beginFill; try dsimp only
  repeat' with_reducible first | assumption | apply modInst_keeps | apply initRegs_keeps | (fail_if_no_progress apply Keeps.upd) | intro _

theorem veBegin_keeps {wh : Bool} {z0 : State} {s : State} (q : Placed) (hk0 : Keeps wh true z0 s) :
    Keeps wh true z0 (veBegin s q) := by
  unfold veBegin; try dsimp only
  repeat' with_reducible first | assumption | apply modCmd_keeps | apply beginFill_keeps | apply modInst_keeps | (fail_if_no_progress apply Keeps.upd) | intro _

theorem veAt_keeps {wh wp : Bool} {z0 : State} (op : Nat) (v : VeAt) (f : VeFields) {s : State} {k : VeCtx → State}
    (hk0 : Keeps wh wp z0 s) (hk : ∀ x, Keeps wh wp z0 (k x)) : Keeps wh wp z0 (veAt op v f s k) := by
  unfold veAt
  repeat' with_reducible first | assumption | apply hk | (fail_if_no_progress apply Keeps.upd) | (refine Keeps.foldl _ ?_ (fun _ _ _ => ?_)) | split | intro _

theorem setReg_keeps {wh : Bool} {z0 : State} {s : State} (x : VeCtx) (lane : Nat) (r : Nat) (v : Nat) (hk0 : Keeps wh true z0 s) :
    Keeps wh true z0 (setReg s x lane r v) := by
  unfold setReg
  repeat' with_reducible first | assumption | apply padWrite_keeps | split

theorem setRegs_keeps {wh : Bool} {z0 : State} {s : State} (x : VeCtx) (lanes : List Nat) (d : Nat) (fn : Nat → Nat) (hk0 : Keeps wh true z0 s) :
    Keeps wh true z0 (setRegs s x lanes d fn) := by
  unfold setRegs
  repeat' with_reducible first | assumption | apply setReg_keeps | (refine Keeps.foldl _ ?_ (fun _ _ _ => ?_)) | intro _

theorem nextFill_keeps {wh : Bool} {z0 : State} {s : State} (r : CmdRef) (hk0 : Keeps wh true z0 s) :
    Keeps wh true z0 (nextFill s r) := by
  unfold nextFill; try dsimp only
  repeat' with_reducible first | assumption | apply beginFill_keeps | split | intro _

theorem putGroup_keeps {wh : Bool} {z0 : State} {s : State} (x : VeCtx) (g : VeGroup) (hk0 : Keeps wh true z0 s) :
    Keeps wh true z0 (putGroup s x g) := by
  unfold putGroup; try dsimp only
  repeat' with_reducible first | assumption | apply modInst_keeps | apply nextFill_keeps | (fail_if_no_progress apply Keeps.upd) | split | intro _

theorem veNext_keeps {wh : Bool} {z0 : State} {s : State} (x : VeCtx) (f : VeFields) (g : VeGroup) (hk0 : Keeps wh true z0 s) :
    Keeps wh true z0 (veNext s x f g) := by
  unfold veNext
  repeat' with_reducible first | assumption | apply putGroup_keeps | (fail_if_no_progress apply Keeps.upd)

theorem veLanes_keeps {wh : Bool} {z0 : State} (op : Nat) (v : VeAt) (f : VeFields) {s : State} (fn : VeCtx → Nat → Nat) (hk0 : Keeps wh true z0 s) :
    Keeps wh true z0 (veLanes op v f s fn) := by
  unfold veLanes
  repeat' with_reducible first | assumption | apply veAt_keeps | apply veNext_keeps | apply setRegs_keeps | intro _

theorem veAlu3_keeps {wh : Bool} {z0 : State} (op : Nat) (fn : Nat → Nat → Nat → Nat) (v : VeAt) (f : VeFields) {s : State} (hk0 : Keeps wh true z0 s) :
    Keeps wh true z0 (veAlu3 op fn v f s) := by
  unfold veAlu3
  repeat' with_reducible first | assumption | apply veLanes_keeps | intro _

theorem veAlu2_keeps {wh : Bool} {z0 : State} (op : Nat) (fn : Nat → Nat → Nat) (v : VeAt) (f : VeFields) {s : State} (hk0 : Keeps wh true z0 s) :
    Keeps wh true z0 (veAlu2 op fn v f s) := by
  unfold veAlu2
  repeat' with_reducible first | assumption | apply veLanes_keeps | intro _

theorem veAlu1_keeps {wh : Bool} {z0 : State} (op : Nat) (fn : Nat → Nat) (v : VeAt) (f : VeFields) {s : State} (hk0 : Keeps wh true z0 s) :
    Keeps wh true z0 (veAlu1 op fn v f s) := by
  unfold veAlu1
  repeat' with_reducible first | assumption | apply veLanes_keeps | intro _

theorem veCmp_keeps {wh : Bool} {z0 : State} (op : Nat) (fn : Nat → Nat → Bool) (v : VeAt) (f : VeFields) {s : State} (hk0 : Keeps wh true z0 s) :
    Keeps wh true z0 (veCmp op fn v f s) := by
  unfold veCmp
  repeat' with_reducible first | assumption | apply veAt_keeps | apply veNext_keeps | (refine Keeps.foldl _ ?_ (fun _ _ _ => ?_)) | intro _

theorem veLoad_keeps {wh : Bool} {z0 : State} (op : Nat) (n : Nat) (v : VeAt) (f : VeFields) {s : State} (hk0 : Keeps wh true z0 s) :
    Keeps wh true z0 (veLoad op n v f s) := by
  unfold veLoad
  repeat' with_reducible first | assumption | apply veAt_keeps | apply padViolation_keeps | apply veNext_keeps | apply setReg_keeps | (refine Keeps.foldl _ ?_ (fun _ _ _ => ?_)) | split | intro _

theorem veStore_keeps {wh : Bool} {z0 : State} (op : Nat) (n : Nat) (v : VeAt) (f : VeFields) {s : State} (hk0 : Keeps wh true z0 s) :
    Keeps wh true z0 (veStore op n v f s) := by
  unfold veStore; try dsimp only
  repeat' with_reducible first | assumption | apply veAt_keeps | apply padViolation_keeps | apply padWrite_keeps | apply veNext_keeps | apply draw_keeps | (refine Keeps.foldl _ ?_ (fun _ _ _ => ?_)) | split | intro _

theorem veAtomic_keeps {wh : Bool} {z0 : State} (op : Nat) (fn : Nat → Nat → Nat → Nat) (v : VeAt) (f : VeFields) {s : State}
    (hk0 : Keeps wh true z0 s) : Keeps wh true z0 (veAtomic op fn v f s) := by
  unfold veAtomic
  refine veAt_keeps _ _ _ hk0 fun x => ?_
  split
  · exact padViolation_keeps _ hk0
  · exact veNext_keeps _ _ _ (Keeps.foldl _ (Keeps.ofFoldl (g := Prod.fst) _ hk0 fun t l h => padWrite_keeps _ _ _ h)
      fun t l h => setReg_keeps _ _ _ _ h)

theorem veBranch_keeps {wh : Bool} {z0 : State} (op : Nat) (take : VeCtx → Bool) (v : VeAt) (f : VeFields) {s : State} (hk0 : Keeps wh true z0 s) :
    Keeps wh true z0 (veBranch op take v f s) := by
  unfold veBranch
  repeat' with_reducible first | assumption | apply take_keeps | apply veAt_keeps | apply putGroup_keeps | apply veNext_keeps | (fail_if_no_progress apply Keeps.upd) | split | intro _

theorem veBarrier_keeps {wh : Bool} {z0 : State} (op : Nat) (v : VeAt) (f : VeFields) {s : State} (hk0 : Keeps wh true z0 s) :
    Keeps wh true z0 (veBarrier op v f s) := by
  unfold veBarrier; try dsimp only
  repeat' with_reducible first | assumption | apply veAt_keeps | apply veNext_keeps | apply modInst_keeps | apply nextFill_keeps | (fail_if_no_progress apply Keeps.upd) | split | intro _

theorem veDmaStart_keeps {wh : Bool} {z0 : State} (op : Nat) (v : VeAt) (f : VeFields) {s : State} (hk0 : Keeps wh true z0 s) :
    Keeps wh true z0 (veDmaStart op v f s) := by
  unfold veDmaStart; try dsimp only
  repeat' with_reducible first | assumption | apply veAt_keeps | apply veNext_keeps | apply startDesc_keeps | split | intro _

theorem veDmaHold_keeps {wh : Bool} {z0 : State} (op : Nat) (v : VeAt) (f : VeFields) {s : State} (hk0 : Keeps wh true z0 s) :
    Keeps wh true z0 (veDmaHold op v f s) := by
  unfold veDmaHold
  repeat' with_reducible first | assumption | apply veAt_keeps | apply veNext_keeps | split | intro _

theorem veEnd_keeps {wh : Bool} {z0 : State} (op : Nat) (v : VeAt) (f : VeFields) {s : State} (hk0 : Keeps wh true z0 s) :
    Keeps wh true z0 (veEnd op v f s) := by
  unfold veEnd
  repeat' with_reducible first | assumption | apply veAt_keeps | apply veNext_keeps | apply putGroup_keeps | (fail_if_no_progress apply Keeps.upd) | split | intro _

theorem vePartial_keeps {wh : Bool} {z0 : State} (op : Nat) (v : VeAt) (f : VeFields) {s : State} (hk0 : Keeps wh true z0 s) :
    Keeps wh true z0 (vePartial op v f s) := by
  unfold vePartial; try dsimp only
  repeat' with_reducible first | assumption | apply veAt_keeps | apply veNext_keeps | apply modInst_keeps | (fail_if_no_progress apply Keeps.upd) | intro _

theorem onVeNop_keeps {wh : Bool} {z0 : State} (v : VeAt) (f : VeFields) {s : State} (hk0 : Keeps wh true z0 s) :
    Keeps wh true z0 (onVeNop v f s) := by
  unfold onVeNop
  repeat' with_reducible first | assumption | apply veAt_keeps | apply veNext_keeps | intro _

theorem onVeFadd_keeps {wh : Bool} {z0 : State} (v : VeAt) (f : VeFields) {s : State} (hk0 : Keeps wh true z0 s) :
    Keeps wh true z0 (onVeFadd v f s) := by
  unfold onVeFadd
  repeat' with_reducible first | assumption | apply veAlu2_keeps

theorem onVeFsub_keeps {wh : Bool} {z0 : State} (v : VeAt) (f : VeFields) {s : State} (hk0 : Keeps wh true z0 s) :
    Keeps wh true z0 (onVeFsub v f s) := by
  unfold onVeFsub
  repeat' with_reducible first | assumption | apply veAlu2_keeps

theorem onVeFmul_keeps {wh : Bool} {z0 : State} (v : VeAt) (f : VeFields) {s : State} (hk0 : Keeps wh true z0 s) :
    Keeps wh true z0 (onVeFmul v f s) := by
  unfold onVeFmul
  repeat' with_reducible first | assumption | apply veAlu2_keeps

theorem onVeFfma_keeps {wh : Bool} {z0 : State} (v : VeAt) (f : VeFields) {s : State} (hk0 : Keeps wh true z0 s) :
    Keeps wh true z0 (onVeFfma v f s) := by
  unfold onVeFfma
  repeat' with_reducible first | assumption | apply veAlu3_keeps

theorem onVeFmin_keeps {wh : Bool} {z0 : State} (v : VeAt) (f : VeFields) {s : State} (hk0 : Keeps wh true z0 s) :
    Keeps wh true z0 (onVeFmin v f s) := by
  unfold onVeFmin
  repeat' with_reducible first | assumption | apply veAlu2_keeps

theorem onVeFmax_keeps {wh : Bool} {z0 : State} (v : VeAt) (f : VeFields) {s : State} (hk0 : Keeps wh true z0 s) :
    Keeps wh true z0 (onVeFmax v f s) := by
  unfold onVeFmax
  repeat' with_reducible first | assumption | apply veAlu2_keeps

theorem onVeFabs_keeps {wh : Bool} {z0 : State} (v : VeAt) (f : VeFields) {s : State} (hk0 : Keeps wh true z0 s) :
    Keeps wh true z0 (onVeFabs v f s) := by
  unfold onVeFabs
  repeat' with_reducible first | assumption | apply veAlu1_keeps

theorem onVeFneg_keeps {wh : Bool} {z0 : State} (v : VeAt) (f : VeFields) {s : State} (hk0 : Keeps wh true z0 s) :
    Keeps wh true z0 (onVeFneg v f s) := by
  unfold onVeFneg
  repeat' with_reducible first | assumption | apply veAlu1_keeps

theorem onVeFcopysign_keeps {wh : Bool} {z0 : State} (v : VeAt) (f : VeFields) {s : State} (hk0 : Keeps wh true z0 s) :
    Keeps wh true z0 (onVeFcopysign v f s) := by
  unfold onVeFcopysign
  repeat' with_reducible first | assumption | apply veAlu2_keeps

theorem onVeFeq_keeps {wh : Bool} {z0 : State} (v : VeAt) (f : VeFields) {s : State} (hk0 : Keeps wh true z0 s) :
    Keeps wh true z0 (onVeFeq v f s) := by
  unfold onVeFeq
  repeat' with_reducible first | assumption | apply veCmp_keeps

theorem onVeFne_keeps {wh : Bool} {z0 : State} (v : VeAt) (f : VeFields) {s : State} (hk0 : Keeps wh true z0 s) :
    Keeps wh true z0 (onVeFne v f s) := by
  unfold onVeFne
  repeat' with_reducible first | assumption | apply veCmp_keeps | intro _

theorem onVeFlt_keeps {wh : Bool} {z0 : State} (v : VeAt) (f : VeFields) {s : State} (hk0 : Keeps wh true z0 s) :
    Keeps wh true z0 (onVeFlt v f s) := by
  unfold onVeFlt
  repeat' with_reducible first | assumption | apply veCmp_keeps

theorem onVeFle_keeps {wh : Bool} {z0 : State} (v : VeAt) (f : VeFields) {s : State} (hk0 : Keeps wh true z0 s) :
    Keeps wh true z0 (onVeFle v f s) := by
  unfold onVeFle
  repeat' with_reducible first | assumption | apply veCmp_keeps

theorem onVeFunord_keeps {wh : Bool} {z0 : State} (v : VeAt) (f : VeFields) {s : State} (hk0 : Keeps wh true z0 s) :
    Keeps wh true z0 (onVeFunord v f s) := by
  unfold onVeFunord
  repeat' with_reducible first | assumption | apply veCmp_keeps | intro _

theorem onVeIeq_keeps {wh : Bool} {z0 : State} (v : VeAt) (f : VeFields) {s : State} (hk0 : Keeps wh true z0 s) :
    Keeps wh true z0 (onVeIeq v f s) := by
  unfold onVeIeq
  repeat' with_reducible first | assumption | apply veCmp_keeps | intro _

theorem onVeIlt_keeps {wh : Bool} {z0 : State} (v : VeAt) (f : VeFields) {s : State} (hk0 : Keeps wh true z0 s) :
    Keeps wh true z0 (onVeIlt v f s) := by
  unfold onVeIlt
  repeat' with_reducible first | assumption | apply veCmp_keeps

theorem onVeUlt_keeps {wh : Bool} {z0 : State} (v : VeAt) (f : VeFields) {s : State} (hk0 : Keeps wh true z0 s) :
    Keeps wh true z0 (onVeUlt v f s) := by
  unfold onVeUlt
  repeat' with_reducible first | assumption | apply veCmp_keeps | intro _

theorem onVeSel_keeps {wh : Bool} {z0 : State} (v : VeAt) (f : VeFields) {s : State} (hk0 : Keeps wh true z0 s) :
    Keeps wh true z0 (onVeSel v f s) := by
  unfold onVeSel
  repeat' with_reducible first | assumption | apply veLanes_keeps | split | intro _

theorem onVeIadd_keeps {wh : Bool} {z0 : State} (v : VeAt) (f : VeFields) {s : State} (hk0 : Keeps wh true z0 s) :
    Keeps wh true z0 (onVeIadd v f s) := by
  unfold onVeIadd
  repeat' with_reducible first | assumption | apply veAlu2_keeps | intro _

theorem onVeIsub_keeps {wh : Bool} {z0 : State} (v : VeAt) (f : VeFields) {s : State} (hk0 : Keeps wh true z0 s) :
    Keeps wh true z0 (onVeIsub v f s) := by
  unfold onVeIsub
  repeat' with_reducible first | assumption | apply veAlu2_keeps | intro _

theorem onVeImullo_keeps {wh : Bool} {z0 : State} (v : VeAt) (f : VeFields) {s : State} (hk0 : Keeps wh true z0 s) :
    Keeps wh true z0 (onVeImullo v f s) := by
  unfold onVeImullo
  repeat' with_reducible first | assumption | apply veAlu2_keeps | intro _

theorem onVeSmulhi_keeps {wh : Bool} {z0 : State} (v : VeAt) (f : VeFields) {s : State} (hk0 : Keeps wh true z0 s) :
    Keeps wh true z0 (onVeSmulhi v f s) := by
  unfold onVeSmulhi
  repeat' with_reducible first | assumption | apply veAlu2_keeps

theorem onVeUmulhi_keeps {wh : Bool} {z0 : State} (v : VeAt) (f : VeFields) {s : State} (hk0 : Keeps wh true z0 s) :
    Keeps wh true z0 (onVeUmulhi v f s) := by
  unfold onVeUmulhi
  repeat' with_reducible first | assumption | apply veAlu2_keeps

theorem onVeShl_keeps {wh : Bool} {z0 : State} (v : VeAt) (f : VeFields) {s : State} (hk0 : Keeps wh true z0 s) :
    Keeps wh true z0 (onVeShl v f s) := by
  unfold onVeShl
  repeat' with_reducible first | assumption | apply veAlu2_keeps

theorem onVeShr_keeps {wh : Bool} {z0 : State} (v : VeAt) (f : VeFields) {s : State} (hk0 : Keeps wh true z0 s) :
    Keeps wh true z0 (onVeShr v f s) := by
  unfold onVeShr
  repeat' with_reducible first | assumption | apply veAlu2_keeps

theorem onVeSra_keeps {wh : Bool} {z0 : State} (v : VeAt) (f : VeFields) {s : State} (hk0 : Keeps wh true z0 s) :
    Keeps wh true z0 (onVeSra v f s) := by
  unfold onVeSra
  repeat' with_reducible first | assumption | apply veAlu2_keeps

theorem onVeAnd_keeps {wh : Bool} {z0 : State} (v : VeAt) (f : VeFields) {s : State} (hk0 : Keeps wh true z0 s) :
    Keeps wh true z0 (onVeAnd v f s) := by
  unfold onVeAnd
  repeat' with_reducible first | assumption | apply veAlu2_keeps | intro _

theorem onVeOr_keeps {wh : Bool} {z0 : State} (v : VeAt) (f : VeFields) {s : State} (hk0 : Keeps wh true z0 s) :
    Keeps wh true z0 (onVeOr v f s) := by
  unfold onVeOr
  repeat' with_reducible first | assumption | apply veAlu2_keeps | intro _

theorem onVeXor_keeps {wh : Bool} {z0 : State} (v : VeAt) (f : VeFields) {s : State} (hk0 : Keeps wh true z0 s) :
    Keeps wh true z0 (onVeXor v f s) := by
  unfold onVeXor
  repeat' with_reducible first | assumption | apply veAlu2_keeps | intro _

theorem onVeSmin_keeps {wh : Bool} {z0 : State} (v : VeAt) (f : VeFields) {s : State} (hk0 : Keeps wh true z0 s) :
    Keeps wh true z0 (onVeSmin v f s) := by
  unfold onVeSmin
  repeat' with_reducible first | assumption | apply veAlu2_keeps

theorem onVeSmax_keeps {wh : Bool} {z0 : State} (v : VeAt) (f : VeFields) {s : State} (hk0 : Keeps wh true z0 s) :
    Keeps wh true z0 (onVeSmax v f s) := by
  unfold onVeSmax
  repeat' with_reducible first | assumption | apply veAlu2_keeps

theorem onVeUmin_keeps {wh : Bool} {z0 : State} (v : VeAt) (f : VeFields) {s : State} (hk0 : Keeps wh true z0 s) :
    Keeps wh true z0 (onVeUmin v f s) := by
  unfold onVeUmin
  repeat' with_reducible first | assumption | apply veAlu2_keeps

theorem onVeUmax_keeps {wh : Bool} {z0 : State} (v : VeAt) (f : VeFields) {s : State} (hk0 : Keeps wh true z0 s) :
    Keeps wh true z0 (onVeUmax v f s) := by
  unfold onVeUmax
  repeat' with_reducible first | assumption | apply veAlu2_keeps

theorem onVeMov_keeps {wh : Bool} {z0 : State} (v : VeAt) (f : VeFields) {s : State} (hk0 : Keeps wh true z0 s) :
    Keeps wh true z0 (onVeMov v f s) := by
  unfold onVeMov
  repeat' with_reducible first | assumption | apply veLanes_keeps | intro _

theorem onVeCvt_keeps {wh : Bool} {z0 : State} (v : VeAt) (f : VeFields) {s : State} (hk0 : Keeps wh true z0 s) :
    Keeps wh true z0 (onVeCvt v f s) := by
  unfold onVeCvt
  repeat' with_reducible first | assumption | apply veAlu2_keeps

theorem onVeBfi_keeps {wh : Bool} {z0 : State} (v : VeAt) (f : VeFields) {s : State} (hk0 : Keeps wh true z0 s) :
    Keeps wh true z0 (onVeBfi v f s) := by
  unfold onVeBfi
  repeat' with_reducible first | assumption | apply veLanes_keeps | intro _

theorem onVeBfx_keeps {wh : Bool} {z0 : State} (v : VeAt) (f : VeFields) {s : State} (hk0 : Keeps wh true z0 s) :
    Keeps wh true z0 (onVeBfx v f s) := by
  unfold onVeBfx
  repeat' with_reducible first | assumption | apply veAlu1_keeps

theorem onVeRcp_keeps {wh : Bool} {z0 : State} (v : VeAt) (f : VeFields) {s : State} (hk0 : Keeps wh true z0 s) :
    Keeps wh true z0 (onVeRcp v f s) := by
  unfold onVeRcp
  repeat' with_reducible first | assumption | apply veAlu1_keeps

theorem onVeDiv_keeps {wh : Bool} {z0 : State} (v : VeAt) (f : VeFields) {s : State} (hk0 : Keeps wh true z0 s) :
    Keeps wh true z0 (onVeDiv v f s) := by
  unfold onVeDiv
  repeat' with_reducible first | assumption | apply veAlu2_keeps

theorem onVeSqrt_keeps {wh : Bool} {z0 : State} (v : VeAt) (f : VeFields) {s : State} (hk0 : Keeps wh true z0 s) :
    Keeps wh true z0 (onVeSqrt v f s) := by
  unfold onVeSqrt
  repeat' with_reducible first | assumption | apply veAlu1_keeps

theorem onVeRsqrt_keeps {wh : Bool} {z0 : State} (v : VeAt) (f : VeFields) {s : State} (hk0 : Keeps wh true z0 s) :
    Keeps wh true z0 (onVeRsqrt v f s) := by
  unfold onVeRsqrt
  repeat' with_reducible first | assumption | apply veAlu1_keeps

theorem onVeExp2_keeps {wh : Bool} {z0 : State} (v : VeAt) (f : VeFields) {s : State} (hk0 : Keeps wh true z0 s) :
    Keeps wh true z0 (onVeExp2 v f s) := by
  unfold onVeExp2
  repeat' with_reducible first | assumption | apply veAlu1_keeps

theorem onVeLog2_keeps {wh : Bool} {z0 : State} (v : VeAt) (f : VeFields) {s : State} (hk0 : Keeps wh true z0 s) :
    Keeps wh true z0 (onVeLog2 v f s) := by
  unfold onVeLog2
  repeat' with_reducible first | assumption | apply veAlu1_keeps

theorem onVeSinpi_keeps {wh : Bool} {z0 : State} (v : VeAt) (f : VeFields) {s : State} (hk0 : Keeps wh true z0 s) :
    Keeps wh true z0 (onVeSinpi v f s) := by
  unfold onVeSinpi
  repeat' with_reducible first | assumption | apply veAlu1_keeps

theorem onVeCospi_keeps {wh : Bool} {z0 : State} (v : VeAt) (f : VeFields) {s : State} (hk0 : Keeps wh true z0 s) :
    Keeps wh true z0 (onVeCospi v f s) := by
  unfold onVeCospi
  repeat' with_reducible first | assumption | apply veAlu1_keeps

theorem onVeExp_keeps {wh : Bool} {z0 : State} (v : VeAt) (f : VeFields) {s : State} (hk0 : Keeps wh true z0 s) :
    Keeps wh true z0 (onVeExp v f s) := by
  unfold onVeExp
  repeat' with_reducible first | assumption | apply veAlu1_keeps

theorem onVeLog_keeps {wh : Bool} {z0 : State} (v : VeAt) (f : VeFields) {s : State} (hk0 : Keeps wh true z0 s) :
    Keeps wh true z0 (onVeLog v f s) := by
  unfold onVeLog
  repeat' with_reducible first | assumption | apply veAlu1_keeps

theorem onVeSigmoid_keeps {wh : Bool} {z0 : State} (v : VeAt) (f : VeFields) {s : State} (hk0 : Keeps wh true z0 s) :
    Keeps wh true z0 (onVeSigmoid v f s) := by
  unfold onVeSigmoid
  repeat' with_reducible first | assumption | apply veAlu1_keeps

theorem onVeTanh_keeps {wh : Bool} {z0 : State} (v : VeAt) (f : VeFields) {s : State} (hk0 : Keeps wh true z0 s) :
    Keeps wh true z0 (onVeTanh v f s) := by
  unfold onVeTanh
  repeat' with_reducible first | assumption | apply veAlu1_keeps

theorem onVeShuffle_keeps {wh : Bool} {z0 : State} (v : VeAt) (f : VeFields) {s : State} (hk0 : Keeps wh true z0 s) :
    Keeps wh true z0 (onVeShuffle v f s) := by
  unfold onVeShuffle
  repeat' with_reducible first | assumption | apply veLanes_keeps | intro _

theorem onVeBcast_keeps {wh : Bool} {z0 : State} (v : VeAt) (f : VeFields) {s : State} (hk0 : Keeps wh true z0 s) :
    Keeps wh true z0 (onVeBcast v f s) := by
  unfold onVeBcast
  repeat' with_reducible first | assumption | apply veLanes_keeps | intro _

theorem onVeGred_keeps {wh : Bool} {z0 : State} (v : VeAt) (f : VeFields) {s : State} (hk0 : Keeps wh true z0 s) :
    Keeps wh true z0 (onVeGred v f s) := by
  unfold onVeGred
  repeat' with_reducible first | assumption | apply veLanes_keeps | intro _

theorem onVeDred_keeps {wh : Bool} {z0 : State} (v : VeAt) (f : VeFields) {s : State} (hk0 : Keeps wh true z0 s) :
    Keeps wh true z0 (onVeDred v f s) := by
  unfold onVeDred
  repeat' with_reducible first | assumption | apply vePartial_keeps

theorem onVeLd32_keeps {wh : Bool} {z0 : State} (v : VeAt) (f : VeFields) {s : State} (hk0 : Keeps wh true z0 s) :
    Keeps wh true z0 (onVeLd32 v f s) := by
  unfold onVeLd32
  repeat' with_reducible first | assumption | apply veLoad_keeps

theorem onVeLd64_keeps {wh : Bool} {z0 : State} (v : VeAt) (f : VeFields) {s : State} (hk0 : Keeps wh true z0 s) :
    Keeps wh true z0 (onVeLd64 v f s) := by
  unfold onVeLd64
  repeat' with_reducible first | assumption | apply veLoad_keeps

theorem onVeLd128_keeps {wh : Bool} {z0 : State} (v : VeAt) (f : VeFields) {s : State} (hk0 : Keeps wh true z0 s) :
    Keeps wh true z0 (onVeLd128 v f s) := by
  unfold onVeLd128
  repeat' with_reducible first | assumption | apply veLoad_keeps

theorem onVeSt32_keeps {wh : Bool} {z0 : State} (v : VeAt) (f : VeFields) {s : State} (hk0 : Keeps wh true z0 s) :
    Keeps wh true z0 (onVeSt32 v f s) := by
  unfold onVeSt32
  repeat' with_reducible first | assumption | apply veStore_keeps

theorem onVeSt64_keeps {wh : Bool} {z0 : State} (v : VeAt) (f : VeFields) {s : State} (hk0 : Keeps wh true z0 s) :
    Keeps wh true z0 (onVeSt64 v f s) := by
  unfold onVeSt64
  repeat' with_reducible first | assumption | apply veStore_keeps

theorem onVeSt128_keeps {wh : Bool} {z0 : State} (v : VeAt) (f : VeFields) {s : State} (hk0 : Keeps wh true z0 s) :
    Keeps wh true z0 (onVeSt128 v f s) := by
  unfold onVeSt128
  repeat' with_reducible first | assumption | apply veStore_keeps

theorem onVeAadd_keeps {wh : Bool} {z0 : State} (v : VeAt) (f : VeFields) {s : State} (hk0 : Keeps wh true z0 s) :
    Keeps wh true z0 (onVeAadd v f s) := by
  unfold onVeAadd
  repeat' with_reducible first | assumption | apply veAtomic_keeps | intro _

theorem onVeAsmin_keeps {wh : Bool} {z0 : State} (v : VeAt) (f : VeFields) {s : State} (hk0 : Keeps wh true z0 s) :
    Keeps wh true z0 (onVeAsmin v f s) := by
  unfold onVeAsmin
  repeat' with_reducible first | assumption | apply veAtomic_keeps | intro _

theorem onVeAsmax_keeps {wh : Bool} {z0 : State} (v : VeAt) (f : VeFields) {s : State} (hk0 : Keeps wh true z0 s) :
    Keeps wh true z0 (onVeAsmax v f s) := by
  unfold onVeAsmax
  repeat' with_reducible first | assumption | apply veAtomic_keeps | intro _

theorem onVeAand_keeps {wh : Bool} {z0 : State} (v : VeAt) (f : VeFields) {s : State} (hk0 : Keeps wh true z0 s) :
    Keeps wh true z0 (onVeAand v f s) := by
  unfold onVeAand
  repeat' with_reducible first | assumption | apply veAtomic_keeps | intro _

theorem onVeAor_keeps {wh : Bool} {z0 : State} (v : VeAt) (f : VeFields) {s : State} (hk0 : Keeps wh true z0 s) :
    Keeps wh true z0 (onVeAor v f s) := by
  unfold onVeAor
  repeat' with_reducible first | assumption | apply veAtomic_keeps | intro _

theorem onVeAxor_keeps {wh : Bool} {z0 : State} (v : VeAt) (f : VeFields) {s : State} (hk0 : Keeps wh true z0 s) :
    Keeps wh true z0 (onVeAxor v f s) := by
  unfold onVeAxor
  repeat' with_reducible first | assumption | apply veAtomic_keeps | intro _

theorem onVeAxchg_keeps {wh : Bool} {z0 : State} (v : VeAt) (f : VeFields) {s : State} (hk0 : Keeps wh true z0 s) :
    Keeps wh true z0 (onVeAxchg v f s) := by
  unfold onVeAxchg
  repeat' with_reducible first | assumption | apply veAtomic_keeps | intro _

theorem onVeAcas_keeps {wh : Bool} {z0 : State} (v : VeAt) (f : VeFields) {s : State} (hk0 : Keeps wh true z0 s) :
    Keeps wh true z0 (onVeAcas v f s) := by
  unfold onVeAcas
  repeat' with_reducible first | assumption | apply veAtomic_keeps | split | intro _

theorem onVeBraAny_keeps {wh : Bool} {z0 : State} (v : VeAt) (f : VeFields) {s : State} (hk0 : Keeps wh true z0 s) :
    Keeps wh true z0 (onVeBraAny v f s) := by
  unfold onVeBraAny
  repeat' with_reducible first | assumption | apply veBranch_keeps | intro _

theorem onVeBraAll_keeps {wh : Bool} {z0 : State} (v : VeAt) (f : VeFields) {s : State} (hk0 : Keeps wh true z0 s) :
    Keeps wh true z0 (onVeBraAll v f s) := by
  unfold onVeBraAll
  repeat' with_reducible first | assumption | apply veBranch_keeps | intro _

theorem onVeBarGroup_keeps {wh : Bool} {z0 : State} (v : VeAt) (f : VeFields) {s : State} (hk0 : Keeps wh true z0 s) :
    Keeps wh true z0 (onVeBarGroup v f s) := by
  unfold onVeBarGroup
  repeat' with_reducible first | assumption | apply veAt_keeps | apply veNext_keeps | intro _

theorem onVeBarDispatch_keeps {wh : Bool} {z0 : State} (v : VeAt) (f : VeFields) {s : State} (hk0 : Keeps wh true z0 s) :
    Keeps wh true z0 (onVeBarDispatch v f s) := by
  unfold onVeBarDispatch
  repeat' with_reducible first | assumption | apply veBarrier_keeps

theorem onVeDmaIssue_keeps {wh : Bool} {z0 : State} (v : VeAt) (f : VeFields) {s : State} (hk0 : Keeps wh true z0 s) :
    Keeps wh true z0 (onVeDmaIssue v f s) := by
  unfold onVeDmaIssue
  repeat' with_reducible first | assumption | apply veDmaStart_keeps

theorem onVeDmaWait_keeps {wh : Bool} {z0 : State} (v : VeAt) (f : VeFields) {s : State} (hk0 : Keeps wh true z0 s) :
    Keeps wh true z0 (onVeDmaWait v f s) := by
  unfold onVeDmaWait
  repeat' with_reducible first | assumption | apply veDmaHold_keeps

theorem onVeExit_keeps {wh : Bool} {z0 : State} (v : VeAt) (f : VeFields) {s : State} (hk0 : Keeps wh true z0 s) :
    Keeps wh true z0 (onVeExit v f s) := by
  unfold onVeExit
  repeat' with_reducible first | assumption | apply veEnd_keeps

theorem parsePacket_keeps {wh : Bool} {z0 : State} (ty : Nat) (ref : CmdRef) {s : State}
    {k : Placed → RasHead → List Byte → State} (hk0 : Keeps wh true z0 s) (hk : ∀ q h b, Keeps wh true z0 (k q h b)) :
    Keeps wh true z0 (parsePacket ty ref s k) := by
  unfold parsePacket
  try dsimp only
  repeat' with_reducible first | assumption | apply stopRun_keeps | apply badParam_keeps | apply modInst_keeps | apply hk | (fail_if_no_progress apply Keeps.upd) | (refine Keeps.foldl _ ?_ (fun _ _ _ => ?_)) | split | intro _

theorem modRas_keeps {wh wp : Bool} {z0 : State} {s : State} (ref : CmdRef) (f : RasRun → RasRun) (hk0 : Keeps wh wp z0 s) :
    Keeps wh wp z0 (modRas s ref f) := by
  unfold modRas
  repeat' with_reducible first | assumption | apply modInst_keeps | (fail_if_no_progress apply Keeps.upd) | intro _

theorem addPrims_keeps {wh : Bool} {z0 : State} {s : State} (q : Placed) (h : RasHead) (n : Nat) (ps : List RasPrim) (hk0 : Keeps wh true z0 s) :
    Keeps wh true z0 (addPrims s q h n ps) := by
  unfold addPrims; try dsimp only
  repeat' with_reducible first | assumption | apply failStep_keeps | apply modRas_keeps | (fail_if_no_progress apply Keeps.upd) | split | intro _

theorem onDlState_keeps {wh : Bool} {z0 : State} (ref : CmdRef) {s : State} (hk0 : Keeps wh true z0 s) :
    Keeps wh true z0 (onDlState ref s) := by
  unfold onDlState
  repeat' with_reducible first | assumption | apply parsePacket_keeps | apply modRas_keeps | (fail_if_no_progress apply Keeps.upd) | intro _

theorem onDlTriangles_keeps {wh : Bool} {z0 : State} (ref : CmdRef) {s : State} (hk0 : Keeps wh true z0 s) :
    Keeps wh true z0 (onDlTriangles ref s) := by
  unfold onDlTriangles; try dsimp only
  repeat' with_reducible first | assumption | apply parsePacket_keeps | apply addPrims_keeps | apply draw_keeps | intro _

theorem onDlRects_keeps {wh : Bool} {z0 : State} (ref : CmdRef) {s : State} (hk0 : Keeps wh true z0 s) :
    Keeps wh true z0 (onDlRects ref s) := by
  unfold onDlRects; try dsimp only
  repeat' with_reducible first | assumption | apply parsePacket_keeps | apply addPrims_keeps | apply draw_keeps | intro _

theorem onDlEnd_keeps {wh : Bool} {z0 : State} (ref : CmdRef) {s : State} (hk0 : Keeps wh true z0 s) :
    Keeps wh true z0 (onDlEnd ref s) := by
  unfold onDlEnd
  repeat' with_reducible first | assumption | apply parsePacket_keeps | apply failStep_keeps | apply modRas_keeps | (fail_if_no_progress apply Keeps.upd) | split | intro _

theorem onDlNop_keeps {wh : Bool} {z0 : State} (ref : CmdRef) {s : State} (hk0 : Keeps wh true z0 s) :
    Keeps wh true z0 (onDlNop ref s) := by
  unfold onDlNop
  repeat' with_reducible first | assumption | apply parsePacket_keeps | intro _

theorem onStreamBand_keeps {wh : Bool} {z0 : State} (ref : CmdRef) {s : State} (hk0 : Keeps wh true z0 s) :
    Keeps wh true z0 (onStreamBand ref s) := by
  unfold onStreamBand; try dsimp only
  repeat' with_reducible first | assumption | apply modInst_keeps | apply stopRun_keeps | apply padWrite_keeps | (fail_if_no_progress apply Keeps.upd) | split | intro _

theorem onStreamTimeout_keeps {wh : Bool} {z0 : State} (ref : CmdRef) {s : State} (hk0 : Keeps wh true z0 s) :
    Keeps wh true z0 (onStreamTimeout ref s) := by
  unfold onStreamTimeout; try dsimp only
  repeat' with_reducible first | assumption | apply killInsts_keeps | apply incReg_keeps | split

theorem onTileMemoryEcc_keeps {wh : Bool} {z0 : State} (ref : CmdRef) {s : State} (hk0 : Keeps wh true z0 s) :
    Keeps wh true z0 (onTileMemoryEcc ref s) := by
  unfold onTileMemoryEcc
  repeat' with_reducible first | assumption | apply eccPad_keeps | split

theorem modFg_keeps {wh wp : Bool} {z0 : State} {s : State} (p : Nat) (f : FrameGen → FrameGen) (hk0 : Keeps wh wp z0 s) :
    Keeps wh wp z0 (modFg s p f) := by
  unfold modFg
  repeat' with_reducible first | assumption | apply modPipe_keeps | (fail_if_no_progress apply Keeps.upd) | intro _

theorem rePromote_keeps {wh wp : Bool} {z0 : State} {s : State} (p : Nat) (hk0 : Keeps wh wp z0 s) :
    Keeps wh wp z0 (rePromote s p) := by
  unfold rePromote
  repeat' with_reducible first | assumption | apply refresh_keeps | apply promote_keeps

theorem fgEnable_keeps {wh wp : Bool} {z0 : State} {s : State} (p : Nat) (hk0 : Keeps wh wp z0 s) :
    Keeps wh wp z0 (fgEnable s p) := by
  unfold fgEnable; try dsimp only
  repeat' with_reducible first | assumption | apply setRegW_keeps | apply modFg_keeps | (fail_if_no_progress apply Keeps.upd) | (refine Keeps.foldl _ ?_ (fun _ _ _ => ?_)) | intro _

theorem fgDisable_keeps {wh wp : Bool} {z0 : State} {s : State} (p : Nat) (hk0 : Keeps wh wp z0 s) :
    Keeps wh wp z0 (fgDisable s p) := by
  unfold fgDisable
  repeat' with_reducible first | assumption | apply rePromote_keeps | apply modFg_keeps | (fail_if_no_progress apply Keeps.upd) | intro _

theorem fgEffect_keeps {wh wp : Bool} {z0 : State} {s : State} (p : Nat) (old : Nat) (new : Nat) (hk0 : Keeps wh wp z0 s) :
    Keeps wh wp z0 (fgEffect s p old new) := by
  unfold fgEffect
  repeat' with_reducible first | assumption | apply fgEnable_keeps | apply fgDisable_keeps | split

theorem writeInfo_keeps {wp : Bool} {z0 : State} {s : State} (id : Nat) (l : Loop) (st : Step) (hk0 : Keeps true wp z0 s) :
    Keeps true wp z0 (writeInfo s id l st) := by
  unfold writeInfo; try dsimp only
  repeat' with_reducible first | assumption | apply storeBytes_keeps | (refine Keeps.foldl _ ?_ (fun _ _ _ => ?_)) | split | intro _

theorem takeReference_keeps {wh wp : Bool} {z0 : State} {s : State} (p order frame0 r : Nat) (hk0 : Keeps wh wp z0 s) :
    Keeps wh wp z0 (takeReference s p order frame0 r).1 := by
  unfold takeReference; try dsimp only
  repeat' with_reducible first | assumption | apply incReg_keeps | apply modFg_keeps | split

theorem takeReference_eq_keeps {wh wp : Bool} {z0 s t : State} {p order frame0 r : Nat} {y : Option (Nat × Nat)}
    (hk0 : Keeps wh wp z0 s) (h : takeReference s p order frame0 r = (t, y)) : Keeps wh wp z0 t := by
  have := takeReference_keeps p order frame0 r hk0
  rwa [h] at this

theorem fgEligible_keeps {wh wp : Bool} {z0 : State} {s : State} (p : Nat) (id : Nat) (l : Loop) (st : Step) (c : Option Claim) (hk0 : Keeps wh wp z0 s) :
    Keeps wh wp z0 (fgEligible s p id l st c) := by
  unfold fgEligible; try dsimp only
  repeat' with_reducible first | assumption | refine takeReference_eq_keeps ?_ ‹_› | apply takeReference_keeps | apply modFg_keeps | apply modHead_keeps | apply refresh_keeps | apply makeEligible_keeps | (fail_if_no_progress apply Keeps.upd) | split | intro _

theorem onFgStepEligible_keeps {wh wp : Bool} {z0 : State} (p : Nat) {s : State} (hk0 : Keeps wh wp z0 s) :
    Keeps wh wp z0 (onFgStepEligible p s) := by
  unfold onFgStepEligible; try dsimp only
  repeat' with_reducible first | assumption | apply fgEligible_keeps | apply claimFrames_keeps | split | intro _

theorem capFail_keeps {wh wp : Bool} {z0 : State} {s : State} (p : Nat) (b : Nat) (hk0 : Keeps wh wp z0 s) :
    Keeps wh wp z0 (capFail s p b) := by
  unfold capFail
  repeat' with_reducible first | assumption | apply incReg_keeps | apply modFg_keeps | intro _

theorem startCapture_keeps {wh wp : Bool} {z0 : State} {s : State} (t : Nat) (p : Nat) (st : Step) (hk0 : Keeps wh wp z0 s) :
    Keeps wh wp z0 (startCapture s t p st) := by
  unfold startCapture; try dsimp only
  repeat' with_reducible first | assumption | apply capFail_keeps | apply countUncorr_keeps | apply modFg_keeps | split | intro _

theorem onCaptureComplete_keeps {wp : Bool} {z0 : State} (p : Nat) {s : State} (hk0 : Keeps true wp z0 s) :
    Keeps true wp z0 (onCaptureComplete p s) := by
  unfold onCaptureComplete; try dsimp only
  repeat' with_reducible first | assumption | apply refresh_keeps | apply capFail_keeps | apply countUncorr_keeps | apply storeBytes_keeps | apply rePromote_keeps | apply modFg_keeps | (fail_if_no_progress apply Keeps.upd) | (refine Keeps.foldl _ ?_ (fun _ _ _ => ?_)) | split | intro _

theorem readVerdict_keeps {wp : Bool} {z0 : State} {s : State} (t : Nat) (p : Nat) (hk0 : Keeps true wp z0 s) :
    Keeps true wp z0 (readVerdict s t p) := by
  unfold readVerdict; try dsimp only
  repeat' with_reducible first | assumption | apply storeBytes_keeps | apply countUncorr_keeps | apply modFg_keeps | apply incReg_keeps | (fail_if_no_progress apply Keeps.upd) | split | intro _

theorem onPublishCopyStart_keeps {wh wp : Bool} {z0 : State} (p : Nat) {s : State} (hk0 : Keeps wh wp z0 s) :
    Keeps wh wp z0 (onPublishCopyStart p s) := by
  unfold onPublishCopyStart; try dsimp only
  repeat' with_reducible first | assumption | apply modFg_keeps | (fail_if_no_progress apply Keeps.upd) | split | intro _

theorem onPublishCopyDone_keeps {wp : Bool} {z0 : State} (p : Nat) {s : State} (hk0 : Keeps true wp z0 s) :
    Keeps true wp z0 (onPublishCopyDone p s) := by
  unfold onPublishCopyDone; try dsimp only
  repeat' with_reducible first | assumption | apply incReg_keeps | apply modFg_keeps | apply countUncorr_keeps | apply storeBytes_keeps | (fail_if_no_progress apply Keeps.upd) | split | intro _

theorem exchangeBanks_keeps {wh wp : Bool} {z0 : State} {s : State} (p : Nat) (hk0 : Keeps wh wp z0 s) :
    Keeps wh wp z0 (exchangeBanks s p) := by
  unfold exchangeBanks; try dsimp only
  repeat' with_reducible first | assumption | apply rePromote_keeps | apply incReg_keeps | apply modFg_keeps | (fail_if_no_progress apply Keeps.upd) | split | intro _

theorem settleStep_keeps {wh wp : Bool} {z0 : State} {s : State} (id : Nat) (st : Step) (ok : Bool) (hk0 : Keeps wh wp z0 s) :
    Keeps wh wp z0 (settleStep s id st ok) := by
  unfold settleStep
  repeat' with_reducible first | assumption | apply modFg_keeps | (fail_if_no_progress apply Keeps.upd) | split | intro _

theorem fgCommit_keeps {wp : Bool} {z0 : State} {s : State} (id : Nat) (l : Loop) (st : Step) (hk0 : Keeps true wp z0 s) :
    Keeps true wp z0 (fgCommit s id l st) := by
  unfold fgCommit; try dsimp only
  repeat' with_reducible first | assumption | apply settleStep_keeps | apply startCapture_keeps | apply readVerdict_keeps | (refine Keeps.foldl _ ?_ (fun _ _ _ => ?_)) | split | intro _

theorem fgFail_keeps {wh wp : Bool} {z0 : State} {s : State} (id : Nat) (st : Step) (hk0 : Keeps wh wp z0 s) :
    Keeps wh wp z0 (fgFail s id st) := by
  unfold fgFail; try dsimp only
  repeat' with_reducible first | assumption | apply settleStep_keeps | apply capFail_keeps | split

theorem modGal_keeps {wh wp : Bool} {z0 : State} {s : State} (p : Nat) (f : GalRun → GalRun) (hk0 : Keeps wh wp z0 s) :
    Keeps wh wp z0 (modGal s p f) := by
  unfold modGal
  repeat' with_reducible first | assumption | apply modPipe_keeps | (fail_if_no_progress apply Keeps.upd) | intro _

theorem galErr_keeps {wh wp : Bool} {z0 : State} {s : State} (p : Nat) (bitNo : Nat) (hk0 : Keeps wh wp z0 s) :
    Keeps wh wp z0 (galErr s p bitNo) := by
  unfold galErr
  repeat' with_reducible first | assumption | apply setRegW_keeps

theorem decideAs_keeps {wh wp : Bool} {z0 : State} {s : State} (p : Nat) (kind : Nat) (d : Decision) (hk0 : Keeps wh wp z0 s) :
    Keeps wh wp z0 (decideAs s p kind d) := by
  unfold decideAs
  repeat' with_reducible first | assumption | apply trace_keeps | apply modPipe_keeps | (fail_if_no_progress apply Keeps.upd) | intro _

theorem holdFrame_keeps {wh wp : Bool} {z0 : State} {s : State} (p : Nat) (reason : Nat) (hk0 : Keeps wh wp z0 s) :
    Keeps wh wp z0 (holdFrame s p reason) := by
  unfold holdFrame; try dsimp only
  repeat' with_reducible first | assumption | apply modPipe_keeps | apply incReg_keeps | apply modGal_keeps | apply galErr_keeps | (fail_if_no_progress apply Keeps.upd) | split | intro _

theorem galliardFrame_keeps {wh wp : Bool} {z0 : State} {s : State} (p : Nat) (buffer : Nat) (began : Frac) (done : Frac) (f : Frac) (hk0 : Keeps wh wp z0 s) :
    Keeps wh wp z0 (galliardFrame s p buffer began done f) := by
  unfold galliardFrame
  repeat' with_reducible first | assumption | apply holdFrame_keeps | apply incReg_keeps | apply modPipe_keeps | (fail_if_no_progress apply Keeps.upd) | split | intro _

theorem extrapolate_keeps {wp : Bool} {z0 : State} {s : State} (p : Nat) (t : Nat) (va : Nat) (at_ : Frac) (f : Frac) (hk0 : Keeps true wp z0 s) :
    Keeps true wp z0 (extrapolate s p t va at_ f) := by
  unfold extrapolate; try dsimp only
  repeat' with_reducible first | assumption | apply out_keeps | apply storeBytes_keeps | apply draw_keeps | apply galErr_keeps | apply decideAs_keeps | (refine Keeps.foldl _ ?_ (fun _ _ _ => ?_)) | split | intro _

theorem decideFrame_keeps {wp : Bool} {z0 : State} {s : State} (p : Nat) (at_ : Frac) (f : Frac) (hk0 : Keeps true wp z0 s) :
    Keeps true wp z0 (decideFrame s p at_ f) := by
  unfold decideFrame; try dsimp only
  repeat' with_reducible first | assumption | apply incReg_keeps | apply modPipe_keeps | apply trace_keeps | apply modGal_keeps | apply decideAs_keeps | apply extrapolate_keeps | (fail_if_no_progress apply Keeps.upd) | split | intro _

theorem onGalliardDecision_keeps {wp : Bool} {z0 : State} (p : Nat) {s : State} (hk0 : Keeps true wp z0 s) :
    Keeps true wp z0 (onGalliardDecision p s) := by
  unfold onGalliardDecision; try dsimp only
  repeat' with_reducible first | assumption | apply wallReady_keeps | apply decideFrame_keeps | split

theorem galEffect_keeps {wh wp : Bool} {z0 : State} {s : State} (p : Nat) (off : Nat) (old : Nat) (new : Nat) (hk0 : Keeps wh wp z0 s) :
    Keeps wh wp z0 (galEffect s p off old new) := by
  unfold galEffect; try dsimp only
  repeat' with_reducible first | assumption | apply modGal_keeps | apply setRegW_keeps | apply modPipe_keeps | (fail_if_no_progress apply Keeps.upd) | split | intro _

end Sys2Proof.Machine
end

