-- ==== Sys2Proof/Laws/KeepPlace.lean ====
section
/-! SUPPORT. Laws/KeepPlace.lean: the display, placement and commit keep the queue, the canonical form of memory and, where they store nothing,
memory itself. -/

namespace Sys2Proof.Machine

open Sys2Proof

theorem linkEvent_keeps {wh wp : Bool} {z0 : State} {s : State} (x : Nat) (change : Nat) (pipe : Nat) (hk0 : Keeps wh wp z0 s) :
    Keeps wh wp z0 (linkEvent s x change pipe) := by
  unfold linkEvent; try dsimp only
  repeat' with_reducible first | assumption | apply setTx_keeps | apply event_keeps | (fail_if_no_progress apply Keeps.upd) | (refine Keeps.foldl _ ?_ (fun _ _ _ => ?_)) | split | intro _

theorem dspErr_keeps {wh wp : Bool} {z0 : State} {s : State} (p : Nat) (bitNo : Nat) (hk0 : Keeps wh wp z0 s) :
    Keeps wh wp z0 (dspErr s p bitNo) := by
  unfold dspErr
  repeat' with_reducible first | assumption | apply setRegW_keeps

theorem loseLink_keeps {wh wp : Bool} {z0 : State} {s : State} (x : Nat) (hk0 : Keeps wh wp z0 s) :
    Keeps wh wp z0 (loseLink s x) := by
  unfold loseLink
  repeat' with_reducible first | assumption | apply modPipe_keeps | apply dspErr_keeps | (fail_if_no_progress apply Keeps.upd) | (refine Keeps.foldl _ ?_ (fun _ _ _ => ?_)) | intro _

theorem refreshIdle_keeps {wh wp : Bool} {z0 : State} {s : State} (x : Nat) (hk0 : Keeps wh wp z0 s) :
    Keeps wh wp z0 (refreshIdle s x) := by
  unfold refreshIdle; try dsimp only
  repeat' with_reducible first | assumption | apply linkEvent_keeps | apply modPipe_keeps | apply setTx_keeps | (fail_if_no_progress apply Keeps.upd) | (refine Keeps.foldl _ ?_ (fun _ _ _ => ?_)) | split | intro _

theorem stampTx_keeps {wh wp : Bool} {z0 s : State} (old : State) (x : Nat) (hk0 : Keeps wh wp z0 s) :
    Keeps wh wp z0 (stampTx old s x) := by
  unfold stampTx
  repeat' with_reducible first | assumption | apply setTx_keeps | split

theorem startTraining_keeps {wh wp : Bool} {z0 : State} {s : State} (x : Nat) (hk0 : Keeps wh wp z0 s) :
    Keeps wh wp z0 (startTraining s x) := by
  unfold startTraining
  repeat' with_reducible first | assumption | apply setTx_keeps | (fail_if_no_progress apply Keeps.upd) | split

theorem onHpdChange_keeps {wh wp : Bool} {z0 : State} (x : Nat) (sink : Option SinkCaps) {s : State} (hk0 : Keeps wh wp z0 s) :
    Keeps wh wp z0 (onHpdChange x sink s) := by
  unfold onHpdChange
  repeat' with_reducible first | assumption | apply stampTx_keeps | apply startTraining_keeps | apply linkEvent_keeps | apply setTx_keeps | apply loseLink_keeps | (fail_if_no_progress apply Keeps.upd) | split

theorem onIrqHpd_keeps {wh wp : Bool} {z0 : State} (x : Nat) (lost : Bool) {s : State} (hk0 : Keeps wh wp z0 s) :
    Keeps wh wp z0 (onIrqHpd x lost s) := by
  unfold onIrqHpd
  repeat' with_reducible first | assumption | apply stampTx_keeps | apply startTraining_keeps | apply linkEvent_keeps | apply loseLink_keeps | split

theorem onLinkTrainingDone_keeps {wh wp : Bool} {z0 : State} (x : Nat) (r : TrainResult) {s : State} (hk0 : Keeps wh wp z0 s) :
    Keeps wh wp z0 (onLinkTrainingDone x r s) := by
  unfold onLinkTrainingDone
  repeat' with_reducible first | assumption | apply stampTx_keeps | apply refreshIdle_keeps | apply linkEvent_keeps | apply setTx_keeps | (fail_if_no_progress apply Keeps.upd) | split

theorem txEffect_keeps {wh wp : Bool} {z0 : State} {s : State} (x : Nat) (old : Nat) (new : Nat) (hk0 : Keeps wh wp z0 s) :
    Keeps wh wp z0 (txEffect s x old new) := by
  unfold txEffect; try dsimp only
  repeat' with_reducible first | assumption | apply startTraining_keeps | apply setTx_keeps | apply loseLink_keeps | apply linkEvent_keeps | (fail_if_no_progress apply Keeps.upd) | split

theorem onDspScan_keeps {wh wp : Bool} {z0 : State} (rq : Req) {s : State} (hk0 : Keeps wh wp z0 s) :
    Keeps wh wp z0 (onDspScan rq s) := by
  unfold onDspScan
  repeat' with_reducible first | assumption | apply take_keeps | apply replyOk_keeps | intro _

theorem onDspAux_keeps {wh wp : Bool} {z0 : State} (rq : Req) (a : DspAuxArgs) {s : State} (hk0 : Keeps wh wp z0 s) :
    Keeps wh wp z0 (onDspAux rq a s) := by
  unfold onDspAux; try dsimp only
  repeat' with_reducible first | assumption | apply take_keeps | apply checked_keeps | apply accept_keeps | apply setTx_keeps | (fail_if_no_progress apply Keeps.upd) | intro _

theorem onAuxDone_keeps {wh wp : Bool} {z0 : State} (x : Nat) (r : LinkReply) {s : State} (hk0 : Keeps wh wp z0 s) :
    Keeps wh wp z0 (onAuxDone x r s) := by
  unfold onAuxDone; try dsimp only
  repeat' with_reducible first | assumption | apply setTx_keeps | apply complete_keeps | (fail_if_no_progress apply Keeps.upd) | split

theorem onDspDsiCmd_keeps {wh wp : Bool} {z0 : State} (rq : Req) (a : DsiCmdArgs) {s : State} (hk0 : Keeps wh wp z0 s) :
    Keeps wh wp z0 (onDspDsiCmd rq a s) := by
  unfold onDspDsiCmd; try dsimp only
  repeat' with_reducible first | assumption | apply take_keeps | apply checked_keeps | apply accept_keeps | apply setTx_keeps | (fail_if_no_progress apply Keeps.upd) | intro _

theorem onDsiCmdSend_keeps {wh wp : Bool} {z0 : State} (u : Nat) (r : LinkReply) {s : State} (hk0 : Keeps wh wp z0 s) :
    Keeps wh wp z0 (onDsiCmdSend u r s) := by
  unfold onDsiCmdSend; try dsimp only
  repeat' with_reducible first | assumption | apply out_keeps | apply complete_keeps | apply setTx_keeps | (fail_if_no_progress apply Keeps.upd) | split

theorem onDsiCmdTimeout_keeps {wh wp : Bool} {z0 : State} (u : Nat) {s : State} (hk0 : Keeps wh wp z0 s) :
    Keeps wh wp z0 (onDsiCmdTimeout u s) := by
  unfold onDsiCmdTimeout; try dsimp only
  repeat' with_reducible first | assumption | apply complete_keeps | apply setTx_keeps | (fail_if_no_progress apply Keeps.upd) | split

theorem onDspFallbackSet_keeps {wh wp : Bool} {z0 : State} (rq : Req) (a : FallbackArgs) {s : State} (hk0 : Keeps wh wp z0 s) :
    Keeps wh wp z0 (onDspFallbackSet rq a s) := by
  unfold onDspFallbackSet; try dsimp only
  repeat' with_reducible first | assumption | apply take_keeps | apply checked_keeps | apply accept_keeps | apply modPipe_keeps | (fail_if_no_progress apply Keeps.upd) | intro _

theorem onFallbackCopyDone_keeps {wh wp : Bool} {z0 : State} (p : Nat) {s : State} (hk0 : Keeps wh wp z0 s) :
    Keeps wh wp z0 (onFallbackCopyDone p s) := by
  unfold onFallbackCopyDone
  repeat' with_reducible first | assumption | apply complete_keeps | apply modPipe_keeps | apply countUncorr_keeps | (fail_if_no_progress apply Keeps.upd) | split | intro _

theorem enablePipe_keeps {wh wp : Bool} {z0 : State} {s : State} (p : Nat) (hk0 : Keeps wh wp z0 s) :
    Keeps wh wp z0 (enablePipe s p) := by
  unfold enablePipe; try dsimp only
  repeat' with_reducible first | assumption | apply setRegW_keeps | apply modPipe_keeps | apply refreshIdle_keeps | apply armNext_keeps | (fail_if_no_progress apply Keeps.upd) | split | intro _

theorem armBlank_keeps {wh wp : Bool} {z0 : State} {s : State} (p : Nat) (hk0 : Keeps wh wp z0 s) :
    Keeps wh wp z0 (armBlank s p) := by
  unfold armBlank; try dsimp only
  repeat' with_reducible first | assumption | apply armNext_keeps | apply modPipe_keeps | (fail_if_no_progress apply Keeps.upd) | split | intro _

theorem blankPipe_keeps {wh wp : Bool} {z0 : State} {s : State} (p : Nat) (hk0 : Keeps wh wp z0 s) :
    Keeps wh wp z0 (blankPipe s p) := by
  unfold blankPipe
  repeat' with_reducible first | assumption | apply armBlank_keeps | apply modPipe_keeps | (fail_if_no_progress apply Keeps.upd) | intro _

theorem stopPipe_keeps {wh wp : Bool} {z0 : State} {s : State} (p : Nat) (hk0 : Keeps wh wp z0 s) :
    Keeps wh wp z0 (stopPipe s p) := by
  unfold stopPipe; try dsimp only
  repeat' with_reducible first | assumption | apply modPipe_keeps | apply refreshIdle_keeps | (fail_if_no_progress apply Keeps.upd) | split | intro _

theorem resetPipe_keeps {wh wp : Bool} {z0 : State} {s : State} (p : Nat) (hk0 : Keeps wh wp z0 s) :
    Keeps wh wp z0 (resetPipe s p) := by
  unfold resetPipe; try dsimp only
  repeat' with_reducible first | assumption | apply out_keeps | apply modPipe_keeps | (fail_if_no_progress apply Keeps.upd) | intro _

theorem rebase_keeps {wp : Bool} {z0 : State} {s : State} (p : Nat) (d : Frac) (hk0 : Keeps true wp z0 s) :
    Keeps true wp z0 (rebase s p d) := by
  unfold rebase; try dsimp only
  repeat' with_reducible first | assumption | apply modPipe_keeps | (fail_if_no_progress apply Keeps.upd) | split | intro _

theorem applyPending_keeps {wp : Bool} {z0 : State} {s : State} (p : Nat) (hk0 : Keeps true wp z0 s) :
    Keeps true wp z0 (applyPending s p) := by
  unfold applyPending; try dsimp only
  repeat' with_reducible first | assumption | apply setRegW_keeps | apply modPipe_keeps | apply rebase_keeps | apply refreshIdle_keeps | (fail_if_no_progress apply Keeps.upd) | (refine Keeps.foldl _ ?_ (fun _ _ _ => ?_)) | split | intro _

theorem updateReady_keeps {wh wp : Bool} {z0 : State} {s : State} (p : Nat) (at_ : Frac) (hk0 : Keeps wh wp z0 s) :
    Keeps wh wp z0 (updateReady s p at_) := by
  unfold updateReady; try dsimp only
  repeat' with_reducible first | assumption | apply modPipe_keeps | (fail_if_no_progress apply Keeps.upd) | split | intro _

theorem applyEffect_keeps {wp : Bool} {z0 : State} {s : State} (p : Nat) (hk0 : Keeps true wp z0 s) :
    Keeps true wp z0 (applyEffect s p) := by
  unfold applyEffect; try dsimp only
  repeat' with_reducible first | assumption | apply modPipe_keeps | apply applyPending_keeps | apply wallReady_keeps | apply updateReady_keeps | (fail_if_no_progress apply Keeps.upd) | split | intro _

theorem showDecided_keeps {wp : Bool} {z0 : State} {s : State} (p : Nat) (f : Frac) (hk0 : Keeps true wp z0 s) :
    Keeps true wp z0 (showDecided s p f) := by
  unfold showDecided; try dsimp only
  repeat' with_reducible first | assumption | apply modPipe_keeps | apply extrapolate_keeps | apply galliardFrame_keeps | apply holdFrame_keeps | (fail_if_no_progress apply Keeps.upd) | split | intro _

theorem passClaims_keeps {wh wp : Bool} {z0 : State} {s : State} (p : Nat) (fmax : Frac) (f : Frac) (hk0 : Keeps wh wp z0 s) :
    Keeps wh wp z0 (passClaims s p fmax f) := by
  unfold passClaims; try dsimp only
  repeat' with_reducible first | assumption | apply modPipe_keeps | (fail_if_no_progress apply Keeps.upd) | intro _

theorem updateFallback_keeps {wh wp : Bool} {z0 : State} {s : State} (p : Nat) (hk0 : Keeps wh wp z0 s) :
    Keeps wh wp z0 (updateFallback s p) := by
  unfold updateFallback; try dsimp only
  repeat' with_reducible first | assumption | apply modPipe_keeps | (fail_if_no_progress apply Keeps.upd) | split | intro _

theorem drainPipe_keeps {wh wp : Bool} {z0 : State} {s : State} (p : Nat) (hk0 : Keeps wh wp z0 s) :
    Keeps wh wp z0 (drainPipe s p) := by
  unfold drainPipe; try dsimp only
  repeat' with_reducible first | assumption | refine endFunc_eq_keeps ?_ ‹_› | apply endFunc_keeps | apply blankPipe_keeps | apply modPipe_keeps | (fail_if_no_progress apply Keeps.upd) | split | intro _

theorem frameErrors_keeps {wh wp : Bool} {z0 : State} {s : State} (p : Nat) (hk0 : Keeps wh wp z0 s) :
    Keeps wh wp z0 (frameErrors s p) := by
  unfold frameErrors; try dsimp only
  repeat' with_reducible first | assumption | apply dspErr_keeps | split

theorem edgeDecision_keeps {wp : Bool} {z0 : State} {s : State} (p : Nat) (hk0 : Keeps true wp z0 s) :
    Keeps true wp z0 (edgeDecision s p) := by
  unfold edgeDecision; try dsimp only
  repeat' with_reducible first | assumption | apply decideFrame_keeps | split

theorem wallLine_keeps {wh wp : Bool} {z0 : State} {s : State} (p : Nat) (f : Frac) (hk0 : Keeps wh wp z0 s) :
    Keeps wh wp z0 (wallLine s p f) := by
  unfold wallLine; try dsimp only
  repeat' with_reducible first | assumption | apply modPipe_keeps | (fail_if_no_progress apply Keeps.upd) | split | intro _

theorem sendPps_keeps {wh wp : Bool} {z0 : State} {s : State} (p : Nat) (hk0 : Keeps wh wp z0 s) :
    Keeps wh wp z0 (sendPps s p) := by
  unfold sendPps
  repeat' with_reducible first | assumption | apply draw_keeps | apply out_keeps | split

theorem sendLine_keeps {wh wp : Bool} {z0 : State} {s : State} (p : Nat) (n : Nat) (pixels : List Nat) (hk0 : Keeps wh wp z0 s) :
    Keeps wh wp z0 (sendLine s p n pixels) := by
  unfold sendLine
  repeat' with_reducible first | assumption | apply draw_keeps | apply out_keeps | split

theorem startFrame_keeps {wp : Bool} {z0 : State} {s : State} (p : Nat) (f : Frac) (hk0 : Keeps true wp z0 s) :
    Keeps true wp z0 (startFrame s p f) := by
  unfold startFrame; try dsimp only
  repeat' with_reducible first | assumption | apply decideFrame_keeps | apply frameErrors_keeps | apply applyPending_keeps | apply showDecided_keeps | apply passClaims_keeps | apply drainPipe_keeps | apply exchangeBanks_keeps | apply modPipe_keeps | apply armNext_keeps | apply wallLine_keeps | apply setRegW_keeps | apply edgeDecision_keeps | apply wallReady_keeps | apply updateReady_keeps | apply wallFrame_keeps | apply updateFallback_keeps | apply sendPps_keeps | apply trace_keeps | apply refresh_keeps | (fail_if_no_progress apply Keeps.upd) | split | intro _

theorem onFrameStart_keeps {wp : Bool} {z0 : State} (p : Nat) {s : State} (hk0 : Keeps true wp z0 s) :
    Keeps true wp z0 (onFrameStart p s) := by
  unfold onFrameStart
  repeat' with_reducible first | assumption | apply startFrame_keeps | split

theorem lateClaim_keeps {wh wp : Bool} {z0 : State} {s : State} (p : Nat) (st : Step) (now : Frac) (hk0 : Keeps wh wp z0 s) :
    Keeps wh wp z0 (lateClaim s p st now) := by
  unfold lateClaim; try dsimp only
  repeat' with_reducible first | assumption | apply modPipe_keeps | (fail_if_no_progress apply Keeps.upd) | split | intro _

theorem presentCommit_keeps {wh wp : Bool} {z0 : State} {s : State} (id : Nat) (l : Loop) (st : Step) (hk0 : Keeps wh wp z0 s) :
    Keeps wh wp z0 (presentCommit s id l st) := by
  unfold presentCommit; try dsimp only
  repeat' with_reducible first | assumption | apply modPipe_keeps | apply lateClaim_keeps | apply updateReady_keeps | (fail_if_no_progress apply Keeps.upd) | (refine Keeps.foldl _ ?_ (fun _ _ _ => ?_)) | split | intro _

theorem onTeEdge_keeps {wp : Bool} {z0 : State} (u : Nat) (rising : Bool) {s : State} (hk0 : Keeps true wp z0 s) :
    Keeps true wp z0 (onTeEdge u rising s) := by
  unfold onTeEdge; try dsimp only
  repeat' with_reducible first | assumption | apply modPipe_keeps | apply take_keeps | apply linkEvent_keeps | apply setTx_keeps | apply decideFrame_keeps | (fail_if_no_progress apply Keeps.upd) | split | intro _

theorem onTeTimeout_keeps {wh wp : Bool} {z0 : State} (p : Nat) {s : State} (hk0 : Keeps wh wp z0 s) :
    Keeps wh wp z0 (onTeTimeout p s) := by
  unfold onTeTimeout; try dsimp only
  repeat' with_reducible first | assumption | apply modPipe_keeps | apply dspErr_keeps | apply linkEvent_keeps | apply setTx_keeps | (fail_if_no_progress apply Keeps.upd) | split | intro _

theorem onLineStart_keeps {wh wp : Bool} {z0 : State} (p : Nat) (fetch : List LineFetch) {s : State} (hk0 : Keeps wh wp z0 s) :
    Keeps wh wp z0 (onLineStart p fetch s) := by
  unfold onLineStart; try dsimp only
  repeat' with_reducible first | assumption | apply incReg_keeps | apply dspErr_keeps | apply countUncorr_keeps | apply galErr_keeps | apply modPipe_keeps | apply sendLine_keeps | (fail_if_no_progress apply Keeps.upd) | (refine Keeps.foldl _ ?_ (fun _ _ _ => ?_)) | split | intro _

theorem onMemSleepEnter_keeps {wp : Bool} {z0 : State} {s : State} (hk0 : Keeps true wp z0 s) :
    Keeps true wp z0 (onMemSleepEnter s) := by
  unfold onMemSleepEnter
  repeat' with_reducible first | assumption | apply incReg_keeps | (fail_if_no_progress apply Keeps.upd) | split

theorem onMemSleepExit_keeps {wh wp : Bool} {z0 : State} {s : State} (hk0 : Keeps wh wp z0 s) :
    Keeps wh wp z0 (onMemSleepExit s) := by
  unfold onMemSleepExit
  repeat' with_reducible first | assumption | (fail_if_no_progress apply Keeps.upd)

theorem fetchProgram_keeps {wh : Bool} {z0 : State} {s : State} (r : CmdRef) (hk0 : Keeps wh true z0 s) :
    Keeps wh true z0 (fetchProgram s r) := by
  unfold fetchProgram
  repeat' with_reducible first | assumption | apply stopRun_keeps | split

theorem firstDispatch_keeps {wh : Bool} {z0 : State} {s : State} (q : Placed) (hk0 : Keeps wh true z0 s) :
    Keeps wh true z0 (firstDispatch s q) := by
  unfold firstDispatch
  repeat' with_reducible first | assumption | apply checked_keeps | apply failStep_keeps | apply padViolation_keeps | apply badParam_keeps | apply modCmd_keeps | (fail_if_no_progress apply Keeps.upd) | split | intro _

theorem noteLcWait_keeps {wh wp : Bool} {z0 : State} {s : State} (q : Placed) (extra : Nat) (hk0 : Keeps wh wp z0 s) :
    Keeps wh wp z0 (noteLcWait s q extra) := by
  unfold noteLcWait; try dsimp only
  repeat' with_reducible first | assumption | (fail_if_no_progress apply Keeps.upd) | split

theorem dropResident_keeps {wh wp : Bool} {z0 : State} {s : State} (c : Nat) (rs : List Region) (hk0 : Keeps wh wp z0 s) :
    Keeps wh wp z0 (dropResident s c rs) := by
  unfold dropResident; try dsimp only
  repeat' with_reducible first | assumption | apply setCore_keeps | (fail_if_no_progress apply Keeps.upd) | intro _

theorem clearFlags_keeps {wh : Bool} {z0 : State} {s : State} (c : Nat) (addr : Nat) (n : Nat) (pitch : Nat) (hk0 : Keeps wh true z0 s) :
    Keeps wh true z0 (clearFlags s c addr n pitch) := by
  unfold clearFlags
  repeat' with_reducible first | assumption | apply padWrite_keeps | (refine Keeps.foldl _ ?_ (fun _ _ _ => ?_)) | intro _

theorem beginRun_keeps {wh : Bool} {z0 : State} {s : State} (q : Placed) (hk0 : Keeps wh true z0 s) :
    Keeps wh true z0 (beginRun s q) := by
  unfold beginRun; try dsimp only
  repeat' with_reducible first | assumption | apply veBegin_keeps | apply clearFlags_keeps | apply modInst_keeps | (fail_if_no_progress apply Keeps.upd) | split | intro _

theorem firstStart_keeps {wp : Bool} {z0 : State} {s : State} (q : Placed) (hk0 : Keeps true wp z0 s) :
    Keeps true wp z0 (firstStart s q) := by
  unfold firstStart
  repeat' with_reducible first | assumption | apply modHead_keeps | apply writeInfo_keeps | (fail_if_no_progress apply Keeps.upd) | split | intro _

theorem startInst_keeps {wp : Bool} {z0 : State} {s : State} (r : CmdRef) (f : Inst → Inst) (extra : Nat) (hk0 : Keeps true wp z0 s) :
    Keeps true wp z0 (startInst s r f extra) := by
  unfold startInst; try dsimp only
  repeat' with_reducible first | assumption | apply noteLcWait_keeps | apply firstStart_keeps | apply modInst_keeps | apply dropResident_keeps | apply trace_keeps | (fail_if_no_progress apply Keeps.upd) | (refine Keeps.foldl _ ?_ (fun _ _ _ => ?_)) | split | intro _

theorem dispatch_keeps {wh : Bool} {z0 : State} {s : State} (rs : List CmdRef) (hk0 : Keeps wh true z0 s) :
    Keeps wh true z0 (dispatch s rs) := by
  unfold dispatch; try dsimp only
  repeat' with_reducible first | assumption | apply fetchProgram_keeps | apply beginRun_keeps | apply firstDispatch_keeps | (refine Keeps.foldl _ ?_ (fun _ _ _ => ?_)) | split | intro _

theorem startAll_keeps {z0 : State} {s : State} (rs : List CmdRef) (w : Way) (e : Nat) (u : Urgent) (hk0 : Keeps true true z0 s) :
    Keeps true true z0 (startAll s rs w e u) := by
  unfold startAll; try dsimp only
  repeat' with_reducible first | assumption | apply killInsts_keeps | apply dispatch_keeps | apply startInst_keeps | (fail_if_no_progress apply Keeps.upd) | (refine Keeps.foldl _ ?_ (fun _ _ _ => ?_)) | split | intro _

theorem placeOne_keeps {z0 t : State} {s : State} {q : Placed} {o : Option Nat} {f : Nat → Bool} {u : Urgent} (hk0 : Keeps true true z0 s) (h : placeOne s q o f u = some t) :
    Keeps true true z0 t := by
  unfold placeOne at h
  simp only [Option.map_eq_some_iff] at h
  obtain ⟨x, -, rfl⟩ := h
  exact startAll_keeps _ _ _ _ hk0

theorem placeChain_keeps {z0 t : State} {s : State} {qs : List Placed} {u : Urgent} (hk0 : Keeps true true z0 s) (h : placeChain s qs u = some t) :
    Keeps true true z0 t := by
  unfold placeChain at h
  split at h
  · cases h
  · simp only [Option.map_eq_some_iff] at h
    obtain ⟨x, -, rfl⟩ := h
    exact startAll_keeps _ _ _ _ hk0

theorem placeEach_keeps {wh wp : Bool} {z0 s t : State} {f : State → Placed → Option State} {l : List Placed} {b : Bool}
    (hf : ∀ s q t, Keeps wh wp z0 s → f s q = some t → Keeps wh wp z0 t) (hk0 : Keeps wh wp z0 s) (h : placeEach f l s b = some t) :
    Keeps wh wp z0 t := by
  induction l generalizing s b with
  | nil =>
    simp only [placeEach] at h
    split at h
    · cases h; exact hk0
    · cases h
  | cons q r ih =>
    simp only [placeEach] at h
    split at h
    · split at h
      · split at h
        · exact ih (hf _ _ _ hk0 ‹_›) h
        · exact ih hk0 h
      · exact ih hk0 h
    · exact ih hk0 h

theorem afterKills_keeps {wh : Bool} {z0 : State} {s : State} (ks : List CmdRef) (hk0 : Keeps wh true z0 s) :
    Keeps wh true z0 (afterKills s ks) := by
  unfold afterKills
  repeat' with_reducible first | assumption | apply killInsts_keeps | split

/-- An alternative answers what one of its sides answers. -/
theorem orElse_some {α : Type} {a b : Option α} {x : α} (h : (a <|> b) = some x) : a = some x ∨ b = some x := by
  cases a
  · exact .inr h
  · exact .inl h

theorem rasterStop_keeps {z0 t s : State} {q : Placed} (hk0 : Keeps true true z0 s) (h : rasterStop s q = some t) :
    Keeps true true z0 t := by
  unfold rasterStop at h
  rcases orElse_some h with h | h
  on_goal 2 => rcases orElse_some h with h | h
  on_goal 3 => rcases orElse_some h with h | h
  all_goals
    obtain ⟨_, _, rfl⟩ := Option.map_eq_some_iff.1 h
    try dsimp only
    repeat' with_reducible first | assumption | apply stopRun_keeps | apply countKill_keeps | apply eccHbm_keeps | apply failStep_keeps | split

theorem placeRaster_keeps {z0 t : State} {s : State} {q : Placed} {u : Urgent} (hk0 : Keeps true true z0 s) (h : placeRaster s q u = some t) :
    Keeps true true z0 t := by
  unfold placeRaster at h
  split at h
  · obtain rfl := Option.some.inj h
    exact rasterStop_keeps hk0 ‹_›
  · dsimp only at h
    repeat' split at h
    all_goals first
      | (exfalso; simp only [reduceCtorEq] at h; done)
      | (obtain rfl := Option.some.inj h
         repeat' with_reducible first | assumption | apply modCmd_keeps | apply startInst_keeps | apply afterKills_keeps)

theorem placeVision_keeps {z0 t : State} {s : State} {q : Placed} {u : Urgent} (hk0 : Keeps true true z0 s) (h : placeVision s q u = some t) :
    Keeps true true z0 t := by
  unfold placeVision at h
  dsimp only at h
  repeat' split at h
  all_goals first
    | (exfalso; simp only [reduceCtorEq] at h; done)
    | (obtain rfl := Option.some.inj h
       repeat' with_reducible first | assumption | apply dispatch_keeps | apply startInst_keeps | apply killInsts_keeps | (fail_if_no_progress apply Keeps.upd) | (refine Keeps.foldl _ ?_ (fun _ _ _ => ?_)) | split | intro _)

theorem placeAgain_keeps {z0 t : State} {s : State} {q : Placed} {u : Urgent} (hk0 : Keeps true true z0 s) (h : placeAgain s q u = some t) :
    Keeps true true z0 t := by
  unfold placeAgain at h
  repeat' split at h
  all_goals first
    | (exfalso; simp only [reduceCtorEq] at h; done)
    | exact placeOne_keeps hk0 h

theorem placeConsumer_keeps {z0 t : State} {s : State} {pk : Nat} {q : Placed} {u : Urgent} (hk0 : Keeps true true z0 s) (h : placeConsumer s pk q u = some t) :
    Keeps true true z0 t := by
  unfold placeConsumer at h
  repeat' split at h
  all_goals first
    | (exfalso; simp only [reduceCtorEq] at h; done)
    | exact placeOne_keeps hk0 h

theorem placeCmd_keeps {z0 t : State} {s : State} {id k : Nat} {u : Urgent} (hk0 : Keeps true true z0 s) (h : placeCmd s id k u = some t) :
    Keeps true true z0 t := by
  unfold placeCmd at h
  dsimp only at h
  repeat' split at h
  all_goals first
    | (exfalso; simp only [reduceCtorEq] at h; done)
    | exact placeRaster_keeps hk0 h
    | exact placeVision_keeps hk0 h
    | exact placeChain_keeps hk0 h
    | exact placeEach_keeps (fun s q t h1 h2 => placeConsumer_keeps h1 h2) hk0 h
    | exact placeEach_keeps (fun s q t h1 h2 => placeAgain_keeps h1 h2) hk0 h

theorem placeCmdD_keeps {z0 s : State} (id k : Nat) (u : Urgent) (hk0 : Keeps true true z0 s) :
    Keeps true true z0 ((placeCmd s id k u).getD s) := by
  cases h : placeCmd s id k u with
  | none => exact hk0
  | some t => exact placeCmd_keeps hk0 h

theorem lcPass_keeps {z0 : State} {s : State} (u : Urgent) (hk0 : Keeps true true z0 s) :
    Keeps true true z0 (lcPass s u) := by
  unfold lcPass
  repeat' with_reducible first | assumption | apply placeCmdD_keeps | (refine Keeps.foldl _ ?_ (fun _ _ _ => ?_)) | intro _

theorem loadWaiting_keeps {wh wp : Bool} {z0 : State} (n : Nat) {s : State} (hk0 : Keeps wh wp z0 s) :
    Keeps wh wp z0 (loadWaiting n s) := by
  induction n generalizing s with
  | zero => exact hk0
  | succ n ih =>
    unfold loadWaiting
    repeat' with_reducible first | assumption | apply loadLoop_keeps | apply replaceLoop_keeps | apply ih | (fail_if_no_progress apply Keeps.upd) | (refine Keeps.foldl _ ?_ (fun _ _ _ => ?_)) | split | intro _

theorem urgentLoad_keeps {wh wp : Bool} {z0 : State} {s : State} (hk0 : Keeps wh wp z0 s) :
    Keeps wh wp z0 (urgentLoad s).1 := by
  unfold urgentLoad; try dsimp only
  repeat' with_reducible first | assumption | apply loadLoop_keeps | apply replaceLoop_keeps | (fail_if_no_progress apply Keeps.upd) | (refine Keeps.foldl _ ?_ (fun _ _ _ => ?_)) | split | intro _

theorem urgentLoad_eq_keeps {wh wp : Bool} {z0 s t : State}  {r : Option Nat}
    (hk0 : Keeps wh wp z0 s) (h : urgentLoad s = (t, r)) : Keeps wh wp z0 t := by
  have := urgentLoad_keeps  hk0
  rwa [h] at this

theorem evictPass_keeps {z0 : State} {s : State} (b : Nat) (loaded : List Nat) (hk0 : Keeps true true z0 s) :
    Keeps true true z0 (evictPass s b loaded) := by
  unfold evictPass; try dsimp only
  repeat' with_reducible first | assumption | apply lcPass_keeps | apply killInsts_keeps | (fail_if_no_progress apply Keeps.upd) | intro _

theorem onUrgentTick_keeps {z0 : State} {s : State} (hk0 : Keeps true true z0 s) :
    Keeps true true z0 (onUrgentTick s) := by
  unfold onUrgentTick; try dsimp only
  repeat' with_reducible first | assumption | refine urgentLoad_eq_keeps ?_ ‹_› | apply urgentLoad_keeps | apply refresh_keeps | apply lcPass_keeps | apply evictPass_keeps | (fail_if_no_progress apply Keeps.upd) | split

theorem admitCores_keeps {wh wp : Bool} {z0 : State} {s : State} (hk0 : Keeps wh wp z0 s) :
    Keeps wh wp z0 (admitCores s) := by
  unfold admitCores
  repeat' with_reducible first | assumption | apply setCoreState_keeps | (refine Keeps.foldl _ ?_ (fun _ _ _ => ?_)) | split | intro _

theorem enforceLimit_keeps {wh : Bool} {z0 : State} (t n : Nat) {s : State} (hk0 : Keeps wh true z0 s) :
    Keeps wh true z0 (enforceLimit t n s) := by
  induction n generalizing s with
  | zero => exact hk0
  | succ n ih =>
    unfold enforceLimit
    repeat' with_reducible first | assumption | apply leaveCore_keeps | apply ih | (fail_if_no_progress apply Keeps.upd) | (refine Keeps.foldl _ ?_ (fun _ _ _ => ?_)) | split | intro _

theorem applyLimits_keeps {wh : Bool} {z0 : State} {s : State} (hk0 : Keeps wh true z0 s) :
    Keeps wh true z0 (applyLimits s) := by
  unfold applyLimits; try dsimp only
  repeat' with_reducible first | assumption | apply enforceLimit_keeps | (fail_if_no_progress apply Keeps.upd) | (refine Keeps.foldl _ ?_ (fun _ _ _ => ?_)) | intro _

theorem moveBound_keeps {wh : Bool} {z0 : State} {s : State} (hk0 : Keeps wh true z0 s) :
    Keeps wh true z0 (moveBound s) := by
  unfold moveBound
  repeat' with_reducible first | assumption | apply rechain_keeps | (refine Keeps.foldl _ ?_ (fun _ _ _ => ?_)) | split | intro _

theorem placeLoop_keeps {z0 t : State} {s : State} {id : Nat} (hk0 : Keeps true true z0 s) (h : placeLoop s id = some t) :
    Keeps true true z0 t := by
  unfold placeLoop at h
  split at h
  · cases h
  · obtain ⟨k, -, h⟩ := List.exists_of_findSome?_eq_some h
    exact placeCmd_keeps hk0 h

theorem beTurn_keeps {z0 t : State} {s : State} (hk0 : Keeps true true z0 s) (h : beTurn s = some t) :
    Keeps true true z0 t := by
  unfold beTurn at h
  dsimp only at h
  obtain ⟨k, -, h1⟩ := List.exists_of_findSome?_eq_some h
  obtain ⟨j, -, h2⟩ := List.exists_of_findSome?_eq_some h1
  simp only [Option.map_eq_some_iff] at h2
  obtain ⟨u, h3, rfl⟩ := h2
  exact Keeps.upd (placeLoop_keeps hk0 h3) ..

theorem bePass_keeps {z0 : State} (n : Nat) {s : State} (hk0 : Keeps true true z0 s) : Keeps true true z0 (bePass n s) := by
  induction n generalizing s with
  | zero => exact hk0
  | succ n ih =>
    unfold bePass
    split
    · exact ih (beTurn_keeps hk0 ‹_›)
    · exact hk0

theorem onSchedulerTick_keeps {z0 : State} {s : State} (hk0 : Keeps true true z0 s) :
    Keeps true true z0 (onSchedulerTick s) := by
  unfold onSchedulerTick; try dsimp only
  repeat' with_reducible first | assumption | apply moveBound_keeps | apply applyLimits_keeps | apply admitCores_keeps | apply refresh_keeps | apply loadWaiting_keeps | apply lcPass_keeps | apply bePass_keeps | apply settleFuncs_keeps | (fail_if_no_progress apply Keeps.upd) | split

theorem setFinished_keeps {wh wp : Bool} {z0 : State} {s : State} (r : CmdRef) (f : Inst → Inst) (hk0 : Keeps wh wp z0 s) :
    Keeps wh wp z0 (setFinished s r f) := by
  unfold setFinished; try dsimp only
  repeat' with_reducible first | assumption | apply haltWaits_keeps | apply modInst_keeps | (fail_if_no_progress apply Keeps.upd) | split | intro _

theorem finishRun_keeps {z0 s : State} (q : Placed) {k : State → State} (hk0 : Keeps true true z0 s)
    (hk : ∀ t, Keeps true true z0 t → Keeps true true z0 (k t)) : Keeps true true z0 (finishRun s q k) := by
  unfold finishRun
  repeat' with_reducible first | assumption | apply runWork_keeps | apply draw_keeps | apply setFinished_keeps | apply hk | (fail_if_no_progress apply Keeps.upd) | (refine Keeps.foldl _ ?_ (fun _ _ _ => ?_)) | split | intro _

theorem countCommit_keeps {wh wp : Bool} {z0 : State} {s : State} (t : Nat) (is : List Inst) (hk0 : Keeps wh wp z0 s) :
    Keeps wh wp z0 (countCommit s t is) := by
  unfold countCommit; try dsimp only
  repeat' with_reducible first | assumption | apply modTen_keeps | (fail_if_no_progress apply Keeps.upd) | intro _

theorem recordResident_keeps {wh wp : Bool} {z0 : State} {s : State} (tag : Nat) (rs : List Region) (is : List Inst) (hk0 : Keeps wh wp z0 s) :
    Keeps wh wp z0 (recordResident s tag rs is) := by
  unfold recordResident
  repeat' with_reducible first | assumption | apply setCore_keeps | (fail_if_no_progress apply Keeps.upd) | (refine Keeps.foldl _ ?_ (fun _ _ _ => ?_)) | split | intro _

theorem countFinished_keeps {wh wp : Bool} {z0 : State} {s : State} (c : CmdRec) (is : List Inst) (hk0 : Keeps wh wp z0 s) :
    Keeps wh wp z0 (countFinished s c is) := by
  unfold countFinished; try dsimp only
  repeat' with_reducible first | assumption | apply setUnit_keeps | apply setCore_keeps | (fail_if_no_progress apply Keeps.upd) | (refine Keeps.foldl _ ?_ (fun _ _ _ => ?_)) | split | intro _

theorem commitCmd_keeps {wh wp : Bool} {z0 : State} {s : State} (id : Nat) (t : Nat) (k : Nat) (c : Cmd) (hk0 : Keeps wh wp z0 s) :
    Keeps wh wp z0 (commitCmd s id t k c) := by
  unfold commitCmd; try dsimp only
  repeat' with_reducible first | assumption | apply countFinished_keeps | apply recordResident_keeps | apply countCommit_keeps | apply modCmd_keeps | (fail_if_no_progress apply Keeps.upd) | intro _

theorem commitCmds_keeps {wh wp : Bool} {z0 : State} (id n : Nat) {s : State} (hk0 : Keeps wh wp z0 s) :
    Keeps wh wp z0 (commitCmds id n s) := by
  induction n generalizing s with
  | zero => exact hk0
  | succ n ih =>
    unfold commitCmds
    repeat' with_reducible first | assumption | apply commitCmd_keeps | apply ih | (fail_if_no_progress apply Keeps.upd) | (refine Keeps.foldl _ ?_ (fun _ _ _ => ?_)) | split | intro _

theorem commitStep_keeps {wp : Bool} {z0 : State} {s : State} (id : Nat) (hk0 : Keeps true wp z0 s) :
    Keeps true wp z0 (commitStep s id) := by
  unfold commitStep; try dsimp only
  repeat' with_reducible first | assumption | apply presentCommit_keeps | apply fgCommit_keeps | apply commitSeqs_keeps | apply formStep_keeps | apply popStep_keeps | split

theorem onCommandCommit_keeps {z0 : State} (ref : CmdRef) {s : State} (hk0 : Keeps true true z0 s) :
    Keeps true true z0 (onCommandCommit ref s) := by
  unfold onCommandCommit; try dsimp only
  repeat' with_reducible first | assumption | apply pumpRun_keeps | apply finishRun_keeps | apply wallReady_keeps | apply settleFuncs_keeps | apply refresh_keeps | apply commitStep_keeps | apply commitCmds_keeps | split | intro _

theorem onZeroFillDone_keeps {wp : Bool} {z0 : State} (id : Nat) {s : State} (hk0 : Keeps true wp z0 s) :
    Keeps true wp z0 (onZeroFillDone id s) := by
  unfold onZeroFillDone; try dsimp only
  repeat' with_reducible first | assumption | apply fgFail_keeps | apply zeroStep_keeps | apply failSeqs_keeps | apply formStep_keeps | apply popStep_keeps | apply settleFuncs_keeps | apply refresh_keeps | split | intro _

end Sys2Proof.Machine
end

