-- ==== Sys2Proof/Laws/KeepStream.lean ====
section
/-! SUPPORT. Laws/KeepStream.lean: sensors, decode streams and sessions keep the queue, the canonical form of memory and, where they store nothing,
memory itself. -/

namespace Sys2Proof.Machine

open Sys2Proof

theorem modCtx_keeps {wh wp : Bool} {z0 : State} {s : State} (c : Nat) (f : Context → Context) (hk0 : Keeps wh wp z0 s) :
    Keeps wh wp z0 (modCtx s c f) := by
  unfold modCtx
  repeat' with_reducible first | assumption | apply setCtx_keeps

theorem addHoles_keeps {wh wp : Bool} {z0 : State} {s : State} (c : Nat) (n : Nat) (why : Nat) (hk0 : Keeps wh wp z0 s) :
    Keeps wh wp z0 (addHoles s c n why) := by
  unfold addHoles
  repeat' with_reducible first | assumption | apply modCtx_keeps | (fail_if_no_progress apply Keeps.upd) | split | intro _

theorem loseOne_keeps {wh wp : Bool} {z0 : State} {s : State} (c : Nat) (why : Nat) (hk0 : Keeps wh wp z0 s) :
    Keeps wh wp z0 (loseOne s c why) := by
  unfold loseOne
  repeat' with_reducible first | assumption | apply modCtx_keeps | apply addHoles_keeps | (fail_if_no_progress apply Keeps.upd) | split | intro _

theorem settleCtx_keeps {wh wp : Bool} {z0 : State} {s : State} (c : Nat) (hk0 : Keeps wh wp z0 s) :
    Keeps wh wp z0 (settleCtx s c) := by
  unfold settleCtx; try dsimp only
  repeat' with_reducible first | assumption | refine endFunc_eq_keeps ?_ ‹_› | apply endFunc_keeps | apply modCtx_keeps | (fail_if_no_progress apply Keeps.upd) | split | intro _

theorem loseCurrent_keeps {wh wp : Bool} {z0 : State} {s : State} (c : Nat) (why : Nat) (hk0 : Keeps wh wp z0 s) :
    Keeps wh wp z0 (loseCurrent s c why) := by
  unfold loseCurrent; try dsimp only
  repeat' with_reducible first | assumption | apply settleCtx_keeps | apply modCtx_keeps | apply loseOne_keeps | (fail_if_no_progress apply Keeps.upd) | split | intro _

theorem openRecord_keeps {wh wp : Bool} {z0 : State} {s : State} (c : Nat) (frame : Nat) (hk0 : Keeps wh wp z0 s) :
    Keeps wh wp z0 (openRecord s c frame) := by
  unfold openRecord; try dsimp only
  repeat' with_reducible first | assumption | apply modCtx_keeps | apply loseCurrent_keeps | (fail_if_no_progress apply Keeps.upd) | split | intro _

theorem writeRecord_keeps {wp : Bool} {z0 : State} {s : State} (c : Nat) (hk0 : Keeps true wp z0 s) :
    Keeps true wp z0 (writeRecord s c) := by
  unfold writeRecord; try dsimp only
  repeat' with_reducible first | assumption | apply settleCtx_keeps | apply modCtx_keeps | apply storeBytes_keeps | (fail_if_no_progress apply Keeps.upd) | split | intro _

theorem sourceEvent_keeps {wh wp : Bool} {z0 : State} {s : State} (ctxs : List Nat) (payload : List Byte) (hk0 : Keeps wh wp z0 s) :
    Keeps wh wp z0 (sourceEvent s ctxs payload) := by
  unfold sourceEvent
  repeat' with_reducible first | assumption | apply event_keeps | (refine Keeps.foldl _ ?_ (fun _ _ _ => ?_)) | intro _

theorem linkChange_keeps {wh wp : Bool} {z0 : State} {s : State} (r : Nat) (up : Bool) (hk0 : Keeps wh wp z0 s) :
    Keeps wh wp z0 (linkChange s r up) := by
  unfold linkChange
  repeat' with_reducible first | assumption | apply sourceEvent_keeps | split

theorem portEvent_keeps {wh wp : Bool} {z0 : State} {s : State} (p : Nat) (change : Nat) (hk0 : Keeps wh wp z0 s) :
    Keeps wh wp z0 (portEvent s p change) := by
  unfold portEvent
  repeat' with_reducible first | assumption | apply sourceEvent_keeps

theorem modRx_keeps {wh wp : Bool} {z0 : State} {s : State} (r : Nat) (f : Receiver → Receiver) (hk0 : Keeps wh wp z0 s) :
    Keeps wh wp z0 (modRx s r f) := by
  unfold modRx
  repeat' with_reducible first | assumption | apply setRx_keeps

theorem countRx_keeps {wh wp : Bool} {z0 : State} {s : State} (r : Nat) (lo : Nat) (hk0 : Keeps wh wp z0 s) :
    Keeps wh wp z0 (countRx s r lo) := by
  unfold countRx
  repeat' with_reducible first | assumption | apply modRx_keeps | (fail_if_no_progress apply Keeps.upd) | intro _

theorem packet_keeps {wh wp : Bool} {z0 s : State} (r : Nat) (h : CsiHeader) {k : State → Bool → State} (hk0 : Keeps wh wp z0 s)
    (hk : ∀ t b, Keeps wh wp z0 t → Keeps wh wp z0 (k t b)) : Keeps wh wp z0 (packet s r h k) := by
  unfold packet
  try dsimp only
  repeat' with_reducible first | assumption | apply modRx_keeps | apply countRx_keeps | apply hk | (fail_if_no_progress apply Keeps.upd) | (refine Keeps.foldl _ ?_ (fun _ _ _ => ?_)) | split | intro _

theorem setFrame_keeps {wh wp : Bool} {z0 : State} {s : State} (r : Nat) (vc : Nat) (f : Option CsiFrame) (hk0 : Keeps wh wp z0 s) :
    Keeps wh wp z0 (setFrame s r vc f) := by
  unfold setFrame
  repeat' with_reducible first | assumption | apply modRx_keeps | (fail_if_no_progress apply Keeps.upd) | split | intro _

theorem onFrameStartCsi_keeps {wh wp : Bool} {z0 : State} (r : Nat) (vc : Nat) (number : Nat) (h : CsiHeader) {s : State} (hk0 : Keeps wh wp z0 s) :
    Keeps wh wp z0 (onFrameStartCsi r vc number h s) := by
  unfold onFrameStartCsi; try dsimp only
  repeat' with_reducible first | assumption | apply packet_keeps | apply loseCurrent_keeps | apply setFrame_keeps | apply openRecord_keeps | (fail_if_no_progress apply Keeps.upd) | (refine Keeps.foldl _ ?_ (fun _ _ _ => ?_)) | intro _

theorem spoilFrame_keeps {wh wp : Bool} {z0 : State} {s : State} (r : Nat) (vc : Nat) (f : CsiFrame) (hk0 : Keeps wh wp z0 s) :
    Keeps wh wp z0 (spoilFrame s r vc f) := by
  unfold spoilFrame
  repeat' with_reducible first | assumption | apply loseCurrent_keeps | apply setFrame_keeps | (fail_if_no_progress apply Keeps.upd) | (refine Keeps.foldl _ ?_ (fun _ _ _ => ?_)) | intro _

theorem addRow_keeps {wh wp : Bool} {z0 : State} {s : State} (c : Nat) (dt : Nat) (wc : Nat) (row : List Byte) (hk0 : Keeps wh wp z0 s) :
    Keeps wh wp z0 (addRow s c dt wc row) := by
  unfold addRow; try dsimp only
  repeat' with_reducible first | assumption | apply loseCurrent_keeps | apply modCtx_keeps | (fail_if_no_progress apply Keeps.upd) | split | intro _

theorem markFixed_keeps {wh wp : Bool} {z0 : State} {s : State} (r : Nat) (vc : Nat) (fixed : Bool) (hk0 : Keeps wh wp z0 s) :
    Keeps wh wp z0 (markFixed s r vc fixed) := by
  unfold markFixed
  repeat' with_reducible first | assumption | apply setFrame_keeps | (fail_if_no_progress apply Keeps.upd) | split

theorem touchSource_keeps {wh wp : Bool} {z0 : State} {s : State} (r : Nat) (vc : Nat) (dt : Nat) (start : Nat) (hk0 : Keeps wh wp z0 s) :
    Keeps wh wp z0 (touchSource s r vc dt start) := by
  unfold touchSource
  repeat' with_reducible first | assumption | apply modRx_keeps | (fail_if_no_progress apply Keeps.upd) | split | intro _

theorem onCsiLong_keeps {wh wp : Bool} {z0 : State} (r : Nat) (vc : Nat) (dt : Nat) (h : CsiHeader) (wc : Nat) (crcOk : Bool) (data : List Byte) {s : State} (hk0 : Keeps wh wp z0 s) :
    Keeps wh wp z0 (onCsiLong r vc dt h wc crcOk data s) := by
  unfold onCsiLong; try dsimp only
  repeat' with_reducible first | assumption | apply packet_keeps | apply markFixed_keeps | apply countRx_keeps | apply touchSource_keeps | apply spoilFrame_keeps | apply setFrame_keeps | apply addRow_keeps | (fail_if_no_progress apply Keeps.upd) | (refine Keeps.foldl _ ?_ (fun _ _ _ => ?_)) | split | intro _

theorem noteSource_keeps {wh wp : Bool} {z0 : State} {s : State} (r : Nat) (vc : Nat) (f : CsiFrame) (x : Nat × Nat × Nat) (hk0 : Keeps wh wp z0 s) :
    Keeps wh wp z0 (noteSource s r vc f x) := by
  unfold noteSource; try dsimp only
  repeat' with_reducible first | assumption | apply modCtx_keeps | apply sourceEvent_keeps | apply modRx_keeps | apply countRx_keeps | (fail_if_no_progress apply Keeps.upd) | (refine Keeps.foldl _ ?_ (fun _ _ _ => ?_)) | split | intro _

theorem onFrameEndCsi_keeps {wp : Bool} {z0 : State} (r : Nat) (vc : Nat) (h : CsiHeader) {s : State} (hk0 : Keeps true wp z0 s) :
    Keeps true wp z0 (onFrameEndCsi r vc h s) := by
  unfold onFrameEndCsi; try dsimp only
  repeat' with_reducible first | assumption | apply packet_keeps | apply setFrame_keeps | apply noteSource_keeps | apply writeRecord_keeps | apply modCtx_keeps | (fail_if_no_progress apply Keeps.upd) | (refine Keeps.foldl _ ?_ (fun _ _ _ => ?_)) | split | intro _

theorem onCsiIgnored_keeps {wh wp : Bool} {z0 : State} (r : Nat) (vcExt : Nat) (dt : Nat) (h : CsiHeader) {s : State} (hk0 : Keeps wh wp z0 s) :
    Keeps wh wp z0 (onCsiIgnored r vcExt dt h s) := by
  unfold onCsiIgnored; try dsimp only
  repeat' with_reducible first | assumption | apply packet_keeps | apply markFixed_keeps | apply countRx_keeps | split | intro _

theorem onFrameTimeout_keeps {wh wp : Bool} {z0 : State} (c : Nat) {s : State} (hk0 : Keeps wh wp z0 s) :
    Keeps wh wp z0 (onFrameTimeout c s) := by
  unfold onFrameTimeout
  repeat' with_reducible first | assumption | apply loseCurrent_keeps | split

theorem onSourceLost_keeps {wh wp : Bool} {z0 : State} (r : Nat) (vc : Nat) (dt : Nat) {s : State} (hk0 : Keeps wh wp z0 s) :
    Keeps wh wp z0 (onSourceLost r vc dt s) := by
  unfold onSourceLost; try dsimp only
  repeat' with_reducible first | assumption | apply modRx_keeps | apply sourceEvent_keeps | (fail_if_no_progress apply Keeps.upd) | split | intro _

theorem onCsiLink_keeps {wh wp : Bool} {z0 : State} (r : Nat) (link : Bool) (mbps : Nat) {s : State} (hk0 : Keeps wh wp z0 s) :
    Keeps wh wp z0 (onCsiLink r link mbps s) := by
  unfold onCsiLink
  repeat' with_reducible first | assumption | apply linkChange_keeps | apply modRx_keeps | (fail_if_no_progress apply Keeps.upd) | split | intro _

theorem onNoPackets_keeps {wh wp : Bool} {z0 : State} (r : Nat) {s : State} (hk0 : Keeps wh wp z0 s) :
    Keeps wh wp z0 (onNoPackets r s) := by
  unfold onNoPackets; try dsimp only
  repeat' with_reducible first | assumption | apply modRx_keeps | (fail_if_no_progress apply Keeps.upd) | split | intro _

theorem csiEffect_keeps {wh wp : Bool} {z0 : State} {s : State} (r : Nat) (old : Nat) (new : Nat) (hk0 : Keeps wh wp z0 s) :
    Keeps wh wp z0 (csiEffect s r old new) := by
  unfold csiEffect; try dsimp only
  repeat' with_reducible first | assumption | apply modRx_keeps | apply linkChange_keeps | (fail_if_no_progress apply Keeps.upd) | split | intro _

theorem modTdm_keeps {wh wp : Bool} {z0 : State} {s : State} (p : Nat) (f : TdmPort → TdmPort) (hk0 : Keeps wh wp z0 s) :
    Keeps wh wp z0 (modTdm s p f) := by
  unfold modTdm
  repeat' with_reducible first | assumption | apply setTdm_keeps

theorem unlockPort_keeps {wh wp : Bool} {z0 : State} {s : State} (p : Nat) (hk0 : Keeps wh wp z0 s) :
    Keeps wh wp z0 (unlockPort s p) := by
  unfold unlockPort; try dsimp only
  repeat' with_reducible first | assumption | apply modCtx_keeps | apply loseCurrent_keeps | apply settleCtx_keeps | apply portEvent_keeps | apply modTdm_keeps | (fail_if_no_progress apply Keeps.upd) | (refine Keeps.foldl _ ?_ (fun _ _ _ => ?_)) | intro _

theorem addSamples_keeps {wp : Bool} {z0 : State} {s : State} (p : Nat) (samples : List Word) (c : Nat) (hk0 : Keeps true wp z0 s) :
    Keeps true wp z0 (addSamples s p samples c) := by
  unfold addSamples; try dsimp only
  repeat' with_reducible first | assumption | apply openRecord_keeps | apply modCtx_keeps | apply loseCurrent_keeps | apply writeRecord_keeps | (fail_if_no_progress apply Keeps.upd) | split | intro _

theorem onTdmFrame_keeps {wp : Bool} {z0 : State} (p : Nat) (clocks : Nat) (samples : List Word) (hz : Nat) {s : State} (hk0 : Keeps true wp z0 s) :
    Keeps true wp z0 (onTdmFrame p clocks samples hz s) := by
  unfold onTdmFrame; try dsimp only
  repeat' with_reducible first | assumption | apply modTdm_keeps | apply addSamples_keeps | apply unlockPort_keeps | apply portEvent_keeps | (fail_if_no_progress apply Keeps.upd) | (refine Keeps.foldl _ ?_ (fun _ _ _ => ?_)) | split | intro _

theorem onTdmSync_keeps {wh wp : Bool} {z0 : State} (p : Nat) {s : State} (hk0 : Keeps wh wp z0 s) :
    Keeps wh wp z0 (onTdmSync p s) := by
  unfold onTdmSync
  repeat' with_reducible first | assumption | apply unlockPort_keeps | split

theorem onBitClockLoss_keeps {wh wp : Bool} {z0 : State} (p : Nat) {s : State} (hk0 : Keeps wh wp z0 s) :
    Keeps wh wp z0 (onBitClockLoss p s) := by
  unfold onBitClockLoss; try dsimp only
  repeat' with_reducible first | assumption | apply unlockPort_keeps | apply portEvent_keeps | apply modTdm_keeps | (fail_if_no_progress apply Keeps.upd) | split | intro _

theorem onBitClockDetected_keeps {wh wp : Bool} {z0 : State} (p : Nat) {s : State} (hk0 : Keeps wh wp z0 s) :
    Keeps wh wp z0 (onBitClockDetected p s) := by
  unfold onBitClockDetected
  repeat' with_reducible first | assumption | apply portEvent_keeps | apply modTdm_keeps | (fail_if_no_progress apply Keeps.upd) | split | intro _

theorem tdmEffect_keeps {wh wp : Bool} {z0 : State} {s : State} (p : Nat) (old : Nat) (new : Nat) (hk0 : Keeps wh wp z0 s) :
    Keeps wh wp z0 (tdmEffect s p old new) := by
  unfold tdmEffect; try dsimp only
  repeat' with_reducible first | assumption | apply modTdm_keeps | apply unlockPort_keeps | apply portEvent_keeps | (fail_if_no_progress apply Keeps.upd) | split | intro _

theorem onFifoOverflow_keeps {wh wp : Bool} {z0 : State} (site : FifoSite) {s : State} (hk0 : Keeps wh wp z0 s) :
    Keeps wh wp z0 (onFifoOverflow site s) := by
  unfold onFifoOverflow
  repeat' with_reducible first | assumption | apply loseCurrent_keeps | (refine Keeps.foldl _ ?_ (fun _ _ _ => ?_)) | split | intro _

theorem skipSequences_keeps {wh wp : Bool} {z0 : State} {s : State} (c : Nat) (seq : Nat) (hk0 : Keeps wh wp z0 s) :
    Keeps wh wp z0 (skipSequences s c seq) := by
  unfold skipSequences; try dsimp only
  repeat' with_reducible first | assumption | apply addHoles_keeps | apply modCtx_keeps | (fail_if_no_progress apply Keeps.upd) | intro _

theorem feedOpen_keeps {wh wp : Bool} {z0 : State} {s : State} (c : Nat) (a : SnsFeedArgs) (hk0 : Keeps wh wp z0 s) :
    Keeps wh wp z0 (feedOpen s c a) := by
  unfold feedOpen; try dsimp only
  repeat' with_reducible first | assumption | apply skipSequences_keeps | apply loseCurrent_keeps | apply modCtx_keeps | (fail_if_no_progress apply Keeps.upd) | split | intro _

theorem onSnsFeed_keeps {wp : Bool} {z0 : State} (rq : Req) (a : SnsFeedArgs) {s : State} (hk0 : Keeps true wp z0 s) :
    Keeps true wp z0 (onSnsFeed rq a s) := by
  unfold onSnsFeed; try dsimp only
  repeat' with_reducible first | assumption | apply take_keeps | apply checked_keeps | apply refuse_keeps | apply modCtx_keeps | apply feedOpen_keeps | apply loseCurrent_keeps | apply writeRecord_keeps | apply replyOk_keeps | (fail_if_no_progress apply Keeps.upd) | split | intro _

theorem onSnsScan_keeps {wh wp : Bool} {z0 : State} (rq : Req) {s : State} (hk0 : Keeps wh wp z0 s) :
    Keeps wh wp z0 (onSnsScan rq s) := by
  unfold onSnsScan
  repeat' with_reducible first | assumption | apply take_keeps | apply replyOk_keeps | intro _

theorem ctxEnable_keeps {wh wp : Bool} {z0 : State} {s : State} (c : Nat) (hk0 : Keeps wh wp z0 s) :
    Keeps wh wp z0 (ctxEnable s c) := by
  unfold ctxEnable
  repeat' with_reducible first | assumption | apply setCtx_keeps | (fail_if_no_progress apply Keeps.upd) | intro _

theorem ctxStop_keeps {wh wp : Bool} {z0 : State} {s : State} (c : Nat) (abort : Bool) (hk0 : Keeps wh wp z0 s) :
    Keeps wh wp z0 (ctxStop s c abort) := by
  unfold ctxStop; try dsimp only
  repeat' with_reducible first | assumption | apply loseOne_keeps | apply modCtx_keeps | apply settleCtx_keeps | (fail_if_no_progress apply Keeps.upd) | split | intro _

theorem ctxReclaim_keeps {wh wp : Bool} {z0 : State} {s : State} (c : Nat) (hk0 : Keeps wh wp z0 s) :
    Keeps wh wp z0 (ctxReclaim s c) := by
  unfold ctxReclaim
  repeat' with_reducible first | assumption | apply setCtx_keeps | (fail_if_no_progress apply Keeps.upd) | intro _

theorem ctxOrphaned_keeps {wh wp : Bool} {z0 : State} {s : State} (t : Nat) (hk0 : Keeps wh wp z0 s) :
    Keeps wh wp z0 (ctxOrphaned s t) := by
  unfold ctxOrphaned
  repeat' with_reducible first | assumption | apply loseCurrent_keeps | (refine Keeps.foldl _ ?_ (fun _ _ _ => ?_)) | intro _

theorem modStream_keeps {wh wp : Bool} {z0 : State} {s : State} (sid : Nat) (f : Stream → Stream) (hk0 : Keeps wh wp z0 s) :
    Keeps wh wp z0 (modStream s sid f) := by
  unfold modStream
  repeat' with_reducible first | assumption | apply setStream_keeps | split

theorem checkEnd_keeps {wh wp : Bool} {z0 : State} {s : State} (sid : Nat) (hk0 : Keeps wh wp z0 s) :
    Keeps wh wp z0 (checkEnd s sid) := by
  unfold checkEnd
  repeat' with_reducible first | assumption | apply complete_keeps | apply setStream_keeps | (fail_if_no_progress apply Keeps.upd) | split | intro _

theorem deliver_keeps {wp : Bool} {z0 : State} (n : Nat) {s : State} (sid : Nat) (hk0 : Keeps true wp z0 s) :
    Keeps true wp z0 (deliver n s sid) := by
  induction n generalizing s with
  | zero => exact hk0
  | succ n ih =>
    unfold deliver
    repeat' with_reducible first | assumption | apply storeBytes_keeps | apply draw_keeps | apply setStream_keeps | apply trace_keeps | apply ih | (fail_if_no_progress apply Keeps.upd) | (refine Keeps.foldl _ ?_ (fun _ _ _ => ?_)) | split | intro _

theorem deliverAll_keeps {wp : Bool} {z0 : State} {s : State} (sid : Nat) (hk0 : Keeps true wp z0 s) :
    Keeps true wp z0 (deliverAll s sid) := by
  unfold deliverAll; try dsimp only
  repeat' with_reducible first | assumption | apply deliver_keeps | apply checkEnd_keeps | apply modStream_keeps | (fail_if_no_progress apply Keeps.upd) | split | intro _

theorem onDecOpen_keeps {wh wp : Bool} {z0 : State} (rq : Req) (a : DecOpenArgs) {s : State} (hk0 : Keeps wh wp z0 s) :
    Keeps wh wp z0 (onDecOpen rq a s) := by
  unfold onDecOpen; try dsimp only
  repeat' with_reducible first | assumption | apply take_keeps | apply checked_keeps | apply replyOk_keeps | apply setStream_keeps | (fail_if_no_progress apply Keeps.upd) | split | intro _

theorem onDecPush_keeps {wp : Bool} {z0 : State} (rq : Req) (a : DecPushArgs) {s : State} (hk0 : Keeps true wp z0 s) :
    Keeps true wp z0 (onDecPush rq a s) := by
  unfold onDecPush; try dsimp only
  repeat' with_reducible first | assumption | apply take_keeps | apply checked_keeps | apply refuse_keeps | apply deliverAll_keeps | apply replyOk_keeps | apply setStream_keeps | apply accept_keeps | (fail_if_no_progress apply Keeps.upd) | split | intro _

theorem closeDone_keeps {wh wp : Bool} {z0 : State} {s : State} (sid : Nat) (hk0 : Keeps wh wp z0 s) :
    Keeps wh wp z0 (closeDone s sid) := by
  unfold closeDone; try dsimp only
  repeat' with_reducible first | assumption | apply complete_keeps | (fail_if_no_progress apply Keeps.upd) | split

theorem onDecClose_keeps {wh wp : Bool} {z0 : State} (rq : Req) (stream : Byte) (reserved : BitVec 24) {s : State} (hk0 : Keeps wh wp z0 s) :
    Keeps wh wp z0 (onDecClose rq stream reserved s) := by
  unfold onDecClose; try dsimp only
  repeat' with_reducible first | assumption | apply take_keeps | apply checked_keeps | apply refuse_keeps | apply accept_keeps | apply complete_keeps | apply closeDone_keeps | apply setStream_keeps | (fail_if_no_progress apply Keeps.upd) | split | intro _

theorem onRecordDispatch_keeps {wp : Bool} {z0 : State} (sid : Nat) {s : State} (hk0 : Keeps true wp z0 s) :
    Keeps true wp z0 (onRecordDispatch sid s) := by
  unfold onRecordDispatch; try dsimp only
  repeat' with_reducible first | assumption | apply deliverAll_keeps | apply setStream_keeps | (fail_if_no_progress apply Keeps.upd) | split | intro _

theorem modRecord_keeps {wh wp : Bool} {z0 : State} {s : State} (sid : Nat) (start : Nat) (f : DecRecord → DecRecord) (hk0 : Keeps wh wp z0 s) :
    Keeps wh wp z0 (modRecord s sid start f) := by
  unfold modRecord
  repeat' with_reducible first | assumption | apply modStream_keeps | (fail_if_no_progress apply Keeps.upd) | split | intro _

theorem settleLane_keeps {wh wp : Bool} {z0 : State} {s : State} (l : Nat) (hk0 : Keeps wh wp z0 s) :
    Keeps wh wp z0 (settleLane s l) := by
  unfold settleLane; try dsimp only
  repeat' with_reducible first | assumption | refine endFunc_eq_keeps ?_ ‹_› | apply endFunc_keeps | apply setLane_keeps | (fail_if_no_progress apply Keeps.upd) | split | intro _

theorem freeLane_keeps {wh wp : Bool} {z0 : State} {s : State} (l : Nat) (aborted : Bool) (hk0 : Keeps wh wp z0 s) :
    Keeps wh wp z0 (freeLane s l aborted) := by
  unfold freeLane; try dsimp only
  repeat' with_reducible first | assumption | apply settleLane_keeps | apply setLane_keeps | (fail_if_no_progress apply Keeps.upd) | split | intro _

theorem endLane_keeps {wp : Bool} {z0 : State} {s : State} (l : Nat) (status : Nat) (detail : Nat) (aborted : Bool) (hk0 : Keeps true wp z0 s) :
    Keeps true wp z0 (endLane s l status detail aborted) := by
  unfold endLane; try dsimp only
  repeat' with_reducible first | assumption | apply modRecord_keeps | apply freeLane_keeps | apply closeDone_keeps | apply deliverAll_keeps | (fail_if_no_progress apply Keeps.upd) | split | intro _

theorem eccLane_keeps {wp : Bool} {z0 : State} {s : State} (l : Nat) (va : Nat) (hk0 : Keeps true wp z0 s) :
    Keeps true wp z0 (eccLane s l va) := by
  unfold eccLane; try dsimp only
  repeat' with_reducible first | assumption | apply trace_keeps | apply countUncorr_keeps | apply event_keeps | apply endLane_keeps | split

theorem tableLane_keeps {wp : Bool} {z0 : State} {s : State} (l : Nat) (va : Nat) (hk0 : Keeps true wp z0 s) :
    Keeps true wp z0 (tableLane s l va) := by
  unfold tableLane; try dsimp only
  repeat' with_reducible first | assumption | refine takeFaultId_eq_keeps ?_ ‹_› | apply takeFaultId_keeps | apply countFault_keeps | apply event_keeps | apply endLane_keeps | split

theorem onLaneStart_keeps {wp : Bool} {z0 : State} (l : Nat) {s : State} (hk0 : Keeps true wp z0 s) :
    Keeps true wp z0 (onLaneStart l s) := by
  unfold onLaneStart; try dsimp only
  repeat' with_reducible first | assumption | apply setLane_keeps | apply modRecord_keeps | apply eccLane_keeps | apply endLane_keeps | apply incReg_keeps | (fail_if_no_progress apply Keeps.upd) | split | intro _

theorem onDecodeFinish_keeps {wp : Bool} {z0 : State} (l : Nat) {s : State} (hk0 : Keeps true wp z0 s) :
    Keeps true wp z0 (onDecodeFinish l s) := by
  unfold onDecodeFinish; try dsimp only
  repeat' with_reducible first | assumption | apply closeDone_keeps | apply freeLane_keeps | apply eccLane_keeps | apply endLane_keeps | apply storeBytes_keeps | apply modRecord_keeps | (fail_if_no_progress apply Keeps.upd) | (refine Keeps.foldl _ ?_ (fun _ _ _ => ?_)) | split | intro _

theorem onBudgetTimeout_keeps {wp : Bool} {z0 : State} (l : Nat) {s : State} (hk0 : Keeps true wp z0 s) :
    Keeps true wp z0 (onBudgetTimeout l s) := by
  unfold onBudgetTimeout
  repeat' with_reducible first | assumption | apply endLane_keeps | apply incReg_keeps | split

theorem laneStop_keeps {wp : Bool} {z0 : State} {s : State} (l : Nat) (abort : Bool) (hk0 : Keeps true wp z0 s) :
    Keeps true wp z0 (laneStop s l abort) := by
  unfold laneStop
  repeat' with_reducible first | assumption | apply settleLane_keeps | apply endLane_keeps | split

theorem decReclaim_keeps {wh wp : Bool} {z0 : State} {s : State} (t : Nat) (hk0 : Keeps wh wp z0 s) :
    Keeps wh wp z0 (decReclaim s t) := by
  unfold decReclaim; try dsimp only
  repeat' with_reducible first | assumption | apply freeLane_keeps | (fail_if_no_progress apply Keeps.upd) | (refine Keeps.foldl _ ?_ (fun _ _ _ => ?_)) | split | intro _

theorem sendAnswer_keeps {wh wp : Bool} {z0 : State} {s : State} (h : Handshake) (header : List Byte) (payload : List Byte) (hk0 : Keeps wh wp z0 s) :
    Keeps wh wp z0 (sendAnswer s h header payload) := by
  unfold sendAnswer
  repeat' with_reducible first | assumption | apply out_keeps

theorem answer_keeps {wh wp : Bool} {z0 : State} {s : State} (h : Handshake) (op : Nat) (request : List Byte) (tenant : Nat) (status : Nat) (detail : Nat) (payload : List Byte) (hk0 : Keeps wh wp z0 s) :
    Keeps wh wp z0 (answer s h op request tenant status detail payload) := by
  unfold answer; try dsimp only
  repeat' with_reducible first | assumption | apply request_keeps | apply sendAnswer_keeps | (fail_if_no_progress apply Keeps.upd)

theorem dropHalf_keeps {wh wp : Bool} {z0 : State} {s : State} (id : Nat) (hk0 : Keeps wh wp z0 s) :
    Keeps wh wp z0 (dropHalf s id) := by
  unfold dropHalf
  repeat' with_reducible first | assumption | (fail_if_no_progress apply Keeps.upd) | intro _

theorem refuseHandshake_keeps {wh wp : Bool} {z0 : State} {s : State} (h : Handshake) (op : Nat) (request : List Byte) (e : Nat × Nat) (hk0 : Keeps wh wp z0 s) :
    Keeps wh wp z0 (refuseHandshake s h op request e) := by
  unfold refuseHandshake
  repeat' with_reducible first | assumption | apply request_keeps | apply answer_keeps | apply dropHalf_keeps | split

theorem handshake_keeps {wh wp : Bool} {z0 : State} (c : Instr) {s : State} (h : Handshake) (op : Nat) (rq : List Byte)
    {k : State → State} (hk0 : Keeps wh wp z0 s) (hk : ∀ t, Keeps wh wp z0 t → Keeps wh wp z0 (k t)) :
    Keeps wh wp z0 (handshake c s h op rq k) := by
  unfold handshake
  repeat' with_reducible first | assumption | apply sendAnswer_keeps | apply refuseHandshake_keeps | apply hk | (fail_if_no_progress apply Keeps.upd) | (refine Keeps.foldl _ ?_ (fun _ _ _ => ?_)) | split | intro _

theorem openSession_keeps {wh wp : Bool} {z0 : State} {s : State} (h : Handshake) (a : SessionOpenArgs) (eph : List Byte) (z : List Byte) (hk0 : Keeps wh wp z0 s) :
    Keeps wh wp z0 (openSession s h a eph z) := by
  unfold openSession; try dsimp only
  repeat' with_reducible first | assumption | apply draw_keeps | apply answer_keeps | (fail_if_no_progress apply Keeps.upd)

theorem onSessionOpen_keeps {wh wp : Bool} {z0 : State} (h : Handshake) (a : SessionOpenArgs) {s : State} (hk0 : Keeps wh wp z0 s) :
    Keeps wh wp z0 (onSessionOpen h a s) := by
  unfold onSessionOpen; try dsimp only
  repeat' with_reducible first | assumption | apply handshake_keeps | apply answer_keeps | apply draw_keeps | apply openSession_keeps | split | intro _

theorem onHalfOpenTimeout_keeps {wh wp : Bool} {z0 : State} (session : Word) {s : State} (hk0 : Keeps wh wp z0 s) :
    Keeps wh wp z0 (onHalfOpenTimeout session s) := by
  unfold onHalfOpenTimeout
  repeat' with_reducible first | assumption | (fail_if_no_progress apply Keeps.upd) | split | intro _

theorem countAuthFail_keeps {wh wp : Bool} {z0 : State} {s : State} (ip : BitVec 128) (hk0 : Keeps wh wp z0 s) :
    Keeps wh wp z0 (countAuthFail s ip) := by
  unfold countAuthFail; try dsimp only
  repeat' with_reducible first | assumption | (fail_if_no_progress apply Keeps.upd) | split | intro _

theorem onAuthBlockExpiry_keeps {wh wp : Bool} {z0 : State} (ip : BitVec 128) {s : State} (hk0 : Keeps wh wp z0 s) :
    Keeps wh wp z0 (onAuthBlockExpiry ip s) := by
  unfold onAuthBlockExpiry
  repeat' with_reducible first | assumption | (fail_if_no_progress apply Keeps.upd) | split | intro _

theorem enrol_keeps {wh wp : Bool} {z0 : State} {s : State} (h : Handshake) (a : SessionAuthArgs) (x : HalfOpen) (hk0 : Keeps wh wp z0 s) :
    Keeps wh wp z0 (enrol s h a x) := by
  unfold enrol; try dsimp only
  repeat' with_reducible first | assumption | apply dropHalf_keeps | apply nvrEnqueue_keeps | (fail_if_no_progress apply Keeps.upd)

theorem enterSession_keeps {wp : Bool} {z0 : State} {s : State} (h : Handshake) (a : SessionAuthArgs) (x : HalfOpen) (hk0 : Keeps true wp z0 s) :
    Keeps true wp z0 (enterSession s h a x) := by
  unfold enterSession; try dsimp only
  repeat' with_reducible first | assumption | apply enrol_keeps | apply dropHalf_keeps | apply dropSession_keeps | apply take_keeps | apply setSes_keeps | apply modTen_keeps | apply setTenState_keeps | apply trace_keeps | apply answer_keeps | apply sendMsg_keeps | (fail_if_no_progress apply Keeps.upd) | (refine Keeps.foldl _ ?_ (fun _ _ _ => ?_)) | split | intro _

theorem onSessionAuth_keeps {wp : Bool} {z0 : State} (h : Handshake) (a : SessionAuthArgs) {s : State} (hk0 : Keeps true wp z0 s) :
    Keeps true wp z0 (onSessionAuth h a s) := by
  unfold onSessionAuth; try dsimp only
  repeat' with_reducible first | assumption | apply handshake_keeps | apply answer_keeps | apply dropHalf_keeps | apply countAuthFail_keeps | apply enrol_keeps | apply enterSession_keeps | split | intro _

theorem reclaimLoops_keeps {wh : Bool} {z0 : State} {s : State} (t : Nat) (hk0 : Keeps wh true z0 s) :
    Keeps wh true z0 (reclaimLoops s t) := by
  unfold reclaimLoops; try dsimp only
  repeat' with_reducible first | assumption | apply countQuiet_keeps | apply killPads_keeps | apply trace_keeps | (fail_if_no_progress apply Keeps.upd) | (refine Keeps.foldl _ ?_ (fun _ _ _ => ?_)) | split | intro _

theorem resetRegs_keeps {wh wp : Bool} {z0 : State} {s : State} (lo : Nat) (hi : Nat) (hk0 : Keeps wh wp z0 s) :
    Keeps wh wp z0 (resetRegs s lo hi) := by
  unfold resetRegs
  repeat' with_reducible first | assumption | (fail_if_no_progress apply Keeps.upd) | intro _

theorem reclaimPipe_keeps {wh wp : Bool} {z0 : State} {s : State} (p : Nat) (hk0 : Keeps wh wp z0 s) :
    Keeps wh wp z0 (reclaimPipe s p) := by
  unfold reclaimPipe; try dsimp only
  repeat' with_reducible first | assumption | apply resetRegs_keeps | apply modPipe_keeps | (fail_if_no_progress apply Keeps.upd) | intro _

theorem reclaimMemory_keeps {wp : Bool} {z0 s : State} (t : Nat) (hk0 : Keeps true wp z0 s) : Keeps true wp z0 (reclaimMemory s t) := by
  unfold reclaimMemory
  exact modTen_keeps _ _ ⟨hk0.1, nofun, hk0.3, fun h => ⟨Memory.wf_memZero _ _ _ (hk0.4 h).1, (hk0.4 h).2⟩⟩

theorem startReclaim_keeps {z0 : State} {s : State} (t : Nat) (hk0 : Keeps true true z0 s) :
    Keeps true true z0 (startReclaim s t) := by
  unfold startReclaim; try dsimp only
  repeat' with_reducible first | assumption | apply setTenState_keeps | apply modTen_keeps | apply decReclaim_keeps | apply reclaimLoops_keeps | apply ctxReclaim_keeps | apply reclaimPipe_keeps | apply settleFuncs_keeps | apply refresh_keeps | apply reclaimMemory_keeps | (fail_if_no_progress apply Keeps.upd) | (refine Keeps.foldl _ ?_ (fun _ _ _ => ?_)) | intro _

theorem onReclaimComplete_keeps {wh wp : Bool} {z0 : State} (t : Nat) {s : State} (hk0 : Keeps wh wp z0 s) :
    Keeps wh wp z0 (onReclaimComplete t s) := by
  unfold onReclaimComplete
  repeat' with_reducible first | assumption | apply setTenState_keeps | apply modTen_keeps | (fail_if_no_progress apply Keeps.upd) | split | intro _

theorem forceReclaim_keeps {z0 : State} {s : State} (t : Nat) (hk0 : Keeps true true z0 s) :
    Keeps true true z0 (forceReclaim s t) := by
  unfold forceReclaim
  repeat' with_reducible first | assumption | apply startReclaim_keeps | apply dropSession_keeps | split

theorem closeSession_keeps {z0 : State} {s : State} (t : Nat) (reason : Nat) (hk0 : Keeps true true z0 s) :
    Keeps true true z0 (closeSession s t reason) := by
  unfold closeSession; try dsimp only
  repeat' with_reducible first | assumption | apply modTen_keeps | apply dropSession_keeps | apply startReclaim_keeps | apply ctxOrphaned_keeps | apply setTenState_keeps | (fail_if_no_progress apply Keeps.upd) | split | intro _

theorem onSessionClose_keeps {z0 : State} (rq : Req) (reason : Word) {s : State} (hk0 : Keeps true true z0 s) :
    Keeps true true z0 (onSessionClose rq reason s) := by
  unfold onSessionClose; try dsimp only
  repeat' with_reducible first | assumption | apply take_keeps | apply replyOk_keeps | apply closeSession_keeps | apply setSes_keeps | (fail_if_no_progress apply Keeps.upd) | split | intro _

theorem finishClose_keeps {z0 : State} {s : State} (i : Nat) (hk0 : Keeps true true z0 s) :
    Keeps true true z0 (finishClose s i) := by
  unfold finishClose
  repeat' with_reducible first | assumption | apply closeSession_keeps | split

theorem onHeartbeatTimeout_keeps {wp : Bool} {z0 : State} (t : Nat) {s : State} (hk0 : Keeps true wp z0 s) :
    Keeps true wp z0 (onHeartbeatTimeout t s) := by
  unfold onHeartbeatTimeout; try dsimp only
  repeat' with_reducible first | assumption | apply ctxOrphaned_keeps | apply setTenState_keeps | apply dropSession_keeps | split

theorem onOrphanTimeout_keeps {wh wp : Bool} {z0 : State} (t : Nat) {s : State} (hk0 : Keeps wh wp z0 s) :
    Keeps wh wp z0 (onOrphanTimeout t s) := by
  unfold onOrphanTimeout; try dsimp only
  repeat' with_reducible first | assumption | apply setTenState_keeps | split

theorem onReclaimTimeout_keeps {z0 : State} (t : Nat) {s : State} (hk0 : Keeps true true z0 s) :
    Keeps true true z0 (onReclaimTimeout t s) := by
  unfold onReclaimTimeout; try dsimp only
  repeat' with_reducible first | assumption | apply startReclaim_keeps | split

theorem sendBeacon_keeps {wh wp : Bool} {z0 : State} {s : State} (p : Nat) (hk0 : Keeps wh wp z0 s) :
    Keeps wh wp z0 (sendBeacon s p) := by
  unfold sendBeacon; try dsimp only
  repeat' with_reducible first | assumption | apply out_keeps | (fail_if_no_progress apply Keeps.upd) | split

theorem onBeaconTimer_keeps {wh wp : Bool} {z0 : State} (p : Nat) {s : State} (hk0 : Keeps wh wp z0 s) :
    Keeps wh wp z0 (onBeaconTimer p s) := by
  unfold onBeaconTimer; try dsimp only
  repeat' with_reducible first | assumption | apply sendBeacon_keeps | (fail_if_no_progress apply Keeps.upd) | split

end Sys2Proof.Machine
end

