-- ==== Sys2Proof/Laws/KeepChip.lean ====
section
/-! SUPPORT. Laws/KeepChip.lean: time, the network, power, firmware, security and startup keep the queue, the canonical form of memory and, where they store nothing,
memory itself. -/

namespace Sys2Proof.Machine

open Sys2Proof

theorem modGptp_keeps {wh wp : Bool} {z0 : State} {s : State} (p : Nat) (f : GptpPort → GptpPort) (hk0 : Keeps wh wp z0 s) :
    Keeps wh wp z0 (modGptp s p f) := by
  unfold modGptp
  repeat' with_reducible first | assumption | apply modPort_keeps | (fail_if_no_progress apply Keeps.upd) | intro _

theorem modBase_keeps {wh wp : Bool} {z0 : State} {s : State} (b : Nat) (f : TimeBase → TimeBase) (hk0 : Keeps wh wp z0 s) :
    Keeps wh wp z0 (modBase s b f) := by
  unfold modBase
  repeat' with_reducible first | assumption | apply setBase_keeps

theorem timeEvent_keeps {wh wp : Bool} {z0 : State} {s : State} (b : Nat) (change : Nat) (hk0 : Keeps wh wp z0 s) :
    Keeps wh wp z0 (timeEvent s b change) := by
  unfold timeEvent; try dsimp only
  repeat' with_reducible first | assumption | apply event_keeps | (refine Keeps.foldl _ ?_ (fun _ _ _ => ?_)) | intro _

theorem setBaseState_keeps {wh wp : Bool} {z0 : State} {s : State} (b : Nat) (new : Nat) (hk0 : Keeps wh wp z0 s) :
    Keeps wh wp z0 (setBaseState s b new) := by
  unfold setBaseState; try dsimp only
  repeat' with_reducible first | assumption | apply modBase_keeps | apply trace_keeps | (fail_if_no_progress apply Keeps.upd) | split | intro _

theorem enterHoldover_keeps {wh wp : Bool} {z0 : State} {s : State} (b : Nat) (hk0 : Keeps wh wp z0 s) :
    Keeps wh wp z0 (enterHoldover s b) := by
  unfold enterHoldover; try dsimp only
  repeat' with_reducible first | assumption | apply setBaseState_keeps | apply timeEvent_keeps | apply setRegW_keeps | apply modBase_keeps | (fail_if_no_progress apply Keeps.upd) | split | intro _

theorem regrid_keeps {wh wp : Bool} {z0 : State} {s : State} (p : Nat) (hk0 : Keeps wh wp z0 s) :
    Keeps wh wp z0 (regrid s p) := by
  unfold regrid; try dsimp only
  repeat' with_reducible first | assumption | apply modPipe_keeps | (fail_if_no_progress apply Keeps.upd) | split | intro _

theorem timeStep_keeps {wp : Bool} {z0 : State} {s : State} (b : Nat) (d : Frac) (hk0 : Keeps true wp z0 s) :
    Keeps true wp z0 (timeStep s b d) := by
  unfold timeStep; try dsimp only
  repeat' with_reducible first | assumption | apply modBase_keeps | apply regrid_keeps | apply modPipe_keeps | apply setWall_keeps | (fail_if_no_progress apply Keeps.upd) | (refine Keeps.foldl _ ?_ (fun _ _ _ => ?_)) | split | intro _

theorem countOffset_keeps {wh wp : Bool} {z0 : State} {s : State} (b : Nat) (o : Frac) (hk0 : Keeps wh wp z0 s) :
    Keeps wh wp z0 (countOffset s b o) := by
  unfold countOffset; try dsimp only
  repeat' with_reducible first | assumption | apply modBase_keeps | apply timeEvent_keeps | apply setBaseState_keeps | (fail_if_no_progress apply Keeps.upd) | split | intro _

theorem servoStep_keeps {wp : Bool} {z0 : State} {s : State} (b : Nat) (o : Frac) (logT : Int) (rateRatio : Int) (hk0 : Keeps true wp z0 s) :
    Keeps true wp z0 (servoStep s b o logT rateRatio) := by
  unfold servoStep; try dsimp only
  repeat' with_reducible first | assumption | apply timeStep_keeps | apply countOffset_keeps | apply timeEvent_keeps | apply modBase_keeps | (fail_if_no_progress apply Keeps.upd) | split | intro _

theorem useSync_keeps {wp : Bool} {z0 : State} {s : State} (p : Nat) (m : SyncMsg) (origin : Nat) (corr : Int) (rateRatio : Int) (hk0 : Keeps true wp z0 s) :
    Keeps true wp z0 (useSync s p m origin corr rateRatio) := by
  unfold useSync; try dsimp only
  repeat' with_reducible first | assumption | apply modBase_keeps | apply servoStep_keeps | apply timeEvent_keeps | apply setBaseState_keeps | (fail_if_no_progress apply Keeps.upd) | split | intro _

theorem setRoles_keeps {wh wp : Bool} {z0 : State} {s : State} (b : Nat) (sl : Option (Nat × AnnounceMsg)) (hk0 : Keeps wh wp z0 s) :
    Keeps wh wp z0 (setRoles s b sl) := by
  unfold setRoles; try dsimp only
  repeat' with_reducible first | assumption | apply modGptp_keeps | (fail_if_no_progress apply Keeps.upd) | (refine Keeps.foldl _ ?_ (fun _ _ _ => ?_)) | split | intro _

theorem newMaster_keeps {wh wp : Bool} {z0 : State} {s : State} (b : Nat) (gm : Nat) (hk0 : Keeps wh wp z0 s) :
    Keeps wh wp z0 (newMaster s b gm) := by
  unfold newMaster; try dsimp only
  repeat' with_reducible first | assumption | apply modBase_keeps | apply timeEvent_keeps | (fail_if_no_progress apply Keeps.upd) | split | intro _

theorem leadBase_keeps {wh wp : Bool} {z0 : State} {s : State} (b : Nat) (hk0 : Keeps wh wp z0 s) :
    Keeps wh wp z0 (leadBase s b) := by
  unfold leadBase; try dsimp only
  repeat' with_reducible first | assumption | apply setBaseState_keeps | apply newMaster_keeps | apply timeEvent_keeps | split

theorem reselect_keeps {wh wp : Bool} {z0 : State} {s : State} (b : Nat) (hk0 : Keeps wh wp z0 s) :
    Keeps wh wp z0 (reselect s b) := by
  unfold reselect; try dsimp only
  repeat' with_reducible first | assumption | apply setRoles_keeps | apply newMaster_keeps | apply modBase_keeps | apply setBaseState_keeps | apply enterHoldover_keeps | apply leadBase_keeps | (fail_if_no_progress apply Keeps.upd) | split | intro _

theorem timeStart_keeps {wh wp : Bool} {z0 : State} {s : State} (hk0 : Keeps wh wp z0 s) :
    Keeps wh wp z0 (timeStart s) := by
  unfold timeStart
  repeat' with_reducible first | assumption | apply reselect_keeps | apply setBaseState_keeps | (refine Keeps.foldl _ ?_ (fun _ _ _ => ?_)) | split | intro _

theorem timeHold_keeps {wh wp : Bool} {z0 : State} {s : State} (hk0 : Keeps wh wp z0 s) :
    Keeps wh wp z0 (timeHold s) := by
  unfold timeHold
  repeat' with_reducible first | assumption | apply enterHoldover_keeps | (refine Keeps.foldl _ ?_ (fun _ _ _ => ?_))

theorem timEffect_keeps {wh wp : Bool} {z0 : State} {s : State} (b : Nat) (off : Nat) (old : Nat) (new : Nat) (hk0 : Keeps wh wp z0 s) :
    Keeps wh wp z0 (timEffect s b off old new) := by
  unfold timEffect; try dsimp only
  repeat' with_reducible first | assumption | apply setBaseState_keeps | apply modBase_keeps | apply modGptp_keeps | apply reselect_keeps | (fail_if_no_progress apply Keeps.upd) | (refine Keeps.foldl _ ?_ (fun _ _ _ => ?_)) | split | intro _

theorem onSync_keeps {wp : Bool} {z0 : State} (p : Nat) (m : SyncMsg) {s : State} (hk0 : Keeps true wp z0 s) :
    Keeps true wp z0 (onSync p m s) := by
  unfold onSync; try dsimp only
  repeat' with_reducible first | assumption | apply modBase_keeps | apply modGptp_keeps | apply useSync_keeps | (fail_if_no_progress apply Keeps.upd) | split | intro _

theorem onFollowUp_keeps {wp : Bool} {z0 : State} (p : Nat) (m : FollowUpMsg) {s : State} (hk0 : Keeps true wp z0 s) :
    Keeps true wp z0 (onFollowUp p m s) := by
  unfold onFollowUp
  repeat' with_reducible first | assumption | apply useSync_keeps | apply modGptp_keeps | (fail_if_no_progress apply Keeps.upd) | split | intro _

theorem onPdelayReq_keeps {wh wp : Bool} {z0 : State} (p : Nat) (m : PdelayReqMsg) {s : State} (hk0 : Keeps wh wp z0 s) :
    Keeps wh wp z0 (onPdelayReq p m s) := by
  unfold onPdelayReq
  repeat' with_reducible first | assumption | apply out_keeps | split

theorem onPdelayResp_keeps {wh wp : Bool} {z0 : State} (p : Nat) (m : PdelayRespMsg) {s : State} (hk0 : Keeps wh wp z0 s) :
    Keeps wh wp z0 (onPdelayResp p m s) := by
  unfold onPdelayResp; try dsimp only
  repeat' with_reducible first | assumption | apply transmit_keeps | apply reselect_keeps | apply modGptp_keeps | apply draw_keeps | (fail_if_no_progress apply Keeps.upd) | split | intro _

theorem onAnnounce_keeps {wh wp : Bool} {z0 : State} (p : Nat) (m : AnnounceMsg) {s : State} (hk0 : Keeps wh wp z0 s) :
    Keeps wh wp z0 (onAnnounce p m s) := by
  unfold onAnnounce; try dsimp only
  repeat' with_reducible first | assumption | apply reselect_keeps | apply modGptp_keeps | (fail_if_no_progress apply Keeps.upd) | split | intro _

theorem onSyncInterval_keeps {wh wp : Bool} {z0 : State} (p : Nat) {s : State} (hk0 : Keeps wh wp z0 s) :
    Keeps wh wp z0 (onSyncInterval p s) := by
  unfold onSyncInterval; try dsimp only
  repeat' with_reducible first | assumption | apply modGptp_keeps | apply out_keeps | (fail_if_no_progress apply Keeps.upd) | split | intro _

theorem onPdelayInterval_keeps {wh wp : Bool} {z0 : State} (p : Nat) {s : State} (hk0 : Keeps wh wp z0 s) :
    Keeps wh wp z0 (onPdelayInterval p s) := by
  unfold onPdelayInterval; try dsimp only
  repeat' with_reducible first | assumption | apply modGptp_keeps | apply out_keeps | (fail_if_no_progress apply Keeps.upd) | split | intro _

theorem onSyncTimeout_keeps {wh wp : Bool} {z0 : State} (b : Nat) {s : State} (hk0 : Keeps wh wp z0 s) :
    Keeps wh wp z0 (onSyncTimeout b s) := by
  unfold onSyncTimeout; try dsimp only
  repeat' with_reducible first | assumption | apply enterHoldover_keeps | split

theorem onAnnounceTimeout_keeps {wh wp : Bool} {z0 : State} (p : Nat) {s : State} (hk0 : Keeps wh wp z0 s) :
    Keeps wh wp z0 (onAnnounceTimeout p s) := by
  unfold onAnnounceTimeout; try dsimp only
  repeat' with_reducible first | assumption | apply reselect_keeps | apply modGptp_keeps | (fail_if_no_progress apply Keeps.upd) | split | intro _

theorem onAnnounceInterval_keeps {wh wp : Bool} {z0 : State} (p : Nat) {s : State} (hk0 : Keeps wh wp z0 s) :
    Keeps wh wp z0 (onAnnounceInterval p s) := by
  unfold onAnnounceInterval; try dsimp only
  repeat' with_reducible first | assumption | apply modGptp_keeps | apply out_keeps | (fail_if_no_progress apply Keeps.upd) | split | intro _

theorem gptpUp_keeps {wh wp : Bool} {z0 : State} {s : State} (p : Nat) (hk0 : Keeps wh wp z0 s) :
    Keeps wh wp z0 (gptpUp s p) := by
  unfold gptpUp
  repeat' with_reducible first | assumption | apply modGptp_keeps | (fail_if_no_progress apply Keeps.upd) | intro _

theorem gptpDown_keeps {wh wp : Bool} {z0 : State} {s : State} (p : Nat) (b : Nat) (hk0 : Keeps wh wp z0 s) :
    Keeps wh wp z0 (gptpDown s p b) := by
  unfold gptpDown; try dsimp only
  repeat' with_reducible first | assumption | apply modGptp_keeps | apply reselect_keeps | apply enterHoldover_keeps | split | intro _

theorem onTimeRead_keeps {wh wp : Bool} {z0 : State} (rq : Req) {s : State} (hk0 : Keeps wh wp z0 s) :
    Keeps wh wp z0 (onTimeRead rq s) := by
  unfold onTimeRead
  repeat' with_reducible first | assumption | apply take_keeps | apply replyOk_keeps | intro _

theorem onLinkUp_keeps {wh wp : Bool} {z0 : State} (p : Nat) {s : State} (hk0 : Keeps wh wp z0 s) :
    Keeps wh wp z0 (onLinkUp p s) := by
  unfold onLinkUp; try dsimp only
  repeat' with_reducible first | assumption | apply modPort_keeps | apply out_keeps | apply reselect_keeps | apply gptpUp_keeps | apply onBeaconTimer_keeps | (fail_if_no_progress apply Keeps.upd) | split | intro _

theorem dropLink_keeps {wh wp : Bool} {z0 : State} {s : State} (p : Nat) (b : Nat) (hk0 : Keeps wh wp z0 s) :
    Keeps wh wp z0 (dropLink s p b) := by
  unfold dropLink
  repeat' with_reducible first | assumption | apply gptpDown_keeps | apply setEgress_keeps | apply modPort_keeps | (fail_if_no_progress apply Keeps.upd) | split | intro _

theorem onLinkDown_keeps {wh wp : Bool} {z0 : State} (p : Nat) {s : State} (hk0 : Keeps wh wp z0 s) :
    Keeps wh wp z0 (onLinkDown p s) := by
  unfold onLinkDown
  repeat' with_reducible first | assumption | apply dropLink_keeps | split

theorem arpConflict_keeps {wh wp : Bool} {z0 : State} {s : State} (p : Nat) (hk0 : Keeps wh wp z0 s) :
    Keeps wh wp z0 (arpConflict s p) := by
  unfold arpConflict; try dsimp only
  repeat' with_reducible first | assumption | apply modPort_keeps | apply out_keeps | (fail_if_no_progress apply Keeps.upd) | split | intro _

theorem onArp_keeps {wh wp : Bool} {z0 : State} (p : Nat) (a : ArpPacket) {s : State} (hk0 : Keeps wh wp z0 s) :
    Keeps wh wp z0 (onArp p a s) := by
  unfold onArp; try dsimp only
  repeat' with_reducible first | assumption | apply modPort_keeps | apply arpConflict_keeps | apply request_keeps | apply out_keeps | (fail_if_no_progress apply Keeps.upd) | split | intro _

theorem onProbeTimer_keeps {wh wp : Bool} {z0 : State} (p : Nat) {s : State} (hk0 : Keeps wh wp z0 s) :
    Keeps wh wp z0 (onProbeTimer p s) := by
  unfold onProbeTimer; try dsimp only
  repeat' with_reducible first | assumption | apply out_keeps | apply modPort_keeps | (fail_if_no_progress apply Keeps.upd) | split | intro _

theorem onArpEvent_keeps {wh wp : Bool} {z0 : State} (p : Fin 4) (a : ArpEvent) {s : State} (hk0 : Keeps wh wp z0 s) :
    Keeps wh wp z0 (onArpEvent p a s) := by
  unfold onArpEvent
  repeat' with_reducible first | assumption | apply packet_keeps | apply receiveFrame_keeps | apply onArp_keeps | apply onProbeTimer_keeps | split

theorem onNeighbour_keeps {wh wp : Bool} {z0 : State} (p : Nat) (a : NsPacket) {s : State} (hk0 : Keeps wh wp z0 s) :
    Keeps wh wp z0 (onNeighbour p a s) := by
  unfold onNeighbour
  repeat' with_reducible first | assumption | apply out_keeps | split

theorem onPing_keeps {wh wp : Bool} {z0 : State} (p : Nat) (a : EchoRequest) {s : State} (hk0 : Keeps wh wp z0 s) :
    Keeps wh wp z0 (onPing p a s) := by
  unfold onPing
  repeat' with_reducible first | assumption | apply out_keeps | split

theorem stageGcl_keeps {wh wp : Bool} {z0 : State} {s : State} (p : Nat) (a : GclWriteArgs) (hk0 : Keeps wh wp z0 s) :
    Keeps wh wp z0 (stageGcl s p a) := by
  unfold stageGcl; try dsimp only
  repeat' with_reducible first | assumption | apply modPort_keeps | (fail_if_no_progress apply Keeps.upd) | (refine Keeps.foldl _ ?_ (fun _ _ _ => ?_)) | intro _

theorem cancelSwitch_keeps {wh wp : Bool} {z0 : State} {s : State} (p : Nat) (hk0 : Keeps wh wp z0 s) :
    Keeps wh wp z0 (cancelSwitch s p) := by
  unfold cancelSwitch
  repeat' with_reducible first | assumption | apply complete_keeps | apply drainPort_keeps | apply modPort_keeps | (fail_if_no_progress apply Keeps.upd) | split | intro _

theorem onGclWrite_keeps {wh wp : Bool} {z0 : State} (rq : Req) (a : GclWriteArgs) {s : State} (hk0 : Keeps wh wp z0 s) :
    Keeps wh wp z0 (onGclWrite rq a s) := by
  unfold onGclWrite; try dsimp only
  repeat' with_reducible first | assumption | apply take_keeps | apply checked_keeps | apply replyOk_keeps | apply stageGcl_keeps | apply accept_keeps | apply modPort_keeps | apply cancelSwitch_keeps | apply drainPort_keeps | (fail_if_no_progress apply Keeps.upd) | split | intro _

theorem onGclSwitch_keeps {wh wp : Bool} {z0 : State} (p : Nat) {s : State} (hk0 : Keeps wh wp z0 s) :
    Keeps wh wp z0 (onGclSwitch p s) := by
  unfold onGclSwitch; try dsimp only
  repeat' with_reducible first | assumption | apply modPort_keeps | apply complete_keeps | apply drainPort_keeps | (fail_if_no_progress apply Keeps.upd) | split | intro _

theorem onGateInterval_keeps {wh wp : Bool} {z0 : State} (p : Nat) {s : State} (hk0 : Keeps wh wp z0 s) :
    Keeps wh wp z0 (onGateInterval p s) := by
  unfold onGateInterval; try dsimp only
  repeat' with_reducible first | assumption | apply freezeCredit_keeps | apply drainPort_keeps | apply setPort_keeps | (fail_if_no_progress apply Keeps.upd) | split

theorem onStreamTable_keeps {wh wp : Bool} {z0 : State} (rq : Req) (a : StreamTableArgs) {s : State} (hk0 : Keeps wh wp z0 s) :
    Keeps wh wp z0 (onStreamTable rq a s) := by
  unfold onStreamTable; try dsimp only
  repeat' with_reducible first | assumption | apply take_keeps | apply checked_keeps | apply replyOk_keeps | apply modPort_keeps | (fail_if_no_progress apply Keeps.upd) | split | intro _

theorem onPreemptVerified_keeps {wh wp : Bool} {z0 : State} (p : Nat) {s : State} (hk0 : Keeps wh wp z0 s) :
    Keeps wh wp z0 (onPreemptVerified p s) := by
  unfold onPreemptVerified
  repeat' with_reducible first | assumption | apply drainPort_keeps | apply modPort_keeps | (fail_if_no_progress apply Keeps.upd) | split | intro _

theorem readdress_keeps {wh wp : Bool} {z0 : State} {s : State} (p : Nat) (old : Nat) (new : Nat) (hk0 : Keeps wh wp z0 s) :
    Keeps wh wp z0 (readdress s p old new) := by
  unfold readdress
  repeat' with_reducible first | assumption | apply modPort_keeps | (fail_if_no_progress apply Keeps.upd) | split | intro _

theorem portEffect_keeps {wh wp : Bool} {z0 : State} {s : State} (p : Nat) (off : Nat) (old : Nat) (new : Nat) (hk0 : Keeps wh wp z0 s) :
    Keeps wh wp z0 (portEffect s p off old new) := by
  unfold portEffect; try dsimp only
  repeat' with_reducible first | assumption | apply dropLink_keeps | apply readdress_keeps | apply reselect_keeps | apply gptpUp_keeps | apply gptpDown_keeps | apply drainPort_keeps | apply modPort_keeps | (fail_if_no_progress apply Keeps.upd) | split | intro _

theorem modPwr_keeps {wh wp : Bool} {z0 : State} {s : State} (f : Power → Power) (hk0 : Keeps wh wp z0 s) :
    Keeps wh wp z0 (modPwr s f) := by
  unfold modPwr
  repeat' with_reducible first | assumption | (fail_if_no_progress apply Keeps.upd)

theorem pwrEvent_keeps {wh wp : Bool} {z0 : State} {s : State} (old : Nat) (new : Nat) (cause : Nat) (hk0 : Keeps wh wp z0 s) :
    Keeps wh wp z0 (pwrEvent s old new cause) := by
  unfold pwrEvent; try dsimp only
  repeat' with_reducible first | assumption | apply event_keeps | (refine Keeps.foldl _ ?_ (fun _ _ _ => ?_)) | intro _

theorem enterLevel3_keeps {wh : Bool} {z0 : State} {s : State} (hk0 : Keeps wh true z0 s) :
    Keeps wh true z0 (enterLevel3 s) := by
  unfold enterLevel3; try dsimp only
  repeat' with_reducible first | assumption | apply killInsts_keeps | apply setCoreState_keeps | apply setCore_keeps | apply settleFuncs_keeps | (fail_if_no_progress apply Keeps.upd) | (refine Keeps.foldl _ ?_ (fun _ _ _ => ?_)) | split | intro _

theorem setLevel_keeps {wh : Bool} {z0 : State} {s : State} (new : Nat) (cause : Nat) (hk0 : Keeps wh true z0 s) :
    Keeps wh true z0 (setLevel s new cause) := by
  unfold setLevel; try dsimp only
  repeat' with_reducible first | assumption | apply modPwr_keeps | apply enterLevel3_keeps | apply trace_keeps | apply out_keeps | apply pwrEvent_keeps | (fail_if_no_progress apply Keeps.upd) | split | intro _

theorem judgeLevel_keeps {wh : Bool} {z0 : State} {s : State} (hk0 : Keeps wh true z0 s) :
    Keeps wh true z0 (judgeLevel s) := by
  unfold judgeLevel; try dsimp only
  repeat' with_reducible first | assumption | apply setLevel_keeps | apply modPwr_keeps | (fail_if_no_progress apply Keeps.upd) | split | intro _

theorem judgeHold_keeps {wh wp : Bool} {z0 : State} {s : State} (hk0 : Keeps wh wp z0 s) :
    Keeps wh wp z0 (judgeHold s) := by
  unfold judgeHold; try dsimp only
  repeat' with_reducible first | assumption | apply modPwr_keeps | (fail_if_no_progress apply Keeps.upd) | split | intro _

theorem tripChip_keeps {wh wp : Bool} {z0 : State} {s : State} (hk0 : Keeps wh wp z0 s) :
    Keeps wh wp z0 (tripChip s) := by
  unfold tripChip; try dsimp only
  repeat' with_reducible first | assumption | apply modPwr_keeps | apply setPort_keeps | apply out_keeps | (fail_if_no_progress apply Keeps.upd) | (refine Keeps.foldl _ ?_ (fun _ _ _ => ?_)) | intro _

theorem storeReadings_keeps {wh wp : Bool} {z0 : State} {s : State} (r : SensorReadings) (hk0 : Keeps wh wp z0 s) :
    Keeps wh wp z0 (storeReadings s r) := by
  unfold storeReadings
  repeat' with_reducible first | assumption | apply modPwr_keeps | (fail_if_no_progress apply Keeps.upd) | split | intro _

theorem onSensorSample_keeps {wh : Bool} {z0 : State} (r : SensorReadings) {s : State} (hk0 : Keeps wh true z0 s) :
    Keeps wh true z0 (onSensorSample r s) := by
  unfold onSensorSample; try dsimp only
  repeat' with_reducible first | assumption | apply modPwr_keeps | apply storeReadings_keeps | apply tripChip_keeps | apply judgeLevel_keeps | apply judgeHold_keeps | (fail_if_no_progress apply Keeps.upd) | split | intro _

theorem keepSample_keeps {wh wp : Bool} {z0 : State} {s : State} (r : RailReadings) (hk0 : Keeps wh wp z0 s) :
    Keeps wh wp z0 (keepSample s r) := by
  unfold keepSample
  repeat' with_reducible first | assumption | apply modPwr_keeps | (fail_if_no_progress apply Keeps.upd) | intro _

theorem onCurrentSample_keeps {wh : Bool} {z0 : State} (r : RailReadings) {s : State} (hk0 : Keeps wh true z0 s) :
    Keeps wh true z0 (onCurrentSample r s) := by
  unfold onCurrentSample; try dsimp only
  repeat' with_reducible first | assumption | apply keepSample_keeps | apply modPwr_keeps | apply judgeLevel_keeps | apply judgeHold_keeps | (fail_if_no_progress apply Keeps.upd) | split | intro _

theorem onPowerLoop_keeps {wh : Bool} {z0 : State} {s : State} (hk0 : Keeps wh true z0 s) :
    Keeps wh true z0 (onPowerLoop s) := by
  unfold onPowerLoop; try dsimp only
  repeat' with_reducible first | assumption | apply modPwr_keeps | apply draw_keeps | apply judgeLevel_keeps | (fail_if_no_progress apply Keeps.upd) | split | intro _

theorem evict_keeps {wh : Bool} {z0 : State} {s : State} (c : Nat) (hk0 : Keeps wh true z0 s) :
    Keeps wh true z0 (evict s c) := by
  unfold evict
  repeat' with_reducible first | assumption | apply leaveCore_keeps | (refine Keeps.foldl _ ?_ (fun _ _ _ => ?_)) | split | intro _

theorem parkCore_keeps {wh : Bool} {z0 : State} {s : State} (c : Nat) (hk0 : Keeps wh true z0 s) :
    Keeps wh true z0 (parkCore s c) := by
  unfold parkCore; try dsimp only
  repeat' with_reducible first | assumption | apply evict_keeps | apply settleFuncs_keeps | apply setCore_keeps | (fail_if_no_progress apply Keeps.upd)

theorem onParkPeriod_keeps {wh : Bool} {z0 : State} {s : State} (hk0 : Keeps wh true z0 s) :
    Keeps wh true z0 (onParkPeriod s) := by
  unfold onParkPeriod; try dsimp only
  repeat' with_reducible first | assumption | apply modPwr_keeps | apply refresh_keeps | apply take_keeps | apply parkCore_keeps | apply setCoreState_keeps | (fail_if_no_progress apply Keeps.upd) | (refine Keeps.foldl _ ?_ (fun _ _ _ => ?_)) | split | intro _

theorem modFw_keeps {wh wp : Bool} {z0 : State} {s : State} (f : Firmware → Firmware) (hk0 : Keeps wh wp z0 s) :
    Keeps wh wp z0 (modFw s f) := by
  unfold modFw
  repeat' with_reducible first | assumption | (fail_if_no_progress apply Keeps.upd)

theorem modProc_keeps {wh wp : Bool} {z0 : State} {s : State} (p : Nat) (f : Processor → Processor) (hk0 : Keeps wh wp z0 s) :
    Keeps wh wp z0 (modProc s p f) := by
  unfold modProc
  repeat' with_reducible first | assumption | apply setProc_keeps

theorem fwLog_keeps {wh wp : Bool} {z0 : State} {s : State} (proc : Nat) (hk0 : Keeps wh wp z0 s) :
    Keeps wh wp z0 (fwLog s proc) := by
  unfold fwLog; try dsimp only
  repeat' with_reducible first | assumption | apply pushLog_keeps | (fail_if_no_progress apply Keeps.upd) | split

theorem fwEvent_keeps {wh wp : Bool} {z0 : State} {s : State} (proc : Nat) (change : Nat) (cause : Nat) (build : Nat) (hk0 : Keeps wh wp z0 s) :
    Keeps wh wp z0 (fwEvent s proc change cause build) := by
  unfold fwEvent
  repeat' with_reducible first | assumption | apply event_keeps | apply fwLog_keeps | split

theorem onFwLoad_keeps {wh wp : Bool} {z0 : State} (rq : Req) (offset : Word) (reserved : Word) (data : List Byte) {s : State} (hk0 : Keeps wh wp z0 s) :
    Keeps wh wp z0 (onFwLoad rq offset reserved data s) := by
  unfold onFwLoad
  repeat' with_reducible first | assumption | apply take_keeps | apply checked_keeps | apply replyOk_keeps | apply modFw_keeps | (fail_if_no_progress apply Keeps.upd) | intro _

theorem onFwActivate_keeps {wh wp : Bool} {z0 : State} (rq : Req) (n : Word) (reserved : Word) {s : State} (hk0 : Keeps wh wp z0 s) :
    Keeps wh wp z0 (onFwActivate rq n reserved s) := by
  unfold onFwActivate; try dsimp only
  repeat' with_reducible first | assumption | apply take_keeps | apply checked_keeps | apply accept_keeps | apply modFw_keeps | apply request_keeps | (fail_if_no_progress apply Keeps.upd) | split | intro _

theorem endActivation_keeps {wh wp : Bool} {z0 : State} {s : State} (device : Nat) (status : Nat) (detail : Nat) (hk0 : Keeps wh wp z0 s) :
    Keeps wh wp z0 (endActivation s device status detail) := by
  unfold endActivation; try dsimp only
  repeat' with_reducible first | assumption | apply request_keeps | apply modFw_keeps | apply complete_keeps | (fail_if_no_progress apply Keeps.upd) | split | intro _

theorem finishActivation_keeps {wh wp : Bool} {z0 : State} {s : State} (hk0 : Keeps wh wp z0 s) :
    Keeps wh wp z0 (finishActivation s) := by
  unfold finishActivation; try dsimp only
  repeat' with_reducible first | assumption | apply modFw_keeps | apply endActivation_keeps | apply fwEvent_keeps | (fail_if_no_progress apply Keeps.upd) | intro _

theorem startRestart_keeps {wh wp : Bool} {z0 : State} {s : State} (p : Nat) (cause : Nat) (hk0 : Keeps wh wp z0 s) :
    Keeps wh wp z0 (startRestart s p cause) := by
  unfold startRestart; try dsimp only
  repeat' with_reducible first | assumption | apply modProc_keeps | apply modPwr_keeps | apply timeHold_keeps | (fail_if_no_progress apply Keeps.upd) | split | intro _

theorem activationStep_keeps {wh wp : Bool} {z0 : State} {s : State} (hk0 : Keeps wh wp z0 s) :
    Keeps wh wp z0 (activationStep s) := by
  unfold activationStep; try dsimp only
  repeat' with_reducible first | assumption | apply fwEvent_keeps | apply modFw_keeps | apply startRestart_keeps | (fail_if_no_progress apply Keeps.upd) | split | intro _

theorem onActivationResume_keeps {wh wp : Bool} {z0 : State} {s : State} (hk0 : Keeps wh wp z0 s) :
    Keeps wh wp z0 (onActivationResume s) := by
  unfold onActivationResume
  repeat' with_reducible first | assumption | apply activationStep_keeps | split

theorem startProcessors_keeps {wh wp : Bool} {z0 : State} {s : State} (build : Nat) (hk0 : Keeps wh wp z0 s) :
    Keeps wh wp z0 (startProcessors s build) := by
  unfold startProcessors
  repeat' with_reducible first | assumption | apply timeStart_keeps | apply modProc_keeps | (fail_if_no_progress apply Keeps.upd) | (refine Keeps.foldl _ ?_ (fun _ _ _ => ?_)) | intro _

theorem onFwVerifyDone_keeps {wh wp : Bool} {z0 : State} {s : State} (hk0 : Keeps wh wp z0 s) :
    Keeps wh wp z0 (onFwVerifyDone s) := by
  unfold onFwVerifyDone; try dsimp only
  repeat' with_reducible first | assumption | apply endActivation_keeps | apply startProcessors_keeps | apply modFw_keeps | apply activationStep_keeps | (fail_if_no_progress apply Keeps.upd) | split | intro _

theorem faultTime_keeps {wh wp : Bool} {z0 : State} {s : State} (d : Nat) (hk0 : Keeps wh wp z0 s) :
    Keeps wh wp z0 (faultTime s d) := by
  unfold faultTime
  repeat' with_reducible first | assumption | (fail_if_no_progress apply Keeps.upd) | intro _

theorem restartDone_keeps {wh wp : Bool} {z0 : State} {s : State} (p : Nat) (hk0 : Keeps wh wp z0 s) :
    Keeps wh wp z0 (restartDone s p) := by
  unfold restartDone; try dsimp only
  repeat' with_reducible first | assumption | apply setProc_keeps | apply fwEvent_keeps | apply complete_keeps | apply timeStart_keeps | apply faultTime_keeps | apply modFw_keeps | apply finishActivation_keeps | apply activationStep_keeps | (fail_if_no_progress apply Keeps.upd) | (refine Keeps.foldl _ ?_ (fun _ _ _ => ?_)) | split | intro _

theorem procFault_keeps {wh : Bool} {z0 : State} (p : Nat) (cause : Nat) {s : State} (hk0 : Keeps wh true z0 s) :
    Keeps wh true z0 (procFault p cause s) := by
  unfold procFault; try dsimp only
  repeat' with_reducible first | assumption | apply setProc_keeps | apply modPwr_keeps | apply fwEvent_keeps | apply judgeHold_keeps | apply setLevel_keeps | apply startRestart_keeps | (fail_if_no_progress apply Keeps.upd) | split | intro _

theorem onHoldRelease_keeps {wh wp : Bool} {z0 : State} {s : State} (hk0 : Keeps wh wp z0 s) :
    Keeps wh wp z0 (onHoldRelease s) := by
  unfold onHoldRelease
  repeat' with_reducible first | assumption | apply startRestart_keeps | apply modPwr_keeps | (fail_if_no_progress apply Keeps.upd) | split | intro _

theorem onFwRestart_keeps {wh wp : Bool} {z0 : State} (rq : Req) (p : Byte) (reserved : BitVec 24) {s : State} (hk0 : Keeps wh wp z0 s) :
    Keeps wh wp z0 (onFwRestart rq p reserved s) := by
  unfold onFwRestart; try dsimp only
  repeat' with_reducible first | assumption | apply take_keeps | apply checked_keeps | apply accept_keeps | apply startRestart_keeps | apply modProc_keeps | (fail_if_no_progress apply Keeps.upd) | split | intro _

theorem testCores_keeps {wh wp : Bool} {z0 : State} {s : State} (r : SelfTestReport) (hk0 : Keeps wh wp z0 s) :
    Keeps wh wp z0 (testCores s r) := by
  unfold testCores; try dsimp only
  repeat' with_reducible first | assumption | apply setCoreState_keeps | apply setCore_keeps | (fail_if_no_progress apply Keeps.upd) | (refine Keeps.foldl _ ?_ (fun _ _ _ => ?_)) | split | intro _

theorem onSelfTestDone_keeps {wh wp : Bool} {z0 : State} (r : SelfTestReport) {s : State} (hk0 : Keeps wh wp z0 s) :
    Keeps wh wp z0 (onSelfTestDone r s) := by
  unfold onSelfTestDone; try dsimp only
  repeat' with_reducible first | assumption | apply testCores_keeps | apply finishActivation_keeps | apply modProc_keeps | apply timeHold_keeps | apply endActivation_keeps | (fail_if_no_progress apply Keeps.upd) | (refine Keeps.foldl _ ?_ (fun _ _ _ => ?_)) | split | intro _

theorem onLogRead_keeps {wh wp : Bool} {z0 : State} (rq : Req) (first : Word) (maximum : Half) (reserved : Half) {s : State} (hk0 : Keeps wh wp z0 s) :
    Keeps wh wp z0 (onLogRead rq first maximum reserved s) := by
  unfold onLogRead
  repeat' with_reducible first | assumption | apply take_keeps | apply checked_keeps | apply replyOk_keeps | intro _

theorem armEnroll_keeps {wh wp : Bool} {z0 : State} {s : State} (hk0 : Keeps wh wp z0 s) :
    Keeps wh wp z0 (armEnroll s) := by
  unfold armEnroll
  repeat' with_reducible first | assumption | (fail_if_no_progress apply Keeps.upd) | split

theorem onEntropyFail_keeps {wh wp : Bool} {z0 : State} {s : State} (hk0 : Keeps wh wp z0 s) :
    Keeps wh wp z0 (onEntropyFail s) := by
  unfold onEntropyFail
  repeat' with_reducible first | assumption | (fail_if_no_progress apply Keeps.upd) | split

theorem onEnrollExpiry_keeps {wh wp : Bool} {z0 : State} {s : State} (hk0 : Keeps wh wp z0 s) :
    Keeps wh wp z0 (onEnrollExpiry s) := by
  unfold onEnrollExpiry
  repeat' with_reducible first | assumption | (fail_if_no_progress apply Keeps.upd) | split

theorem onSecCert_keeps {wh wp : Bool} {z0 : State} (rq : Req) {s : State} (hk0 : Keeps wh wp z0 s) :
    Keeps wh wp z0 (onSecCert rq s) := by
  unfold onSecCert
  repeat' with_reducible first | assumption | apply take_keeps | apply replyOk_keeps | intro _

theorem onSecAttest_keeps {wh wp : Bool} {z0 : State} (rq : Req) (challenge : List Byte) {s : State} (hk0 : Keeps wh wp z0 s) :
    Keeps wh wp z0 (onSecAttest rq challenge s) := by
  unfold onSecAttest
  repeat' with_reducible first | assumption | apply take_keeps | apply replyOk_keeps | intro _

theorem onOwnerChange_keeps {wh wp : Bool} {z0 : State} (rq : Req) (key : List Byte) (signature : List Byte) {s : State} (hk0 : Keeps wh wp z0 s) :
    Keeps wh wp z0 (onOwnerChange rq key signature s) := by
  unfold onOwnerChange
  repeat' with_reducible first | assumption | apply take_keeps | apply refuse_keeps | apply accept_keeps | apply nvrEnqueue_keeps | (fail_if_no_progress apply Keeps.upd) | split | intro _

theorem ownerWrite_keeps {wh wp : Bool} {z0 : State} {s : State} (op : Nat) (rq : Req) (t : Nat) (w : Nat) (v : Nat) (hk0 : Keeps wh wp z0 s) :
    Keeps wh wp z0 (ownerWrite s op rq t w v) := by
  unfold ownerWrite
  repeat' with_reducible first | assumption | apply refuse_keeps | apply accept_keeps | apply nvrEnqueue_keeps | split | intro _

theorem onSecKeyRevoke_keeps {wh wp : Bool} {z0 : State} (rq : Req) (index : Byte) (reserved : BitVec 24) {s : State} (hk0 : Keeps wh wp z0 s) :
    Keeps wh wp z0 (onSecKeyRevoke rq index reserved s) := by
  unfold onSecKeyRevoke; try dsimp only
  repeat' with_reducible first | assumption | apply take_keeps | apply checked_keeps | apply replyOk_keeps | apply refuse_keeps | apply ownerWrite_keeps | split | intro _

theorem onSecRollbackRaise_keeps {wh wp : Bool} {z0 : State} (rq : Req) (minimum : Word) {s : State} (hk0 : Keeps wh wp z0 s) :
    Keeps wh wp z0 (onSecRollbackRaise rq minimum s) := by
  unfold onSecRollbackRaise; try dsimp only
  repeat' with_reducible first | assumption | apply take_keeps | apply checked_keeps | apply replyOk_keeps | apply refuse_keeps | apply ownerWrite_keeps | split | intro _

theorem resetChip_keeps {z0 s : State} (cause : Nat) (hk0 : Keeps true true z0 s) : Keeps true true z0 (resetChip s cause) :=
  ⟨hk0.1, nofun, nofun, fun _ => ⟨rfl, rfl⟩⟩

theorem strapPort_keeps {wh wp : Bool} {z0 : State} {s : State} (p : Nat) (hk0 : Keeps wh wp z0 s) :
    Keeps wh wp z0 (strapPort s p) := by
  unfold strapPort; try dsimp only
  repeat' with_reducible first | assumption | apply setRegW_keeps | split

theorem boot_keeps {wh wp : Bool} {z0 : State} {s : State} (hk0 : Keeps wh wp z0 s) :
    Keeps wh wp z0 (boot s) := by
  unfold boot; try dsimp only
  repeat' with_reducible first | assumption | apply setRegW_keeps | apply raiseBoot_keeps | apply strapPort_keeps | (fail_if_no_progress apply Keeps.upd) | (refine Keeps.foldl _ ?_ (fun _ _ _ => ?_))

theorem setPins_keeps {wh wp : Bool} {z0 : State} {s : State} (x : StrapLevels) (hk0 : Keeps wh wp z0 s) :
    Keeps wh wp z0 (setPins s x) := by
  unfold setPins
  repeat' with_reducible first | assumption | (fail_if_no_progress apply Keeps.upd)

theorem sampleStraps_keeps {wh wp : Bool} {z0 : State} {s : State} (hk0 : Keeps wh wp z0 s) :
    Keeps wh wp z0 (sampleStraps s) := by
  unfold sampleStraps
  repeat' with_reducible first | assumption | (fail_if_no_progress apply Keeps.upd)

theorem resetNow_keeps {z0 : State} {s : State} (cause : Nat) (hk0 : Keeps true true z0 s) :
    Keeps true true z0 (resetNow s cause) := by
  unfold resetNow
  repeat' with_reducible first | assumption | apply boot_keeps | apply sampleStraps_keeps | apply resetChip_keeps

theorem alsoCause_keeps {wh wp : Bool} {z0 : State} {s : State} (cause : Nat) (hk0 : Keeps wh wp z0 s) :
    Keeps wh wp z0 (alsoCause s cause) := by
  unfold alsoCause
  repeat' with_reducible first | assumption | (fail_if_no_progress apply Keeps.upd) | split

theorem onResetAssert_keeps {z0 : State} {s : State} (hk0 : Keeps true true z0 s) :
    Keeps true true z0 (onResetAssert s) := by
  unfold onResetAssert
  repeat' with_reducible first | assumption | apply resetChip_keeps | apply alsoCause_keeps | (fail_if_no_progress apply Keeps.upd) | split

theorem resetAfterTrip_keeps {z0 : State} {s : State} (hk0 : Keeps true true z0 s) :
    Keeps true true z0 (resetAfterTrip s) := by
  unfold resetAfterTrip
  repeat' with_reducible first | assumption | apply boot_keeps | apply resetChip_keeps

theorem releaseReset_keeps {z0 : State} {s : State} (hk0 : Keeps true true z0 s) :
    Keeps true true z0 (releaseReset s) := by
  unfold releaseReset
  repeat' with_reducible first | assumption | apply boot_keeps | apply sampleStraps_keeps | apply resetAfterTrip_keeps | (fail_if_no_progress apply Keeps.upd) | split

theorem onResetRelease_keeps {z0 : State} (x : StrapLevels) {s : State} (hk0 : Keeps true true z0 s) :
    Keeps true true z0 (onResetRelease x s) := by
  unfold onResetRelease
  repeat' with_reducible first | assumption | apply setPins_keeps | apply releaseReset_keeps | split

theorem onHoldOffEnd_keeps {z0 : State} {s : State} (hk0 : Keeps true true z0 s) :
    Keeps true true z0 (onHoldOffEnd s) := by
  unfold onHoldOffEnd
  repeat' with_reducible first | assumption | apply resetAfterTrip_keeps | split

theorem onPowerOn_keeps {z0 : State} (x : StrapLevels) {s : State} (hk0 : Keeps true true z0 s) :
    Keeps true true z0 (onPowerOn x s) := by
  unfold onPowerOn
  repeat' with_reducible first | assumption | apply sampleStraps_keeps | apply setPins_keeps | apply resetChip_keeps

theorem onPllUnlock_keeps {z0 : State} {s : State} (hk0 : Keeps true true z0 s) :
    Keeps true true z0 (onPllUnlock s) := by
  unfold onPllUnlock
  repeat' with_reducible first | assumption | apply resetNow_keeps | apply alsoCause_keeps | split

theorem onResetTimer_keeps {z0 : State} {s : State} (hk0 : Keeps true true z0 s) :
    Keeps true true z0 (onResetTimer s) := by
  unfold onResetTimer
  repeat' with_reducible first | assumption | apply resetNow_keeps | split

theorem setClk_keeps {wh wp : Bool} {z0 : State} {s : State} (b : Nat) (on : Bool) (hk0 : Keeps wh wp z0 s) :
    Keeps wh wp z0 (setClk s b on) := by
  unfold setClk
  repeat' with_reducible first | assumption | (fail_if_no_progress apply Keeps.upd)

theorem onPhyLock_keeps {wh wp : Bool} {z0 : State} (r : PhyRef) {s : State} (hk0 : Keeps wh wp z0 s) :
    Keeps wh wp z0 (onPhyLock r s) := by
  unfold onPhyLock; try dsimp only
  repeat' with_reducible first | assumption | apply setClk_keeps | apply startTraining_keeps | apply setTx_keeps | (fail_if_no_progress apply Keeps.upd) | (refine Keeps.foldl _ ?_ (fun _ _ _ => ?_)) | split | intro _

theorem onPhyLost_keeps {wh wp : Bool} {z0 : State} (r : PhyRef) {s : State} (hk0 : Keeps wh wp z0 s) :
    Keeps wh wp z0 (onPhyLost r s) := by
  unfold onPhyLost; try dsimp only
  repeat' with_reducible first | assumption | apply stampTx_keeps | apply setClk_keeps | apply setTx_keeps | apply linkEvent_keeps | apply loseLink_keeps | apply onCsiLink_keeps | apply dropLink_keeps | (fail_if_no_progress apply Keeps.upd) | (refine Keeps.foldl _ ?_ (fun _ _ _ => ?_)) | split | intro _

theorem setTargetFunc_keeps {wh wp : Bool} {z0 : State} {s : State} (k : Nat) (i : Nat) (f : Func) (hk0 : Keeps wh wp z0 s) :
    Keeps wh wp z0 (setTargetFunc s k i f) := by
  unfold setTargetFunc
  repeat' with_reducible first | assumption | apply setCore_keeps | apply modLoop_keeps | apply modPipe_keeps | apply setCtx_keeps | apply setLane_keeps | apply setUnit_keeps | (fail_if_no_progress apply Keeps.upd) | split | intro _

theorem abortCmds_keeps {wh : Bool} {z0 : State} {s : State} (qs : List Placed) (hk0 : Keeps wh true z0 s) :
    Keeps wh true z0 (abortCmds s qs).1 := by
  unfold abortCmds; try dsimp only
  repeat' with_reducible first | assumption | apply failStep_keeps | (fail_if_no_progress apply Keeps.upd) | (refine Keeps.foldl _ ?_ (fun _ _ _ => ?_)) | split | intro _

theorem abortCmds_eq_keeps {wh : Bool} {z0 s t : State} {qs : List Placed} {r : Nat}
    (hk0 : Keeps wh true z0 s) (h : abortCmds s qs = (t, r)) : Keeps wh true z0 t := by
  have := abortCmds_keeps qs hk0
  rwa [h] at this

theorem abortLoop_keeps {wh : Bool} {z0 : State} {s : State} (i : Nat) (hk0 : Keeps wh true z0 s) :
    Keeps wh true z0 (abortLoop s i) := by
  unfold abortLoop
  repeat' with_reducible first | assumption | apply endSeq_keeps | apply failStep_keeps | (refine Keeps.foldl _ ?_ (fun _ _ _ => ?_)) | split | intro _

theorem abortTarget_keeps {z0 : State} {s : State} (k : Nat) (i : Nat) (hk0 : Keeps true true z0 s) :
    Keeps true true z0 (abortTarget s k i) := by
  unfold abortTarget; try dsimp only
  repeat' with_reducible first | assumption | apply settleFuncs_keeps | apply setTargetFunc_keeps | refine abortCmds_eq_keeps ?_ ‹_› | apply abortCmds_keeps | apply abortLoop_keeps | refine endFunc_eq_keeps ?_ ‹_› | apply endFunc_keeps | apply blankPipe_keeps | apply modPipe_keeps | apply ctxStop_keeps | apply laneStop_keeps | (fail_if_no_progress apply Keeps.upd) | split | intro _

theorem drainTarget_keeps {wp : Bool} {z0 : State} {s : State} (k : Nat) (i : Nat) (hk0 : Keeps true wp z0 s) :
    Keeps true wp z0 (drainTarget s k i) := by
  unfold drainTarget
  repeat' with_reducible first | assumption | apply modPipe_keeps | apply ctxStop_keeps | apply laneStop_keeps | apply settleFuncs_keeps | (fail_if_no_progress apply Keeps.upd) | split | intro _

theorem onFuncDisable_keeps {z0 : State} (rq : Req) (a : FuncArgs) {s : State} (hk0 : Keeps true true z0 s) :
    Keeps true true z0 (onFuncDisable rq a s) := by
  unfold onFuncDisable; try dsimp only
  repeat' with_reducible first | assumption | apply take_keeps | apply refuse_keeps | apply replyOk_keeps | apply accept_keeps | apply abortTarget_keeps | apply setTargetFunc_keeps | apply drainTarget_keeps | (fail_if_no_progress apply Keeps.upd) | split | intro _

theorem enableCore_keeps {wh wp : Bool} {z0 : State} {s : State} (c : Nat) (hk0 : Keeps wh wp z0 s) :
    Keeps wh wp z0 (enableCore s c) := by
  unfold enableCore; try dsimp only
  repeat' with_reducible first | assumption | apply setCore_keeps | apply setCoreState_keeps | (fail_if_no_progress apply Keeps.upd) | split | intro _

theorem enableTarget_keeps {wh wp : Bool} {z0 : State} {s : State} (k : Nat) (i : Nat) (hk0 : Keeps wh wp z0 s) :
    Keeps wh wp z0 (enableTarget s k i) := by
  unfold enableTarget
  repeat' with_reducible first | assumption | apply enableCore_keeps | apply enablePipe_keeps | apply ctxEnable_keeps | apply setTargetFunc_keeps | split

theorem onFuncEnable_keeps {wh wp : Bool} {z0 : State} (rq : Req) (a : FuncArgs) {s : State} (hk0 : Keeps wh wp z0 s) :
    Keeps wh wp z0 (onFuncEnable rq a s) := by
  unfold onFuncEnable; try dsimp only
  repeat' with_reducible first | assumption | apply take_keeps | apply refuse_keeps | apply replyOk_keeps | apply enableTarget_keeps | split | intro _

theorem eccGalliard_keeps {wh wp : Bool} {z0 : State} {s : State} (p : Nat) (errBit : Nat) (f : GalRun → GalRun) (hk0 : Keeps wh wp z0 s) :
    Keeps wh wp z0 (eccGalliard s p errBit f) := by
  unfold eccGalliard
  repeat' with_reducible first | assumption | apply galErr_keeps | apply modGal_keeps | apply countUncorr_keeps | split

theorem eccRegion_keeps {wp : Bool} {z0 : State} {s : State} (l : Nat) (va : Nat) (region : Stream → Nat × Nat) (hk0 : Keeps true wp z0 s) :
    Keeps true wp z0 (eccRegion s l va region) := by
  unfold eccRegion; try dsimp only
  repeat' with_reducible first | assumption | apply eccLane_keeps | apply markBad_keeps | split

theorem onUncorrectable_keeps {z0 : State} (site : EccSite) {s : State} (hk0 : Keeps true true z0 s) :
    Keeps true true z0 (onUncorrectable site s) := by
  unfold onUncorrectable
  repeat' with_reducible first | assumption | apply eccRegion_keeps | apply tableLane_keeps | apply eccGalliard_keeps | apply eccOfCommand_keeps | (fail_if_no_progress apply Keeps.upd) | split | intro _

end Sys2Proof.Machine
end

