-- ==== Sys2Proof/Laws/KeepAccess.lean ====
section
/-! SUPPORT. Laws/KeepAccess.lean: register access, the ports and received datagrams keep the queue, the canonical form of memory and, where they store nothing,
memory itself. -/

namespace Sys2Proof.Machine

open Sys2Proof

theorem keepWord_keeps {wh wp : Bool} {z0 : State} {s : State} (a : Nat) (v : Nat) (hk0 : Keeps wh wp z0 s) :
    Keeps wh wp z0 (keepWord s a v) := by
  unfold keepWord; try dsimp only
  repeat' with_reducible first | assumption | apply setRegW_keeps | (fail_if_no_progress apply Keeps.upd) | split | intro _

theorem stored_keeps {wh wp : Bool} {z0 : State} {s : State} (ws : List Write) (hk0 : Keeps wh wp z0 s) :
    Keeps wh wp z0 (stored s ws) := by
  unfold stored
  repeat' with_reducible first | assumption | apply keepWord_keeps | (refine Keeps.foldl _ ?_ (fun _ _ _ => ?_)) | intro _

theorem pipesGone_keeps {wh wp : Bool} {z0 : State} {s : State} (old : Nat) (new : Nat) (hk0 : Keeps wh wp z0 s) :
    Keeps wh wp z0 (pipesGone s old new) := by
  unfold pipesGone
  repeat' with_reducible first | assumption | apply resetPipe_keeps | (refine Keeps.foldl _ ?_ (fun _ _ _ => ?_)) | intro _

theorem enabledEffect_keeps {wh wp : Bool} {z0 : State} {s : State} (n : Nat) (new : Nat) (hk0 : Keeps wh wp z0 s) :
    Keeps wh wp z0 (enabledEffect s n new) := by
  unfold enabledEffect
  repeat' with_reducible first | assumption | apply setTenState_keeps | split

theorem beaconEffect_keeps {wh wp : Bool} {z0 : State} {s : State} (new : Nat) (hk0 : Keeps wh wp z0 s) :
    Keeps wh wp z0 (beaconEffect s new) := by
  unfold beaconEffect; try dsimp only
  repeat' with_reducible first | assumption | (fail_if_no_progress apply Keeps.upd) | split | intro _

theorem wordEffect_keeps {wp : Bool} {z0 : State} {s : State} (t : Nat) (a : Nat) (old : Nat) (new : Nat) (hk0 : Keeps true wp z0 s) :
    Keeps true wp z0 (wordEffect s t a old new) := by
  unfold wordEffect; try dsimp only
  repeat' with_reducible first | assumption | apply beaconEffect_keeps | apply modTen_keeps | apply pipesGone_keeps | apply enabledEffect_keeps | apply fgEffect_keeps | apply galEffect_keeps | apply csiEffect_keeps | apply tdmEffect_keeps | apply stopPipe_keeps | apply applyEffect_keeps | apply txEffect_keeps | apply portEffect_keeps | apply wallEffect_keeps | apply timEffect_keeps | (fail_if_no_progress apply Keeps.upd) | apply Keeps.ite | split | intro _

theorem writeAll_keeps {wp : Bool} {z0 : State} {s : State} (t : Nat) (ws : List Write) (hk0 : Keeps true wp z0 s) :
    Keeps true wp z0 (writeAll s t ws) := by
  unfold writeAll
  repeat' with_reducible first | assumption | apply wordEffect_keeps | apply keepWord_keeps | (refine Keeps.foldl _ ?_ (fun _ _ _ => ?_)) | intro _

theorem afterReply_keeps {z0 : State} {s : State} (ws : List Write) (hk0 : Keeps true true z0 s) :
    Keeps true true z0 (afterReply s ws) := by
  unfold afterReply
  repeat' with_reducible first | assumption | apply forceReclaim_keeps | (fail_if_no_progress apply Keeps.upd) | (refine Keeps.foldl _ ?_ (fun _ _ _ => ?_)) | split | intro _

theorem holdWrites_keeps {wh wp : Bool} {z0 : State} {s : State} (rq : Req) (ws : List Write) (hk0 : Keeps wh wp z0 s) :
    Keeps wh wp z0 (holdWrites s rq ws) := by
  unfold holdWrites; try dsimp only
  repeat' with_reducible first | assumption | (fail_if_no_progress apply Keeps.upd) | split | intro _

theorem commitWrites_keeps {z0 : State} {s : State} (op : Nat) (rq : Req) (t : Nat) (ws : List Write) (payload : List Byte) (hk0 : Keeps true true z0 s) :
    Keeps true true z0 (commitWrites s op rq t ws payload) := by
  unfold commitWrites
  repeat' with_reducible first | assumption | apply afterReply_keeps | apply replyOk_keeps | apply writeAll_keeps | apply holdWrites_keeps

theorem regWriteBody_keeps {z0 : State} {s : State} (op : Nat) (rq : Req) (t : Nat) (addr : Nat) (count : Nat) (reserved : Nat) (vs : List Nat) (hk0 : Keeps true true z0 s) :
    Keeps true true z0 (regWriteBody s op rq t addr count reserved vs) := by
  unfold regWriteBody; try dsimp only
  repeat' with_reducible first | assumption | apply reply_keeps | apply packet_keeps | apply accept_keeps | apply nvrEnqueue_keeps | apply commitWrites_keeps | split | intro _

theorem onRegWrite_keeps {z0 : State} (rq : Req) (address : Word) (count : Half) (reserved : Half) (values : List Word) {s : State} (hk0 : Keeps true true z0 s) :
    Keeps true true z0 (onRegWrite rq address count reserved values s) := by
  unfold onRegWrite
  repeat' with_reducible first | assumption | apply take_keeps | apply regWriteBody_keeps | intro _

theorem oneWrite_keeps {z0 : State} {s : State} (rq : Req) (a : Nat) (v : Nat → Nat) (hk0 : Keeps true true z0 s) :
    Keeps true true z0 (oneWrite s rq a v) := by
  unfold oneWrite
  repeat' with_reducible first | assumption | apply request_keeps | apply regWriteBody_keeps | intro _

theorem onRegUpdate_keeps {z0 : State} (rq : Req) (address : Word) (mask : Word) (value : Word) {s : State} (hk0 : Keeps true true z0 s) :
    Keeps true true z0 (onRegUpdate rq address mask value s) := by
  unfold onRegUpdate; try dsimp only
  repeat' with_reducible first | assumption | apply take_keeps | apply refuse_keeps | apply packet_keeps | apply commitWrites_keeps | split | intro _

theorem readBody_keeps {wh wp : Bool} {z0 : State} {s : State} (op : Nat) (rq : Req) (t : Nat) (count : Nat) (limit : Nat) (reserved : Nat) (as : List Nat) (head : Nat → List Byte) (hk0 : Keeps wh wp z0 s) :
    Keeps wh wp z0 (readBody s op rq t count limit reserved as head) := by
  unfold readBody; try dsimp only
  repeat' with_reducible first | assumption | apply reply_keeps | apply replyOk_keeps | split

theorem onRegRead_keeps {wh wp : Bool} {z0 : State} (rq : Req) (address : Word) (count : Half) (reserved : Half) {s : State} (hk0 : Keeps wh wp z0 s) :
    Keeps wh wp z0 (onRegRead rq address count reserved s) := by
  unfold onRegRead
  repeat' with_reducible first | assumption | apply take_keeps | apply readBody_keeps | intro _

theorem onRegReadList_keeps {wh wp : Bool} {z0 : State} (rq : Req) (count : Half) (reserved : Half) (addresses : List Word) {s : State} (hk0 : Keeps wh wp z0 s) :
    Keeps wh wp z0 (onRegReadList rq count reserved addresses s) := by
  unfold onRegReadList
  repeat' with_reducible first | assumption | apply take_keeps | apply readBody_keeps | intro _

theorem onRegWait_keeps {wh wp : Bool} {z0 : State} (rq : Req) (address : Word) (mask : Word) (expected : Word) (timeout : Word) {s : State} (hk0 : Keeps wh wp z0 s) :
    Keeps wh wp z0 (onRegWait rq address mask expected timeout s) := by
  unfold onRegWait; try dsimp only
  repeat' with_reducible first | assumption | apply take_keeps | apply refuse_keeps | apply replyOk_keeps | apply accept_keeps | apply setSes_keeps | (fail_if_no_progress apply Keeps.upd) | split | intro _

theorem endWait_keeps {wh wp : Bool} {z0 : State} {s : State} (i : Nat) (ss : Session) (w : RegWait) (status : Nat) (v : Nat) (hk0 : Keeps wh wp z0 s) :
    Keeps wh wp z0 (endWait s i ss w status v) := by
  unfold endWait
  repeat' with_reducible first | assumption | apply complete_keeps | apply setSes_keeps | (fail_if_no_progress apply Keeps.upd) | intro _

theorem onRegWaitPoll_keeps {wh wp : Bool} {z0 : State} (rq : Req) {s : State} (hk0 : Keeps wh wp z0 s) :
    Keeps wh wp z0 (onRegWaitPoll rq s) := by
  unfold onRegWaitPoll; try dsimp only
  repeat' with_reducible first | assumption | apply endWait_keeps | apply setSes_keeps | (fail_if_no_progress apply Keeps.upd) | split | intro _

theorem onRegWaitTimeout_keeps {wh wp : Bool} {z0 : State} (rq : Req) {s : State} (hk0 : Keeps wh wp z0 s) :
    Keeps wh wp z0 (onRegWaitTimeout rq s) := by
  unfold onRegWaitTimeout
  repeat' with_reducible first | assumption | apply endWait_keeps | split

theorem onCmdPortsWrite_keeps {z0 : State} (rq : Req) (value : Word) {s : State} (hk0 : Keeps true true z0 s) :
    Keeps true true z0 (onCmdPortsWrite rq value s) := by
  unfold onCmdPortsWrite
  repeat' with_reducible first | assumption | apply oneWrite_keeps | intro _

theorem onForceReclaim_keeps {z0 : State} (rq : Req) (n : Nat) (enabled : Bool) {s : State} (hk0 : Keeps true true z0 s) :
    Keeps true true z0 (onForceReclaim rq n enabled s) := by
  unfold onForceReclaim
  repeat' with_reducible first | assumption | apply oneWrite_keeps | intro _

theorem onRelease_keeps {z0 : State} (rq : Req) {s : State} (hk0 : Keeps true true z0 s) :
    Keeps true true z0 (onRelease rq s) := by
  unfold onRelease
  repeat' with_reducible first | assumption | apply oneWrite_keeps | intro _

theorem onTenLimitsWrite_keeps {z0 : State} (rq : Req) (n : Nat) (value : Word) {s : State} (hk0 : Keeps true true z0 s) :
    Keeps true true z0 (onTenLimitsWrite rq n value s) := by
  unfold onTenLimitsWrite
  repeat' with_reducible first | assumption | apply oneWrite_keeps | intro _

theorem onSysCompatWrite_keeps {z0 : State} (rq : Req) (value : Word) {s : State} (hk0 : Keeps true true z0 s) :
    Keeps true true z0 (onSysCompatWrite rq value s) := by
  unfold onSysCompatWrite
  repeat' with_reducible first | assumption | apply oneWrite_keeps | intro _

theorem onFgEnable_keeps {z0 : State} (rq : Req) (p : Nat) (value : Word) {s : State} (hk0 : Keeps true true z0 s) :
    Keeps true true z0 (onFgEnable rq p value s) := by
  unfold onFgEnable
  repeat' with_reducible first | assumption | apply oneWrite_keeps | intro _

theorem onFgDisable_keeps {z0 : State} (rq : Req) (p : Nat) (value : Word) {s : State} (hk0 : Keeps true true z0 s) :
    Keeps true true z0 (onFgDisable rq p value s) := by
  unfold onFgDisable
  repeat' with_reducible first | assumption | apply oneWrite_keeps | intro _

theorem onGalEnable_keeps {z0 : State} (rq : Req) (p : Nat) (value : Word) {s : State} (hk0 : Keeps true true z0 s) :
    Keeps true true z0 (onGalEnable rq p value s) := by
  unfold onGalEnable
  repeat' with_reducible first | assumption | apply oneWrite_keeps | intro _

theorem onDspCommitApply_keeps {z0 : State} (rq : Req) (p : Nat) {s : State} (hk0 : Keeps true true z0 s) :
    Keeps true true z0 (onDspCommitApply rq p s) := by
  unfold onDspCommitApply
  repeat' with_reducible first | assumption | apply oneWrite_keeps | intro _

theorem onDspStop_keeps {z0 : State} (rq : Req) (p : Nat) {s : State} (hk0 : Keeps true true z0 s) :
    Keeps true true z0 (onDspStop rq p s) := by
  unfold onDspStop
  repeat' with_reducible first | assumption | apply oneWrite_keeps | intro _

theorem onSysResetReq_keeps {z0 : State} (rq : Req) (value : Word) {s : State} (hk0 : Keeps true true z0 s) :
    Keeps true true z0 (onSysResetReq rq value s) := by
  unfold onSysResetReq
  repeat' with_reducible first | assumption | apply oneWrite_keeps | intro _

theorem onNetPortConfigWrite_keeps {z0 : State} (rq : Req) (p : Nat) (value : Word) {s : State} (hk0 : Keeps true true z0 s) :
    Keeps true true z0 (onNetPortConfigWrite rq p value s) := by
  unfold onNetPortConfigWrite
  repeat' with_reducible first | assumption | apply oneWrite_keeps | intro _

theorem onNetWallEnable_keeps {z0 : State} (rq : Req) (value : Word) {s : State} (hk0 : Keeps true true z0 s) :
    Keeps true true z0 (onNetWallEnable rq value s) := by
  unfold onNetWallEnable
  repeat' with_reducible first | assumption | apply oneWrite_keeps | intro _

theorem setI3cAddr_keeps {wh wp : Bool} {z0 : State} {s : State} (a : Nat) (hk0 : Keeps wh wp z0 s) :
    Keeps wh wp z0 (setI3cAddr s a) := by
  unfold setI3cAddr
  repeat' with_reducible first | assumption | (fail_if_no_progress apply Keeps.upd)

theorem onI3cAddress_keeps {wh wp : Bool} {z0 : State} (a : Word) {s : State} (hk0 : Keeps wh wp z0 s) :
    Keeps wh wp z0 (onI3cAddress a s) := by
  unfold onI3cAddress
  repeat' with_reducible first | assumption | apply out_keeps | apply setI3cAddr_keeps | split

theorem i3cWrite_keeps {z0 : State} {s : State} (a : Nat) (v : Nat) (hk0 : Keeps true true z0 s) :
    Keeps true true z0 (i3cWrite s a v) := by
  unfold i3cWrite; try dsimp only
  repeat' with_reducible first | assumption | apply resetNow_keeps | apply alsoCause_keeps | apply out_keeps | apply setI3cAddr_keeps | apply resetNow_keeps | apply armEnroll_keeps | split

theorem onI3cRegister_keeps {z0 : State} (a : Word) (v : Word) {s : State} (hk0 : Keeps true true z0 s) :
    Keeps true true z0 (onI3cRegister a v s) := by
  unfold onI3cRegister
  repeat' with_reducible first | assumption | apply i3cWrite_keeps

theorem onEnrollArm_keeps {z0 : State} {s : State} (hk0 : Keeps true true z0 s) :
    Keeps true true z0 (onEnrollArm s) := by
  unfold onEnrollArm
  repeat' with_reducible first | assumption | apply i3cWrite_keeps

theorem onI3cRead_keeps {wh wp : Bool} {z0 : State} {s : State} (hk0 : Keeps wh wp z0 s) :
    Keeps wh wp z0 (onI3cRead s) := by
  unfold onI3cRead
  repeat' with_reducible first | assumption | apply out_keeps | split

theorem takeDynamic_keeps {wh wp : Bool} {z0 : State} (a : BitVec 7) {s : State} (hk0 : Keeps wh wp z0 s) :
    Keeps wh wp z0 (takeDynamic a s) := by
  unfold takeDynamic
  repeat' with_reducible first | assumption | apply out_keeps | (fail_if_no_progress apply Keeps.upd) | split

theorem onSetdasa_keeps {wh wp : Bool} {z0 : State} (a : BitVec 7) {s : State} (hk0 : Keeps wh wp z0 s) :
    Keeps wh wp z0 (onSetdasa a s) := by
  unfold onSetdasa
  repeat' with_reducible first | assumption | apply takeDynamic_keeps

theorem onEntdaa_keeps {wh wp : Bool} {z0 : State} (a : BitVec 7) {s : State} (hk0 : Keeps wh wp z0 s) :
    Keeps wh wp z0 (onEntdaa a s) := by
  unfold onEntdaa
  repeat' with_reducible first | assumption | apply takeDynamic_keeps

theorem bypass_keeps {wh wp : Bool} {z0 : State} {s : State} (hk0 : Keeps wh wp z0 s) :
    Keeps wh wp z0 (bypass s) := by
  unfold bypass
  repeat' with_reducible first | assumption | apply out_keeps

theorem onSamplePreload_keeps {wh wp : Bool} {z0 : State} {s : State} (hk0 : Keeps wh wp z0 s) :
    Keeps wh wp z0 (onSamplePreload s) := by
  unfold onSamplePreload
  assumption

theorem onExtest_keeps {wh wp : Bool} {z0 : State} {s : State} (hk0 : Keeps wh wp z0 s) :
    Keeps wh wp z0 (onExtest s) := by
  unfold onExtest
  repeat' with_reducible first | assumption | apply bypass_keeps | split

theorem onDebugRead_keeps {wh wp : Bool} {z0 : State} (a : Word) {s : State} (hk0 : Keeps wh wp z0 s) :
    Keeps wh wp z0 (onDebugRead a s) := by
  unfold onDebugRead
  repeat' with_reducible first | assumption | apply out_keeps | apply draw_keeps | split

theorem plainWrite_keeps {z0 : State} {s : State} (a : Nat) (v : Nat) (hk0 : Keeps true true z0 s) :
    Keeps true true z0 (plainWrite s a v) := by
  unfold plainWrite
  repeat' with_reducible first | assumption | apply nvrEnqueue_keeps | apply setRegW_keeps | apply afterReply_keeps | apply writeAll_keeps | (fail_if_no_progress apply Keeps.upd) | split

theorem onDebugWrite_keeps {z0 : State} (a : Word) (v : Word) {s : State} (hk0 : Keeps true true z0 s) :
    Keeps true true z0 (onDebugWrite a v s) := by
  unfold onDebugWrite; try dsimp only
  repeat' with_reducible first | assumption | apply plainWrite_keeps | split

theorem onJtagReset_keeps {z0 : State} {s : State} (hk0 : Keeps true true z0 s) :
    Keeps true true z0 (onJtagReset s) := by
  unfold onJtagReset
  repeat' with_reducible first | assumption | apply resetNow_keeps | apply alsoCause_keeps | apply resetNow_keeps | apply alsoCause_keeps | split

theorem runRequest_keeps {z0 : State} (c : Instr) {s : State} (hk0 : Keeps true true z0 s) : Keeps true true z0 (runRequest c s) := by
  unfold runRequest
  split
  all_goals with_reducible first
    | exact hk0
    | exact onSessionClose_keeps (hk0 := hk0) ..
    | exact onHeartbeat_keeps (hk0 := hk0) ..
    | exact onEcho_keeps (hk0 := hk0) ..
    | exact onDeviceInfo_keeps (hk0 := hk0) ..
    | exact onCompletionQuery_keeps (hk0 := hk0) ..
    | exact onMemMap_keeps (hk0 := hk0) ..
    | exact onMemUnmap_keeps (hk0 := hk0) ..
    | exact onMemProtect_keeps (hk0 := hk0) ..
    | exact onMemWrite_keeps (hk0 := hk0) ..
    | exact onMemRead_keeps (hk0 := hk0) ..
    | exact onMmuWalk_keeps (hk0 := hk0) ..
    | exact onFaultResume_keeps (hk0 := hk0) ..
    | exact onLoopCreate_keeps (hk0 := hk0) ..
    | exact onLoopDestroy_keeps (hk0 := hk0) ..
    | exact onStepSubmit_keeps (hk0 := hk0) ..
    | exact onSeqSubmit_keeps (hk0 := hk0) ..
    | exact onFuncDisable_keeps (hk0 := hk0) ..
    | exact onFuncEnable_keeps (hk0 := hk0) ..
    | exact onRegRead_keeps (hk0 := hk0) ..
    | exact onRegWrite_keeps (hk0 := hk0) ..
    | exact onRegUpdate_keeps (hk0 := hk0) ..
    | exact onRegReadList_keeps (hk0 := hk0) ..
    | exact onRegWait_keeps (hk0 := hk0) ..
    | exact onDspScan_keeps (hk0 := hk0) ..
    | exact onDspAux_keeps (hk0 := hk0) ..
    | exact onDspFallbackSet_keeps (hk0 := hk0) ..
    | exact onDspDsiCmd_keeps (hk0 := hk0) ..
    | exact onSnsFeed_keeps (hk0 := hk0) ..
    | exact onSnsScan_keeps (hk0 := hk0) ..
    | exact onDecOpen_keeps (hk0 := hk0) ..
    | exact onDecClose_keeps (hk0 := hk0) ..
    | exact onDecPush_keeps (hk0 := hk0) ..
    | exact onTimeRead_keeps (hk0 := hk0) ..
    | exact onGclWrite_keeps (hk0 := hk0) ..
    | exact onStreamTable_keeps (hk0 := hk0) ..
    | exact onWallKey_keeps (hk0 := hk0) ..
    | exact onFwLoad_keeps (hk0 := hk0) ..
    | exact onFwActivate_keeps (hk0 := hk0) ..
    | exact onFwRestart_keeps (hk0 := hk0) ..
    | exact onSecCert_keeps (hk0 := hk0) ..
    | exact onSecAttest_keeps (hk0 := hk0) ..
    | exact onOwnerChange_keeps (hk0 := hk0) ..
    | exact onSecKeyRevoke_keeps (hk0 := hk0) ..
    | exact onSecRollbackRaise_keeps (hk0 := hk0) ..
    | exact onLogRead_keeps (hk0 := hk0) ..

theorem stallPacket_keeps {wh wp : Bool} {z0 : State} {s : State} (i : Nat) (p : RxPacket) (hk0 : Keeps wh wp z0 s) :
    Keeps wh wp z0 (stallPacket s i p) := by
  unfold stallPacket
  repeat' with_reducible first | assumption | apply setSes_keeps | (fail_if_no_progress apply Keeps.upd) | split

theorem runPacket_keeps {z0 : State} {s : State} (i : Nat) (p : RxPacket) (hk0 : Keeps true true z0 s) :
    Keeps true true z0 (runPacket s i p) := by
  unfold runPacket; try dsimp only
  repeat' with_reducible first | assumption | apply incReg_keeps | apply stallPacket_keeps | apply refuse_keeps | apply runRequest_keeps | (fail_if_no_progress apply Keeps.upd) | split

theorem resumeSession_keeps {z0 : State} {s : State} (i : Nat) (hk0 : Keeps true true z0 s) :
    Keeps true true z0 (resumeSession s i) := by
  unfold resumeSession
  repeat' with_reducible first | assumption | apply runPacket_keeps | apply setSes_keeps | (fail_if_no_progress apply Keeps.upd) | (refine Keeps.foldl _ ?_ (fun _ _ _ => ?_)) | split | intro _

theorem acceptNext_keeps {z0 : State} {s : State} (i : Nat) (ss : Session) (p : RxPacket) (hk0 : Keeps true true z0 s) :
    Keeps true true z0 (acceptNext s i ss p) := by
  unfold acceptNext; try dsimp only
  repeat' with_reducible first | assumption | apply setSes_keeps | apply sendAck_keeps | apply runPacket_keeps | (fail_if_no_progress apply Keeps.upd) | (refine Keeps.foldl _ ?_ (fun _ _ _ => ?_)) | split | intro _

theorem takeSequenced_keeps {z0 : State} {s : State} (i : Nat) (w : Nat) (ack : Nat) (p : RxPacket) (hk0 : Keeps true true z0 s) :
    Keeps true true z0 (takeSequenced s i w ack p) := by
  unfold takeSequenced; try dsimp only
  repeat' with_reducible first | assumption | apply finishClose_keeps | apply ackAdvance_keeps | apply incReg_keeps | apply acceptNext_keeps | apply sendAck_keeps | apply setSes_keeps | (fail_if_no_progress apply Keeps.upd) | split | intro _

theorem takeAck_keeps {z0 : State} {s : State} (i : Nat) (w : Nat) (ack : Nat) (p : RxPacket) (hk0 : Keeps true true z0 s) :
    Keeps true true z0 (takeAck s i w ack p) := by
  unfold takeAck
  repeat' with_reducible first | assumption | apply incReg_keeps | apply finishClose_keeps | apply ackAdvance_keeps | apply setSes_keeps | (fail_if_no_progress apply Keeps.upd) | split

theorem expiredSession_keeps {wh wp : Bool} {z0 : State} {s : State} (d : Datagram) (id : Nat) (hk0 : Keeps wh wp z0 s) :
    Keeps wh wp z0 (expiredSession s d id) := by
  unfold expiredSession; try dsimp only
  repeat' with_reducible first | assumption | apply incReg_keeps | apply out_keeps | apply handshake_keeps | (fail_if_no_progress apply Keeps.upd) | split | intro _

theorem takeHandshake_keeps {wp : Bool} {z0 : State} {s : State} (d : Datagram) (hd : List Byte) (payload : List Byte) (tag : List Byte) (hk0 : Keeps true wp z0 s) :
    Keeps true wp z0 (takeHandshake s d hd payload tag) := by
  unfold takeHandshake; try dsimp only
  repeat' with_reducible first | assumption | apply incReg_keeps | apply sendAnswer_keeps | apply refuseHandshake_keeps | apply onSessionOpen_keeps | apply onSessionAuth_keeps | (fail_if_no_progress apply Keeps.upd) | split

theorem takeKeyed_keeps {z0 : State} {s : State} (d : Datagram) (i : Nat) (ss : Session) (hd : List Byte) (ct : List Byte) (tag : List Byte) (hk0 : Keeps true true z0 s) :
    Keeps true true z0 (takeKeyed s d i ss hd ct tag) := by
  unfold takeKeyed; try dsimp only
  repeat' with_reducible first | assumption | apply incReg_keeps | apply setSes_keeps | apply modTen_keeps | apply takeAck_keeps | apply takeSequenced_keeps | (fail_if_no_progress apply Keeps.upd) | split | intro _

theorem takeDatagram_keeps {z0 : State} {s : State} (d : Datagram) (hk0 : Keeps true true z0 s) :
    Keeps true true z0 (takeDatagram s d) := by
  unfold takeDatagram; try dsimp only
  repeat' with_reducible first | assumption | apply take_keeps | apply incReg_keeps | apply takeHandshake_keeps | apply expiredSession_keeps | apply takeKeyed_keeps | split

theorem onDatagram_keeps {z0 : State} (d : Datagram) {s : State} (hk0 : Keeps true true z0 s) :
    Keeps true true z0 (onDatagram d s) := by
  unfold onDatagram
  repeat' with_reducible first | assumption | apply receiveFrame_keeps | apply incReg_keeps | apply takeDatagram_keeps | split | intro _

theorem onMemWriteBacked_keeps {z0 : State} (session : Word) {s : State} (hk0 : Keeps true true z0 s) :
    Keeps true true z0 (onMemWriteBacked session s) := by
  unfold onMemWriteBacked; try dsimp only
  repeat' with_reducible first | assumption | apply pagesRaised_keeps | apply setSes_keeps | apply storeBytes_keeps | apply replyOk_keeps | apply resumeSession_keeps | (fail_if_no_progress apply Keeps.upd) | split

theorem resumeHandshakes_keeps {wp : Bool} {z0 : State} {s : State} (hk0 : Keeps true wp z0 s) :
    Keeps true wp z0 (resumeHandshakes s) := by
  unfold resumeHandshakes
  repeat' with_reducible first | assumption | apply onSessionOpen_keeps | apply onSessionAuth_keeps | (fail_if_no_progress apply Keeps.upd) | (refine Keeps.foldl _ ?_ (fun _ _ _ => ?_)) | split | intro _

theorem resumeAll_keeps {z0 : State} {s : State} (hk0 : Keeps true true z0 s) :
    Keeps true true z0 (resumeAll s) := by
  unfold resumeAll
  repeat' with_reducible first | assumption | apply resumeSession_keeps | (refine Keeps.foldl _ ?_ (fun _ _ _ => ?_)) | intro _

theorem formAll_keeps {wh wp : Bool} {z0 : State} {s : State} (hk0 : Keeps wh wp z0 s) :
    Keeps wh wp z0 (formAll s) := by
  unfold formAll
  repeat' with_reducible first | assumption | apply formStep_keeps | (refine Keeps.foldl _ ?_ (fun _ _ _ => ?_))

theorem onRestartDone_keeps {z0 : State} (p : Nat) {s : State} (hk0 : Keeps true true z0 s) :
    Keeps true true z0 (onRestartDone p s) := by
  unfold onRestartDone; try dsimp only
  repeat' with_reducible first | assumption | apply restartDone_keeps | apply resumeAll_keeps | apply resumeHandshakes_keeps | apply formAll_keeps | split

theorem onHbmTrained_keeps {z0 : State} {s : State} (hk0 : Keeps true true z0 s) :
    Keeps true true z0 (onHbmTrained s) := by
  unfold onHbmTrained
  repeat' with_reducible first | assumption | apply resumeAll_keeps | (fail_if_no_progress apply Keeps.upd) | split

theorem finishEnrol_keeps {wp : Bool} {z0 : State} {s : State} (hk0 : Keeps true wp z0 s) :
    Keeps true wp z0 (finishEnrol s) := by
  unfold finishEnrol; try dsimp only
  repeat' with_reducible first | assumption | apply resumeHandshakes_keeps | apply enterSession_keeps | apply answer_keeps | (fail_if_no_progress apply Keeps.upd) | split

theorem onNvrWordStored_keeps {wp : Bool} {z0 : State} {s : State} (hk0 : Keeps true wp z0 s) :
    Keeps true wp z0 (onNvrWordStored s) := by
  unfold onNvrWordStored
  repeat' with_reducible first | assumption | apply finishEnrol_keeps | apply storeNvrWord_keeps

end Sys2Proof.Machine
end

