-- ==== Sys2Proof/Laws/State.lean ====
section
/-! SUPPORT. Laws/State.lean: one lemma per field per update: what each named update leaves alone, and what its
own read gives back. -/

namespace Sys2Proof.Machine

open Sys2Proof

@[simp] theorem setTen_pending (s : State) (t : Nat) (v : Tenant) : (setTen s t v).pending = s.pending := rfl
@[simp] theorem setTen_now (s : State) (t : Nat) (v : Tenant) : (setTen s t v).now = s.now := rfl
@[simp] theorem setTen_fresh (s : State) (t : Nat) (v : Tenant) : (setTen s t v).fresh = s.fresh := rfl
@[simp] theorem setTen_sent (s : State) (t : Nat) (v : Tenant) : (setTen s t v).sent = s.sent := rfl
@[simp] theorem setTen_regs (s : State) (t : Nat) (v : Tenant) : (setTen s t v).regs = s.regs := rfl
@[simp] theorem setTen_pend (s : State) (t : Nat) (v : Tenant) : (setTen s t v).pend = s.pend := rfl
@[simp] theorem setTen_chip (s : State) (t : Nat) (v : Tenant) : (setTen s t v).chip = s.chip := rfl
@[simp] theorem setTen_link (s : State) (t : Nat) (v : Tenant) : (setTen s t v).link = s.link := rfl
@[simp] theorem setTen_hbm (s : State) (t : Nat) (v : Tenant) : (setTen s t v).hbm = s.hbm := rfl
@[simp] theorem setTen_pad (s : State) (t : Nat) (v : Tenant) : (setTen s t v).pad = s.pad := rfl
@[simp] theorem setTen_sched (s : State) (t : Nat) (v : Tenant) : (setTen s t v).sched = s.sched := rfl
@[simp] theorem setTen_disp (s : State) (t : Nat) (v : Tenant) : (setTen s t v).disp = s.disp := rfl
@[simp] theorem setTen_sens (s : State) (t : Nat) (v : Tenant) : (setTen s t v).sens = s.sens := rfl
@[simp] theorem setTen_dec (s : State) (t : Nat) (v : Tenant) : (setTen s t v).dec = s.dec := rfl
@[simp] theorem setTen_net (s : State) (t : Nat) (v : Tenant) : (setTen s t v).net = s.net := rfl
@[simp] theorem setTen_egress (s : State) (t : Nat) (v : Tenant) : (setTen s t v).egress = s.egress := rfl
@[simp] theorem setTen_fw (s : State) (t : Nat) (v : Tenant) : (setTen s t v).fw = s.fw := rfl
@[simp] theorem setTen_pwr (s : State) (t : Nat) (v : Tenant) : (setTen s t v).pwr = s.pwr := rfl
@[simp] theorem setTen_nvr (s : State) (t : Nat) (v : Tenant) : (setTen s t v).nvr = s.nvr := rfl
@[simp] theorem setTen_sec (s : State) (t : Nat) (v : Tenant) : (setTen s t v).sec = s.sec := rfl

@[simp] theorem setSes_pending (s : State) (i : Nat) (v : Session) : (setSes s i v).pending = s.pending := rfl
@[simp] theorem setSes_now (s : State) (i : Nat) (v : Session) : (setSes s i v).now = s.now := rfl
@[simp] theorem setSes_fresh (s : State) (i : Nat) (v : Session) : (setSes s i v).fresh = s.fresh := rfl
@[simp] theorem setSes_sent (s : State) (i : Nat) (v : Session) : (setSes s i v).sent = s.sent := rfl
@[simp] theorem setSes_regs (s : State) (i : Nat) (v : Session) : (setSes s i v).regs = s.regs := rfl
@[simp] theorem setSes_pend (s : State) (i : Nat) (v : Session) : (setSes s i v).pend = s.pend := rfl
@[simp] theorem setSes_chip (s : State) (i : Nat) (v : Session) : (setSes s i v).chip = s.chip := rfl
@[simp] theorem setSes_tenants (s : State) (i : Nat) (v : Session) : (setSes s i v).tenants = s.tenants := rfl
@[simp] theorem setSes_hbm (s : State) (i : Nat) (v : Session) : (setSes s i v).hbm = s.hbm := rfl
@[simp] theorem setSes_pad (s : State) (i : Nat) (v : Session) : (setSes s i v).pad = s.pad := rfl
@[simp] theorem setSes_sched (s : State) (i : Nat) (v : Session) : (setSes s i v).sched = s.sched := rfl
@[simp] theorem setSes_disp (s : State) (i : Nat) (v : Session) : (setSes s i v).disp = s.disp := rfl
@[simp] theorem setSes_sens (s : State) (i : Nat) (v : Session) : (setSes s i v).sens = s.sens := rfl
@[simp] theorem setSes_dec (s : State) (i : Nat) (v : Session) : (setSes s i v).dec = s.dec := rfl
@[simp] theorem setSes_net (s : State) (i : Nat) (v : Session) : (setSes s i v).net = s.net := rfl
@[simp] theorem setSes_egress (s : State) (i : Nat) (v : Session) : (setSes s i v).egress = s.egress := rfl
@[simp] theorem setSes_fw (s : State) (i : Nat) (v : Session) : (setSes s i v).fw = s.fw := rfl
@[simp] theorem setSes_pwr (s : State) (i : Nat) (v : Session) : (setSes s i v).pwr = s.pwr := rfl
@[simp] theorem setSes_nvr (s : State) (i : Nat) (v : Session) : (setSes s i v).nvr = s.nvr := rfl
@[simp] theorem setSes_sec (s : State) (i : Nat) (v : Session) : (setSes s i v).sec = s.sec := rfl

@[simp] theorem setLoop_pending (s : State) (i : Nat) (v : Loop) : (setLoop s i v).pending = s.pending := rfl
@[simp] theorem setLoop_now (s : State) (i : Nat) (v : Loop) : (setLoop s i v).now = s.now := rfl
@[simp] theorem setLoop_fresh (s : State) (i : Nat) (v : Loop) : (setLoop s i v).fresh = s.fresh := rfl
@[simp] theorem setLoop_sent (s : State) (i : Nat) (v : Loop) : (setLoop s i v).sent = s.sent := rfl
@[simp] theorem setLoop_regs (s : State) (i : Nat) (v : Loop) : (setLoop s i v).regs = s.regs := rfl
@[simp] theorem setLoop_pend (s : State) (i : Nat) (v : Loop) : (setLoop s i v).pend = s.pend := rfl
@[simp] theorem setLoop_chip (s : State) (i : Nat) (v : Loop) : (setLoop s i v).chip = s.chip := rfl
@[simp] theorem setLoop_link (s : State) (i : Nat) (v : Loop) : (setLoop s i v).link = s.link := rfl
@[simp] theorem setLoop_tenants (s : State) (i : Nat) (v : Loop) : (setLoop s i v).tenants = s.tenants := rfl
@[simp] theorem setLoop_hbm (s : State) (i : Nat) (v : Loop) : (setLoop s i v).hbm = s.hbm := rfl
@[simp] theorem setLoop_pad (s : State) (i : Nat) (v : Loop) : (setLoop s i v).pad = s.pad := rfl
@[simp] theorem setLoop_disp (s : State) (i : Nat) (v : Loop) : (setLoop s i v).disp = s.disp := rfl
@[simp] theorem setLoop_sens (s : State) (i : Nat) (v : Loop) : (setLoop s i v).sens = s.sens := rfl
@[simp] theorem setLoop_dec (s : State) (i : Nat) (v : Loop) : (setLoop s i v).dec = s.dec := rfl
@[simp] theorem setLoop_net (s : State) (i : Nat) (v : Loop) : (setLoop s i v).net = s.net := rfl
@[simp] theorem setLoop_egress (s : State) (i : Nat) (v : Loop) : (setLoop s i v).egress = s.egress := rfl
@[simp] theorem setLoop_fw (s : State) (i : Nat) (v : Loop) : (setLoop s i v).fw = s.fw := rfl
@[simp] theorem setLoop_pwr (s : State) (i : Nat) (v : Loop) : (setLoop s i v).pwr = s.pwr := rfl
@[simp] theorem setLoop_nvr (s : State) (i : Nat) (v : Loop) : (setLoop s i v).nvr = s.nvr := rfl
@[simp] theorem setLoop_sec (s : State) (i : Nat) (v : Loop) : (setLoop s i v).sec = s.sec := rfl

@[simp] theorem setCore_pending (s : State) (c : Nat) (v : Core) : (setCore s c v).pending = s.pending := rfl
@[simp] theorem setCore_now (s : State) (c : Nat) (v : Core) : (setCore s c v).now = s.now := rfl
@[simp] theorem setCore_fresh (s : State) (c : Nat) (v : Core) : (setCore s c v).fresh = s.fresh := rfl
@[simp] theorem setCore_sent (s : State) (c : Nat) (v : Core) : (setCore s c v).sent = s.sent := rfl
@[simp] theorem setCore_regs (s : State) (c : Nat) (v : Core) : (setCore s c v).regs = s.regs := rfl
@[simp] theorem setCore_pend (s : State) (c : Nat) (v : Core) : (setCore s c v).pend = s.pend := rfl
@[simp] theorem setCore_chip (s : State) (c : Nat) (v : Core) : (setCore s c v).chip = s.chip := rfl
@[simp] theorem setCore_link (s : State) (c : Nat) (v : Core) : (setCore s c v).link = s.link := rfl
@[simp] theorem setCore_tenants (s : State) (c : Nat) (v : Core) : (setCore s c v).tenants = s.tenants := rfl
@[simp] theorem setCore_hbm (s : State) (c : Nat) (v : Core) : (setCore s c v).hbm = s.hbm := rfl
@[simp] theorem setCore_pad (s : State) (c : Nat) (v : Core) : (setCore s c v).pad = s.pad := rfl
@[simp] theorem setCore_disp (s : State) (c : Nat) (v : Core) : (setCore s c v).disp = s.disp := rfl
@[simp] theorem setCore_sens (s : State) (c : Nat) (v : Core) : (setCore s c v).sens = s.sens := rfl
@[simp] theorem setCore_dec (s : State) (c : Nat) (v : Core) : (setCore s c v).dec = s.dec := rfl
@[simp] theorem setCore_net (s : State) (c : Nat) (v : Core) : (setCore s c v).net = s.net := rfl
@[simp] theorem setCore_egress (s : State) (c : Nat) (v : Core) : (setCore s c v).egress = s.egress := rfl
@[simp] theorem setCore_fw (s : State) (c : Nat) (v : Core) : (setCore s c v).fw = s.fw := rfl
@[simp] theorem setCore_pwr (s : State) (c : Nat) (v : Core) : (setCore s c v).pwr = s.pwr := rfl
@[simp] theorem setCore_nvr (s : State) (c : Nat) (v : Core) : (setCore s c v).nvr = s.nvr := rfl
@[simp] theorem setCore_sec (s : State) (c : Nat) (v : Core) : (setCore s c v).sec = s.sec := rfl

@[simp] theorem setUnit_pending (s : State) (u : Nat) (v : Func) : (setUnit s u v).pending = s.pending := rfl
@[simp] theorem setUnit_now (s : State) (u : Nat) (v : Func) : (setUnit s u v).now = s.now := rfl
@[simp] theorem setUnit_fresh (s : State) (u : Nat) (v : Func) : (setUnit s u v).fresh = s.fresh := rfl
@[simp] theorem setUnit_sent (s : State) (u : Nat) (v : Func) : (setUnit s u v).sent = s.sent := rfl
@[simp] theorem setUnit_regs (s : State) (u : Nat) (v : Func) : (setUnit s u v).regs = s.regs := rfl
@[simp] theorem setUnit_pend (s : State) (u : Nat) (v : Func) : (setUnit s u v).pend = s.pend := rfl
@[simp] theorem setUnit_chip (s : State) (u : Nat) (v : Func) : (setUnit s u v).chip = s.chip := rfl
@[simp] theorem setUnit_link (s : State) (u : Nat) (v : Func) : (setUnit s u v).link = s.link := rfl
@[simp] theorem setUnit_tenants (s : State) (u : Nat) (v : Func) : (setUnit s u v).tenants = s.tenants := rfl
@[simp] theorem setUnit_hbm (s : State) (u : Nat) (v : Func) : (setUnit s u v).hbm = s.hbm := rfl
@[simp] theorem setUnit_pad (s : State) (u : Nat) (v : Func) : (setUnit s u v).pad = s.pad := rfl
@[simp] theorem setUnit_disp (s : State) (u : Nat) (v : Func) : (setUnit s u v).disp = s.disp := rfl
@[simp] theorem setUnit_sens (s : State) (u : Nat) (v : Func) : (setUnit s u v).sens = s.sens := rfl
@[simp] theorem setUnit_dec (s : State) (u : Nat) (v : Func) : (setUnit s u v).dec = s.dec := rfl
@[simp] theorem setUnit_net (s : State) (u : Nat) (v : Func) : (setUnit s u v).net = s.net := rfl
@[simp] theorem setUnit_egress (s : State) (u : Nat) (v : Func) : (setUnit s u v).egress = s.egress := rfl
@[simp] theorem setUnit_fw (s : State) (u : Nat) (v : Func) : (setUnit s u v).fw = s.fw := rfl
@[simp] theorem setUnit_pwr (s : State) (u : Nat) (v : Func) : (setUnit s u v).pwr = s.pwr := rfl
@[simp] theorem setUnit_nvr (s : State) (u : Nat) (v : Func) : (setUnit s u v).nvr = s.nvr := rfl
@[simp] theorem setUnit_sec (s : State) (u : Nat) (v : Func) : (setUnit s u v).sec = s.sec := rfl

@[simp] theorem setPipe_pending (s : State) (p : Nat) (v : Pipe) : (setPipe s p v).pending = s.pending := rfl
@[simp] theorem setPipe_now (s : State) (p : Nat) (v : Pipe) : (setPipe s p v).now = s.now := rfl
@[simp] theorem setPipe_fresh (s : State) (p : Nat) (v : Pipe) : (setPipe s p v).fresh = s.fresh := rfl
@[simp] theorem setPipe_sent (s : State) (p : Nat) (v : Pipe) : (setPipe s p v).sent = s.sent := rfl
@[simp] theorem setPipe_regs (s : State) (p : Nat) (v : Pipe) : (setPipe s p v).regs = s.regs := rfl
@[simp] theorem setPipe_pend (s : State) (p : Nat) (v : Pipe) : (setPipe s p v).pend = s.pend := rfl
@[simp] theorem setPipe_chip (s : State) (p : Nat) (v : Pipe) : (setPipe s p v).chip = s.chip := rfl
@[simp] theorem setPipe_link (s : State) (p : Nat) (v : Pipe) : (setPipe s p v).link = s.link := rfl
@[simp] theorem setPipe_tenants (s : State) (p : Nat) (v : Pipe) : (setPipe s p v).tenants = s.tenants := rfl
@[simp] theorem setPipe_hbm (s : State) (p : Nat) (v : Pipe) : (setPipe s p v).hbm = s.hbm := rfl
@[simp] theorem setPipe_pad (s : State) (p : Nat) (v : Pipe) : (setPipe s p v).pad = s.pad := rfl
@[simp] theorem setPipe_sched (s : State) (p : Nat) (v : Pipe) : (setPipe s p v).sched = s.sched := rfl
@[simp] theorem setPipe_sens (s : State) (p : Nat) (v : Pipe) : (setPipe s p v).sens = s.sens := rfl
@[simp] theorem setPipe_dec (s : State) (p : Nat) (v : Pipe) : (setPipe s p v).dec = s.dec := rfl
@[simp] theorem setPipe_net (s : State) (p : Nat) (v : Pipe) : (setPipe s p v).net = s.net := rfl
@[simp] theorem setPipe_egress (s : State) (p : Nat) (v : Pipe) : (setPipe s p v).egress = s.egress := rfl
@[simp] theorem setPipe_fw (s : State) (p : Nat) (v : Pipe) : (setPipe s p v).fw = s.fw := rfl
@[simp] theorem setPipe_pwr (s : State) (p : Nat) (v : Pipe) : (setPipe s p v).pwr = s.pwr := rfl
@[simp] theorem setPipe_nvr (s : State) (p : Nat) (v : Pipe) : (setPipe s p v).nvr = s.nvr := rfl
@[simp] theorem setPipe_sec (s : State) (p : Nat) (v : Pipe) : (setPipe s p v).sec = s.sec := rfl

@[simp] theorem setTx_pending (s : State) (t : Nat) (v : Transmitter) : (setTx s t v).pending = s.pending := rfl
@[simp] theorem setTx_now (s : State) (t : Nat) (v : Transmitter) : (setTx s t v).now = s.now := rfl
@[simp] theorem setTx_fresh (s : State) (t : Nat) (v : Transmitter) : (setTx s t v).fresh = s.fresh := rfl
@[simp] theorem setTx_sent (s : State) (t : Nat) (v : Transmitter) : (setTx s t v).sent = s.sent := rfl
@[simp] theorem setTx_regs (s : State) (t : Nat) (v : Transmitter) : (setTx s t v).regs = s.regs := rfl
@[simp] theorem setTx_pend (s : State) (t : Nat) (v : Transmitter) : (setTx s t v).pend = s.pend := rfl
@[simp] theorem setTx_chip (s : State) (t : Nat) (v : Transmitter) : (setTx s t v).chip = s.chip := rfl
@[simp] theorem setTx_link (s : State) (t : Nat) (v : Transmitter) : (setTx s t v).link = s.link := rfl
@[simp] theorem setTx_tenants (s : State) (t : Nat) (v : Transmitter) : (setTx s t v).tenants = s.tenants := rfl
@[simp] theorem setTx_hbm (s : State) (t : Nat) (v : Transmitter) : (setTx s t v).hbm = s.hbm := rfl
@[simp] theorem setTx_pad (s : State) (t : Nat) (v : Transmitter) : (setTx s t v).pad = s.pad := rfl
@[simp] theorem setTx_sched (s : State) (t : Nat) (v : Transmitter) : (setTx s t v).sched = s.sched := rfl
@[simp] theorem setTx_sens (s : State) (t : Nat) (v : Transmitter) : (setTx s t v).sens = s.sens := rfl
@[simp] theorem setTx_dec (s : State) (t : Nat) (v : Transmitter) : (setTx s t v).dec = s.dec := rfl
@[simp] theorem setTx_net (s : State) (t : Nat) (v : Transmitter) : (setTx s t v).net = s.net := rfl
@[simp] theorem setTx_egress (s : State) (t : Nat) (v : Transmitter) : (setTx s t v).egress = s.egress := rfl
@[simp] theorem setTx_fw (s : State) (t : Nat) (v : Transmitter) : (setTx s t v).fw = s.fw := rfl
@[simp] theorem setTx_pwr (s : State) (t : Nat) (v : Transmitter) : (setTx s t v).pwr = s.pwr := rfl
@[simp] theorem setTx_nvr (s : State) (t : Nat) (v : Transmitter) : (setTx s t v).nvr = s.nvr := rfl
@[simp] theorem setTx_sec (s : State) (t : Nat) (v : Transmitter) : (setTx s t v).sec = s.sec := rfl

@[simp] theorem setRx_pending (s : State) (r : Nat) (v : Receiver) : (setRx s r v).pending = s.pending := rfl
@[simp] theorem setRx_now (s : State) (r : Nat) (v : Receiver) : (setRx s r v).now = s.now := rfl
@[simp] theorem setRx_fresh (s : State) (r : Nat) (v : Receiver) : (setRx s r v).fresh = s.fresh := rfl
@[simp] theorem setRx_sent (s : State) (r : Nat) (v : Receiver) : (setRx s r v).sent = s.sent := rfl
@[simp] theorem setRx_regs (s : State) (r : Nat) (v : Receiver) : (setRx s r v).regs = s.regs := rfl
@[simp] theorem setRx_pend (s : State) (r : Nat) (v : Receiver) : (setRx s r v).pend = s.pend := rfl
@[simp] theorem setRx_chip (s : State) (r : Nat) (v : Receiver) : (setRx s r v).chip = s.chip := rfl
@[simp] theorem setRx_link (s : State) (r : Nat) (v : Receiver) : (setRx s r v).link = s.link := rfl
@[simp] theorem setRx_tenants (s : State) (r : Nat) (v : Receiver) : (setRx s r v).tenants = s.tenants := rfl
@[simp] theorem setRx_hbm (s : State) (r : Nat) (v : Receiver) : (setRx s r v).hbm = s.hbm := rfl
@[simp] theorem setRx_pad (s : State) (r : Nat) (v : Receiver) : (setRx s r v).pad = s.pad := rfl
@[simp] theorem setRx_sched (s : State) (r : Nat) (v : Receiver) : (setRx s r v).sched = s.sched := rfl
@[simp] theorem setRx_disp (s : State) (r : Nat) (v : Receiver) : (setRx s r v).disp = s.disp := rfl
@[simp] theorem setRx_dec (s : State) (r : Nat) (v : Receiver) : (setRx s r v).dec = s.dec := rfl
@[simp] theorem setRx_net (s : State) (r : Nat) (v : Receiver) : (setRx s r v).net = s.net := rfl
@[simp] theorem setRx_egress (s : State) (r : Nat) (v : Receiver) : (setRx s r v).egress = s.egress := rfl
@[simp] theorem setRx_fw (s : State) (r : Nat) (v : Receiver) : (setRx s r v).fw = s.fw := rfl
@[simp] theorem setRx_pwr (s : State) (r : Nat) (v : Receiver) : (setRx s r v).pwr = s.pwr := rfl
@[simp] theorem setRx_nvr (s : State) (r : Nat) (v : Receiver) : (setRx s r v).nvr = s.nvr := rfl
@[simp] theorem setRx_sec (s : State) (r : Nat) (v : Receiver) : (setRx s r v).sec = s.sec := rfl

@[simp] theorem setTdm_pending (s : State) (p : Nat) (v : TdmPort) : (setTdm s p v).pending = s.pending := rfl
@[simp] theorem setTdm_now (s : State) (p : Nat) (v : TdmPort) : (setTdm s p v).now = s.now := rfl
@[simp] theorem setTdm_fresh (s : State) (p : Nat) (v : TdmPort) : (setTdm s p v).fresh = s.fresh := rfl
@[simp] theorem setTdm_sent (s : State) (p : Nat) (v : TdmPort) : (setTdm s p v).sent = s.sent := rfl
@[simp] theorem setTdm_regs (s : State) (p : Nat) (v : TdmPort) : (setTdm s p v).regs = s.regs := rfl
@[simp] theorem setTdm_pend (s : State) (p : Nat) (v : TdmPort) : (setTdm s p v).pend = s.pend := rfl
@[simp] theorem setTdm_chip (s : State) (p : Nat) (v : TdmPort) : (setTdm s p v).chip = s.chip := rfl
@[simp] theorem setTdm_link (s : State) (p : Nat) (v : TdmPort) : (setTdm s p v).link = s.link := rfl
@[simp] theorem setTdm_tenants (s : State) (p : Nat) (v : TdmPort) : (setTdm s p v).tenants = s.tenants := rfl
@[simp] theorem setTdm_hbm (s : State) (p : Nat) (v : TdmPort) : (setTdm s p v).hbm = s.hbm := rfl
@[simp] theorem setTdm_pad (s : State) (p : Nat) (v : TdmPort) : (setTdm s p v).pad = s.pad := rfl
@[simp] theorem setTdm_sched (s : State) (p : Nat) (v : TdmPort) : (setTdm s p v).sched = s.sched := rfl
@[simp] theorem setTdm_disp (s : State) (p : Nat) (v : TdmPort) : (setTdm s p v).disp = s.disp := rfl
@[simp] theorem setTdm_dec (s : State) (p : Nat) (v : TdmPort) : (setTdm s p v).dec = s.dec := rfl
@[simp] theorem setTdm_net (s : State) (p : Nat) (v : TdmPort) : (setTdm s p v).net = s.net := rfl
@[simp] theorem setTdm_egress (s : State) (p : Nat) (v : TdmPort) : (setTdm s p v).egress = s.egress := rfl
@[simp] theorem setTdm_fw (s : State) (p : Nat) (v : TdmPort) : (setTdm s p v).fw = s.fw := rfl
@[simp] theorem setTdm_pwr (s : State) (p : Nat) (v : TdmPort) : (setTdm s p v).pwr = s.pwr := rfl
@[simp] theorem setTdm_nvr (s : State) (p : Nat) (v : TdmPort) : (setTdm s p v).nvr = s.nvr := rfl
@[simp] theorem setTdm_sec (s : State) (p : Nat) (v : TdmPort) : (setTdm s p v).sec = s.sec := rfl

@[simp] theorem setCtx_pending (s : State) (c : Nat) (v : Context) : (setCtx s c v).pending = s.pending := rfl
@[simp] theorem setCtx_now (s : State) (c : Nat) (v : Context) : (setCtx s c v).now = s.now := rfl
@[simp] theorem setCtx_fresh (s : State) (c : Nat) (v : Context) : (setCtx s c v).fresh = s.fresh := rfl
@[simp] theorem setCtx_sent (s : State) (c : Nat) (v : Context) : (setCtx s c v).sent = s.sent := rfl
@[simp] theorem setCtx_regs (s : State) (c : Nat) (v : Context) : (setCtx s c v).regs = s.regs := rfl
@[simp] theorem setCtx_pend (s : State) (c : Nat) (v : Context) : (setCtx s c v).pend = s.pend := rfl
@[simp] theorem setCtx_chip (s : State) (c : Nat) (v : Context) : (setCtx s c v).chip = s.chip := rfl
@[simp] theorem setCtx_link (s : State) (c : Nat) (v : Context) : (setCtx s c v).link = s.link := rfl
@[simp] theorem setCtx_tenants (s : State) (c : Nat) (v : Context) : (setCtx s c v).tenants = s.tenants := rfl
@[simp] theorem setCtx_hbm (s : State) (c : Nat) (v : Context) : (setCtx s c v).hbm = s.hbm := rfl
@[simp] theorem setCtx_pad (s : State) (c : Nat) (v : Context) : (setCtx s c v).pad = s.pad := rfl
@[simp] theorem setCtx_sched (s : State) (c : Nat) (v : Context) : (setCtx s c v).sched = s.sched := rfl
@[simp] theorem setCtx_disp (s : State) (c : Nat) (v : Context) : (setCtx s c v).disp = s.disp := rfl
@[simp] theorem setCtx_dec (s : State) (c : Nat) (v : Context) : (setCtx s c v).dec = s.dec := rfl
@[simp] theorem setCtx_net (s : State) (c : Nat) (v : Context) : (setCtx s c v).net = s.net := rfl
@[simp] theorem setCtx_egress (s : State) (c : Nat) (v : Context) : (setCtx s c v).egress = s.egress := rfl
@[simp] theorem setCtx_fw (s : State) (c : Nat) (v : Context) : (setCtx s c v).fw = s.fw := rfl
@[simp] theorem setCtx_pwr (s : State) (c : Nat) (v : Context) : (setCtx s c v).pwr = s.pwr := rfl
@[simp] theorem setCtx_nvr (s : State) (c : Nat) (v : Context) : (setCtx s c v).nvr = s.nvr := rfl
@[simp] theorem setCtx_sec (s : State) (c : Nat) (v : Context) : (setCtx s c v).sec = s.sec := rfl

@[simp] theorem setStream_pending (s : State) (i : Nat) (v : Stream) : (setStream s i v).pending = s.pending := rfl
@[simp] theorem setStream_now (s : State) (i : Nat) (v : Stream) : (setStream s i v).now = s.now := rfl
@[simp] theorem setStream_fresh (s : State) (i : Nat) (v : Stream) : (setStream s i v).fresh = s.fresh := rfl
@[simp] theorem setStream_sent (s : State) (i : Nat) (v : Stream) : (setStream s i v).sent = s.sent := rfl
@[simp] theorem setStream_regs (s : State) (i : Nat) (v : Stream) : (setStream s i v).regs = s.regs := rfl
@[simp] theorem setStream_pend (s : State) (i : Nat) (v : Stream) : (setStream s i v).pend = s.pend := rfl
@[simp] theorem setStream_chip (s : State) (i : Nat) (v : Stream) : (setStream s i v).chip = s.chip := rfl
@[simp] theorem setStream_link (s : State) (i : Nat) (v : Stream) : (setStream s i v).link = s.link := rfl
@[simp] theorem setStream_tenants (s : State) (i : Nat) (v : Stream) : (setStream s i v).tenants = s.tenants := rfl
@[simp] theorem setStream_hbm (s : State) (i : Nat) (v : Stream) : (setStream s i v).hbm = s.hbm := rfl
@[simp] theorem setStream_pad (s : State) (i : Nat) (v : Stream) : (setStream s i v).pad = s.pad := rfl
@[simp] theorem setStream_sched (s : State) (i : Nat) (v : Stream) : (setStream s i v).sched = s.sched := rfl
@[simp] theorem setStream_disp (s : State) (i : Nat) (v : Stream) : (setStream s i v).disp = s.disp := rfl
@[simp] theorem setStream_sens (s : State) (i : Nat) (v : Stream) : (setStream s i v).sens = s.sens := rfl
@[simp] theorem setStream_net (s : State) (i : Nat) (v : Stream) : (setStream s i v).net = s.net := rfl
@[simp] theorem setStream_egress (s : State) (i : Nat) (v : Stream) : (setStream s i v).egress = s.egress := rfl
@[simp] theorem setStream_fw (s : State) (i : Nat) (v : Stream) : (setStream s i v).fw = s.fw := rfl
@[simp] theorem setStream_pwr (s : State) (i : Nat) (v : Stream) : (setStream s i v).pwr = s.pwr := rfl
@[simp] theorem setStream_nvr (s : State) (i : Nat) (v : Stream) : (setStream s i v).nvr = s.nvr := rfl
@[simp] theorem setStream_sec (s : State) (i : Nat) (v : Stream) : (setStream s i v).sec = s.sec := rfl

@[simp] theorem setLane_pending (s : State) (l : Nat) (v : Lane) : (setLane s l v).pending = s.pending := rfl
@[simp] theorem setLane_now (s : State) (l : Nat) (v : Lane) : (setLane s l v).now = s.now := rfl
@[simp] theorem setLane_fresh (s : State) (l : Nat) (v : Lane) : (setLane s l v).fresh = s.fresh := rfl
@[simp] theorem setLane_sent (s : State) (l : Nat) (v : Lane) : (setLane s l v).sent = s.sent := rfl
@[simp] theorem setLane_regs (s : State) (l : Nat) (v : Lane) : (setLane s l v).regs = s.regs := rfl
@[simp] theorem setLane_pend (s : State) (l : Nat) (v : Lane) : (setLane s l v).pend = s.pend := rfl
@[simp] theorem setLane_chip (s : State) (l : Nat) (v : Lane) : (setLane s l v).chip = s.chip := rfl
@[simp] theorem setLane_link (s : State) (l : Nat) (v : Lane) : (setLane s l v).link = s.link := rfl
@[simp] theorem setLane_tenants (s : State) (l : Nat) (v : Lane) : (setLane s l v).tenants = s.tenants := rfl
@[simp] theorem setLane_hbm (s : State) (l : Nat) (v : Lane) : (setLane s l v).hbm = s.hbm := rfl
@[simp] theorem setLane_pad (s : State) (l : Nat) (v : Lane) : (setLane s l v).pad = s.pad := rfl
@[simp] theorem setLane_sched (s : State) (l : Nat) (v : Lane) : (setLane s l v).sched = s.sched := rfl
@[simp] theorem setLane_disp (s : State) (l : Nat) (v : Lane) : (setLane s l v).disp = s.disp := rfl
@[simp] theorem setLane_sens (s : State) (l : Nat) (v : Lane) : (setLane s l v).sens = s.sens := rfl
@[simp] theorem setLane_net (s : State) (l : Nat) (v : Lane) : (setLane s l v).net = s.net := rfl
@[simp] theorem setLane_egress (s : State) (l : Nat) (v : Lane) : (setLane s l v).egress = s.egress := rfl
@[simp] theorem setLane_fw (s : State) (l : Nat) (v : Lane) : (setLane s l v).fw = s.fw := rfl
@[simp] theorem setLane_pwr (s : State) (l : Nat) (v : Lane) : (setLane s l v).pwr = s.pwr := rfl
@[simp] theorem setLane_nvr (s : State) (l : Nat) (v : Lane) : (setLane s l v).nvr = s.nvr := rfl
@[simp] theorem setLane_sec (s : State) (l : Nat) (v : Lane) : (setLane s l v).sec = s.sec := rfl

@[simp] theorem setPort_pending (s : State) (p : Nat) (v : Port) : (setPort s p v).pending = s.pending := rfl
@[simp] theorem setPort_now (s : State) (p : Nat) (v : Port) : (setPort s p v).now = s.now := rfl
@[simp] theorem setPort_fresh (s : State) (p : Nat) (v : Port) : (setPort s p v).fresh = s.fresh := rfl
@[simp] theorem setPort_sent (s : State) (p : Nat) (v : Port) : (setPort s p v).sent = s.sent := rfl
@[simp] theorem setPort_regs (s : State) (p : Nat) (v : Port) : (setPort s p v).regs = s.regs := rfl
@[simp] theorem setPort_pend (s : State) (p : Nat) (v : Port) : (setPort s p v).pend = s.pend := rfl
@[simp] theorem setPort_chip (s : State) (p : Nat) (v : Port) : (setPort s p v).chip = s.chip := rfl
@[simp] theorem setPort_link (s : State) (p : Nat) (v : Port) : (setPort s p v).link = s.link := rfl
@[simp] theorem setPort_tenants (s : State) (p : Nat) (v : Port) : (setPort s p v).tenants = s.tenants := rfl
@[simp] theorem setPort_hbm (s : State) (p : Nat) (v : Port) : (setPort s p v).hbm = s.hbm := rfl
@[simp] theorem setPort_pad (s : State) (p : Nat) (v : Port) : (setPort s p v).pad = s.pad := rfl
@[simp] theorem setPort_sched (s : State) (p : Nat) (v : Port) : (setPort s p v).sched = s.sched := rfl
@[simp] theorem setPort_disp (s : State) (p : Nat) (v : Port) : (setPort s p v).disp = s.disp := rfl
@[simp] theorem setPort_sens (s : State) (p : Nat) (v : Port) : (setPort s p v).sens = s.sens := rfl
@[simp] theorem setPort_dec (s : State) (p : Nat) (v : Port) : (setPort s p v).dec = s.dec := rfl
@[simp] theorem setPort_egress (s : State) (p : Nat) (v : Port) : (setPort s p v).egress = s.egress := rfl
@[simp] theorem setPort_fw (s : State) (p : Nat) (v : Port) : (setPort s p v).fw = s.fw := rfl
@[simp] theorem setPort_pwr (s : State) (p : Nat) (v : Port) : (setPort s p v).pwr = s.pwr := rfl
@[simp] theorem setPort_nvr (s : State) (p : Nat) (v : Port) : (setPort s p v).nvr = s.nvr := rfl
@[simp] theorem setPort_sec (s : State) (p : Nat) (v : Port) : (setPort s p v).sec = s.sec := rfl

@[simp] theorem setBase_pending (s : State) (b : Nat) (v : TimeBase) : (setBase s b v).pending = s.pending := rfl
@[simp] theorem setBase_now (s : State) (b : Nat) (v : TimeBase) : (setBase s b v).now = s.now := rfl
@[simp] theorem setBase_fresh (s : State) (b : Nat) (v : TimeBase) : (setBase s b v).fresh = s.fresh := rfl
@[simp] theorem setBase_sent (s : State) (b : Nat) (v : TimeBase) : (setBase s b v).sent = s.sent := rfl
@[simp] theorem setBase_regs (s : State) (b : Nat) (v : TimeBase) : (setBase s b v).regs = s.regs := rfl
@[simp] theorem setBase_pend (s : State) (b : Nat) (v : TimeBase) : (setBase s b v).pend = s.pend := rfl
@[simp] theorem setBase_chip (s : State) (b : Nat) (v : TimeBase) : (setBase s b v).chip = s.chip := rfl
@[simp] theorem setBase_link (s : State) (b : Nat) (v : TimeBase) : (setBase s b v).link = s.link := rfl
@[simp] theorem setBase_tenants (s : State) (b : Nat) (v : TimeBase) : (setBase s b v).tenants = s.tenants := rfl
@[simp] theorem setBase_hbm (s : State) (b : Nat) (v : TimeBase) : (setBase s b v).hbm = s.hbm := rfl
@[simp] theorem setBase_pad (s : State) (b : Nat) (v : TimeBase) : (setBase s b v).pad = s.pad := rfl
@[simp] theorem setBase_sched (s : State) (b : Nat) (v : TimeBase) : (setBase s b v).sched = s.sched := rfl
@[simp] theorem setBase_disp (s : State) (b : Nat) (v : TimeBase) : (setBase s b v).disp = s.disp := rfl
@[simp] theorem setBase_sens (s : State) (b : Nat) (v : TimeBase) : (setBase s b v).sens = s.sens := rfl
@[simp] theorem setBase_dec (s : State) (b : Nat) (v : TimeBase) : (setBase s b v).dec = s.dec := rfl
@[simp] theorem setBase_egress (s : State) (b : Nat) (v : TimeBase) : (setBase s b v).egress = s.egress := rfl
@[simp] theorem setBase_fw (s : State) (b : Nat) (v : TimeBase) : (setBase s b v).fw = s.fw := rfl
@[simp] theorem setBase_pwr (s : State) (b : Nat) (v : TimeBase) : (setBase s b v).pwr = s.pwr := rfl
@[simp] theorem setBase_nvr (s : State) (b : Nat) (v : TimeBase) : (setBase s b v).nvr = s.nvr := rfl
@[simp] theorem setBase_sec (s : State) (b : Nat) (v : TimeBase) : (setBase s b v).sec = s.sec := rfl

@[simp] theorem setWall_pending (s : State) (w : Wall) : (setWall s w).pending = s.pending := rfl
@[simp] theorem setWall_now (s : State) (w : Wall) : (setWall s w).now = s.now := rfl
@[simp] theorem setWall_fresh (s : State) (w : Wall) : (setWall s w).fresh = s.fresh := rfl
@[simp] theorem setWall_sent (s : State) (w : Wall) : (setWall s w).sent = s.sent := rfl
@[simp] theorem setWall_regs (s : State) (w : Wall) : (setWall s w).regs = s.regs := rfl
@[simp] theorem setWall_pend (s : State) (w : Wall) : (setWall s w).pend = s.pend := rfl
@[simp] theorem setWall_chip (s : State) (w : Wall) : (setWall s w).chip = s.chip := rfl
@[simp] theorem setWall_link (s : State) (w : Wall) : (setWall s w).link = s.link := rfl
@[simp] theorem setWall_tenants (s : State) (w : Wall) : (setWall s w).tenants = s.tenants := rfl
@[simp] theorem setWall_hbm (s : State) (w : Wall) : (setWall s w).hbm = s.hbm := rfl
@[simp] theorem setWall_pad (s : State) (w : Wall) : (setWall s w).pad = s.pad := rfl
@[simp] theorem setWall_sched (s : State) (w : Wall) : (setWall s w).sched = s.sched := rfl
@[simp] theorem setWall_disp (s : State) (w : Wall) : (setWall s w).disp = s.disp := rfl
@[simp] theorem setWall_sens (s : State) (w : Wall) : (setWall s w).sens = s.sens := rfl
@[simp] theorem setWall_dec (s : State) (w : Wall) : (setWall s w).dec = s.dec := rfl
@[simp] theorem setWall_egress (s : State) (w : Wall) : (setWall s w).egress = s.egress := rfl
@[simp] theorem setWall_fw (s : State) (w : Wall) : (setWall s w).fw = s.fw := rfl
@[simp] theorem setWall_pwr (s : State) (w : Wall) : (setWall s w).pwr = s.pwr := rfl
@[simp] theorem setWall_nvr (s : State) (w : Wall) : (setWall s w).nvr = s.nvr := rfl
@[simp] theorem setWall_sec (s : State) (w : Wall) : (setWall s w).sec = s.sec := rfl

@[simp] theorem setProc_pending (s : State) (p : Nat) (v : Processor) : (setProc s p v).pending = s.pending := rfl
@[simp] theorem setProc_now (s : State) (p : Nat) (v : Processor) : (setProc s p v).now = s.now := rfl
@[simp] theorem setProc_fresh (s : State) (p : Nat) (v : Processor) : (setProc s p v).fresh = s.fresh := rfl
@[simp] theorem setProc_sent (s : State) (p : Nat) (v : Processor) : (setProc s p v).sent = s.sent := rfl
@[simp] theorem setProc_regs (s : State) (p : Nat) (v : Processor) : (setProc s p v).regs = s.regs := rfl
@[simp] theorem setProc_pend (s : State) (p : Nat) (v : Processor) : (setProc s p v).pend = s.pend := rfl
@[simp] theorem setProc_chip (s : State) (p : Nat) (v : Processor) : (setProc s p v).chip = s.chip := rfl
@[simp] theorem setProc_link (s : State) (p : Nat) (v : Processor) : (setProc s p v).link = s.link := rfl
@[simp] theorem setProc_tenants (s : State) (p : Nat) (v : Processor) : (setProc s p v).tenants = s.tenants := rfl
@[simp] theorem setProc_hbm (s : State) (p : Nat) (v : Processor) : (setProc s p v).hbm = s.hbm := rfl
@[simp] theorem setProc_pad (s : State) (p : Nat) (v : Processor) : (setProc s p v).pad = s.pad := rfl
@[simp] theorem setProc_sched (s : State) (p : Nat) (v : Processor) : (setProc s p v).sched = s.sched := rfl
@[simp] theorem setProc_disp (s : State) (p : Nat) (v : Processor) : (setProc s p v).disp = s.disp := rfl
@[simp] theorem setProc_sens (s : State) (p : Nat) (v : Processor) : (setProc s p v).sens = s.sens := rfl
@[simp] theorem setProc_dec (s : State) (p : Nat) (v : Processor) : (setProc s p v).dec = s.dec := rfl
@[simp] theorem setProc_net (s : State) (p : Nat) (v : Processor) : (setProc s p v).net = s.net := rfl
@[simp] theorem setProc_egress (s : State) (p : Nat) (v : Processor) : (setProc s p v).egress = s.egress := rfl
@[simp] theorem setProc_pwr (s : State) (p : Nat) (v : Processor) : (setProc s p v).pwr = s.pwr := rfl
@[simp] theorem setProc_nvr (s : State) (p : Nat) (v : Processor) : (setProc s p v).nvr = s.nvr := rfl
@[simp] theorem setProc_sec (s : State) (p : Nat) (v : Processor) : (setProc s p v).sec = s.sec := rfl

@[simp] theorem setRegW_pending (s : State) (a v : Nat) : (setRegW s a v).pending = s.pending := rfl
@[simp] theorem setRegW_now (s : State) (a v : Nat) : (setRegW s a v).now = s.now := rfl
@[simp] theorem setRegW_fresh (s : State) (a v : Nat) : (setRegW s a v).fresh = s.fresh := rfl
@[simp] theorem setRegW_sent (s : State) (a v : Nat) : (setRegW s a v).sent = s.sent := rfl
@[simp] theorem setRegW_pend (s : State) (a v : Nat) : (setRegW s a v).pend = s.pend := rfl
@[simp] theorem setRegW_chip (s : State) (a v : Nat) : (setRegW s a v).chip = s.chip := rfl
@[simp] theorem setRegW_link (s : State) (a v : Nat) : (setRegW s a v).link = s.link := rfl
@[simp] theorem setRegW_tenants (s : State) (a v : Nat) : (setRegW s a v).tenants = s.tenants := rfl
@[simp] theorem setRegW_hbm (s : State) (a v : Nat) : (setRegW s a v).hbm = s.hbm := rfl
@[simp] theorem setRegW_pad (s : State) (a v : Nat) : (setRegW s a v).pad = s.pad := rfl
@[simp] theorem setRegW_sched (s : State) (a v : Nat) : (setRegW s a v).sched = s.sched := rfl
@[simp] theorem setRegW_disp (s : State) (a v : Nat) : (setRegW s a v).disp = s.disp := rfl
@[simp] theorem setRegW_sens (s : State) (a v : Nat) : (setRegW s a v).sens = s.sens := rfl
@[simp] theorem setRegW_dec (s : State) (a v : Nat) : (setRegW s a v).dec = s.dec := rfl
@[simp] theorem setRegW_net (s : State) (a v : Nat) : (setRegW s a v).net = s.net := rfl
@[simp] theorem setRegW_egress (s : State) (a v : Nat) : (setRegW s a v).egress = s.egress := rfl
@[simp] theorem setRegW_fw (s : State) (a v : Nat) : (setRegW s a v).fw = s.fw := rfl
@[simp] theorem setRegW_pwr (s : State) (a v : Nat) : (setRegW s a v).pwr = s.pwr := rfl
@[simp] theorem setRegW_nvr (s : State) (a v : Nat) : (setRegW s a v).nvr = s.nvr := rfl
@[simp] theorem setRegW_sec (s : State) (a v : Nat) : (setRegW s a v).sec = s.sec := rfl

@[simp] theorem modTen_pending (s : State) (t : Nat) (f : Tenant → Tenant) : (modTen s t f).pending = s.pending := rfl
@[simp] theorem modTen_now (s : State) (t : Nat) (f : Tenant → Tenant) : (modTen s t f).now = s.now := rfl
@[simp] theorem modTen_fresh (s : State) (t : Nat) (f : Tenant → Tenant) : (modTen s t f).fresh = s.fresh := rfl
@[simp] theorem modTen_sent (s : State) (t : Nat) (f : Tenant → Tenant) : (modTen s t f).sent = s.sent := rfl
@[simp] theorem modTen_regs (s : State) (t : Nat) (f : Tenant → Tenant) : (modTen s t f).regs = s.regs := rfl
@[simp] theorem modTen_pend (s : State) (t : Nat) (f : Tenant → Tenant) : (modTen s t f).pend = s.pend := rfl
@[simp] theorem modTen_chip (s : State) (t : Nat) (f : Tenant → Tenant) : (modTen s t f).chip = s.chip := rfl
@[simp] theorem modTen_link (s : State) (t : Nat) (f : Tenant → Tenant) : (modTen s t f).link = s.link := rfl
@[simp] theorem modTen_hbm (s : State) (t : Nat) (f : Tenant → Tenant) : (modTen s t f).hbm = s.hbm := rfl
@[simp] theorem modTen_pad (s : State) (t : Nat) (f : Tenant → Tenant) : (modTen s t f).pad = s.pad := rfl
@[simp] theorem modTen_sched (s : State) (t : Nat) (f : Tenant → Tenant) : (modTen s t f).sched = s.sched := rfl
@[simp] theorem modTen_disp (s : State) (t : Nat) (f : Tenant → Tenant) : (modTen s t f).disp = s.disp := rfl
@[simp] theorem modTen_sens (s : State) (t : Nat) (f : Tenant → Tenant) : (modTen s t f).sens = s.sens := rfl
@[simp] theorem modTen_dec (s : State) (t : Nat) (f : Tenant → Tenant) : (modTen s t f).dec = s.dec := rfl
@[simp] theorem modTen_net (s : State) (t : Nat) (f : Tenant → Tenant) : (modTen s t f).net = s.net := rfl
@[simp] theorem modTen_egress (s : State) (t : Nat) (f : Tenant → Tenant) : (modTen s t f).egress = s.egress := rfl
@[simp] theorem modTen_fw (s : State) (t : Nat) (f : Tenant → Tenant) : (modTen s t f).fw = s.fw := rfl
@[simp] theorem modTen_pwr (s : State) (t : Nat) (f : Tenant → Tenant) : (modTen s t f).pwr = s.pwr := rfl
@[simp] theorem modTen_nvr (s : State) (t : Nat) (f : Tenant → Tenant) : (modTen s t f).nvr = s.nvr := rfl
@[simp] theorem modTen_sec (s : State) (t : Nat) (f : Tenant → Tenant) : (modTen s t f).sec = s.sec := rfl

@[simp] theorem modPipe_pending (s : State) (p : Nat) (f : Pipe → Pipe) : (modPipe s p f).pending = s.pending := rfl
@[simp] theorem modPipe_now (s : State) (p : Nat) (f : Pipe → Pipe) : (modPipe s p f).now = s.now := rfl
@[simp] theorem modPipe_fresh (s : State) (p : Nat) (f : Pipe → Pipe) : (modPipe s p f).fresh = s.fresh := rfl
@[simp] theorem modPipe_sent (s : State) (p : Nat) (f : Pipe → Pipe) : (modPipe s p f).sent = s.sent := rfl
@[simp] theorem modPipe_regs (s : State) (p : Nat) (f : Pipe → Pipe) : (modPipe s p f).regs = s.regs := rfl
@[simp] theorem modPipe_pend (s : State) (p : Nat) (f : Pipe → Pipe) : (modPipe s p f).pend = s.pend := rfl
@[simp] theorem modPipe_chip (s : State) (p : Nat) (f : Pipe → Pipe) : (modPipe s p f).chip = s.chip := rfl
@[simp] theorem modPipe_link (s : State) (p : Nat) (f : Pipe → Pipe) : (modPipe s p f).link = s.link := rfl
@[simp] theorem modPipe_tenants (s : State) (p : Nat) (f : Pipe → Pipe) : (modPipe s p f).tenants = s.tenants := rfl
@[simp] theorem modPipe_hbm (s : State) (p : Nat) (f : Pipe → Pipe) : (modPipe s p f).hbm = s.hbm := rfl
@[simp] theorem modPipe_pad (s : State) (p : Nat) (f : Pipe → Pipe) : (modPipe s p f).pad = s.pad := rfl
@[simp] theorem modPipe_sched (s : State) (p : Nat) (f : Pipe → Pipe) : (modPipe s p f).sched = s.sched := rfl
@[simp] theorem modPipe_sens (s : State) (p : Nat) (f : Pipe → Pipe) : (modPipe s p f).sens = s.sens := rfl
@[simp] theorem modPipe_dec (s : State) (p : Nat) (f : Pipe → Pipe) : (modPipe s p f).dec = s.dec := rfl
@[simp] theorem modPipe_net (s : State) (p : Nat) (f : Pipe → Pipe) : (modPipe s p f).net = s.net := rfl
@[simp] theorem modPipe_egress (s : State) (p : Nat) (f : Pipe → Pipe) : (modPipe s p f).egress = s.egress := rfl
@[simp] theorem modPipe_fw (s : State) (p : Nat) (f : Pipe → Pipe) : (modPipe s p f).fw = s.fw := rfl
@[simp] theorem modPipe_pwr (s : State) (p : Nat) (f : Pipe → Pipe) : (modPipe s p f).pwr = s.pwr := rfl
@[simp] theorem modPipe_nvr (s : State) (p : Nat) (f : Pipe → Pipe) : (modPipe s p f).nvr = s.nvr := rfl
@[simp] theorem modPipe_sec (s : State) (p : Nat) (f : Pipe → Pipe) : (modPipe s p f).sec = s.sec := rfl

@[simp] theorem incReg_pending (s : State) (a n cap : Nat) : (incReg s a n cap).pending = s.pending := rfl
@[simp] theorem incReg_now (s : State) (a n cap : Nat) : (incReg s a n cap).now = s.now := rfl
@[simp] theorem incReg_fresh (s : State) (a n cap : Nat) : (incReg s a n cap).fresh = s.fresh := rfl
@[simp] theorem incReg_sent (s : State) (a n cap : Nat) : (incReg s a n cap).sent = s.sent := rfl
@[simp] theorem incReg_pend (s : State) (a n cap : Nat) : (incReg s a n cap).pend = s.pend := rfl
@[simp] theorem incReg_chip (s : State) (a n cap : Nat) : (incReg s a n cap).chip = s.chip := rfl
@[simp] theorem incReg_link (s : State) (a n cap : Nat) : (incReg s a n cap).link = s.link := rfl
@[simp] theorem incReg_tenants (s : State) (a n cap : Nat) : (incReg s a n cap).tenants = s.tenants := rfl
@[simp] theorem incReg_hbm (s : State) (a n cap : Nat) : (incReg s a n cap).hbm = s.hbm := rfl
@[simp] theorem incReg_pad (s : State) (a n cap : Nat) : (incReg s a n cap).pad = s.pad := rfl
@[simp] theorem incReg_sched (s : State) (a n cap : Nat) : (incReg s a n cap).sched = s.sched := rfl
@[simp] theorem incReg_disp (s : State) (a n cap : Nat) : (incReg s a n cap).disp = s.disp := rfl
@[simp] theorem incReg_sens (s : State) (a n cap : Nat) : (incReg s a n cap).sens = s.sens := rfl
@[simp] theorem incReg_dec (s : State) (a n cap : Nat) : (incReg s a n cap).dec = s.dec := rfl
@[simp] theorem incReg_net (s : State) (a n cap : Nat) : (incReg s a n cap).net = s.net := rfl
@[simp] theorem incReg_egress (s : State) (a n cap : Nat) : (incReg s a n cap).egress = s.egress := rfl
@[simp] theorem incReg_fw (s : State) (a n cap : Nat) : (incReg s a n cap).fw = s.fw := rfl
@[simp] theorem incReg_pwr (s : State) (a n cap : Nat) : (incReg s a n cap).pwr = s.pwr := rfl
@[simp] theorem incReg_nvr (s : State) (a n cap : Nat) : (incReg s a n cap).nvr = s.nvr := rfl
@[simp] theorem incReg_sec (s : State) (a n cap : Nat) : (incReg s a n cap).sec = s.sec := rfl

@[simp] theorem draw_pending (s : State) : (draw s).pending = s.pending := rfl
@[simp] theorem draw_now (s : State) : (draw s).now = s.now := rfl
@[simp] theorem draw_sent (s : State) : (draw s).sent = s.sent := rfl
@[simp] theorem draw_regs (s : State) : (draw s).regs = s.regs := rfl
@[simp] theorem draw_pend (s : State) : (draw s).pend = s.pend := rfl
@[simp] theorem draw_chip (s : State) : (draw s).chip = s.chip := rfl
@[simp] theorem draw_link (s : State) : (draw s).link = s.link := rfl
@[simp] theorem draw_tenants (s : State) : (draw s).tenants = s.tenants := rfl
@[simp] theorem draw_hbm (s : State) : (draw s).hbm = s.hbm := rfl
@[simp] theorem draw_pad (s : State) : (draw s).pad = s.pad := rfl
@[simp] theorem draw_sched (s : State) : (draw s).sched = s.sched := rfl
@[simp] theorem draw_disp (s : State) : (draw s).disp = s.disp := rfl
@[simp] theorem draw_sens (s : State) : (draw s).sens = s.sens := rfl
@[simp] theorem draw_dec (s : State) : (draw s).dec = s.dec := rfl
@[simp] theorem draw_net (s : State) : (draw s).net = s.net := rfl
@[simp] theorem draw_egress (s : State) : (draw s).egress = s.egress := rfl
@[simp] theorem draw_fw (s : State) : (draw s).fw = s.fw := rfl
@[simp] theorem draw_pwr (s : State) : (draw s).pwr = s.pwr := rfl
@[simp] theorem draw_nvr (s : State) : (draw s).nvr = s.nvr := rfl
@[simp] theorem draw_sec (s : State) : (draw s).sec = s.sec := rfl

@[simp] theorem setEgress_pending (s : State) (p : Nat) (v : Egress) : (setEgress s p v).pending = s.pending := rfl
@[simp] theorem setEgress_now (s : State) (p : Nat) (v : Egress) : (setEgress s p v).now = s.now := rfl
@[simp] theorem setEgress_fresh (s : State) (p : Nat) (v : Egress) : (setEgress s p v).fresh = s.fresh := rfl
@[simp] theorem setEgress_sent (s : State) (p : Nat) (v : Egress) : (setEgress s p v).sent = s.sent := rfl
@[simp] theorem setEgress_regs (s : State) (p : Nat) (v : Egress) : (setEgress s p v).regs = s.regs := rfl
@[simp] theorem setEgress_pend (s : State) (p : Nat) (v : Egress) : (setEgress s p v).pend = s.pend := rfl
@[simp] theorem setEgress_chip (s : State) (p : Nat) (v : Egress) : (setEgress s p v).chip = s.chip := rfl
@[simp] theorem setEgress_link (s : State) (p : Nat) (v : Egress) : (setEgress s p v).link = s.link := rfl
@[simp] theorem setEgress_tenants (s : State) (p : Nat) (v : Egress) : (setEgress s p v).tenants = s.tenants := rfl
@[simp] theorem setEgress_hbm (s : State) (p : Nat) (v : Egress) : (setEgress s p v).hbm = s.hbm := rfl
@[simp] theorem setEgress_pad (s : State) (p : Nat) (v : Egress) : (setEgress s p v).pad = s.pad := rfl
@[simp] theorem setEgress_sched (s : State) (p : Nat) (v : Egress) : (setEgress s p v).sched = s.sched := rfl
@[simp] theorem setEgress_disp (s : State) (p : Nat) (v : Egress) : (setEgress s p v).disp = s.disp := rfl
@[simp] theorem setEgress_sens (s : State) (p : Nat) (v : Egress) : (setEgress s p v).sens = s.sens := rfl
@[simp] theorem setEgress_dec (s : State) (p : Nat) (v : Egress) : (setEgress s p v).dec = s.dec := rfl
@[simp] theorem setEgress_net (s : State) (p : Nat) (v : Egress) : (setEgress s p v).net = s.net := rfl
@[simp] theorem setEgress_fw (s : State) (p : Nat) (v : Egress) : (setEgress s p v).fw = s.fw := rfl
@[simp] theorem setEgress_pwr (s : State) (p : Nat) (v : Egress) : (setEgress s p v).pwr = s.pwr := rfl
@[simp] theorem setEgress_nvr (s : State) (p : Nat) (v : Egress) : (setEgress s p v).nvr = s.nvr := rfl
@[simp] theorem setEgress_sec (s : State) (p : Nat) (v : Egress) : (setEgress s p v).sec = s.sec := rfl

@[simp] theorem hbmWrite_pending (s : State) (t va : Nat) (l : List Byte) : (hbmWrite s t va l).pending = s.pending := rfl
@[simp] theorem hbmWrite_now (s : State) (t va : Nat) (l : List Byte) : (hbmWrite s t va l).now = s.now := rfl
@[simp] theorem hbmWrite_fresh (s : State) (t va : Nat) (l : List Byte) : (hbmWrite s t va l).fresh = s.fresh := rfl
@[simp] theorem hbmWrite_sent (s : State) (t va : Nat) (l : List Byte) : (hbmWrite s t va l).sent = s.sent := rfl
@[simp] theorem hbmWrite_regs (s : State) (t va : Nat) (l : List Byte) : (hbmWrite s t va l).regs = s.regs := rfl
@[simp] theorem hbmWrite_pend (s : State) (t va : Nat) (l : List Byte) : (hbmWrite s t va l).pend = s.pend := rfl
@[simp] theorem hbmWrite_chip (s : State) (t va : Nat) (l : List Byte) : (hbmWrite s t va l).chip = s.chip := rfl
@[simp] theorem hbmWrite_link (s : State) (t va : Nat) (l : List Byte) : (hbmWrite s t va l).link = s.link := rfl
@[simp] theorem hbmWrite_tenants (s : State) (t va : Nat) (l : List Byte) : (hbmWrite s t va l).tenants = s.tenants := rfl
@[simp] theorem hbmWrite_pad (s : State) (t va : Nat) (l : List Byte) : (hbmWrite s t va l).pad = s.pad := rfl
@[simp] theorem hbmWrite_sched (s : State) (t va : Nat) (l : List Byte) : (hbmWrite s t va l).sched = s.sched := rfl
@[simp] theorem hbmWrite_disp (s : State) (t va : Nat) (l : List Byte) : (hbmWrite s t va l).disp = s.disp := rfl
@[simp] theorem hbmWrite_sens (s : State) (t va : Nat) (l : List Byte) : (hbmWrite s t va l).sens = s.sens := rfl
@[simp] theorem hbmWrite_dec (s : State) (t va : Nat) (l : List Byte) : (hbmWrite s t va l).dec = s.dec := rfl
@[simp] theorem hbmWrite_net (s : State) (t va : Nat) (l : List Byte) : (hbmWrite s t va l).net = s.net := rfl
@[simp] theorem hbmWrite_egress (s : State) (t va : Nat) (l : List Byte) : (hbmWrite s t va l).egress = s.egress := rfl
@[simp] theorem hbmWrite_fw (s : State) (t va : Nat) (l : List Byte) : (hbmWrite s t va l).fw = s.fw := rfl
@[simp] theorem hbmWrite_pwr (s : State) (t va : Nat) (l : List Byte) : (hbmWrite s t va l).pwr = s.pwr := rfl
@[simp] theorem hbmWrite_nvr (s : State) (t va : Nat) (l : List Byte) : (hbmWrite s t va l).nvr = s.nvr := rfl
@[simp] theorem hbmWrite_sec (s : State) (t va : Nat) (l : List Byte) : (hbmWrite s t va l).sec = s.sec := rfl

@[simp] theorem hbmZero_pending (s : State) (t va n : Nat) : (hbmZero s t va n).pending = s.pending := rfl
@[simp] theorem hbmZero_now (s : State) (t va n : Nat) : (hbmZero s t va n).now = s.now := rfl
@[simp] theorem hbmZero_fresh (s : State) (t va n : Nat) : (hbmZero s t va n).fresh = s.fresh := rfl
@[simp] theorem hbmZero_sent (s : State) (t va n : Nat) : (hbmZero s t va n).sent = s.sent := rfl
@[simp] theorem hbmZero_regs (s : State) (t va n : Nat) : (hbmZero s t va n).regs = s.regs := rfl
@[simp] theorem hbmZero_pend (s : State) (t va n : Nat) : (hbmZero s t va n).pend = s.pend := rfl
@[simp] theorem hbmZero_chip (s : State) (t va n : Nat) : (hbmZero s t va n).chip = s.chip := rfl
@[simp] theorem hbmZero_link (s : State) (t va n : Nat) : (hbmZero s t va n).link = s.link := rfl
@[simp] theorem hbmZero_tenants (s : State) (t va n : Nat) : (hbmZero s t va n).tenants = s.tenants := rfl
@[simp] theorem hbmZero_pad (s : State) (t va n : Nat) : (hbmZero s t va n).pad = s.pad := rfl
@[simp] theorem hbmZero_sched (s : State) (t va n : Nat) : (hbmZero s t va n).sched = s.sched := rfl
@[simp] theorem hbmZero_disp (s : State) (t va n : Nat) : (hbmZero s t va n).disp = s.disp := rfl
@[simp] theorem hbmZero_sens (s : State) (t va n : Nat) : (hbmZero s t va n).sens = s.sens := rfl
@[simp] theorem hbmZero_dec (s : State) (t va n : Nat) : (hbmZero s t va n).dec = s.dec := rfl
@[simp] theorem hbmZero_net (s : State) (t va n : Nat) : (hbmZero s t va n).net = s.net := rfl
@[simp] theorem hbmZero_egress (s : State) (t va n : Nat) : (hbmZero s t va n).egress = s.egress := rfl
@[simp] theorem hbmZero_fw (s : State) (t va n : Nat) : (hbmZero s t va n).fw = s.fw := rfl
@[simp] theorem hbmZero_pwr (s : State) (t va n : Nat) : (hbmZero s t va n).pwr = s.pwr := rfl
@[simp] theorem hbmZero_nvr (s : State) (t va n : Nat) : (hbmZero s t va n).nvr = s.nvr := rfl
@[simp] theorem hbmZero_sec (s : State) (t va n : Nat) : (hbmZero s t va n).sec = s.sec := rfl

@[simp] theorem padWrite_pending (s : State) (c a : Nat) (l : List Byte) : (padWrite s c a l).pending = s.pending := rfl
@[simp] theorem padWrite_now (s : State) (c a : Nat) (l : List Byte) : (padWrite s c a l).now = s.now := rfl
@[simp] theorem padWrite_fresh (s : State) (c a : Nat) (l : List Byte) : (padWrite s c a l).fresh = s.fresh := rfl
@[simp] theorem padWrite_sent (s : State) (c a : Nat) (l : List Byte) : (padWrite s c a l).sent = s.sent := rfl
@[simp] theorem padWrite_regs (s : State) (c a : Nat) (l : List Byte) : (padWrite s c a l).regs = s.regs := rfl
@[simp] theorem padWrite_pend (s : State) (c a : Nat) (l : List Byte) : (padWrite s c a l).pend = s.pend := rfl
@[simp] theorem padWrite_chip (s : State) (c a : Nat) (l : List Byte) : (padWrite s c a l).chip = s.chip := rfl
@[simp] theorem padWrite_link (s : State) (c a : Nat) (l : List Byte) : (padWrite s c a l).link = s.link := rfl
@[simp] theorem padWrite_tenants (s : State) (c a : Nat) (l : List Byte) : (padWrite s c a l).tenants = s.tenants := rfl
@[simp] theorem padWrite_hbm (s : State) (c a : Nat) (l : List Byte) : (padWrite s c a l).hbm = s.hbm := rfl
@[simp] theorem padWrite_sched (s : State) (c a : Nat) (l : List Byte) : (padWrite s c a l).sched = s.sched := rfl
@[simp] theorem padWrite_disp (s : State) (c a : Nat) (l : List Byte) : (padWrite s c a l).disp = s.disp := rfl
@[simp] theorem padWrite_sens (s : State) (c a : Nat) (l : List Byte) : (padWrite s c a l).sens = s.sens := rfl
@[simp] theorem padWrite_dec (s : State) (c a : Nat) (l : List Byte) : (padWrite s c a l).dec = s.dec := rfl
@[simp] theorem padWrite_net (s : State) (c a : Nat) (l : List Byte) : (padWrite s c a l).net = s.net := rfl
@[simp] theorem padWrite_egress (s : State) (c a : Nat) (l : List Byte) : (padWrite s c a l).egress = s.egress := rfl
@[simp] theorem padWrite_fw (s : State) (c a : Nat) (l : List Byte) : (padWrite s c a l).fw = s.fw := rfl
@[simp] theorem padWrite_pwr (s : State) (c a : Nat) (l : List Byte) : (padWrite s c a l).pwr = s.pwr := rfl
@[simp] theorem padWrite_nvr (s : State) (c a : Nat) (l : List Byte) : (padWrite s c a l).nvr = s.nvr := rfl
@[simp] theorem padWrite_sec (s : State) (c a : Nat) (l : List Byte) : (padWrite s c a l).sec = s.sec := rfl

@[simp] theorem padZero_pending (s : State) (c a n : Nat) : (padZero s c a n).pending = s.pending := rfl
@[simp] theorem padZero_now (s : State) (c a n : Nat) : (padZero s c a n).now = s.now := rfl
@[simp] theorem padZero_fresh (s : State) (c a n : Nat) : (padZero s c a n).fresh = s.fresh := rfl
@[simp] theorem padZero_sent (s : State) (c a n : Nat) : (padZero s c a n).sent = s.sent := rfl
@[simp] theorem padZero_regs (s : State) (c a n : Nat) : (padZero s c a n).regs = s.regs := rfl
@[simp] theorem padZero_pend (s : State) (c a n : Nat) : (padZero s c a n).pend = s.pend := rfl
@[simp] theorem padZero_chip (s : State) (c a n : Nat) : (padZero s c a n).chip = s.chip := rfl
@[simp] theorem padZero_link (s : State) (c a n : Nat) : (padZero s c a n).link = s.link := rfl
@[simp] theorem padZero_tenants (s : State) (c a n : Nat) : (padZero s c a n).tenants = s.tenants := rfl
@[simp] theorem padZero_hbm (s : State) (c a n : Nat) : (padZero s c a n).hbm = s.hbm := rfl
@[simp] theorem padZero_sched (s : State) (c a n : Nat) : (padZero s c a n).sched = s.sched := rfl
@[simp] theorem padZero_disp (s : State) (c a n : Nat) : (padZero s c a n).disp = s.disp := rfl
@[simp] theorem padZero_sens (s : State) (c a n : Nat) : (padZero s c a n).sens = s.sens := rfl
@[simp] theorem padZero_dec (s : State) (c a n : Nat) : (padZero s c a n).dec = s.dec := rfl
@[simp] theorem padZero_net (s : State) (c a n : Nat) : (padZero s c a n).net = s.net := rfl
@[simp] theorem padZero_egress (s : State) (c a n : Nat) : (padZero s c a n).egress = s.egress := rfl
@[simp] theorem padZero_fw (s : State) (c a n : Nat) : (padZero s c a n).fw = s.fw := rfl
@[simp] theorem padZero_pwr (s : State) (c a n : Nat) : (padZero s c a n).pwr = s.pwr := rfl
@[simp] theorem padZero_nvr (s : State) (c a n : Nat) : (padZero s c a n).nvr = s.nvr := rfl
@[simp] theorem padZero_sec (s : State) (c a n : Nat) : (padZero s c a n).sec = s.sec := rfl

/-! ## What a read gives after its own update -/

@[simp] theorem getTen_setTen_self (s : State) (t : Nat) (x : Tenant) : getTen (setTen s t x) t = x := by
  simp [getTen, setTen]
theorem getTen_setTen_ne (s : State) {t j : Nat} (x : Tenant) (h : j ≠ t) : getTen (setTen s t x) j = getTen s j := by
  simp [getTen, setTen, tabGet_tabSet_ne _ _ _ h]
@[simp] theorem getCore_setCore_self (s : State) (c : Nat) (x : Core) : getCore (setCore s c x) c = x := by
  simp [getCore, setCore]
theorem getCore_setCore_ne (s : State) {c j : Nat} (x : Core) (h : j ≠ c) : getCore (setCore s c x) j = getCore s j := by
  simp [getCore, setCore, tabGet_tabSet_ne _ _ _ h]
@[simp] theorem getUnit_setUnit_self (s : State) (u : Nat) (x : Func) : getUnit (setUnit s u x) u = x := by
  simp [getUnit, setUnit]
theorem getUnit_setUnit_ne (s : State) {u j : Nat} (x : Func) (h : j ≠ u) : getUnit (setUnit s u x) j = getUnit s j := by
  simp [getUnit, setUnit, tabGet_tabSet_ne _ _ _ h]
@[simp] theorem getPipe_setPipe_self (s : State) (p : Nat) (x : Pipe) : getPipe (setPipe s p x) p = x := by
  simp [getPipe, setPipe]
theorem getPipe_setPipe_ne (s : State) {p j : Nat} (x : Pipe) (h : j ≠ p) : getPipe (setPipe s p x) j = getPipe s j := by
  simp [getPipe, setPipe, tabGet_tabSet_ne _ _ _ h]
@[simp] theorem getTx_setTx_self (s : State) (t : Nat) (x : Transmitter) : getTx (setTx s t x) t = x := by
  simp [getTx, setTx]
theorem getTx_setTx_ne (s : State) {t j : Nat} (x : Transmitter) (h : j ≠ t) : getTx (setTx s t x) j = getTx s j := by
  simp [getTx, setTx, tabGet_tabSet_ne _ _ _ h]
@[simp] theorem getRx_setRx_self (s : State) (r : Nat) (x : Receiver) : getRx (setRx s r x) r = x := by
  simp [getRx, setRx]
theorem getRx_setRx_ne (s : State) {r j : Nat} (x : Receiver) (h : j ≠ r) : getRx (setRx s r x) j = getRx s j := by
  simp [getRx, setRx, tabGet_tabSet_ne _ _ _ h]
@[simp] theorem getTdm_setTdm_self (s : State) (p : Nat) (x : TdmPort) : getTdm (setTdm s p x) p = x := by
  simp [getTdm, setTdm]
theorem getTdm_setTdm_ne (s : State) {p j : Nat} (x : TdmPort) (h : j ≠ p) : getTdm (setTdm s p x) j = getTdm s j := by
  simp [getTdm, setTdm, tabGet_tabSet_ne _ _ _ h]
@[simp] theorem getCtx_setCtx_self (s : State) (c : Nat) (x : Context) : getCtx (setCtx s c x) c = x := by
  simp [getCtx, setCtx]
theorem getCtx_setCtx_ne (s : State) {c j : Nat} (x : Context) (h : j ≠ c) : getCtx (setCtx s c x) j = getCtx s j := by
  simp [getCtx, setCtx, tabGet_tabSet_ne _ _ _ h]
@[simp] theorem getLane_setLane_self (s : State) (l : Nat) (x : Lane) : getLane (setLane s l x) l = x := by
  simp [getLane, setLane]
theorem getLane_setLane_ne (s : State) {l j : Nat} (x : Lane) (h : j ≠ l) : getLane (setLane s l x) j = getLane s j := by
  simp [getLane, setLane, tabGet_tabSet_ne _ _ _ h]
@[simp] theorem getPort_setPort_self (s : State) (p : Nat) (x : Port) : getPort (setPort s p x) p = x := by
  simp [getPort, setPort]
theorem getPort_setPort_ne (s : State) {p j : Nat} (x : Port) (h : j ≠ p) : getPort (setPort s p x) j = getPort s j := by
  simp [getPort, setPort, tabGet_tabSet_ne _ _ _ h]
@[simp] theorem getBase_setBase_self (s : State) (b : Nat) (x : TimeBase) : getBase (setBase s b x) b = x := by
  simp [getBase, setBase]
theorem getBase_setBase_ne (s : State) {b j : Nat} (x : TimeBase) (h : j ≠ b) : getBase (setBase s b x) j = getBase s j := by
  simp [getBase, setBase, tabGet_tabSet_ne _ _ _ h]
@[simp] theorem getProc_setProc_self (s : State) (p : Nat) (x : Processor) : getProc (setProc s p x) p = x := by
  simp [getProc, setProc]
theorem getProc_setProc_ne (s : State) {p j : Nat} (x : Processor) (h : j ≠ p) : getProc (setProc s p x) j = getProc s j := by
  simp [getProc, setProc, tabGet_tabSet_ne _ _ _ h]
@[simp] theorem getSes_setSes_self (s : State) (i : Nat) (x : Session) : getSes (setSes s i x) i = some x := by
  simp [getSes, setSes]
theorem getSes_setSes_ne (s : State) {i j : Nat} (x : Session) (h : j ≠ i) : getSes (setSes s i x) j = getSes s j := by
  simp [getSes, setSes, tabFind_tabSet_ne _ _ h]
@[simp] theorem getLoop_setLoop_self (s : State) (i : Nat) (x : Loop) : getLoop (setLoop s i x) i = some x := by
  simp [getLoop, setLoop]
theorem getLoop_setLoop_ne (s : State) {i j : Nat} (x : Loop) (h : j ≠ i) : getLoop (setLoop s i x) j = getLoop s j := by
  simp [getLoop, setLoop, tabFind_tabSet_ne _ _ h]
@[simp] theorem getStream_setStream_self (s : State) (i : Nat) (x : Stream) : getStream (setStream s i x) i = some x := by
  simp [getStream, setStream]
theorem getStream_setStream_ne (s : State) {i j : Nat} (x : Stream) (h : j ≠ i) : getStream (setStream s i x) j = getStream s j := by
  simp [getStream, setStream, tabFind_tabSet_ne _ _ h]

@[simp] theorem getTen_modTen_self (s : State) (t : Nat) (f : Tenant → Tenant) :
    getTen (modTen s t f) t = f (getTen s t) := by simp [modTen]
theorem getTen_modTen_ne (s : State) {t j : Nat} (f : Tenant → Tenant) (h : j ≠ t) :
    getTen (modTen s t f) j = getTen s j := getTen_setTen_ne s _ h
@[simp] theorem getPipe_modPipe_self (s : State) (p : Nat) (f : Pipe → Pipe) :
    getPipe (modPipe s p f) p = f (getPipe s p) := by simp [modPipe]
theorem getPipe_modPipe_ne (s : State) {p j : Nat} (f : Pipe → Pipe) (h : j ≠ p) :
    getPipe (modPipe s p f) j = getPipe s j := getPipe_setPipe_ne s _ h
@[simp] theorem draw_fresh (s : State) : (draw s).fresh = s.fresh + 1 := rfl

/-- A register word reads as it was written, modulo 2^32. -/
@[simp] theorem regW_setRegW_self (s : State) (a v : Nat) : regW (setRegW s a v) a = v % 2 ^ 32 := by
  simp [regW, setRegW]
theorem regW_setRegW_ne (s : State) {a b : Nat} (v : Nat) (h : b ≠ a) : regW (setRegW s a v) b = regW s b := by
  simp only [regW, setRegW, tabPut]
  by_cases hv : BitVec.ofNat 32 v = BitVec.ofNat 32 (resetWord a)
  · simp only [hv, if_true, tabGet_tabErase_ne _ _ h]
  · simp only [hv, if_false, tabGet_tabSet_ne _ _ _ h]

/-! ## Memory of a tenant and of a core -/

theorem hbmKey_inj {t u a b : Nat} (ha : a < 2 ^ 48) (hb : b < 2 ^ 48) : hbmKey t a = hbmKey u b ↔ t = u ∧ a = b := by
  unfold hbmKey
  constructor
  · intro h; omega
  · rintro ⟨rfl, rfl⟩; rfl

/-- A tenant's bytes read as they were written. -/
theorem hbmRead_hbmWrite (s : State) (t va : Nat) (l : List Byte) : hbmRead (hbmWrite s t va l) t va l.length = l :=
  memReads_memWrites _ _ _

/-- A store to one tenant leaves the bytes of the others. -/
theorem hbmRead_hbmWrite_ne (s : State) {t u : Nat} (va a n : Nat) (l : List Byte) (h : u ≠ t)
    (hl : va % 2 ^ 48 + l.length ≤ 2 ^ 48) (hn : a % 2 ^ 48 + n ≤ 2 ^ 48) :
    hbmRead (hbmWrite s t va l) u a n = hbmRead s u a n := by
  apply List.ext_getElem
  · simp [hbmRead]
  · intro i h1 h2
    have hi : i < n := by simpa [hbmRead] using h1
    simp only [hbmRead, hbmWrite, memReads, List.getElem_map, List.getElem_range]
    refine memRead_memWrites_out _ _ _ ?_
    unfold hbmKey
    rcases Nat.lt_or_gt_of_ne h with h | h
    · left; omega
    · right; omega

end Sys2Proof.Machine
end

