-- ==== Sys2Proof/Laws/Ops.lean ====
section
/-! SUPPORT. Laws/Ops.lean: what the shared operations on sessions can do. -/

namespace Sys2Proof.Machine

open Sys2Proof

/-- A request that is served goes to its meaning. -/
theorem take_served {s : State} {i : Instr} {op : Nat} {rq : Req} {ss : Session} (h : Served s i op rq ss)
    (k : Nat → Nat → Session → Req → State) : take i s k = k op ss.tenant ss rq := by
  obtain ⟨h1, h2, h3, h4, ⟨p, h5, h6⟩, h7⟩ := h
  simp [take, h4, h5, request, h1, h2, h3, h6, h7]

/-- A register write with a row of its own, once it is served, is that REG_WRITE. -/
theorem oneWrite_served {s : State} {rq : Req} {a : Nat} {ss : Session} (h : ServedWrite s rq a ss) (v : Nat → Nat) :
    oneWrite s rq a v = regWriteBody s opRegWrite rq ss.tenant a 1 0 [v ss.tenant] := by
  obtain ⟨h1, h2, h3, h4⟩ := h
  have h5 : mustWait s opRegWrite = false := rfl
  simp only [oneWrite, request, h1, h2, h3, h4, h5, Bool.not_true, Bool.false_eq_true, if_false]

/-- A list of checks whose conditions all fail refuses nothing. -/
theorem firstFault_eq_none {l : List (Bool × (Nat × Nat))} : firstFault l = none ↔ ∀ c ∈ l, c.1 = false := by
  induction l with
  | nil => simp [firstFault]
  | cons x r ih =>
    obtain ⟨c, e⟩ := x
    cases c <;> simp [firstFault, ih]

theorem checked_pass {s k : State} {op : Nat} {rq : Req} {l : List (Bool × (Nat × Nat))} (h : firstFault l = none) :
    checked s op rq l k = k := by
  simp [checked, h]

theorem checked_fail {s k : State} {op : Nat} {rq : Req} {l : List (Bool × (Nat × Nat))} {e : Nat × Nat}
    (h : firstFault l = some e) : checked s op rq l k = refuse s op rq e := by
  simp [checked, h]

theorem accept_pass {s : State} {op : Nat} {rq : Req} {t status : Nat} {p : List Byte} {k : State → Async → State}
    (h : asyncCount s t rq.session.toNat < asyncLimit) :
    accept s op rq t status p k =
      k (reply (modTen s t fun x => { x with async := x.async ++ [⟨rq.session.toNat, op, rq.tag.toNat⟩] }) op rq status 0 p)
        ⟨rq.session.toNat, op, rq.tag.toNat⟩ := by
  simp [accept, Nat.not_le.2 h]

/-! ## What sending leaves alone -/

/-- Frames were sent or wait at their ports, and nothing else changed but what NetKept names. -/
structure Sends (s t : State) : Prop where
  rest : { t with sent := s.sent, egress := s.egress, net := s.net } = s
  net : { t.net with ports := s.net.ports } = s.net
  ports : ∀ p, { getPort t p with gptp := { (getPort t p).gptp with pdelaySent := (getPort s p).gptp.pdelaySent } } = getPort s p

theorem Sends.refl (s : State) : Sends s s := ⟨rfl, rfl, fun _ => rfl⟩

theorem Sends.trans {a b c : State} (h : Sends a b) (k : Sends b c) : Sends a c := by
  refine ⟨by rw [← h.rest, ← k.rest], by rw [← h.net, ← k.net], fun p => ?_⟩
  rw [← h.ports p, ← k.ports p]

theorem setEgress_sends (s : State) (p : Nat) (e : Egress) : Sends s (setEgress s p e) := ⟨rfl, rfl, fun _ => rfl⟩

theorem sent_sends (s : State) (l : List Output) : Sends s { s with sent := l } := ⟨rfl, rfl, fun _ => rfl⟩

theorem pdelaySent_sends (s : State) (p : Nat) (d : Option Frac) :
    Sends s (modPort s p fun x => { x with gptp := { x.gptp with pdelaySent := d } }) := by
  refine ⟨rfl, rfl, fun q => ?_⟩
  by_cases h : q = p
  · subst h; simp [modPort]
  · simp [modPort, getPort_setPort_ne s _ h]

theorem depart_sends (s : State) (o : Output) : Sends s (depart s o).1 := by
  unfold depart
  dsimp only
  split
  · split <;> exact sent_sends ..
  · exact (pdelaySent_sends ..).trans (sent_sends ..)
  · exact sent_sends ..
  · exact sent_sends ..

theorem joinPort_sends (s : State) (o : Output) : Sends s (joinPort s o) := by
  unfold joinPort
  split
  · exact .refl s
  · exact setEgress_sends ..

theorem foldl_sends {α : Type} {f : State → α → State} (h : ∀ s x, Sends s (f s x)) (l : List α) (s : State) :
    Sends s (l.foldl f s) := by
  induction l generalizing s with
  | nil => exact .refl s
  | cons x r ih => exact (h s x).trans (ih _)

theorem drainClass_sends (p c k : Nat) (s : State) : Sends s (drainClass p c k s) := by
  induction k generalizing s with
  | zero => exact .refl s
  | succ k ih =>
    unfold drainClass
    dsimp only
    split
    · exact .refl s
    · split
      · exact .refl s
      · split
        · exact .refl s
        · split
          · exact (setEgress_sends ..).trans (ih _)
          · exact (((setEgress_sends ..).trans (depart_sends ..)).trans (foldl_sends joinPort_sends ..)).trans (ih _)

theorem drainPort_sends (s : State) (p : Nat) : Sends s (drainPort s p) := by
  unfold drainPort
  split
  · exact .refl s
  · exact (setEgress_sends ..).trans (foldl_sends (fun _ _ => drainClass_sends ..) ..)

/-- A frame that is offered to its port changes frames alone, whatever the port. -/
theorem out_sends (s : State) (o : Output) : Sends s (out s o) := by
  unfold out
  split
  · exact .refl s
  · split
    · exact depart_sends ..
    · split
      · exact .refl s
      · split
        · exact (joinPort_sends ..).trans (drainPort_sends ..)
        · exact (depart_sends ..).trans (foldl_sends (fun _ _ => depart_sends ..) ..)

/-- A frame that its port neither mutes nor paces leaves at once where the link is up. -/
theorem out_at_once {s : State} {o : Output} {p c n : Nat} (hm : muted s o = false) (he : ethFrame s o = some (p, c, n))
    (hl : (getPort s p).link = true) (hg : paced s p = false) (hd : depart s o = ({ s with sent := o :: s.sent }, [])) :
    out s o = { s with sent := o :: s.sent } := by
  simp [out, hm, he, hl, hg, hd]

/-- No frame leaves a port whose link is down (R45). -/
theorem out_without_link {s : State} {o : Output} {p c n : Nat} (he : ethFrame s o = some (p, c, n))
    (hl : (getPort s p).link = false) : out s o = s := by
  simp [out, he, hl]

/-- A packet that its port lets go at once stands newest among what left the chip. -/
theorem out_packet_at_once {s : State} {w : Wire} (i : Nat) (p : TxPacket) (h : PortFree s w.eth w.v6) :
    out s (.packet i p w) = { s with sent := .packet i p w :: s.sent } := by
  obtain ⟨hl, hg, h6⟩ := h
  have hm : muted s (.packet i p w) = false := by
    obtain h | h := h6 <;> simp [muted, h]
  exact out_at_once hm rfl hl hg rfl

/-- With no port that paces its frames, a packet of a session leaves or is lost. -/
theorem out_packet_unpaced {s : State} (i : Nat) (p : TxPacket) (w : Wire) (h : ∀ p, paced s p = false) :
    (out s (.packet i p w)).net = s.net ∧ (out s (.packet i p w)).egress = s.egress := by
  unfold out
  simp only [ethFrame, h, Bool.false_eq_true, if_false]
  split
  · exact ⟨rfl, rfl⟩
  · split <;> exact ⟨rfl, rfl⟩

theorem paced_congr {s t : State} (hn : t.net = s.net) (he : t.egress = s.egress)
    (hr : ∀ a, a ≠ 0x10000 → regW t a = regW s a) (p : Nat) : paced t p = paced s p := by
  have h1 : aPort p 0x40 ≠ 0x10000 := by unfold aPort; omega
  have h2 : aPort p 0x44 ≠ 0x10000 := by unfold aPort; omega
  unfold paced getPort getEgress
  rw [hn, he, hr _ h1, hr _ h2]

theorem netKept_of_eq {s t : State} (hn : t.net = s.net) (he : t.egress = s.egress) : NetKept s t := by
  refine ⟨by rw [hn], fun p => ?_, fun _ => ⟨hn, he⟩⟩
  simp only [getPort, hn]

theorem sameButReply_refl (s : State) (i : Nat) : SameButReply s s i :=
  ⟨rfl, netKept_of_eq rfl rfl, rfl, fun _ _ => rfl, fun ss h => ⟨ss, h, rfl⟩, fun _ _ => rfl, rfl, fun h => ⟨rfl, h⟩, fun h => ⟨rfl, h⟩⟩

theorem sameButReply_trans {a b c : State} {i : Nat} (h : SameButReply a b i) (k : SameButReply b c i) : SameButReply a c i where
  rest := by rw [← h.rest, ← k.rest]
  net := by
    refine ⟨by rw [← h.net.rest, ← k.net.rest], fun p => by rw [← h.net.ports p, ← k.net.ports p], fun hf => ?_⟩
    obtain ⟨n, e⟩ := h.net.free hf
    obtain ⟨n', e'⟩ := k.net.free fun p => (paced_congr n e h.regs p).trans (hf p)
    exact ⟨n'.trans n, e'.trans e⟩
  link := by rw [← h.link, ← k.link]
  sessions j hj := (k.sessions j hj).trans (h.sessions j hj)
  session ss hs := by
    obtain ⟨u, hu, eu⟩ := h.session ss hs
    obtain ⟨v, hv, ev⟩ := k.session u hu
    exact ⟨v, hv, by rw [← eu, ← ev]⟩
  regs r hr := (k.regs r hr).trans (h.regs r hr)
  chip := by rw [← h.chip, ← k.chip]
  ports hp := by
    obtain ⟨e, q⟩ := h.ports hp
    obtain ⟨e', q'⟩ := k.ports q
    exact ⟨e'.trans e, q'⟩
  reset hr := by
    obtain ⟨e, q⟩ := h.reset hr
    obtain ⟨e', q'⟩ := k.reset q
    exact ⟨e'.trans e, q'⟩

theorem out_packet_same (s : State) (i : Nat) (p : TxPacket) (w : Wire) : SameButReply s (out s (.packet i p w)) i := by
  have h := out_sends s (.packet i p w)
  have hl : (out s (.packet i p w)).link = s.link := (congrArg State.link h.rest :)
  have hr : (out s (.packet i p w)).regs = s.regs := (congrArg State.regs h.rest :)
  have hc : (out s (.packet i p w)).chip = s.chip := (congrArg State.chip h.rest :)
  refine ⟨?_, ⟨h.net, h.ports, out_packet_unpaced i p w⟩, by rw [hl], fun j _ => ?_, fun ss e => ⟨ss, ?_, rfl⟩,
    fun a _ => ?_, by rw [hc], fun e => ⟨hr, by rw [hl, e]⟩, fun e => ⟨hc, by rw [hl, e]⟩⟩
  · have k := h.rest
    rwa [hl, hr, hc] at k
  · simp only [getSes, hl]
  · simpa only [getSes, hl] using e
  · simp only [regW, hr]

/-- A session may take new counters and queues. -/
theorem setSes_same {s : State} {i : Nat} {ss u : Session} (h : getSes s i = some ss) (e : { u with tx := ss.tx, rx := ss.rx } = ss) :
    SameButReply s (setSes s i u) i where
  rest := rfl
  net := netKept_of_eq rfl rfl
  link := rfl
  sessions j hj := getSes_setSes_ne s u hj
  session ss' h' := ⟨u, getSes_setSes_self s i u, by rw [h] at h'; obtain rfl := Option.some.inj h'; exact e⟩
  regs _ _ := rfl
  chip := rfl
  ports h := ⟨rfl, h⟩
  reset h := ⟨rfl, h⟩

theorem armReset_same (s : State) (i tag : Nat) : SameButReply s (armReset s i tag) i := by
  unfold armReset
  split
  · rename_i h
    exact ⟨rfl, netKept_of_eq rfl rfl, rfl, fun _ _ => rfl, fun ss e => ⟨ss, e, rfl⟩, fun _ _ => rfl, rfl, fun e => ⟨rfl, e⟩,
      fun e => by rw [e] at h; contradiction⟩
  · exact sameButReply_refl s i

theorem portsNow_same (s : State) (i : Nat) {x : Nat × Nat × Nat} (h : s.link.portsNext ≠ []) :
    SameButReply s { setRegW s aCmdPorts x.1 with
      link := { s.link with portsNext := s.link.portsNext.filter fun y => y.2 ≠ x.2 } } i where
  rest := rfl
  net := netKept_of_eq rfl rfl
  link := rfl
  sessions _ _ := rfl
  session ss e := ⟨ss, e, rfl⟩
  regs a ha := regW_setRegW_ne s x.1 ha
  chip := rfl
  ports e := absurd e h
  reset e := ⟨rfl, e⟩

theorem afterSent_same (s : State) (i : Nat) (m : Msg) : SameButReply s (afterSent s i m) i := by
  unfold afterSent
  split
  · exact sameButReply_refl s i
  · dsimp only
    split
    · exact armReset_same ..
    · rename_i x hx
      refine sameButReply_trans (armReset_same s i m.tag) (portsNow_same _ i fun e => ?_)
      rw [e] at hx
      simp at hx

theorem transmit_same {s : State} {i : Nat} {ss v : Session} (m : Msg) (h : getSes s i = some v)
    (e : { ss with tx := v.tx, rx := v.rx } = v) : SameButReply s (transmit s i ss m) i := by
  unfold transmit
  exact sameButReply_trans (sameButReply_trans (setSes_same h (by rw [← e])) (out_packet_same ..)) (afterSent_same ..)

theorem sendMsg_same (s : State) (i : Nat) (m : Msg) : SameButReply s (sendMsg s i m) i := by
  unfold sendMsg
  split
  · exact sameButReply_refl s i
  · rename_i ss h
    split
    · exact transmit_same m h rfl
    · exact setSes_same h rfl

theorem reply_same (s : State) (op : Nat) (rq : Req) (st d : Nat) (p : List Byte) :
    SameButReply s (reply s op rq st d p) rq.session.toNat := sendMsg_same _ _ _

theorem refuse_same (s : State) (op : Nat) (rq : Req) (e : Nat × Nat) : SameButReply s (refuse s op rq e) rq.session.toNat :=
  reply_same _ _ _ _ _ _

theorem replyOk_same (s : State) (op : Nat) (rq : Req) (p : List Byte) : SameButReply s (replyOk s op rq p) rq.session.toNat :=
  reply_same _ _ _ _ _ _

theorem SameButReply.pending_eq {s t : State} {i : Nat} (h : SameButReply s t i) : t.pending = s.pending := (congrArg State.pending h.rest :)
theorem SameButReply.now_eq {s t : State} {i : Nat} (h : SameButReply s t i) : t.now = s.now := (congrArg State.now h.rest :)
theorem SameButReply.fresh_eq {s t : State} {i : Nat} (h : SameButReply s t i) : t.fresh = s.fresh := (congrArg State.fresh h.rest :)
theorem SameButReply.pend_eq {s t : State} {i : Nat} (h : SameButReply s t i) : t.pend = s.pend := (congrArg State.pend h.rest :)
theorem SameButReply.tenants_eq {s t : State} {i : Nat} (h : SameButReply s t i) : t.tenants = s.tenants := (congrArg State.tenants h.rest :)
theorem SameButReply.hbm_eq {s t : State} {i : Nat} (h : SameButReply s t i) : t.hbm = s.hbm := (congrArg State.hbm h.rest :)
theorem SameButReply.pad_eq {s t : State} {i : Nat} (h : SameButReply s t i) : t.pad = s.pad := (congrArg State.pad h.rest :)
theorem SameButReply.sched_eq {s t : State} {i : Nat} (h : SameButReply s t i) : t.sched = s.sched := (congrArg State.sched h.rest :)
theorem SameButReply.disp_eq {s t : State} {i : Nat} (h : SameButReply s t i) : t.disp = s.disp := (congrArg State.disp h.rest :)
theorem SameButReply.sens_eq {s t : State} {i : Nat} (h : SameButReply s t i) : t.sens = s.sens := (congrArg State.sens h.rest :)
theorem SameButReply.dec_eq {s t : State} {i : Nat} (h : SameButReply s t i) : t.dec = s.dec := (congrArg State.dec h.rest :)
theorem SameButReply.fw_eq {s t : State} {i : Nat} (h : SameButReply s t i) : t.fw = s.fw := (congrArg State.fw h.rest :)
theorem SameButReply.pwr_eq {s t : State} {i : Nat} (h : SameButReply s t i) : t.pwr = s.pwr := (congrArg State.pwr h.rest :)
theorem SameButReply.nvr_eq {s t : State} {i : Nat} (h : SameButReply s t i) : t.nvr = s.nvr := (congrArg State.nvr h.rest :)
theorem SameButReply.sec_eq {s t : State} {i : Nat} (h : SameButReply s t i) : t.sec = s.sec := (congrArg State.sec h.rest :)

@[simp] theorem sendMsg_pending (s : State) (i : Nat) (m : Msg) : (sendMsg s i m).pending = s.pending := SameButReply.pending_eq (sendMsg_same s i m)
@[simp] theorem sendMsg_now (s : State) (i : Nat) (m : Msg) : (sendMsg s i m).now = s.now := SameButReply.now_eq (sendMsg_same s i m)
@[simp] theorem sendMsg_fresh (s : State) (i : Nat) (m : Msg) : (sendMsg s i m).fresh = s.fresh := SameButReply.fresh_eq (sendMsg_same s i m)
@[simp] theorem sendMsg_pend (s : State) (i : Nat) (m : Msg) : (sendMsg s i m).pend = s.pend := SameButReply.pend_eq (sendMsg_same s i m)
@[simp] theorem sendMsg_tenants (s : State) (i : Nat) (m : Msg) : (sendMsg s i m).tenants = s.tenants := SameButReply.tenants_eq (sendMsg_same s i m)
@[simp] theorem sendMsg_hbm (s : State) (i : Nat) (m : Msg) : (sendMsg s i m).hbm = s.hbm := SameButReply.hbm_eq (sendMsg_same s i m)
@[simp] theorem sendMsg_pad (s : State) (i : Nat) (m : Msg) : (sendMsg s i m).pad = s.pad := SameButReply.pad_eq (sendMsg_same s i m)
@[simp] theorem sendMsg_sched (s : State) (i : Nat) (m : Msg) : (sendMsg s i m).sched = s.sched := SameButReply.sched_eq (sendMsg_same s i m)
@[simp] theorem sendMsg_disp (s : State) (i : Nat) (m : Msg) : (sendMsg s i m).disp = s.disp := SameButReply.disp_eq (sendMsg_same s i m)
@[simp] theorem sendMsg_sens (s : State) (i : Nat) (m : Msg) : (sendMsg s i m).sens = s.sens := SameButReply.sens_eq (sendMsg_same s i m)
@[simp] theorem sendMsg_dec (s : State) (i : Nat) (m : Msg) : (sendMsg s i m).dec = s.dec := SameButReply.dec_eq (sendMsg_same s i m)
@[simp] theorem sendMsg_fw (s : State) (i : Nat) (m : Msg) : (sendMsg s i m).fw = s.fw := SameButReply.fw_eq (sendMsg_same s i m)
@[simp] theorem sendMsg_pwr (s : State) (i : Nat) (m : Msg) : (sendMsg s i m).pwr = s.pwr := SameButReply.pwr_eq (sendMsg_same s i m)
@[simp] theorem sendMsg_nvr (s : State) (i : Nat) (m : Msg) : (sendMsg s i m).nvr = s.nvr := SameButReply.nvr_eq (sendMsg_same s i m)
@[simp] theorem sendMsg_sec (s : State) (i : Nat) (m : Msg) : (sendMsg s i m).sec = s.sec := SameButReply.sec_eq (sendMsg_same s i m)

@[simp] theorem reply_pending (s : State) (op : Nat) (rq : Req) (st d : Nat) (p : List Byte) : (reply s op rq st d p).pending = s.pending := SameButReply.pending_eq (reply_same s op rq st d p)
@[simp] theorem reply_now (s : State) (op : Nat) (rq : Req) (st d : Nat) (p : List Byte) : (reply s op rq st d p).now = s.now := SameButReply.now_eq (reply_same s op rq st d p)
@[simp] theorem reply_fresh (s : State) (op : Nat) (rq : Req) (st d : Nat) (p : List Byte) : (reply s op rq st d p).fresh = s.fresh := SameButReply.fresh_eq (reply_same s op rq st d p)
@[simp] theorem reply_pend (s : State) (op : Nat) (rq : Req) (st d : Nat) (p : List Byte) : (reply s op rq st d p).pend = s.pend := SameButReply.pend_eq (reply_same s op rq st d p)
@[simp] theorem reply_tenants (s : State) (op : Nat) (rq : Req) (st d : Nat) (p : List Byte) : (reply s op rq st d p).tenants = s.tenants := SameButReply.tenants_eq (reply_same s op rq st d p)
@[simp] theorem reply_hbm (s : State) (op : Nat) (rq : Req) (st d : Nat) (p : List Byte) : (reply s op rq st d p).hbm = s.hbm := SameButReply.hbm_eq (reply_same s op rq st d p)
@[simp] theorem reply_pad (s : State) (op : Nat) (rq : Req) (st d : Nat) (p : List Byte) : (reply s op rq st d p).pad = s.pad := SameButReply.pad_eq (reply_same s op rq st d p)
@[simp] theorem reply_sched (s : State) (op : Nat) (rq : Req) (st d : Nat) (p : List Byte) : (reply s op rq st d p).sched = s.sched := SameButReply.sched_eq (reply_same s op rq st d p)
@[simp] theorem reply_disp (s : State) (op : Nat) (rq : Req) (st d : Nat) (p : List Byte) : (reply s op rq st d p).disp = s.disp := SameButReply.disp_eq (reply_same s op rq st d p)
@[simp] theorem reply_sens (s : State) (op : Nat) (rq : Req) (st d : Nat) (p : List Byte) : (reply s op rq st d p).sens = s.sens := SameButReply.sens_eq (reply_same s op rq st d p)
@[simp] theorem reply_dec (s : State) (op : Nat) (rq : Req) (st d : Nat) (p : List Byte) : (reply s op rq st d p).dec = s.dec := SameButReply.dec_eq (reply_same s op rq st d p)
@[simp] theorem reply_fw (s : State) (op : Nat) (rq : Req) (st d : Nat) (p : List Byte) : (reply s op rq st d p).fw = s.fw := SameButReply.fw_eq (reply_same s op rq st d p)
@[simp] theorem reply_pwr (s : State) (op : Nat) (rq : Req) (st d : Nat) (p : List Byte) : (reply s op rq st d p).pwr = s.pwr := SameButReply.pwr_eq (reply_same s op rq st d p)
@[simp] theorem reply_nvr (s : State) (op : Nat) (rq : Req) (st d : Nat) (p : List Byte) : (reply s op rq st d p).nvr = s.nvr := SameButReply.nvr_eq (reply_same s op rq st d p)
@[simp] theorem reply_sec (s : State) (op : Nat) (rq : Req) (st d : Nat) (p : List Byte) : (reply s op rq st d p).sec = s.sec := SameButReply.sec_eq (reply_same s op rq st d p)

@[simp] theorem refuse_pending (s : State) (op : Nat) (rq : Req) (e : Nat × Nat) : (refuse s op rq e).pending = s.pending := SameButReply.pending_eq (refuse_same s op rq e)
@[simp] theorem refuse_now (s : State) (op : Nat) (rq : Req) (e : Nat × Nat) : (refuse s op rq e).now = s.now := SameButReply.now_eq (refuse_same s op rq e)
@[simp] theorem refuse_fresh (s : State) (op : Nat) (rq : Req) (e : Nat × Nat) : (refuse s op rq e).fresh = s.fresh := SameButReply.fresh_eq (refuse_same s op rq e)
@[simp] theorem refuse_pend (s : State) (op : Nat) (rq : Req) (e : Nat × Nat) : (refuse s op rq e).pend = s.pend := SameButReply.pend_eq (refuse_same s op rq e)
@[simp] theorem refuse_tenants (s : State) (op : Nat) (rq : Req) (e : Nat × Nat) : (refuse s op rq e).tenants = s.tenants := SameButReply.tenants_eq (refuse_same s op rq e)
@[simp] theorem refuse_hbm (s : State) (op : Nat) (rq : Req) (e : Nat × Nat) : (refuse s op rq e).hbm = s.hbm := SameButReply.hbm_eq (refuse_same s op rq e)
@[simp] theorem refuse_pad (s : State) (op : Nat) (rq : Req) (e : Nat × Nat) : (refuse s op rq e).pad = s.pad := SameButReply.pad_eq (refuse_same s op rq e)
@[simp] theorem refuse_sched (s : State) (op : Nat) (rq : Req) (e : Nat × Nat) : (refuse s op rq e).sched = s.sched := SameButReply.sched_eq (refuse_same s op rq e)
@[simp] theorem refuse_disp (s : State) (op : Nat) (rq : Req) (e : Nat × Nat) : (refuse s op rq e).disp = s.disp := SameButReply.disp_eq (refuse_same s op rq e)
@[simp] theorem refuse_sens (s : State) (op : Nat) (rq : Req) (e : Nat × Nat) : (refuse s op rq e).sens = s.sens := SameButReply.sens_eq (refuse_same s op rq e)
@[simp] theorem refuse_dec (s : State) (op : Nat) (rq : Req) (e : Nat × Nat) : (refuse s op rq e).dec = s.dec := SameButReply.dec_eq (refuse_same s op rq e)
@[simp] theorem refuse_fw (s : State) (op : Nat) (rq : Req) (e : Nat × Nat) : (refuse s op rq e).fw = s.fw := SameButReply.fw_eq (refuse_same s op rq e)
@[simp] theorem refuse_pwr (s : State) (op : Nat) (rq : Req) (e : Nat × Nat) : (refuse s op rq e).pwr = s.pwr := SameButReply.pwr_eq (refuse_same s op rq e)
@[simp] theorem refuse_nvr (s : State) (op : Nat) (rq : Req) (e : Nat × Nat) : (refuse s op rq e).nvr = s.nvr := SameButReply.nvr_eq (refuse_same s op rq e)
@[simp] theorem refuse_sec (s : State) (op : Nat) (rq : Req) (e : Nat × Nat) : (refuse s op rq e).sec = s.sec := SameButReply.sec_eq (refuse_same s op rq e)

@[simp] theorem replyOk_pending (s : State) (op : Nat) (rq : Req) (p : List Byte) : (replyOk s op rq p).pending = s.pending := SameButReply.pending_eq (replyOk_same s op rq p)
@[simp] theorem replyOk_now (s : State) (op : Nat) (rq : Req) (p : List Byte) : (replyOk s op rq p).now = s.now := SameButReply.now_eq (replyOk_same s op rq p)
@[simp] theorem replyOk_fresh (s : State) (op : Nat) (rq : Req) (p : List Byte) : (replyOk s op rq p).fresh = s.fresh := SameButReply.fresh_eq (replyOk_same s op rq p)
@[simp] theorem replyOk_pend (s : State) (op : Nat) (rq : Req) (p : List Byte) : (replyOk s op rq p).pend = s.pend := SameButReply.pend_eq (replyOk_same s op rq p)
@[simp] theorem replyOk_tenants (s : State) (op : Nat) (rq : Req) (p : List Byte) : (replyOk s op rq p).tenants = s.tenants := SameButReply.tenants_eq (replyOk_same s op rq p)
@[simp] theorem replyOk_hbm (s : State) (op : Nat) (rq : Req) (p : List Byte) : (replyOk s op rq p).hbm = s.hbm := SameButReply.hbm_eq (replyOk_same s op rq p)
@[simp] theorem replyOk_pad (s : State) (op : Nat) (rq : Req) (p : List Byte) : (replyOk s op rq p).pad = s.pad := SameButReply.pad_eq (replyOk_same s op rq p)
@[simp] theorem replyOk_sched (s : State) (op : Nat) (rq : Req) (p : List Byte) : (replyOk s op rq p).sched = s.sched := SameButReply.sched_eq (replyOk_same s op rq p)
@[simp] theorem replyOk_disp (s : State) (op : Nat) (rq : Req) (p : List Byte) : (replyOk s op rq p).disp = s.disp := SameButReply.disp_eq (replyOk_same s op rq p)
@[simp] theorem replyOk_sens (s : State) (op : Nat) (rq : Req) (p : List Byte) : (replyOk s op rq p).sens = s.sens := SameButReply.sens_eq (replyOk_same s op rq p)
@[simp] theorem replyOk_dec (s : State) (op : Nat) (rq : Req) (p : List Byte) : (replyOk s op rq p).dec = s.dec := SameButReply.dec_eq (replyOk_same s op rq p)
@[simp] theorem replyOk_fw (s : State) (op : Nat) (rq : Req) (p : List Byte) : (replyOk s op rq p).fw = s.fw := SameButReply.fw_eq (replyOk_same s op rq p)
@[simp] theorem replyOk_pwr (s : State) (op : Nat) (rq : Req) (p : List Byte) : (replyOk s op rq p).pwr = s.pwr := SameButReply.pwr_eq (replyOk_same s op rq p)
@[simp] theorem replyOk_nvr (s : State) (op : Nat) (rq : Req) (p : List Byte) : (replyOk s op rq p).nvr = s.nvr := SameButReply.nvr_eq (replyOk_same s op rq p)
@[simp] theorem replyOk_sec (s : State) (op : Nat) (rq : Req) (p : List Byte) : (replyOk s op rq p).sec = s.sec := SameButReply.sec_eq (replyOk_same s op rq p)

/-- With room in the send window and nothing queued, a reply goes out at once (R68, R69, R74). -/
theorem sendMsg_at_once {s : State} {i : Nat} {ss : Session} {m : Msg} (h : getSes s i = some ss)
    (hw : ss.tx.waiting = []) (hu : ss.tx.unacked.length < 256) : sendMsg s i m = transmit s i ss m := by
  simp [sendMsg, h, hw, hu]

@[simp] theorem afterSent_sent (s : State) (i : Nat) (m : Msg) : (afterSent s i m).sent = s.sent := by
  have h (s : State) : (armReset s i m.tag).sent = s.sent := by unfold armReset; split <;> rfl
  unfold afterSent
  split
  · rfl
  · dsimp only
    split
    · exact h s
    · exact h s

/-- A packet that its port lets go at once stands newest among what left the chip: sealed under the session's key,
to the address of the host's last packet (R53, R56, R59). -/
theorem transmit_sent {s : State} {ss : Session} (i : Nat) (m : Msg) (h : PortFree s ss.eth ss.src.v6) :
    (transmit s i ss m).sent =
      (let p : TxPacket := { seq := ss.tx.next, ack := ss.rx.next - 1, msg := m }
       .packet i p (unicast s ss.eth ss.src (packetBytes i ss p))) :: s.sent := by
  simp only [transmit, afterSent_sent, sendPacket]
  rw [out_packet_at_once]
  · rfl
  · exact h

end Sys2Proof.Machine
end

