-- ==== Sys2Proof/Laws/Vector.lean ====
section
/-! SUPPORT. Laws/Vector.lean: registers of the vector engine as words of the thread storage: what a write of one
register of one lane does, and what a fold of such writes over the active lanes does, which are the shared operations
of every lane row of R231. -/

namespace Sys2Proof.Machine

open Sys2Proof

/-! ## Scratchpad reads and writes -/

theorem leNat_le4 (v : Nat) : leNat (le4 v) = v % 2 ^ 32 := by
  simp only [le4, leBytes, leNat, BitVec.toNat_ofNat]
  omega

theorem padKey_of_lt (c : Nat) {a : Nat} (h : a < 2 ^ 22) : padKey c a = c * 2 ^ 22 + a := by
  rw [padKey, Nat.mod_eq_of_lt h]

/-- Reading back what was written. -/
theorem padRead_padWrite_self (s : State) (c a : Nat) (l : List Byte) : padRead (padWrite s c a l) c a l.length = l :=
  memReads_memWrites _ _ _

/-- Bytes that a write does not touch. -/
theorem padRead_padWrite_out (s : State) {c a k b n : Nat} {l : List Byte} (ha : a + l.length ≤ 2 ^ 22)
    (hl : 0 < l.length) (hb : b + n ≤ 2 ^ 22) (h : k ≠ c ∨ b + n ≤ a ∨ a + l.length ≤ b) :
    padRead (padWrite s c a l) k b n = padRead s k b n := by
  refine List.map_congr_left fun i hi => ?_
  have hi := List.mem_range.1 hi
  refine memRead_memWrites_out _ _ _ ?_
  rw [padKey_of_lt c (by omega), padKey_of_lt k (by omega)]
  omega

/-! ## Registers -/

theorem regAddr_fits {x : VeCtx} (h : StorageFits x) {l r : Nat} (hl : l < 64) (hr : r < 64) :
    regAddr x.head x.k l r + 4 ≤ 2 ^ 22 := by
  unfold StorageFits at h
  unfold regAddr
  omega

/-- Two registers are one, or share no byte. -/
theorem regAddr_apart (x : VeCtx) {l r a b : Nat} (hr : r < 64) (hb : b < 64) (h : ¬ (a = l ∧ b = r)) :
    regAddr x.head x.k a b + 4 ≤ regAddr x.head x.k l r ∨ regAddr x.head x.k l r + 4 ≤ regAddr x.head x.k a b := by
  unfold regAddr
  omega

theorem setReg_frame (s : State) (x : VeCtx) (l r v : Nat) :
    setReg s x l r v = { s with pad := (setReg s x l r v).pad } := by
  unfold setReg
  split <;> rfl

theorem regsChange_refl (s : State) (x : VeCtx) (fn : Nat → Nat → Nat) : RegsChange s s x (fun _ _ => False) fn :=
  ⟨rfl, fun _ => ⟨fun _ _ _ _ => by simp, fun _ _ _ _ => rfl⟩⟩

theorem regsChange_congr {s u : State} {x : VeCtx} {p q : Nat → Nat → Prop} [∀ l r, Decidable (p l r)]
    [∀ l r, Decidable (q l r)] {fn : Nat → Nat → Nat} (h : RegsChange s u x p fn)
    (e : ∀ l r, l < 64 → r < 64 → (p l r ↔ q l r)) : RegsChange s u x q fn := by
  refine ⟨h.1, fun hx => ⟨fun l r hl hr => ?_, fun k a ha hk => (h.2 hx).2 k a ha ?_⟩⟩
  · rw [(h.2 hx).1 l r hl hr]
    by_cases hp : p l r
    · rw [if_pos hp, if_pos ((e l r hl hr).1 hp)]
    · rw [if_neg hp, if_neg (mt (e l r hl hr).2 hp)]
  · exact hk.imp_right fun k l r hl hr hp => k l r hl hr ((e l r hl hr).1 hp)

theorem regsChange_trans {s t u : State} {x : VeCtx} {p q : Nat → Nat → Prop} [∀ l r, Decidable (p l r)]
    [∀ l r, Decidable (q l r)] {fn : Nat → Nat → Nat} (h : RegsChange s t x p fn) (k : RegsChange t u x q fn) :
    RegsChange s u x (fun l r => p l r ∨ q l r) fn := by
  refine ⟨by rw [k.1, h.1], fun hx => ⟨fun l r hl hr => ?_, fun c a ha hc => ?_⟩⟩
  · rw [(k.2 hx).1 l r hl hr, (h.2 hx).1 l r hl hr]
    by_cases hq : q l r <;> by_cases hp : p l r <;> simp [hq, hp]
  · rw [(k.2 hx).2 c a ha (hc.imp_right fun k l r hl hr hq => k l r hl hr (.inr hq)),
      (h.2 hx).2 c a ha (hc.imp_right fun k l r hl hr hp => k l r hl hr (.inl hp))]

/-- A write of one register of one lane changes that register alone. -/
theorem setReg_changes (s : State) (x : VeCtx) {l : Nat} (hl : l < 64) (d : Nat) (fn : Nat → Nat → Nat) :
    RegsChange s (setReg s x l d (fn l d)) x (fun a r => a = l ∧ r = d) fn := by
  refine ⟨setReg_frame .., fun hx => ?_⟩
  unfold setReg
  split
  · rename_i hd
    have fits := regAddr_fits hx hl hd
    have len : (le4 (fn l d)).length = 4 := rfl
    refine ⟨fun a r ha hr => ?_, fun k a ha hk => ?_⟩
    · by_cases h : a = l ∧ r = d
      · obtain ⟨rfl, rfl⟩ := h
        rw [if_pos ⟨rfl, rfl⟩, padReg, ← leNat_le4]
        exact congrArg leNat (padRead_padWrite_self s _ _ (le4 (fn a r)))
      · rw [if_neg h, padReg, padReg, padRead_padWrite_out _ (by rw [len]; exact fits) (by rw [len]; omega)
          (regAddr_fits hx ha hr) (.inr (by rw [len]; exact regAddr_apart x hd hr h))]
    · refine padRead_padWrite_out _ (by rw [len]; exact fits) (by rw [len]; omega) (by omega) ?_
      rw [len]
      exact hk.imp_right fun k => (k l d hl hd ⟨rfl, rfl⟩).imp_left Nat.succ_le_of_lt
  · refine ⟨fun a r _ hr => ?_, fun _ _ _ _ => rfl⟩
    rw [if_neg (by omega)]

/-- Writing a register in each of some lanes writes it there and nowhere else. -/
theorem setRegs_changes (x : VeCtx) (d : Nat) (fn : Nat → Nat → Nat) (ls : List Nat) (s : State) (h : ∀ l ∈ ls, l < 64) :
    RegsChange s (setRegs s x ls d fun l => fn l d) x (fun l r => l ∈ ls ∧ r = d) fn := by
  induction ls generalizing s with
  | nil => exact regsChange_congr (regsChange_refl s x fn) fun l r _ _ => by simp
  | cons a t ih =>
    have h1 := setReg_changes s x (h a (by simp)) d fn
    have h2 := ih (setReg s x a d (fn a d)) fun l hl => h l (by simp [hl])
    exact regsChange_congr (regsChange_trans h1 h2) fun l r _ _ => by
      by_cases hd : r = d <;> simp [hd]

/-- Writing a run of registers in each of some lanes writes them there and nowhere else. -/
theorem runs_change (x : VeCtx) (d n : Nat) (fn : Nat → Nat → Nat) (ls : List Nat) (s : State) (h : ∀ l ∈ ls, l < 64) :
    RegsChange s (ls.foldl (fun s l => (List.range n).foldl (fun s k => setReg s x l (d + k) (fn l (d + k))) s) s) x
      (fun l r => l ∈ ls ∧ d ≤ r ∧ r < d + n) fn := by
  have one (s : State) {l : Nat} (hl : l < 64) :
      RegsChange s ((List.range n).foldl (fun s k => setReg s x l (d + k) (fn l (d + k))) s) x
        (fun a r => a = l ∧ d ≤ r ∧ r < d + n) fn := by
    induction n with
    | zero => exact regsChange_congr (regsChange_refl s x fn) fun a r _ _ => by simp
    | succ n ih =>
      rw [List.range_succ, List.foldl_append]
      exact regsChange_congr (regsChange_trans ih (setReg_changes _ x hl (d + n) fn)) fun a r _ _ => by omega
  induction ls generalizing s with
  | nil => exact regsChange_congr (regsChange_refl s x fn) fun l r _ _ => by simp
  | cons a t ih =>
    have h1 := one s (h a (by simp))
    have h2 := ih ((List.range n).foldl (fun s k => setReg s x a (d + k) (fn a (d + k))) s) fun l hl => h l (by simp [hl])
    exact regsChange_congr (regsChange_trans h1 h2) fun l r _ _ => by
      by_cases hd : d ≤ r ∧ r < d + n <;> simp [hd]

/-! ## Rows -/

/-- The lanes of a context are the lanes of its group. -/
theorem veCtx_lanes {s : State} {v : VeAt} {op : Nat} {f : VeFields} {x : VeCtx} (h : veCtx s v op f = some x) :
    ∀ l ∈ x.lanes, l < 64 := by
  unfold veCtx at h
  dsimp only at h
  repeat' split at h
  all_goals first | contradiction | skip
  obtain rfl := Option.some.inj h
  intro l hl
  simp only [List.mem_filter, List.mem_range] at hl
  exact hl.1.1

/-- A lane row meets LaneRow when its meaning is the shared lane operation with that row's result. -/
theorem laneRow (mk op fn) (hx : ∀ v f s, exec (mk v f) s = .next (veLanes op v f s fun x l => fn s x f l)) :
    LaneRow mk op fn := by
  intro v f s x h
  refine ⟨_, ?_, setRegs_changes x f.d.toNat (fun l _ => fn s x f l) x.lanes s (veCtx_lanes h)⟩
  rw [hx]
  simp [veLanes, veAt, h]

/-- Registers hold 32 bits: a value reduced before it is written is written the same. -/
theorem le4_mod (v : Nat) : le4 (v % 2 ^ 32) = le4 v := by
  simp only [le4, leBytes, List.cons.injEq, and_true]
  refine ⟨?_, ?_, ?_, ?_⟩ <;> apply BitVec.eq_of_toNat_eq <;> simp only [BitVec.toNat_ofNat] <;> omega

theorem setReg_mod (s : State) (x : VeCtx) (l d v : Nat) : setReg s x l d (v % 2 ^ 32) = setReg s x l d v := by
  simp only [setReg, le4_mod]

theorem veLanes_mod (op v f s fn) : veLanes op v f s (fun x l => fn x l % 2 ^ 32) = veLanes op v f s fn := by
  simp only [veLanes, setRegs, setReg_mod]

end Sys2Proof.Machine
end

