-- ==== Sys2Proof/Tests/Slice0.lean ====
section
/-! SUPPORT. Tests/Slice0.lean: the model's own tests. Ill-formed terms that WellFormed refuses; witnesses that the
hypotheses of each obligation can be met together, clause by clause (w_…); and small tests of one command each (test_…),
whose expected values come from the spec. -/

namespace Sys2Proof.Tests

open Sys2Proof Sys2Proof.Machine

/-! ## Small states -/

def ep : Endpoint := ⟨false, 0x0A000001, 4000, 0x020000000001⟩
def fi : FrameInfo := ⟨0, 0, 0, none, 100⟩
def rq : Req := ⟨1, 7⟩
def hs : Handshake := ⟨0, ep, 3, 0, 0, 0, 0, 9⟩
def ses (t : Nat) : Session :=
  { tenant := t, minor := 0, maxPayload := 8192, keyIn := List.replicate 32 1, keyOut := List.replicate 32 2, credential := [],
    eth := 0, src := ep }

def strap0 : StrapLevels := ⟨false, 0⟩
/-- A chip that runs its firmware, with every core ONLINE, every reference locked and the link of port 0 up. -/
def up : State :=
  { chip := { phase := .running, clk := 0x1FF, hbmReady := true }
    fw := { device := 2, procs := (List.range 6).map fun p => (p, { state := .running }) }
    sched := { cores := (List.range 128).map fun c => (c, { state := 2 }) }
    net := { ports := [(0, { link := true, probes := 5 })] } }

/-- The same with a session of tenant t. -/
def on (t : Nat) : State :=
  { up with
    link := { sessions := [(1, ses t)] }
    tenants := [(t, { state := .active, session := some 1, lastAuth := some 0 })] }
/-- Its host has just been heard, so that a request changes no heartbeat of it. -/
theorem w_hear : hear rq (on 0) = on 0 ∧ hear rq (on 3) = on 3 := by decide +kernel

/-- The state after a command, and whether it went on. -/
def after (c : Instr) (s : State) : State := match exec c s with | .next t => t | _ => s
def goesOn (c : Instr) (s : State) : Bool := match exec c s with | .next _ => true | _ => false
/-- The status, detail and payload of the message sent last. -/
def lastMsg (s : State) : Option (Nat × Nat × Nat × List Byte) :=
  match s.sent with
  | .packet _ p _ :: _ => some (p.msg.op, p.msg.status, p.msg.detail, p.msg.payload)
  | _ => none

/-- A request is served, as a Bool. -/
def servedB (s : State) (i : Instr) (op : Nat) (r : Req) (ss : Session) : Bool :=
  isRunning s && decide (getSes s r.session.toNat = some ss) && !inLine ss && decide (reqOf i = some r) &&
  (match requestBytes i with
   | some (o, p) => decide (o = op) && decide (requestFault s ss op r.tag.toNat p = none)
   | none => false) && !mustWait s op

theorem served {s : State} {i : Instr} {op : Nat} {r : Req} {ss : Session} (h : servedB s i op r ss = true) :
    Served s i op r ss := by
  unfold servedB at h
  simp only [Bool.and_eq_true, Bool.not_eq_true', decide_eq_true_eq] at h
  obtain ⟨⟨⟨⟨⟨h1, h2⟩, h3⟩, h4⟩, h5⟩, h6⟩ := h
  refine ⟨h1, h2, h3, h4, ?_, h6⟩
  split at h5
  · rename_i o p hp
    simp only [Bool.and_eq_true, decide_eq_true_eq] at h5
    exact ⟨p, by rw [hp, h5.1], h5.2⟩
  · cases h5

def servedWB (s : State) (r : Req) (a : Nat) (ss : Session) : Bool :=
  isRunning s && decide (getSes s r.session.toNat = some ss) && !inLine ss &&
  decide (requestFault s ss opRegWrite r.tag.toNat (le4 a ++ le2 1 ++ zeros 2 ++ le4 0) = none)

theorem servedW {s : State} {r : Req} {a : Nat} {ss : Session} (h : servedWB s r a ss = true) :
    ServedWrite s r a ss := by
  unfold servedWB at h
  simp only [Bool.and_eq_true, Bool.not_eq_true', decide_eq_true_eq] at h
  exact ⟨h.1.1.1, h.1.1.2, h.1.2, h.2⟩

set_option Elab.async false

/-! ## WellFormed refuses -/

def bytes (n : Nat) : List Byte := List.replicate n 0


theorem wf_datagram (p : List Byte) (h : p.length = 65508) :
    (Instr.datagramReceive ⟨fi, ep, 52800, .whole, p⟩).wellFormed = false := by simp [Instr.wellFormed, h, maxDatagram]
theorem wf_session_open_key : (Instr.sessionOpen hs ⟨bytes 31, bytes 16, 1400, 0⟩).wellFormed = false := by decide
theorem wf_session_open_nonce : (Instr.sessionOpen hs ⟨bytes 32, bytes 15, 1400, 0⟩).wellFormed = false := by decide
theorem wf_session_auth_credential : (Instr.sessionAuth hs ⟨1, 0, 0, bytes 31, bytes 64⟩).wellFormed = false := by decide
theorem wf_session_auth_signature : (Instr.sessionAuth hs ⟨1, 0, 0, bytes 32, bytes 63⟩).wellFormed = false := by decide
theorem wf_echo (p : List Byte) (h : p.length = 8193) :
    (Instr.echo rq p).wellFormed = false := by simp [Instr.wellFormed, h, maxPayloadLimit]
theorem wf_reg_write : (Instr.regWrite rq 0 2 0 [5]).wellFormed = false := by decide
theorem wf_reg_read_list : (Instr.regReadList rq 1 0 []).wellFormed = false := by decide
theorem wf_mem_write (p : List Byte) (h : p.length = 8193) :
    (Instr.memWrite rq 0 0 0 p).wellFormed = false := by simp [Instr.wellFormed, h, maxPayloadLimit]
theorem wf_csi_long : (Instr.csiLongPacket 0 0 0x2A .good 2 true [1]).wellFormed = false := by decide
theorem wf_tdm_frame : (Instr.tdmFrame 0 512 (List.replicate 17 0) 48000).wellFormed = false := by decide
theorem wf_sns_feed (p : List Byte) (h : p.length = 8193) :
    (Instr.snsFeed rq ⟨0, 0, 0, 0, 0, 0, 0, 0, 0, p⟩).wellFormed = false := by simp [Instr.wellFormed, h, maxPayloadLimit]
theorem wf_line_start : (Instr.lineStart 0 [.ready]).wellFormed = false := by decide
theorem wf_dsp_aux (p : List Byte) (h : p.length = 8193) :
    (Instr.dspAux rq ⟨0, 0, 0, 0, p⟩).wellFormed = false := by simp [Instr.wellFormed, h, maxPayloadLimit]
theorem wf_aux_done (p : List Byte) (h : p.length = 8193) :
    (Instr.auxDone 0 (.acknowledged p)).wellFormed = false := by simp [Instr.wellFormed, h, maxPayloadLimit]
theorem wf_dsp_dsi_cmd (p : List Byte) (h : p.length = 8193) :
    (Instr.dspDsiCmd rq ⟨0, 0, 0, 0, 0, p⟩).wellFormed = false := by simp [Instr.wellFormed, h, maxPayloadLimit]
theorem wf_dsi_cmd_send (p : List Byte) (h : p.length = 8193) :
    (Instr.dsiCmdSend 0 (.acknowledged p)).wellFormed = false := by simp [Instr.wellFormed, h, maxPayloadLimit]
theorem wf_net_gcl_write : (Instr.netGclWrite rq ⟨0, 0, 0, 1, 1, 0, 0, 0, []⟩).wellFormed = false := by decide
theorem wf_net_stream_table : (Instr.netStreamTable rq ⟨0, 0, 0, 0, bytes 15⟩).wellFormed = false := by decide
theorem wf_wall_key : (Instr.wallKey rq (bytes 31)).wellFormed = false := by decide
theorem wf_wall_ready (p : List Byte) (h : p.length = 65508) :
    (Instr.wallReady ⟨fi, ep, p⟩).wellFormed = false := by simp [Instr.wellFormed, h, maxDatagram]
theorem wf_wall_agree (p : List Byte) (h : p.length = 65508) :
    (Instr.wallAgree ⟨fi, ep, p⟩).wellFormed = false := by simp [Instr.wellFormed, h, maxDatagram]
theorem wf_wall_claim (p : List Byte) (h : p.length = 65508) :
    (Instr.wallClaim ⟨fi, ep, p⟩).wellFormed = false := by simp [Instr.wellFormed, h, maxDatagram]
theorem wf_fw_load (p : List Byte) (h : p.length = 8193) :
    (Instr.fwLoad rq 0 0 p).wellFormed = false := by simp [Instr.wellFormed, h, maxPayloadLimit]
theorem wf_sensor_sample_core : (Instr.sensorSample ⟨[], List.replicate 24 0, 0⟩).wellFormed = false := by decide
theorem wf_sensor_sample_uncore : (Instr.sensorSample ⟨List.replicate 128 0, [], 0⟩).wellFormed = false := by decide +kernel
theorem wf_sec_attest : (Instr.secAttest rq (bytes 33)).wellFormed = false := by decide
theorem wf_owner_change_key : (Instr.ownerChange rq (bytes 31) (bytes 64)).wellFormed = false := by decide
theorem wf_owner_change_signature : (Instr.ownerChange rq (bytes 32) (bytes 65)).wellFormed = false := by decide

/-! ## The queue, idling, reset -/

theorem w_step_takes_front : (Instr.jtagBypass :: [Instr.jtagIdcode] = { up with pending := [.jtagBypass, .jtagIdcode] }.pending) := by
  decide
theorem w_idle : up.pending = [] ∧ isRunning State.reset = false ∧ State.reset.pending = [] ∧ isRunning up = true ∧
    ({} : TimeBase).y = 0 := by decide
theorem test_idle_step : (match step up with | .next t => (t.now, getBase t 3 |>.t) | _ => (0, {})) = (1, fr 5 2) := by decide +kernel
theorem w_keeps_memory : MemoryWf up ∧ (match step { up with pending := [.jtagBypass] } with | .next _ => true | _ => false) = true := by
  unfold MemoryWf; decide +kernel
theorem w_exec_next : goesOn .jtagIdcode up = true := by decide +kernel
theorem w_frame : mayStoreMemory .jtagIdcode = false ∧ mayStorePad .jtagIdcode = false ∧ mayStoreMemory (.decodeFinish 0) = true ∧
    mayStorePad .schedulerTick = true := by decide
theorem test_brownout_undefined : goesOn (.brownout .outOfTolerance) up = false ∧
    goesOn (.brownout (.monitorLow 727 5000)) up = false ∧ goesOn (.brownout (.monitorLow 700 1000)) up = false ∧
    goesOn (.brownout (.monitorLow 728 5000)) up = true ∧ goesOn (.brownout (.monitorLow 699 1000)) up = true := by
  decide +kernel

/-! ## Requests, replies and the session group -/

theorem w_requests_are_checked :
    (∃ op p, requestBytes (.timeRead rq) = some (op, p) ∧ reqOf (.timeRead rq) = some rq ∧ isRunning State.reset = false) ∧
    (isRunning up = true ∧ getSes up rq.session.toNat = none) ∧
    (getSes (on 0) 1 = some (ses 0) ∧ inLine (ses 0) = false) ∧
    inLine { ses 0 with backing := some ⟨7, 0, [], 5⟩ } = true ∧
    requestFault (on 0) (ses 0) opTimeRead 0 [] = some (stBadParam, dtReservedTag) ∧
    (requestFault (on 0) (ses 0) opFwLoad 7 (bytes 9) = none ∧
     mustWait { on 0 with fw := { (on 0).fw with procs := [(0, { state := .restarting 5 })] } } opFwLoad = true) := by
  refine ⟨⟨_, _, rfl, rfl, rfl⟩, ?_, ?_, ?_, ?_, ?_⟩ <;> decide +kernel
theorem w_request_round_trip : (Instr.memMap rq ⟨0x1000, 0x1000, 0, 3, 0⟩).wellFormed = true ∧
    (∃ op p, requestBytes (.memMap rq ⟨0x1000, 0x1000, 0, 3, 0⟩) = some (op, p)) ∧
    reqOf (.memMap rq ⟨0x1000, 0x1000, 0, 3, 0⟩) = some rq := ⟨rfl, ⟨_, _, rfl⟩, rfl⟩

def pkt : TxPacket := ⟨1, 0, { op := 0, flags := 0, tag := 0, status := 0, detail := 0, payload := [] }⟩
def full (t : Nat) : Session := { ses t with tx := { next := 257, unacked := List.replicate 256 pkt } }
theorem w_replies_go_out : (getSes (on 0) 1 = some (ses 0) ∧ (ses 0).tx.waiting = [] ∧ (ses 0).tx.unacked.length < 256) ∧
    PortFree (on 0) (ses 0).eth (ses 0).src.v6 ∧
    (getSes { on 0 with link := { sessions := [(1, full 0)] } } 1 = some (full 0) ∧ 256 ≤ (full 0).tx.unacked.length) := by
  decide +kernel
theorem w_echo : isRunning (on 0) = true ∧ getSes (on 0) rq.session.toNat = some (ses 0) ∧ inLine (ses 0) = false ∧
    mustWait (on 0) opEcho = false ∧ (bytes 8192).length ≤ (ses 0).maxPayload ∧ rq.tag ≠ 0 ∧
    tagHeld (on 0) (ses 0) rq.tag.toNat = false := by decide +kernel
theorem test_echo : lastMsg (after (.echo rq [1, 2, 3]) (on 4)) = some (opEcho, 0, 0, [1, 2, 3]) := by decide +kernel
theorem w_session_group :
    Served (on 0) (.heartbeat rq 5) opHeartbeat rq (ses 0) ∧ Served (on 0) (.deviceInfo rq) opDeviceInfo rq (ses 0) ∧
    Served (on 0) (.completionQuery rq 7) opCompletionQuery rq (ses 0) :=
  ⟨served (by decide +kernel), served (by decide +kernel), served (by decide +kernel)⟩
theorem test_heartbeat : (lastMsg (after (.heartbeat rq 0x0102030405060708) (on 4))).map (fun m => m.2.2.2.take 8) =
    some [8, 7, 6, 5, 4, 3, 2, 1] := by decide +kernel
theorem test_completion_query_pending : lastMsg (after (.completionQuery rq 7) (on 4)) =
    some (opCompletionQuery, 0, 0, [7, 0, 0, 0, 1, 0, 0, 0]) := by decide +kernel
def fullOn (t : Nat) : State := { on t with link := { sessions := [(1, full t)] } }
theorem w_session_close : Served (on 3) (.sessionClose rq 1) opSessionClose rq (ses 3) ∧
    ((ses 3).tx.waiting = [] ∧ (ses 3).tx.unacked.length < 256 ∧
      (getTen (on 3) 3).session = some 1 ∧ getSes (on 3) 1 = some (ses 3)) ∧
    hear rq (fullOn 3) = fullOn 3 ∧ Served (fullOn 3) (.sessionClose rq 1) opSessionClose rq (full 3) ∧
    (getSes (replyOk (fullOn 3) opSessionClose rq []) rq.session.toNat).map (fun v => decide (v.tx.waiting ≠ [])) = some true :=
  ⟨served (by decide +kernel), by decide +kernel, by decide +kernel, served (by decide +kernel), by decide +kernel⟩
/-- Behind a full window the answer waits, and the session with it (R78, R86). -/
theorem test_session_close_waits : let t := after (.sessionClose rq 9) (fullOn 3)
    (getTen t 3).state = .active ∧ (getSes t 1).map (fun x => (x.closing, x.tx.waiting.length)) = some (some 9, 1) := by
  decide +kernel
theorem test_session_close : let t := after (.sessionClose rq 1) (on 3)
    (getTen t 3).state = .orphaned ∧ getSes t 1 = none ∧ (getTen t 3).session = none := by decide +kernel

def due (t : Nat) : Session := { ses t with
  rx := { next := 3, unacked := 1, ackDue := some 0 }
  tx := { next := 2, unacked := [pkt], rtoDue := some 0 } }
def linked (p : Nat) (s : State) : State := modPort s p fun x => { x with link := true }
theorem w_timers_send :
    (isRunning { up with link := { sessions := [(1, due 0)] } } = true ∧
     getSes { up with link := { sessions := [(1, due 0)] } } (1 : Word).toNat = some (due 0) ∧ (due 0).rx.ackDue = some 0 ∧
     (due 0).tx.rtoDue = some 0 ∧ (due 0).tx.unacked = [pkt] ∧ (0 : Nat) ≤ up.now) ∧
    (isRunning (linked 0 up) = true ∧ (getPort (linked 0 up) 0).link = true ∧ restarting (linked 0 up) 1 = false ∧
     (linked 0 up).link.beaconDue.getD 0 0 ≤ (linked 0 up).now ∧
     (linked 0 up).link.beaconLast.getD 0 none = none) := by decide +kernel
theorem w_beacon_free : PortFree (linked 0 up) (0 : Fin 4) false := by decide +kernel
/-- The acknowledgement goes to the host's last source, from the command port, whole, with a tag and no payload (R53, R56). -/
theorem test_ack_delay : (match (after (.ackDelayTimeout 1) { up with link := { sessions := [(1, due 0)] } }).sent with
    | [.ackOnly 1 1 2 w] => (w.dst, w.dstPort, w.srcPort, w.whole, w.bytes.length, w.bytes.take 4)
    | _ => (0, 0, 0, false, 0, [])) = (0x0A000001, 4000, 52800, true, 48, [0x44, 0x4E, 3, 0]) := by decide +kernel
/-! ## Handshakes and tenants -/

def half : HalfOpen := ⟨5, 0x0A000001, 0, 1400, [], [], [], 400000000⟩
def cred : Nat := 41809010472997957713931694803432653891542277688648940265485379326911099144330
def signed : Nat := 530145836688754471313224692913222444637766327834652359560315522700075933595659777871149795261272855181505836529635173594652381047725510596564662249572956
def hs1 : Handshake := { hs with tenant := 1 }
def auth1 : SessionAuthArgs := ⟨5, 1, 0, leBytes 32 cred, leBytes 64 signed⟩
/-- Tenant 1 configured under the credential, with a half-open session. -/
def half1 : State :=
  { up with
    link := { half := [half] }
    tenants := [(1, { state := .configured })]
    regs := (0x2011C, 1) :: (List.range 8).map fun k => (0x20120 + 4 * k, BitVec.ofNat 32 (cred / 2 ^ (32 * k))) }
/-! The two clauses of SESSION_OPEN: with the zero key the shared secret is zero whatever the chip draws. With another key
it is zero or not as the chip's free draw has it, and one of the two clauses applies. -/

theorem fMul_zero (a : Nat) : fMul a 0 = 0 := by simp [fMul]
theorem zero_fMul (a : Nat) : fMul 0 a = 0 := by simp [fMul]
theorem fSub_self {a : Nat} (h : a < p25519) : fSub a a = 0 := by
  have : a + p25519 - a = p25519 := by omega
  simp only [fSub, Nat.mod_eq_of_lt h, this, Nat.mod_self]
theorem fMul_lt (a b : Nat) : fMul a b < p25519 := Nat.mod_lt _ (by decide)
/-- Sum and difference of a point with a zero coordinate have one square. -/
theorem squares_meet {x z : Nat} (h : x = 0 ∨ z = 0) :
    fMul (fAdd x z) (fAdd x z) = fMul (fSub x z) (fSub x z) := by
  have hp : 0 < p25519 := by decide
  simp only [fMul, fAdd, fSub]
  generalize p25519 = p at hp
  rcases h with rfl | rfl
  · have h2 : z % p < p := Nat.mod_lt _ hp
    have h3 : ((p : Int) - (z : Int) % p) ≡ -(z : Int) [ZMOD p] :=
      Int.modEq_iff_dvd.2 ⟨-(z / p : Int) - 1, by have := Int.emod_add_mul_ediv (z : Int) p; linarith⟩
    rw [← Nat.mul_mod, ← Nat.mul_mod]
    apply Int.natCast_inj.1
    have := (h3.mul h3).symm
    rw [Int.ModEq] at this
    have hc : ((p - z % p : Nat) : Int) = (p : Int) - (z : Int) % p := by rw [Nat.cast_sub (Nat.le_of_lt h2)]; simp
    rw [Nat.zero_add, Nat.zero_add]
    push_cast
    rw [hc]
    simpa using this
  · simp
/-- From a point of order 2 the ladder ends at a point whose z is 0. -/
theorem ladder_zero : ∀ (n k : Nat) (st : Nat × Nat × Nat × Nat), (st.1 = 0 ∨ st.2.1 = 0) → (st.2.2.1 = 0 ∨ st.2.2.2 = 0) →
    (ladderLoop (n + 1) k 0 st).2.1 = 0 := by
  intro n
  induction n with
  | zero =>
    intro k ⟨x2, z2, x3, z3⟩ h2 h3
    unfold ladderLoop ladderLoop
    by_cases hs : bit k 0 = true
    · simp [hs, squares_meet h3, fSub_self (fMul_lt _ _), zero_fMul]
    · simp [hs, squares_meet h2, fSub_self (fMul_lt _ _), zero_fMul]
  | succ n ih =>
    intro k ⟨x2, z2, x3, z3⟩ h2 h3
    unfold ladderLoop
    by_cases hs : bit k (n+1) = true
    · simp only [hs, if_true, squares_meet h3, fSub_self (fMul_lt _ _), zero_fMul]
      exact ih _ _ (.inr rfl) (.inr rfl)
    · simp only [Bool.not_eq_true] at hs
      simp only [hs, Bool.false_eq_true, if_false, squares_meet h2, fSub_self (fMul_lt _ _), zero_fMul]
      exact ih _ _ (.inr rfl) (.inr rfl)
theorem fPow_zero : fInv 0 = 0 := by decide +kernel
theorem ladder_zero' (n k : Nat) (h : 0 < n) : (ladderLoop n k 0 (1, 0, 0, 1)).2.1 = 0 := by
  obtain ⟨m, rfl⟩ : ∃ m, n = m + 1 := ⟨n - 1, by omega⟩
  exact ladder_zero m k _ (.inr rfl) (.inl rfl)
/-- The secret shared with the zero key is zero, whatever the chip's own key. -/
theorem shared_zero (k : List Byte) : ((x25519 k (List.replicate 32 0)).all fun b => decide (b = 0)) = true := by
  have hu : leNat (List.replicate 32 (0 : Byte)) % 2 ^ 255 % p25519 = 0 := by decide +kernel
  have hz := ladder_zero' 255 (clamp25519 k) (by decide)
  have hs : x25519 k (List.replicate 32 0) = leBytes 32 0 := by
    rw [x25519, hu]
    simp only [hz, fPow_zero, fMul_zero]
  rw [hs]
  decide +kernel
theorem w_session_open_useless :
    ((x25519 (fit 32 (Config.randomBytes up.fresh)) (fit 32 (bytes 32))).all fun b => decide (b = 0)) = true := by
  rw [show fit 32 (bytes 32) = List.replicate 32 0 by decide +kernel]
  exact shared_zero _
theorem w_session_open : isRunning up = true ∧ sourceBlocked up hs.src.ip = false ∧
    keptAnswer up hs opSessionOpen (openPayload ⟨bytes 32, bytes 16, 8192, 0⟩) = none ∧ restarting up 1 = false ∧
    hs.major.toNat = 3 ∧ hs.tag ≠ 0 ∧ 1400 ≤ (8192 : Half).toNat ∧ (8192 : Half).toNat ≤ 8192 ∧ up.sec.entropyFail = false ∧
    (up.link.half.filter (halfLive up)).length < 32 := by decide +kernel
theorem w_session_auth : isRunning half1 = true ∧ sourceBlocked half1 hs1.src.ip = false ∧
    keptAnswer half1 hs1 opSessionAuth (authPayload auth1) = none ∧ restarting half1 1 = false ∧ hs1.major.toNat = 3 ∧
    hs1.tag ≠ 0 ∧ auth1.tenant.toNat ≤ 15 ∧ authFault half1 hs1 auth1 = none ∧
    findHalf half1 auth1.session.toNat = some half ∧ (getTen half1 1).state = .configured ∧ (getTen half1 1).held = [] ∧
    enrols half1 1 = false ∧ bit (regW half1 aTrace) 13 = false ∧ bit (regW half1 aTrace) 12 = false := by decide +kernel
def inTen (t : Nat) (x : Tenant) : State := { up with tenants := [(t, x)] , now := 1000000000000000 }
theorem w_tenant_timers :
    isRunning half1 = true ∧
    (isRunning (inTen 2 { state := .active }) = true ∧ (getTen (inTen 2 { state := .active }) (2 : Fin 16)).state = .active ∧
     (getTen (inTen 2 { state := .active }) (2 : Fin 16)).lastAuth.getD 0 +
       msTicks * rField (inTen 2 { state := .active }) (aTen (2 : Fin 16) 0x14) 15 0 ≤ (inTen 2 { state := .active }).now) ∧
    ((getTen (inTen 2 { state := .orphaned }) (2 : Fin 16)).state = .orphaned ∧
     (getTen (inTen 2 { state := .orphaned }) (2 : Fin 16)).lastAuth.getD 0 +
       secTicks * rField (inTen 2 { state := .orphaned }) (aTen (2 : Fin 16) 0x18) 15 0 ≤ (inTen 2 { state := .orphaned }).now) ∧
    ((2 : Fin 16) ≠ 0 ∧ (getTen (inTen 2 { state := .fallback }) (2 : Fin 16)).state = .fallback ∧
     (getTen (inTen 2 { state := .fallback }) (2 : Fin 16)).lastAuth.getD 0 +
       secTicks * rField (inTen 2 { state := .fallback }) (aTen (2 : Fin 16) 0x18) 31 16 ≤ (inTen 2 { state := .fallback }).now) ∧
    (getTen (inTen 2 { state := .reclaiming }) (2 : Fin 16)).state = .reclaiming := by decide +kernel
theorem test_orphan_timeout : (getTen (after (.orphanTimeout 2) (inTen 2 { state := .orphaned })) 2).state = .fallback := by
  decide +kernel
theorem test_reclaim_complete : (getTen (after (.reclaimComplete 2) (inTen 2 { state := .reclaiming })) 2).state =
    .unconfigured := by decide +kernel
theorem w_reclaim_zeroes : (0x1000 : Nat) % 2 ^ 48 + 16 ≤ 2 ^ 48 ∧ (2 ^ 48 - 1) % 2 ^ 48 + 1 ≤ 2 ^ 48 := by decide

/-! ## Registers -/

theorem w_register_reads :
    (Served (on 0) (.regRead rq 0 3 0) opRegRead rq (ses 0) ∧
      firstReadFault (on 0) 0 ((List.range (3 : Half).toNat).map fun k => (0 : Word).toNat + 4 * k) = none) ∧
    (Served (on 0) (.regReadList rq 2 0 [0x10, 0xA0004]) opRegReadList rq (ses 0) ∧
      firstReadFault (on 0) 0 (([0x10, 0xA0004] : List Word).map fun a => a.toNat) = none) :=
  ⟨⟨served (by decide +kernel), by decide +kernel⟩, served (by decide +kernel), by decide +kernel⟩
theorem test_reg_read : lastMsg (after (.regRead rq 0x10004 1 0) (on 3)) =
    some (opRegRead, 0, 0, [4, 0, 1, 0, 1, 0, 0, 0, 0xE8, 3, 0, 0xC0]) := by decide +kernel
theorem test_reg_read_unmapped : (lastMsg (after (.regRead rq 0x10030 1 0) (on 3))).map (fun m => (m.2.1, m.2.2.1)) =
    some (stBadParam, dtUnmappedAddress) := by decide +kernel
theorem w_register_writes :
    (Served (on 0) (.regWrite rq 0x40000 1 0 [16]) opRegWrite rq (ses 0) ∧ (0x40000 : Word).toNat % 4 = 0 ∧
      writeFault (on 0) 0 .packet (writesOf (0x40000 : Word).toNat (([16] : List Word).map fun v => v.toNat)) = none ∧
      ((writesOf (0x40000 : Word).toNat (([16] : List Word).map fun v => v.toNat)).any fun w => isRwn w.1) = false) ∧
    writeFault (on 3) 3 .packet (writesOf (0x40000 : Word).toNat (([16] : List Word).map fun v => v.toNat)) =
      some ((stNotPermitted, dtPermissionClass), 0) ∧
    (Served (on 0) (.regUpdate rq 0x40000 0xFF 9) opRegUpdate rq (ses 0) ∧
      (∃ r, findReg (0x40000 : Word).toNat = some (0, r) ∧
        (r.has fun x => x = .wo || x = .w1c || x = .w1s || x = .rwn) = false) ∧
      readWord (on 0) 0 (0x40000 : Word).toNat = some 8 ∧ writeFault (on 0) 0 .packet [(0x40000, 9)] = none) :=
  ⟨⟨served (by decide +kernel), by decide +kernel⟩, by decide +kernel, served (by decide +kernel),
    ⟨_, rfl, by decide +kernel⟩, by decide +kernel⟩
theorem test_reg_write : regW (after (.regWrite rq 0x40000 1 0 [16]) (on 0)) 0x40000 = 16 ∧
    regW (after (.regWrite rq 0x40000 1 0 [16]) (on 3)) 0x40000 = 8 := by decide +kernel
theorem test_reg_update : lastMsg (after (.regUpdate rq 0x40000 1 1) (on 0)) =
    some (opRegUpdate, 0, 0, [8, 0, 0, 0, 9, 0, 0, 0]) := by decide +kernel

def waiting : RegWait := ⟨7, 0x40000, 0xFF, 8, 0, 0⟩
def waits (t : Nat) : Session := { ses t with waits := [waiting] }
def onWait : State := { on 0 with link := { sessions := [(1, waits 0)] } }
theorem w_register_waits :
    (Served (on 0) (.regWait rq 0x40000 0xFF 8 1) opRegWait rq (ses 0) ∧ readFault (on 0) 0 (0x40000 : Word).toNat = none ∧
      (readWord (on 0) 0 (0x40000 : Word).toNat).getD 0 &&& (0xFF : Word).toNat = (8 : Word).toNat) ∧
    (Served (on 0) (.regWait rq 0x40000 0xFF 9 10000000) opRegWait rq (ses 0) ∧
      (readWord (on 0) 0 (0x40000 : Word).toNat).getD 0 &&& (0xFF : Word).toNat ≠ (9 : Word).toNat ∧
      (ses 0).waits.length < 16 ∧ asyncCount (on 0) 0 rq.session.toNat < 4096) ∧
    (isRunning onWait = true ∧ getSes onWait rq.session.toNat = some (waits 0) ∧
      (waits 0).waits.find? (fun w => w.tag = rq.tag.toNat) = some waiting ∧
      (readWord onWait 0 waiting.address).getD 0 &&& waiting.mask = waiting.expected ∧ waiting.due ≤ onWait.now) :=
  ⟨⟨served (by decide +kernel), by decide +kernel⟩, ⟨served (by decide +kernel), by decide +kernel⟩, by decide +kernel⟩

/-- The owner holds pipe 0, with pinned display memory, a bound loop for frame generation and a wall key. -/
def wide : Mapping := ⟨0x10000, 0x400000, 0x10000, true, true, true, true⟩
def owner : State :=
  { on 0 with
    tenants := [(0, { state := .active, session := some 1, lastAuth := some 0, mem := { maps := [wide] } })]
    sched := { up.sched with loops := [(1, ⟨0, true, 1, false, some 0, none, [], 1, [], 0, none, none, false, {}⟩)] }
    net := { up.net with wall := { key := some (bytes 32) } }
    regs := [(0x20008, 1), (0x20220, 1), (0x80004, 1), (0x80018, 0x10000), (0x80040, 1), (0xA000C, 0x10000), (0xA0014, 1), (0xF8008, 1)] }
def rows : List (Nat × Nat) :=
  [(0x10000, 0xCE41CE40), (0x2021C, 0x100), (0x2021C, 0x101), (0x21004, 0x100), (0x20004, 0x0020000A), (0x10, 1),
   (0x80000, 0x8000003C), (0x80000, 0x3C), (0xA0000, 0x80000800), (0xE0004, 1), (0xE0000, 0x80000000), (0x20, 0xD1E5),
   (0xF0000, 0x80000000), (0xF8000, 0x80800000)]
/-- Every row's address and word, from the owner's session: the write is served and passes the checks of R94. -/
theorem w_register_rows : (rows.map fun r => (servedWB owner rq r.1 (ses 0), writeFault owner 0 .packet [r])) =
      rows.map (fun _ => (true, none)) ∧ getSes owner rq.session.toNat = some (ses 0) ∧
    (ses 0).tx.waiting = [] ∧ (ses 0).tx.unacked.length < 256 ∧ owner.link.portsNext = [] ∧
    hasPartition (getTen (inTen 2 { state := .orphaned }) (2 : Fin 16)) = true := by decide +kernel
theorem test_cmd_ports : regW (after (.cmdPortsWrite rq 0xCE42CE41) owner) 0x10000 = 0xCE42CE41 := by decide +kernel
theorem test_reset_request : (after (.sysResetReq rq 0xD1E5) owner).chip.resetDue = some 4000000 := by decide +kernel
theorem test_fg_enable : bit (regW (after (.fgEnable rq 0 0x3C) owner) 0x80000) 31 = true := by decide +kernel
theorem test_port_disable : (getPort (after (.netPortConfigWrite rq 0 0) owner) 0).link = false := by decide +kernel
theorem w_register_access :
    (∃ i r, findReg 0x40000 = some (i, r) ∧ (r.has fun x => x = .rws) = false) ∧
    (∃ i r, findReg 0xE0014 = some (i, r) ∧ (r.has fun x => x = .rws) = true) ∧
    (∃ i r, findReg 0x80004 = some (i, r) ∧ r.cls = .tenant ∧ actsFor (on 3) 3 i 0x80004 r.part = false) ∧
    (∃ i r, findReg 0 = some (i, r) ∧ r.cls = .device) ∧ (∃ i r, findReg 0x10 = some (i, r) ∧ r.cls = .owner) ∧
    findReg 0x10030 = none :=
  ⟨⟨_, _, rfl, by decide +kernel⟩, ⟨_, _, rfl, by decide +kernel⟩, ⟨_, _, rfl, by decide +kernel⟩,
    ⟨_, _, rfl, by decide +kernel⟩, ⟨_, _, rfl, by decide +kernel⟩, by decide +kernel⟩
theorem test_w1c : regW (keepWord { up with regs := [(0xA001C, 0x1F)] } 0xA001C 0x03) 0xA001C = 0x1C := by decide +kernel
/-! ## Memory -/

def demand : Mapping := ⟨0x800000, 0x2000, 0x1000, true, true, false, false⟩
/-- The owner with a share of 640 MiB, one pinned and one demand mapping. -/
def mem0 : State :=
  { on 0 with
    tenants := [(0, { state := .active, session := some 1, lastAuth := some 0, mem := { maps := [wide, demand] } })]
    regs := [(0x20004, 10)] }
def backing0 : PinBacking := ⟨0x900000, ⟨1, opMemMap, 7⟩, 0⟩
theorem w_memory_maps :
    (Served mem0 (.memMap rq ⟨0x900000, 0x1000, 0, 3, 0⟩) opMemMap rq (ses 0) ∧
      firstFault (memMapChecks mem0 0 ⟨0x900000, 0x1000, 0, 3, 0⟩) = none ∧ bit (3 : Byte).toNat 2 = false) ∧
    (Served mem0 (.memMap rq ⟨0x900000, 0x1000, 0, 7, 0⟩) opMemMap rq (ses 0) ∧
      firstFault (memMapChecks mem0 0 ⟨0x900000, 0x1000, 0, 7, 0⟩) = none ∧ bit (7 : Byte).toNat 2 = true ∧
      asyncCount mem0 0 rq.session.toNat < 4096) ∧
    ((getTen { up with tenants := [(2, { mem := { backing := [backing0] } })] } (2 : Fin 16)).mem.backing.find?
      (fun b => b.va = (0x900000 : DWord).toNat && decide (b.due ≤ up.now)) = some backing0) ∧
    (Served mem0 (.memUnmap rq 0x800000 0x1000) opMemUnmap rq (ses 0) ∧
      firstFault (rangeChecks mem0 0 0x800000 0x1000 ++ mapBusyChecks mem0 0 0x800000 0x1000) = none) ∧
    (Served mem0 (.memProtect rq 0x800000 0x1000 1 0) opMemProtect rq (ses 0) ∧
      firstFault (protectChecks 1 0 ++ rangeChecks mem0 0 0x800000 0x1000 ++ mapBusyChecks mem0 0 0x800000 0x1000) = none) :=
  ⟨⟨served (by decide +kernel), by decide +kernel⟩, ⟨served (by decide +kernel), by decide +kernel⟩, by decide +kernel,
    ⟨served (by decide +kernel), by decide +kernel⟩, served (by decide +kernel), by decide +kernel⟩
theorem test_mem_map_overlap : (lastMsg (after (.memMap rq ⟨0x801000, 0x2000, 0, 3, 0⟩) mem0)).map (fun m => (m.2.1, m.2.2.1)) =
    some (stBadParam, dtMapOverlap) := by decide +kernel
def withBacking (t : Nat) : Session := { ses t with backing := some ⟨7, 0x10000, [1], 0⟩ }
def onBacking : State := { mem0 with link := { sessions := [(1, withBacking 0)] } }
def rowOf (va n : Nat) (w : Bool) : Extent := ⟨va, n, 1, n, !w, w⟩
theorem w_memory_reads_and_writes :
    (Served mem0 (.memWrite rq 0x10000 4 0 [1, 2, 3, 4]) opMemWrite rq (ses 0) ∧
      firstFault (accessChecks mem0 0 (ses 0) 0x10000 4 0 (fun m => m.write) ++ writeBusyChecks mem0 0 0x10000 4) = none ∧
      partialBad mem0 0 0x10000 4 = none ∧ unbacked (getTen mem0 0) [rowOf 0x10000 4 true] = []) ∧
    (Served mem0 (.memWrite rq 0x800FFF 2 0 [1, 2]) opMemWrite rq (ses 0) ∧
      firstFault (accessChecks mem0 0 (ses 0) 0x800FFF 2 0 (fun m => m.write) ++ writeBusyChecks mem0 0 0x800FFF 2) = none ∧
      partialBad mem0 0 0x800FFF 2 = none ∧
      unbacked (getTen mem0 0) [rowOf 0x800FFF 2 true] = [(0x800000, 0x1000), (0x801000, 0x1000)] ∧
      (backPages mem0 0 none [(0x800000, 0x1000), (0x801000, 0x1000)]).isSome = true) ∧
    (isRunning onBacking = true ∧ getSes onBacking (1 : Word).toNat = some (withBacking 0) ∧
      (withBacking 0).backing = some ⟨7, 0x10000, [1], 0⟩ ∧ 0 ≤ onBacking.now) ∧
    (Served mem0 (.memRead rq 0x10000 64 0) opMemRead rq (ses 0) ∧
      firstFault (accessChecks mem0 0 (ses 0) 0x10000 64 0 (fun m => m.read) ++
        [(((stepExtents mem0 0).filter fun e => e.write).any fun e => e.meets 0x10000 64, (stBusy, dtRangeUncommitted))]) = none ∧
      firstBad mem0 0 0x10000 64 = none) ∧
    Served mem0 (.mmuWalk rq 0xFFFFFFFFFFFF) opMmuWalk rq (ses 0) ∧ Served mem0 (.mmuWalk rq 0x1000000000000) opMmuWalk rq (ses 0) :=
  ⟨⟨served (by decide +kernel), by decide +kernel⟩, ⟨served (by decide +kernel), by decide +kernel⟩, by decide +kernel,
    ⟨served (by decide +kernel), by decide +kernel⟩, served (by decide +kernel), served (by decide +kernel)⟩
theorem test_mem_write : hbmRead (after (.memWrite rq 0x10000 4 0 [1, 2, 3, 4]) mem0) 0 0xFFFF 6 = [0, 1, 2, 3, 4, 0] := by
  decide +kernel
theorem test_mem_read : (lastMsg (after (.memRead rq 0x10000 2 0) (storeBytes mem0 0 0x10000 [9, 8]))).map (fun m => m.2.2.2) =
    some [0, 0, 1, 0, 0, 0, 0, 0, 2, 0, 0, 0, 0, 0, 0, 0, 9, 8] := by decide +kernel
theorem w_store_bytes : 2 ^ 48 - 2 + ([1, 2] : List Byte).length ≤ 2 ^ 48 ∧ (2 ^ 48 - 3) + 1 ≤ 2 ^ 48 - 2 := by decide

/-! ## Faults and errors -/

def ref : CmdRef := ⟨1, 0, 0⟩
/-- A command of engine e whose program stands at 0x10000 and that may touch the 64 KiB at va. -/
def spec (e va : Nat) : CmdRec := ⟨e, [], 1, 0x10000, 0x1000, 0, [⟨va, 0x1000, 1, 0x1000, true, true⟩], [⟨0, 0x100000⟩]⟩
def stepOf (c : Cmd) : Step :=
  { seq := 1, order := 1, tag := some ⟨1, opStepSubmit, 5⟩, present := none, presentVa := 0, deadlineNs := 0, seed := 0
    cmds := [c], eligible := some 0 }
def loopOf (t : Nat) (q : List Step) : Loop := ⟨t, true, 4, false, none, none, q, 2, [], 0, some 0, none, false, {}⟩
/-- Its host has just been heard on each state that requests meet below. -/
theorem w_heard : hear rq mem0 = mem0 ∧ hear rq owner = owner := by decide +kernel
/-- The machine with one step at the head of loop 1, of one command with one instance. -/
def placed (c : CmdRec) (i : Inst) (s : State) : State :=
  { s with sched := { s.sched with loops := [(1, loopOf 0 [stepOf { spec := c, insts := [i], checked := true }])] } }
def runs : Inst := { phase := .running, core := 3 }
def heldFault : HeldFault := ⟨9, 1, 0, 0, 0x800000, 0⟩
def holding : State :=
  placed (spec 0 0x800000) { phase := .held 9 } { mem0 with
    tenants := [(0, { state := .active, session := some 1, lastAuth := some 0, mem := { maps := [wide, demand], held := [heldFault] } })] }
def faulting : State := placed (spec 0 0x800000) runs mem0
theorem w_page_faults :
    (Served holding (.faultResume rq 9 0) opFaultResume rq (ses 0) ∧ Served holding (.faultResume rq 9 1) opFaultResume rq (ses 0) ∧
      (getTen holding 0).mem.held.find? (fun h => h.id = (9 : Word).toNat) = some heldFault) ∧
    (isRunning faulting = true ∧ (∃ q, findInst faulting ref = some q ∧ isRun q.inst = true ∧
      withinSet (writeSet q.cmd.spec) (0x801000 : DWord).toNat 1 = false ∧
      withinSet (readSet q.cmd.spec) (0x800000 : DWord).toNat 1 = true ∧
      isDemandPage (getTen faulting q.loop.tenant) (0x800000 : DWord).toNat = true)) ∧
    (∃ q, findInst (placed (spec 0 0x800000) { phase := .backing 0 } mem0) ref = some q ∧ q.inst.phase = .backing 0) ∧
    (getTen holding (0 : Fin 16)).mem.held.find? (fun h => h.id = (9 : Word).toNat && decide (h.due ≤ holding.now)) =
      some heldFault :=
  ⟨⟨served (by decide +kernel), served (by decide +kernel), by decide +kernel⟩,
    ⟨by decide +kernel, _, rfl, by decide +kernel⟩, ⟨_, rfl, rfl⟩, by decide +kernel⟩
theorem test_page_fault_backs : (findInst (after (.pageFault ref 0x800000 false .access) faulting) ref).map
    (fun q => isHeld q.inst) = some true := by decide +kernel

def settlingState : State := placed (spec 0 0x10000) { phase := .settling, wasOn := [3] } mem0
def failingState : State :=
  { mem0 with sched := { mem0.sched with
      loops := [(1, loopOf 0 [{ stepOf { spec := spec 0 0x10000, insts := [{}] } with failing := some ⟨stBadParam, 0, 0, 0, 0⟩ }])] } }
theorem w_errors_and_settling :
    (isRunning (placed (spec 0 0x10000) runs mem0) = true ∧ (∃ q, findInst (placed (spec 0 0x10000) runs mem0) ref = some q ∧
      isRun q.inst = true ∧ (q.cmd.spec.extents.any fun e => e.meets ((0x1003F : DWord).toNat / 64 * 64) 64) = true)) ∧
    (isRunning up = true ∧ up.chip.hbmReady = true ∧ up.chip.scrubDue ≤ up.now) ∧
    (∃ q, findInst settlingState ref = some q ∧ q.inst.wasOn ≠ []) ∧
    (isRunning failingState = true ∧ ∃ l st r f, getLoop failingState 1 = some l ∧ l.queue = st :: r ∧ st.failing = some f ∧
      ((stepInsts 1 l st).any fun p => p.inst.wasOn ≠ []) = false ∧
      (∀ c ∈ st.cmds, ∀ e ∈ writeSet c.spec, ∀ r < e.norm.rows, e.norm.va + r * e.norm.pitch + e.norm.rowBytes ≤ 2 ^ 48)) :=
  ⟨⟨by decide +kernel, _, rfl, by decide +kernel⟩, by decide +kernel, ⟨_, rfl, by decide +kernel⟩,
    by decide +kernel, _, _, _, _, rfl, rfl, rfl, by decide +kernel⟩
theorem test_zero_fill : hbmRead (after (.zeroFillDone 1) (storeBytes failingState 0 0x10FFF [7, 7])) 0 0x10FFF 2 = [0, 7] := by
  decide +kernel
theorem test_scrub_counts : (after (.patrolScrub ⟨5, []⟩) up).chip.eccCorr = 5 := by decide +kernel
/-! ## Loops, steps and function disable -/

def newLoop : LoopCreateArgs := ⟨0, 0, 64, 1, 0xFF, 0, 0, 0, 0, 0, 0, 0, 0, 0⟩
/-- The owner may have one loop more. -/
def loops0 : State := { mem0 with regs := [(0x20004, 0x0040000A)] }
theorem free_id : ∃ id, newLoopId loops0 = some id :=
  ⟨_, by unfold newLoopId firstFree; rfl⟩
theorem w_loops_come_and_go :
    (Served loops0 (.loopCreate rq newLoop) opLoopCreate rq (ses 0) ∧ firstFault (loopCreateChecks loops0 0 newLoop) = none ∧
      seqParams loops0 0 newLoop = .ok none ∧ ∃ id, newLoopId loops0 = some id) ∧
    (Served owner (.loopDestroy rq 1) opLoopDestroy rq (ses 0) ∧ ∃ l, getLoop owner (1 : Word).toNat = some l ∧ l.tenant = 0 ∧
      l.queue = [] ∧ l.seqs = [] ∧ namedByFg { owner with regs := [] } 0 (1 : Word).toNat = false) :=
  ⟨⟨served (by decide +kernel), by decide +kernel, rfl, free_id⟩, served (by decide +kernel), _, rfl, rfl, rfl, rfl,
    by decide +kernel⟩
theorem test_loop_create_limit : (lastMsg (after (.loopCreate rq newLoop) mem0)).map (fun m => (m.2.1, m.2.2.1)) =
    some (stNoResource, dtLoopLimit) := by decide +kernel

/-- A step record of one DMA command: header, head, one extent (R166, R167, R140). -/
def record : List Byte :=
  le2 1 ++ le2 1 ++ [0xFF, 0, 0, 0] ++ le8 0 ++ le4 0 ++ le4 0 ++ le8 5 ++
  [4, 1, 0, 0] ++ le2 1 ++ le2 0 ++ le8 0x20000 ++ le4 64 ++ le4 0 ++ List.replicate 8 0xFF ++
  le8 0x20000 ++ le4 0x1000 ++ le4 1 ++ le4 0x1000 ++ le4 3
def submit : StepSubmitArgs := ⟨1, 0, 0x10000, 88, 0⟩
def submitting : State := storeBytes { mem0 with sched := { up.sched with loops := [(1, loopOf 0 [])] } } 0 0x10000 record
def seqLoop : Loop := { loopOf 0 [] with lc := false, sequence := some ⟨[], [], 0, 0, 0x10000, 512, 4⟩ }
def sequences : State := { mem0 with sched := { up.sched with loops := [(1, seqLoop)] } }
def seqArgs : SeqSubmitArgs := ⟨1, 77, 0x10000, 65536, 1⟩
theorem w_submissions_queue :
    (Served submitting (.stepSubmit rq submit) opStepSubmit rq (ses 0) ∧ submitChecks submitting 0 submit = none ∧
      getLoop submitting (1 : Word).toNat = some (loopOf 0 []) ∧
      (match parseStep submitting 0 true (hbmRead submitting 0 0x10000 88) with
        | .ok x => decide (presentFault submitting 0 1 x = none) | .error _ => false) = true ∧
      asyncCount submitting 0 rq.session.toNat < 4096) ∧
    (Served sequences (.seqSubmit rq seqArgs) opSeqSubmit rq (ses 0) ∧ getLoop sequences (1 : Word).toNat = some seqLoop ∧
      seqLoop.func.phase = .enabled ∧ seqLoop.seqs.length < 4096 ∧
      rangeOk sequences 0 (fun m => m.read) seqArgs.promptVa.toNat (seqArgs.promptLength.toNat * tokenBytes) = true ∧
      asyncCount sequences 0 rq.session.toNat < 4096) :=
  ⟨⟨served (by decide +kernel), by decide +kernel, rfl, by decide +kernel, by decide +kernel⟩,
    served (by decide +kernel), rfl, by decide +kernel⟩
theorem test_step_submit : let t := after (.stepSubmit rq submit) submitting
    lastMsg t = some (opStepSubmit, stAccepted, 0, [2, 0, 0, 0]) ∧ t.sched.locked = true ∧
    ((getLoop t 1).map fun l => l.queue.length) = some 1 := by decide +kernel

def coreArgs (mode : Byte) (id : Word) : FuncArgs := ⟨0, mode, 0, id⟩
def coreOff : State :=
  { on 0 with sched := { up.sched with cores := [(127, { state := 3, func := { phase := .disabled } })] } }
theorem w_function_disable :
    (Served (on 0) (.funcDisable rq (coreArgs 0 127)) opFuncDisable rq (ses 0) ∧ funcFault (on 0) 0 (coreArgs 0 127) 2 = none ∧
      (targetFunc (on 0) 0 127).phase = .enabled ∧ asyncCount (on 0) 0 rq.session.toNat < 4096) ∧
    (Served (on 0) (.funcDisable rq (coreArgs 1 0)) opFuncDisable rq (ses 0) ∧ funcFault (on 0) 0 (coreArgs 1 0) 2 = none ∧
      (targetFunc (on 0) 0 0).phase = .enabled) ∧
    (Served coreOff (.funcDisable rq (coreArgs 0 127)) opFuncDisable rq (ses 0) ∧
      (targetFunc coreOff 0 127).phase = .disabled) ∧
    (Served coreOff (.funcEnable rq (coreArgs 0 127)) opFuncEnable rq (ses 0) ∧ funcFault coreOff 0 (coreArgs 0 127) 1 = none ∧
      enableFault coreOff 0 0 127 = none) :=
  ⟨⟨served (by decide +kernel), by decide +kernel⟩, ⟨served (by decide +kernel), by decide +kernel⟩,
    ⟨served (by decide +kernel), by decide +kernel⟩, served (by decide +kernel), by decide +kernel⟩
theorem test_func_enable_core : (getCore (after (.funcEnable rq (coreArgs 0 127)) coreOff) 127).state = 5 := by decide +kernel

/-! ## The scheduler and DMA -/

/-- A DMA command at its descriptor: 16 bytes from 0x10000 to 0x10800 (R145, R147). -/
def move : List Byte :=
  le2 1 ++ le2 0 ++ le4 1 ++ zeros 8 ++
  le8 0x10000 ++ le8 0x10800 ++ le4 16 ++ le4 1 ++ le4 16 ++ le4 16 ++ [0, 0, 0, 0, 0, 0, 1, 0] ++ le4 0 ++ le4 0
def dma (d : DmaRun) : State := storeBytes (placed (spec 4 0x10000) { runs with dma := d } mem0) 0 0x10000 move
def job : DmaJob := { index := 0, desc := move.drop 16 }
theorem w_scheduler_acts : (isRunning up = true ∧ up.sched.nextTick ≤ tbNs up 0) ∧
    (∃ q, findInst (pumpRun (dma { next := 1, done := [0] }) ref) ref = some q ∧ isRun q.inst = true ∧
      runReady (pumpRun (dma { next := 1, done := [0] }) ref) q = true) ∧ isRunning State.reset = false :=
  ⟨by decide +kernel, ⟨_, rfl, by decide +kernel⟩, rfl⟩
theorem w_work_lands : (∃ q, findInst (dma {}) ref = some q ∧
    firstStop (dma {}) q [{ va := 0x10000, n := 16, write := false }] = none ∧
    (firstStop (dma {}) q [{ va := 0x20000, n := 16, write := false }]).isSome = true) := ⟨_, rfl, by decide +kernel⟩
theorem w_dma_descriptors :
    (∃ q, findInst (dma {}) ref = some q ∧ isRun q.inst = true ∧ q.cmd.spec.engine = 4 ∧
      q.inst.dma.next < dmaCount (dma {}) q.loop.tenant q.cmd.spec ∧ q.inst.dma.jobs.length < 64 ∧ q.inst.dma.jobs = [] ∧
      (let d := descOf (progBytes (dma {}) q.loop.tenant q.cmd.spec 16 48)
       descFault d = none ∧ d.hbm.findSome? (outside q) = none ∧ descPadsOk (dma {}) q d = true)) ∧
    (∃ q, findInst (dma { next := 1, jobs := [job] }) ref = some q ∧ isRun q.inst = true ∧ isWindow q = false ∧ q.inst.dma.jobs = [job] ∧
      (descOf job.desc).srcSpace = 0 ∧ (descOf job.desc).dstSpace = 0 ∧
      (transfer (dma { next := 1, jobs := [job] }) q (descOf job.desc)).isSome = true ∧
      firstStop (dma { next := 1, jobs := [job] }) q (((descOf job.desc).srcRanges.map fun r => { va := r.1, n := r.2, write := false }) ++
        (descOf job.desc).dstRanges.map fun r => { va := r.1, n := r.2, write := true }) = none) :=
  ⟨⟨_, rfl, by decide +kernel⟩, _, rfl, by decide +kernel⟩
/-- A 3 x 3 window over 8 x 8 at 0x10400 in one instance; its ring of 4 rows at scratchpad 0x2000, its output at 0x10800
(R260, R266). -/
def winProgram1 : List Byte :=
  le4 0 ++ [0, 0, 0, 0x11, 3, 3, 1, 1, 1, 1, 0, 0] ++ le4 1 ++ le4 1 ++ le2 8 ++ le2 8 ++ le2 1 ++ le2 1 ++ le2 1 ++ le2 1 ++
  zeros 16 ++ zeros 4 ++ le8 0x10400 ++ le8 0x10800 ++ le4 8 ++ le4 64 ++ le4 8 ++ le4 64 ++ zeros 24 ++ le4 0x2000 ++ le4 0x3000 ++
  le2 4 ++ zeros 14 ++ le2 0xFFFF ++ zeros 30
def window (w : WinRun) (d : DmaRun) : State :=
  storeBytes (placed { spec 3 0x10000 with program := 0x10000 } { runs with win := w, dma := d } mem0) 0 0x10000 winProgram1
def wout : WinStore := { at_ := 0x10800, bytes := [9, 8] }
def windowB (s : State) (P : State → Placed → WinHead → Bool) : Bool :=
  match findInst s ref with | some q => isRunning s && isRun q.inst && isWindow q && P s q (winHeadOf s q) | none => false
theorem w_window_descriptors :
    windowB (pumpRun (window { out := [wout] } {}) ref) (fun _ q _ => decide (q.inst.win.out = [wout]) &&
      decide ((q.inst.dma.jobs.filter fun j => j.out.isSome).length < 8) &&
      decide (outside q { va := wout.at_, n := wout.bytes.length, write := true } = none)) = true ∧
    windowB (pumpRun (window {} {}) ref) (fun _ q h => decide (q.inst.win.out = []) &&
      decide (q.inst.dma.jobs.length < 8) && decide (h.inCodec = 0) &&
      (match (runFills q h)[q.inst.win.issued]? with
        | some f => ringFree q h f.1 && decide (outside q (fillAccess h f) = none) | none => false)) = true ∧
    windowB (window {} { jobs := [{ index := 0, out := some wout }] }) (fun s q _ =>
      decide (firstStop s q [{ va := wout.at_, n := wout.bytes.length, write := true }] = none)) = true ∧
    windowB (window { issued := 1 } { jobs := [{ index := 0 }] }) (fun s q h =>
      match (runFills q h)[q.inst.win.filled]? with
        | some f => decide (firstStop s q [fillAccess h f] = none) && !fillBad s q h f | none => false) = true := by
  decide +kernel
/-- A fill puts its row into the ring; an output row that has drained is written where out_va says (R258, R266). -/
theorem test_window_fill : padRead (after (.dmaDescriptorDone ref 0)
      (storeBytes (window { issued := 1 } { jobs := [{ index := 0 }] }) 0 0x10400 [1, 2, 3, 4])) 3 0x2000 4 = [1, 2, 3, 4] ∧
    hbmRead (after (.dmaDescriptorDone ref 0) (window {} { jobs := [{ index := 0, out := some wout }] })) 0 0x10800 2 = [9, 8] := by
  decide +kernel
theorem test_dma_moves : hbmRead (after (.dmaDescriptorDone ref 0) (dma { next := 1, jobs := [job] })) 0 0x10800 8 =
    [1, 0, 0, 0, 1, 0, 0, 0] := by decide +kernel

/-! ## The vector engine -/

def vat : VeAt := ⟨3, 0⟩
def vf (imm : BitVec 24) : VeFields := ⟨3, 1, 2, 4, 0, false, false, imm, 0⟩
/-- The instruction word of R231 with those fields: op, d 3, a 1, b 2, c 4. -/
def vword (op imm : Nat) : List Byte := le8 (op * 2 ^ 56 + 3 * 2 ^ 50 + 1 * 2 ^ 44 + 2 * 2 ^ 38 + 4 * 2 ^ 32 + imm)
/-- A dispatch of one thread whose program is one instruction, with a descriptor behind it; registers 1, 2 and 4, in the
thread storage at the bottom of core 3's scratchpad, hold the operands. -/
def ve (op imm : Nat) (g : VeGroup) (r : DmaRun) : State :=
  storeBytes (placed (spec 2 0x10000) { runs with ve := { loaded := true, groups := [g] }, dma := r } mem0) 0 0x10000
    (le2 1 ++ le2 64 ++ le4 0 ++ le4 64 ++ le4 8 ++ le4 0 ++ le4 72 ++ le2 1 ++ [1, 0] ++ zeros 4 ++ zeros 32 ++
      vword op imm ++ move.drop 16)
def v1 (op imm : Nat) (a b c : Word) : State :=
  padWrite (padWrite (padWrite (ve op imm {} {}) 3 4 (le4 a.toNat)) 3 8 (le4 b.toNat)) 3 16 (le4 c.toNat)
def group0 (s : State) : Option VeGroup := (findInst s ref).bind fun q => q.inst.ve.groups[0]?
/-- Register 3 of thread 0, at byte 12 of the thread storage. -/
def got (s : State) : Option Nat := some (leNat (padRead s 3 12 4))
def gotPred (s : State) : Option Bool := (group0 s).map fun g => pred g 0 3

/-- The vector rows: every operation code of R231 stands in front of a group somewhere, with a lane that its guard takes. -/
theorem w_vector_rows : ∀ op ∈
    [0x00, 0x01, 0x02, 0x03, 0x04, 0x05, 0x06, 0x07, 0x08, 0x09, 0x10, 0x11, 0x12, 0x13, 0x14, 0x15, 0x16, 0x17, 0x18,
     0x20, 0x21, 0x22, 0x23, 0x24, 0x25, 0x26, 0x27, 0x28, 0x29, 0x2A, 0x2B, 0x2C, 0x2D, 0x2E, 0x2F, 0x30, 0x31, 0x32,
     0x40, 0x41, 0x42, 0x43, 0x44, 0x45, 0x46, 0x47, 0x48, 0x49, 0x4A, 0x4B, 0x50, 0x51, 0x52, 0x53, 0x60, 0x61, 0x62,
     0x63, 0x64, 0x65, 0x68, 0x69, 0x6A, 0x6B, 0x6C, 0x6D, 0x6E, 0x6F, 0x70, 0x71, 0x72, 0x73, 0x74, 0x75, 0x76],
    (veCtx (v1 op 0 0 0 0) vat op (vf 0)).map (fun x => (x.lanes, decide (x.head.storage + (x.k + 1) * 16384 ≤ 2 ^ 22))) =
      some ([0], true) := by decide +kernel
theorem w_vector_nan : f32Nan 0x7F800001 = true ∧ f32Nan 0xFFC00000 = true := by decide +kernel
/-- Scratchpad rows: an address at the last bytes of the command's region, and one behind it. -/
theorem w_vector_scratchpad :
    (veCtx (v1 0x62 0 0xFFFF0 0 0) vat 0x62 (vf 0)).map (fun x => (lanesIn x (vf 0) 16, lanesIn x (vf 0) 4)) = some (true, true) ∧
    (veCtx (v1 0x60 0 0x100000 0 0) vat 0x60 (vf 0)).map (fun x => (lanesIn x (vf 0) 4, lanesIn x (vf 0) 16)) =
      some (false, false) := by decide +kernel
/-- What is asked of the context of the instruction in front. -/
def ctxHas (s : State) (op : Nat) (P : VeCtx → Bool) : Bool := match veCtx s vat op (vf 0) with | some x => P x | none => false
theorem w_vector_control :
    ctxHas (v1 0x70 0 0 0 0) 0x70 (fun x => decide (veTarget (veProgram (v1 0x70 0 0 0 0) x.q) x.grp.pc (veImm (vf 0)) = some 0) &&
      decide (x.lanes ≠ []) && decide (x.lanes = x.active)) = true ∧
    ctxHas (v1 0x74 0 0 0 0) 0x74 (fun x => decide (x.lanes = [0]) && decide (x.q.inst.dma.jobs.length < 16) &&
      (let d := progBytes (v1 0x74 0 0 0 0) x.q.loop.tenant x.q.cmd.spec (x.head.desc + 48 * (vf 0).imm.toNat) 48
       let d' := descOf (le8 (leAt d 0 8 + x.a (vf 0) 0) ++ le8 (leAt d 8 8 + x.b (vf 0) 0) ++ d.drop 16)
       decide (descFault d' = none) && decide (d'.hbm.findSome? (outside x.q) = none) && descPadsOk (v1 0x74 0 0 0 0) x.q d')) =
      true ∧
    ctxHas (ve 0x75 0 {} { done := [0] }) 0x75 (fun x => veWaitOver x 0) = true ∧
    ctxHas (ve 0x75 0 {} { jobs := [job] }) 0x75 (fun x => decide (x.lanes ≠ []) && !veWaitOver x 0) = true ∧
    ctxHas up 0x00 (fun _ => true) = false := by decide +kernel
/-- Guards that hold in no lane: predicate 1 is false. -/
def vfOff : VeFields := { vf 0 with p := 1 }
def vOff (op : Nat) : State :=
  storeBytes (v1 op 0 0 0 0) 0 0x10040 (le8 (op * 2 ^ 56 + 3 * 2 ^ 50 + 1 * 2 ^ 44 + 2 * 2 ^ 38 + 4 * 2 ^ 32 + 2 ^ 29))
theorem w_vector_off : ∀ op ∈ [0x70, 0x71, 0x73],
    (veCtx (vOff op) vat op vfOff).map (fun x => (x.lanes, decide (x.lanes ≠ x.active))) = some ([], true) := by decide +kernel

theorem test_ve_fp :
    got (after (.veFadd vat (vf 0)) (v1 0x01 0 0x3F800000 0x40000000 0)) = some 0x40400000 ∧
    got (after (.veFsub vat (vf 0)) (v1 0x02 0 0x3F800000 0x40000000 0)) = some 0xBF800000 ∧
    got (after (.veFmul vat (vf 0)) (v1 0x03 0 0x40400000 0x40000000 0)) = some 0x40C00000 ∧
    got (after (.veFfma vat (vf 0)) (v1 0x04 0 0x3F800000 0x40000000 0x40400000)) = some 0x40A00000 ∧
    got (after (.veFmin vat (vf 0)) (v1 0x05 0 0 0x80000000 0)) = some 0x80000000 ∧
    got (after (.veFmax vat (vf 0)) (v1 0x06 0 0x80000000 0 0)) = some 0 ∧
    got (after (.veFabs vat (vf 0)) (v1 0x07 0 0xBF800000 0 0)) = some 0x3F800000 ∧
    got (after (.veFneg vat (vf 0)) (v1 0x08 0 0x3F800000 0 0)) = some 0xBF800000 ∧
    got (after (.veFcopysign vat (vf 0)) (v1 0x09 0 0x3F800000 0xC0000000 0)) = some 0xBF800000 := by decide +kernel
theorem test_ve_compare :
    gotPred (after (.veFeq vat (vf 0)) (v1 0x10 0 0 0x80000000 0)) = some true ∧
    gotPred (after (.veFne vat (vf 0)) (v1 0x11 0 0x7FC00000 0x7FC00000 0)) = some true ∧
    gotPred (after (.veFlt vat (vf 0)) (v1 0x12 0 0xC0000000 0x3F800000 0)) = some true ∧
    gotPred (after (.veFle vat (vf 0)) (v1 0x13 0 0x7FC00000 0x7F800000 0)) = some false ∧
    gotPred (after (.veFunord vat (vf 0)) (v1 0x14 0 0x7FC00000 0 0)) = some true ∧
    gotPred (after (.veIeq vat (vf 0)) (v1 0x15 0 7 7 0)) = some true ∧
    gotPred (after (.veIlt vat (vf 0)) (v1 0x16 0 0xFFFFFFFF 0 0)) = some true ∧
    gotPred (after (.veUlt vat (vf 0)) (v1 0x17 0 0xFFFFFFFF 0 0)) = some false := by decide +kernel
theorem test_ve_int :
    got (after (.veSel vat (vf 0)) (v1 0x18 0 5 6 0)) = some 6 ∧
    got (after (.veIadd vat (vf 0)) (v1 0x20 0 0xFFFFFFFF 2 0)) = some 1 ∧
    got (after (.veIsub vat (vf 0)) (v1 0x21 0 1 2 0)) = some 0xFFFFFFFF ∧
    got (after (.veImullo vat (vf 0)) (v1 0x22 0 0x10001 0x10001 0)) = some 0x20001 ∧
    got (after (.veSmulhi vat (vf 0)) (v1 0x23 0 0xFFFFFFFF 2 0)) = some 0xFFFFFFFF ∧
    got (after (.veUmulhi vat (vf 0)) (v1 0x24 0 0xFFFFFFFF 2 0)) = some 1 ∧
    got (after (.veShl vat (vf 0)) (v1 0x25 0 1 33 0)) = some 2 ∧
    got (after (.veShr vat (vf 0)) (v1 0x26 0 0x80000000 33 0)) = some 0x40000000 ∧
    got (after (.veSra vat (vf 0)) (v1 0x27 0 0x80000000 1 0)) = some 0xC0000000 ∧
    got (after (.veAnd vat (vf 0)) (v1 0x28 0 0xC 0xA 0)) = some 8 ∧ got (after (.veOr vat (vf 0)) (v1 0x29 0 0xC 0xA 0)) = some 14 ∧
    got (after (.veXor vat (vf 0)) (v1 0x2A 0 0xC 0xA 0)) = some 6 ∧
    got (after (.veSmin vat (vf 0)) (v1 0x2B 0 0xFFFFFFFF 1 0)) = some 0xFFFFFFFF ∧
    got (after (.veSmax vat (vf 0)) (v1 0x2C 0 0xFFFFFFFF 1 0)) = some 1 ∧
    got (after (.veUmin vat (vf 0)) (v1 0x2D 0 0xFFFFFFFF 1 0)) = some 1 ∧
    got (after (.veUmax vat (vf 0)) (v1 0x2E 0 0xFFFFFFFF 1 0)) = some 0xFFFFFFFF ∧
    got (after (.veMov vat (vf 0)) (v1 0x2F 0 1 2 0)) = some 2 := by decide +kernel
theorem test_ve_fields :
    got (after (.veCvt vat (vf 1)) (v1 0x30 1 0x3F800000 0 0)) = some 0x3C00 ∧
    got (after (.veBfi vat (vf 0x807)) (v1 0x31 0x807 0xAB 0 0x11111111)) = some 0x1111AB11 ∧
    got (after (.veBfx vat (vf 0x807)) (v1 0x32 0x807 0x1111AB11 0 0)) = some 0xAB ∧
    got (after (.veBfx vat (vf 0x10807)) (v1 0x32 0x10807 0x1111AB11 0 0)) = some 0xFFFFFFAB := by decide +kernel
theorem test_ve_special :
    got (after (.veRcp vat (vf 0)) (v1 0x40 0 0x40000000 0 0)) = some 0x3F000000 ∧
    got (after (.veDiv vat (vf 0)) (v1 0x41 0 0x3F800000 0x40000000 0)) = some 0x3F000000 ∧
    got (after (.veSqrt vat (vf 0)) (v1 0x42 0 0x40800000 0 0)) = some 0x40000000 ∧
    got (after (.veRsqrt vat (vf 0)) (v1 0x43 0 0x40800000 0 0)) = some 0x3F000000 ∧
    got (after (.veExp2 vat (vf 0)) (v1 0x44 0 0x40400000 0 0)) = some 0x41000000 ∧
    got (after (.veLog2 vat (vf 0)) (v1 0x45 0 0x41000000 0 0)) = some 0x40400000 ∧
    got (after (.veSinpi vat (vf 0)) (v1 0x46 0 0x3F000000 0 0)) = some 0x3F800000 ∧
    got (after (.veCospi vat (vf 0)) (v1 0x47 0 0x3F000000 0 0)) = some 0 := by decide +kernel
theorem test_ve_composite :
    got (after (.veExp vat (vf 0)) (v1 0x48 0 0 0 0)) = some 0x3F800000 ∧
    got (after (.veLog vat (vf 0)) (v1 0x49 0 0x3F800000 0 0)) = some 0 ∧
    got (after (.veSigmoid vat (vf 0)) (v1 0x4A 0 0 0 0)) = some 0x3F000000 ∧
    got (after (.veTanh vat (vf 0)) (v1 0x4B 0 0xC1200000 0 0)) = some 0xBF800000 := by decide +kernel
theorem test_ve_lanes :
    got (after (.veShuffle vat (vf 0)) (v1 0x50 0 9 64 0)) = some 9 ∧ got (after (.veBcast vat (vf 0)) (v1 0x51 0 9 0 0)) = some 9 ∧
    got (after (.veGred vat (vf 0)) (v1 0x52 0 0x40000000 0 0)) = some 0x40000000 := by decide +kernel
theorem test_ve_pad :
    padRead (after (.veSt32 vat (vf 4)) (v1 0x63 4 0x40 0x01020304 0)) 3 0x43 6 = [0, 4, 3, 2, 1, 0] ∧
    got (after (.veLd32 vat (vf 4)) (padWrite (v1 0x60 4 0x40 0 0) 3 0x44 [1, 2, 3, 4])) = some 0x04030201 ∧
    got (after (.veAadd vat (vf 0)) (padWrite (v1 0x68 0 0x40 5 0) 3 0x40 [7, 0, 0, 0])) = some 7 ∧
    padRead (after (.veAadd vat (vf 0)) (padWrite (v1 0x68 0 0x40 5 0) 3 0x40 [7, 0, 0, 0])) 3 0x40 4 = [12, 0, 0, 0] ∧
    padRead (after (.veAsmin vat (vf 0)) (padWrite (v1 0x69 0 0x40 0xFFFFFFFF 0) 3 0x40 [7, 0, 0, 0])) 3 0x40 4 =
      [255, 255, 255, 255] ∧
    padRead (after (.veAsmax vat (vf 0)) (padWrite (v1 0x6A 0 0x40 0xFFFFFFFF 0) 3 0x40 [7, 0, 0, 0])) 3 0x40 4 = [7, 0, 0, 0] ∧
    padRead (after (.veAand vat (vf 0)) (padWrite (v1 0x6B 0 0x40 5 0) 3 0x40 [6, 0, 0, 0])) 3 0x40 4 = [4, 0, 0, 0] ∧
    padRead (after (.veAor vat (vf 0)) (padWrite (v1 0x6C 0 0x40 5 0) 3 0x40 [6, 0, 0, 0])) 3 0x40 4 = [7, 0, 0, 0] ∧
    padRead (after (.veAxor vat (vf 0)) (padWrite (v1 0x6D 0 0x40 5 0) 3 0x40 [6, 0, 0, 0])) 3 0x40 4 = [3, 0, 0, 0] ∧
    padRead (after (.veAxchg vat (vf 0)) (padWrite (v1 0x6E 0 0x40 5 0) 3 0x40 [6, 0, 0, 0])) 3 0x40 4 = [5, 0, 0, 0] ∧
    padRead (after (.veAcas vat (vf 0)) (padWrite (v1 0x6F 0 0x40 5 6) 3 0x40 [6, 0, 0, 0])) 3 0x40 4 = [5, 0, 0, 0] ∧
    padRead (after (.veAcas vat (vf 0)) (padWrite (v1 0x6F 0 0x40 5 7) 3 0x40 [6, 0, 0, 0])) 3 0x40 4 = [6, 0, 0, 0] := by
  decide +kernel
theorem test_ve_control :
    (group0 (after (.veBraAny vat (vf 0)) (v1 0x70 0 0 0 0))).map (fun g => (g.pc, g.exited)) = some (0, false) ∧
    ((findInst (after (.veDmaIssue vat (vf 0)) (v1 0x74 0 0x20 0x40 0)) ref).map fun q =>
      q.inst.dma.jobs.map fun j => (leAt j.desc 0 8, leAt j.desc 8 8)) = some [(0x10020, 0x10840)] := by decide +kernel
/-! ## Raster -/

/-- The program head of R330: one owner, format 0, 64 x 64, its display list of 272 bytes at 0x10100. -/
def rasProgram (bin : Nat) : List Byte :=
  le2 1 ++ [1, 0, 0, 0, 0, 0] ++ le2 64 ++ le2 64 ++ le4 272 ++ le8 0x10100 ++ le8 0x20000 ++ le4 256 ++ zeros 84 ++ le4 bin ++ zeros 4
def one : List Byte := le4 0x3F800000
def vertex (x y : Nat) : List Byte := le4 x ++ le4 y ++ le4 0 ++ one ++ le4 x ++ le4 y ++ le4 0 ++ one ++ one ++ one ++ one ++ one
/-- A STATE, a TRIANGLES, a RECTS, a NOP and the END (R332, R333, R338). -/
def dlist : List Byte :=
  (le2 1 ++ zeros 2 ++ le4 32 ++ [0, 0, 0, 0, 0, 0, 0, 4] ++ le4 0 ++ le4 0 ++ one ++ one) ++
  (le2 2 ++ zeros 2 ++ le4 160 ++ le4 1 ++ le4 0 ++ vertex 0xBF800000 0xBF800000 ++ vertex 0x3F800000 0xBF800000 ++
    vertex 0 0x3F800000) ++
  (le2 3 ++ zeros 2 ++ le4 64 ++ le4 1 ++ le4 0 ++ le4 0 ++ le4 0 ++ one ++ one ++ zeros 32) ++
  (le2 5 ++ zeros 2 ++ le4 8) ++ (le2 4 ++ zeros 2 ++ le4 8)
def drawing (bin pos : Nat) : State :=
  storeBytes (storeBytes (placed (spec 5 0x10000) { runs with ras := { pos := pos } } mem0) 0 0x10000 (rasProgram bin)) 0 0x10100 dlist
/-- A packet stands ahead, as a Bool over the placed command. -/
def aheadB (s : State) (ty size : Nat) (q : Placed) : Bool :=
  let h := rasHeadOf s q
  let p := q.inst.ras.pos
  isRunning s && isRun q.inst && decide (q.cmd.spec.engine = 5) && !q.inst.ras.ended && decide (p < h.dlBytes) &&
  decide (firstStop s q [{ va := h.dl + p, n := min 8 (h.dlBytes - p), write := false }] = none) &&
  decide (leAt (hbmRead s q.loop.tenant (h.dl + p) 8) 0 2 = ty) && decide (leAt (hbmRead s q.loop.tenant (h.dl + p) 8) 2 2 = 0) &&
  decide (leAt (hbmRead s q.loop.tenant (h.dl + p) 8) 4 4 = size) && decide (8 ≤ size) && decide (size % 8 = 0) &&
  decide (p + size ≤ h.dlBytes) && decide (firstStop s q [{ va := h.dl + p, n := size, write := false }] = none) &&
  packetOk h q.inst.ras.state p ty size (hbmRead s q.loop.tenant (h.dl + p + 8) (size - 8))
def standsB (s : State) (ty size : Nat) (P : Placed → List Byte → Bool) : Bool :=
  match findInst s ref with
  | some q => aheadB s ty size q &&
      P q (hbmRead s q.loop.tenant ((rasHeadOf s q).dl + q.inst.ras.pos + 8) (size - 8))
  | none => false
theorem stands {s : State} {ty size : Nat} {P : Placed → List Byte → Bool} (h : standsB s ty size P = true) :
    ∃ q body, PacketAhead s ref ty size q body ∧ P q body = true := by
  unfold standsB at h
  split at h
  · rename_i q hq
    unfold aheadB at h
    simp only [Bool.and_eq_true, Bool.not_eq_true', decide_eq_true_eq] at h
    obtain ⟨⟨⟨⟨⟨⟨⟨⟨⟨⟨⟨⟨⟨⟨h1, h2⟩, h3⟩, h4⟩, h5⟩, h6⟩, h7⟩, h8⟩, h9⟩, h10⟩, h11⟩, h12⟩, h13⟩, h14⟩, h15⟩ := h
    exact ⟨q, _, ⟨h1, hq, h2, h3, h4, h5, h6, h7, h8, h9, h10, h11, h12, h13, rfl, h14⟩, h15⟩
  · cases h
def triBins (s : State) (q : Placed) (body : List Byte) : Bool :=
  binOverflow (rasHeadOf s q) ((((List.range (leAt body 0 4)).map fun k =>
    triPieces (rasHeadOf s q) q.inst.ras.state body (q.inst.ras.count + k) k).flatten).reverse ++ q.inst.ras.prims)
def rectBins (s : State) (q : Placed) (body : List Byte) : Bool :=
  binOverflow (rasHeadOf s q) ((((List.range (leAt body 0 4)).map fun k =>
    rectPrim (rasHeadOf s q) q.inst.ras.state body (q.inst.ras.count + k) k)).reverse ++ q.inst.ras.prims)
theorem w_raster_packets :
    (∃ q b, PacketAhead (drawing 65536 0) ref 1 32 q b ∧ true = true) ∧
    (∃ q b, PacketAhead (drawing 65536 32) ref 2 160 q b ∧ (!triBins (drawing 65536 32) q b) = true) ∧
    (∃ q b, PacketAhead (drawing 64 32) ref 2 160 q b ∧ triBins (drawing 64 32) q b = true) ∧
    (∃ q b, PacketAhead (drawing 65536 192) ref 3 64 q b ∧ (!rectBins (drawing 65536 192) q b) = true) ∧
    (∃ q b, PacketAhead (drawing 65536 264) ref 4 8 q b ∧ true = true) ∧
    (∃ q b, PacketAhead (drawing 65536 256) ref 5 8 q b ∧ true = true) ∧
    (∃ q b, PacketAhead (drawing 65536 264) ref 4 8 q b ∧ (!binOverflow (rasHeadOf (drawing 65536 264) q) q.inst.ras.prims) = true) ∧
    (∃ q b, PacketAhead (drawing 8 264) ref 4 8 q b ∧ binOverflow (rasHeadOf (drawing 8 264) q) q.inst.ras.prims = true) :=
  ⟨stands (P := fun _ _ => true) (by decide +kernel), stands (P := fun q b => !triBins _ q b) (by decide +kernel),
    stands (P := fun q b => triBins _ q b) (by decide +kernel), stands (P := fun q b => !rectBins _ q b) (by decide +kernel),
    stands (P := fun _ _ => true) (by decide +kernel), stands (P := fun _ _ => true) (by decide +kernel),
    stands (P := fun q _ => !binOverflow (rasHeadOf _ q) q.inst.ras.prims) (by decide +kernel),
    stands (P := fun q _ => binOverflow (rasHeadOf _ q) q.inst.ras.prims) (by decide +kernel)⟩
theorem test_raster_front_end :
    ((findInst (after (.dlTriangles ref) (drawing 65536 32)) ref).map fun q =>
      (q.inst.ras.pos, q.inst.ras.count, q.inst.ras.prims.map fun p => p.verts.map fun v => (v.x, v.y))) =
      some (192, 1, [[(0, 16384), (16384, 16384), (8192, 0)]]) ∧
    ((findInst (after (.dlEnd ref) (drawing 65536 264)) ref).map fun q => (q.inst.ras.pos, q.inst.ras.ended)) =
      some (272, true) ∧
    ((findInst (after (.dlEnd ref) (drawing 8 264)) ref).map fun q => q.inst.ras.ended) = some false := by decide +kernel

/-! ## Halos and vision -/

/-- A 3 x 3 window over 8 x 8 with padding 1, in two stripes (R260, R287). -/
def winProgram0 (producer : Nat) : List Byte :=
  le4 0 ++ [0, 0, 0, 0x11, 3, 3, 1, 1, 1, 1, 0, 0] ++ le4 1 ++ le4 1 ++ le2 8 ++ le2 8 ++ le2 1 ++ le2 1 ++ le2 1 ++ le2 1 ++
  zeros 16 ++ zeros 4 ++ zeros 8 ++ zeros 8 ++ zeros 16 ++ zeros 32 ++ le2 4 ++ zeros 14 ++
  le2 producer ++ [1, 0] ++ le4 0x1000 ++ le4 0x2000 ++ le4 64 ++ zeros 16
def striped (program : Nat) : CmdRec := ⟨3, [], 2, program, 168, 0, [⟨0x10000, 0x1000, 1, 0x1000, true, true⟩], [⟨0, 0x100000⟩]⟩
def cref : CmdRef := ⟨1, 1, 0⟩
def sentOut : Inst := { phase := .finished, core := 4 }
/-- Command 0 feeds command 1; instance 0 of the consumer stands on core 3 with a stream h from below. -/
def twoOf (a b : Cmd) : Step := { stepOf a with cmds := [a, b] }
def halos (p : Phase) (h : Halo) (s : State) : State :=
  let a : Cmd := { spec := striped 0x10000, insts := [{ phase := .finished, core := 3 }, { sentOut with phase := p, win := { rows := 4 } }], checked := true }
  let b : Cmd := { spec := striped 0x10200, insts := [{ runs with below := h, win := { rows := 2 } }, { runs with core := 4 }], checked := true }
  let u : State := { s with sched := { s.sched with loops := [(1, loopOf 0 [twoOf a b])] } }
  storeBytes (storeBytes u 0 0x10000 (winProgram0 0xFFFF)) 0 0x10200 (winProgram0 0)
def haloB (s : State) (P : HaloCtx → Bool) : Bool := match haloCtx s cref .below with | some x => P x | none => false
def hCredit : State := halos .running { credits := 1 } mem0
def hNone : State := halos .running {} mem0
def hFull : State := padWrite hNone 3 0x2000 (le4 1 ++ le4 4 ++ [1] ++ zeros 55)
theorem w_halo_streams :
    haloB (pumpSender hCredit cref .below) (fun x => rowDrained x (haloOf x.q.inst .below).sent && isRun x.from_.inst &&
      decide ((haloOf x.q.inst .below).sent < x.rows.1) && decide (0 < (haloOf x.q.inst .below).credits)) = true ∧
    haloB (pumpSender hNone cref .below) (fun x => rowDrained x (haloOf x.q.inst .below).sent &&
      decide ((haloOf x.q.inst .below).sent < x.rows.1) && decide ((haloOf x.q.inst .below).credits = 0)) = true ∧
    haloB (pumpRun hFull cref) (fun x => decide ((haloOf x.q.inst .below).taken < x.rows.1) && ringFree x.q x.h x.rows.2 &&
      decide (leNat (padRead hFull x.q.inst.core (slotAddr x .below 1 + 8) 1) = 1) &&
      decide (leNat (padRead hFull x.q.inst.core (slotAddr x .below 1) 4) = 1)) = true ∧
    haloB (pumpRun hNone cref) (fun x => decide ((haloOf x.q.inst .below).taken < x.rows.1) && ringFree x.q x.h x.rows.2 &&
      decide (leNat (padRead hNone x.q.inst.core (slotAddr x .below 1 + 8) 1) ≠ 1)) = true ∧
    haloB (halos .finished { sent := 1, taken := 1 } mem0) (fun x =>
      decide ((haloOf x.q.inst .below).credits + (haloOf x.q.inst .below).sent < (haloOf x.q.inst .below).taken + x.b.slots)) = true ∧
    haloB (halos .running { waitSlot := some 0 } mem0) (fun x =>
      decide ((haloOf x.q.inst .below).waitSlot = some 0) && onCore x.from_.inst) = true ∧
    haloB (halos .running { waitCredit := some 0 } mem0) (fun x =>
      decide ((haloOf x.q.inst .below).waitCredit = some 0) && isRun x.q.inst) = true ∧
    (isRunning hNone = true ∧ ∃ q, findInst hNone cref = some q ∧ isRun q.inst = true ∧
      (haloProducer hNone q.loop.tenant q.step q.ref.cmd).isSome = true) :=
  ⟨by decide +kernel, by decide +kernel, by decide +kernel, by decide +kernel, by decide +kernel, by decide +kernel,
    by decide +kernel, by decide +kernel, _, rfl, by decide +kernel⟩
/-- The row that instance 0 takes from below is row 4, and it goes out as the stream's first (R292). -/
theorem test_halo_row : padRead (after (.haloRowSend cref .below) hCredit) 3 0x2000 9 = [1, 0, 0, 0, 4, 0, 0, 0, 1] ∧
    haloB (after (.haloSlotRead cref .below) hFull) (fun x => decide ((haloOf x.q.inst .below).taken = 1)) = true ∧
    padRead (after (.haloSlotRead cref .below) hFull) 3 0x2008 1 = [0] := by decide +kernel
theorem test_reel_ecc : regW (after (.reelEccError cref true) hNone) aReelEcc = 1 := by decide +kernel

/-- A stereo command of 4 x 4 in one level that streams into command 1 (R366, R381). -/
def visProgram : List Byte :=
  le2 1 ++ [0, 1, 0, 1, 0, 1] ++ le2 4 ++ le2 4 ++ le2 2 ++ le2 0 ++ zeros 16 ++ le8 0x10800 ++ le4 64 ++ le4 0 ++
  le8 0x10900 ++ zeros 24 ++ le2 1 ++ [2, 0] ++ le4 0x4000 ++ zeros 8
def streaming (i : Inst) : State :=
  let sets : List Extent := [⟨0x10000, 0xA00, 1, 0xA00, true, false⟩, ⟨0x10A00, 0x100, 1, 0x100, false, true⟩]
  let a : Cmd := { spec := { spec 6 0x10000 with extents := sets }, insts := [i], checked := true }
  let b : Cmd := { spec := { spec 2 0x10000 with extents := [] }, insts := [{ runs with core := 5 }], checked := true }
  storeBytes { mem0 with sched := { mem0.sched with loops := [(1, loopOf 0 [twoOf a b])] } } 0 0x10000 visProgram
def vinst (w : Option Nat) : Inst := { phase := .running, slot := 1, strm := { wait := w } }
def streamB (s : State) (P : Placed → VisHead → Placed → Bool) : Bool :=
  match findInst s ref with
  | some q => isRunning s && isRun q.inst && decide (q.cmd.spec.engine = 6) &&
      (match consumerOf s q (visHeadOf s q.loop.tenant q.cmd.spec) with
        | some c => P q (visHeadOf s q.loop.tenant q.cmd.spec) c
        | none => false)
  | none => false
def vReady : State := streaming (vinst none)
def vBusy : State := padWrite vReady 5 0x4008 [1]
def vLate : State := padWrite (streaming (vinst (some 0))) 5 0x4008 [1]
theorem w_vision_streams :
    streamB vReady (fun q h c => decide ((bands h)[q.inst.strm.bands]? = some (0, 0, 4)) &&
      decide (leNat (padRead vReady c.inst.core (h.streamAddr + 8) 1) = 0) && decide (firstStop vReady q (sourceReads h) = none)) = true ∧
    streamB vBusy (fun q h c => decide ((bands h)[q.inst.strm.bands]? = some (0, 0, 4)) &&
      decide (leNat (padRead vBusy c.inst.core (h.streamAddr + 8) 1) ≠ 0)) = true ∧
    streamB vLate (fun q h c => decide (q.inst.strm.wait = some 0) && isRun c.inst &&
      decide (leNat (padRead vLate c.inst.core (h.streamAddr + q.inst.strm.bands % h.slots * slotBytes h + 8) 1) ≠ 0)) = true := by
  decide +kernel
theorem test_stream_waits : ((findInst (after (.streamBandWrite ref) vBusy) ref).map fun q => q.inst.strm.wait.isSome) = some true ∧
    ((findInst (after (.streamTimeout ref) vLate) ref).map fun q => isRun q.inst) = some false ∧
    ((findInst (after (.streamTimeout ref) (streaming (vinst (some 0)))) ref).map fun q => isRun q.inst) = some true := by
  decide +kernel

/-! ## Frame generation and Galliard -/

def fgStep (e : Option Nat) : Step := { stepOf { spec := spec 2 0x10000, insts := [{}] } with eligible := e, ready := some {} }
/-- Pipe 0 belongs to tenant 0 and its loop 1, and its frame generation is fg. -/
def framing (fg : FrameGen) (state : Nat) : State :=
  { mem0 with
    sched := { mem0.sched with loops := [(1, { loopOf 0 [fgStep none] with pipe := some 0 })] }
    disp := { pipes := [(0, { state := state, fg := fg, time := { next := none } })] }
    regs := [(0x20008, 1), (0x80004, 1), (0x80020, 0x10000), (0x80028, 0x20000), (0x80040, 0x100001)] }
def claim0 : Claim := ⟨1, 0, 0, {}, 0⟩
/-- A capture table of one entry: 256 x 256, one channel of one byte at 0x11000 (R318). -/
def capTable : List Byte :=
  le2 1 ++ [1, 0] ++ le2 256 ++ le2 256 ++ le4 0 ++ le4 0 ++ le8 0x30000 ++ le8 0 ++
  le8 0x11000 ++ le4 256 ++ le4 0 ++ le2 1 ++ [1, 0] ++ le2 0 ++ zeros 10
def capReads : List Extent := [⟨0x11000, 256, 256, 256, true, false⟩]
def capturing (t : List Byte) : State := framing { cap0 := .copying 0 3 2 t capReads } 2
theorem w_frame_generation :
    (isRunning (framing { bound := true, claims := [claim0] } 2) = true ∧
      ∃ l st r, getLoop (framing { bound := true, claims := [claim0] } 2)
        (lcLoop (framing { bound := true, claims := [claim0] } 2) (0 : Fin 8)) = some l ∧
      l.queue = st :: r ∧ (getFg (framing { bound := true, claims := [claim0] } 2) (0 : Fin 8)).bound = true ∧ st.ready.isSome = true ∧
      st.eligible = none ∧ st.failing = none ∧
      (getFg (framing { bound := true, claims := [claim0] } 2) (0 : Fin 8)).claims.find? (fun c => c.step = st.order ∧ c.sub = 0) =
        some claim0 ∧ frLe (frSub (frSub claim0.fmax (usNs claim0.lead)) (budgetNs (framing { bound := true, claims := [claim0] } 2)
          (0 : Fin 8))) (pipeNow (framing { bound := true, claims := [claim0] } 2) (0 : Fin 8)) = true) ∧
    (∃ l st r, getLoop (framing { bound := true } 1) (lcLoop (framing { bound := true } 1) (0 : Fin 8)) = some l ∧
      l.queue = st :: r ∧ st.ready.isSome = true ∧ st.eligible = none ∧ st.failing = none ∧
      (getFg (framing { bound := true } 1) (0 : Fin 8)).claims.find? (fun c => c.step = st.order ∧ c.sub = 0) = none) ∧
    (pipeHolder (capturing capTable) (0 : Fin 8) = some 0 ∧
      openCapture (getFg (capturing capTable) (0 : Fin 8)) = some (0, 0, 3, 2, capTable, capReads) ∧
      captureOk (capturing capTable) 0 (0 : Fin 8) capTable capReads = true) ∧
    (pipeHolder (capturing []) (0 : Fin 8) = some 0 ∧
      openCapture (getFg (capturing []) (0 : Fin 8)) = some (0, 0, 3, 2, [], capReads) ∧
      captureOk (capturing []) 0 (0 : Fin 8) [] capReads = false) ∧
    (isRunning (framing { publish := 1 } 2) = true ∧ (getFg (framing { publish := 1 } 2) (0 : Fin 8)).publish = 1 ∧
      (getFg (framing { publish := 1 } 2) (0 : Fin 8)).pubWait = []) ∧
    (pipeHolder (framing { publish := 2 } 2) (0 : Fin 8) = some 0 ∧ (getFg (framing { publish := 2 } 2) (0 : Fin 8)).publish = 2) :=
  ⟨⟨by decide +kernel, _, _, _, rfl, rfl, by decide +kernel⟩, ⟨_, _, _, rfl, rfl, by decide +kernel⟩,
    ⟨by decide +kernel, rfl, by decide +kernel⟩, ⟨by decide +kernel, rfl, by decide +kernel⟩, by decide +kernel, by decide +kernel⟩
theorem test_capture_and_publish :
    (getFg (after (.captureComplete 0) (capturing [])) 0).cap0 = .free ∧
    (getFg (after (.publishCopyDone 0) (framing { publish := 2 } 2)) 0).publish = 3 := by decide +kernel

def wr (l : List (Nat × Nat)) (s : State) : State := l.foldl (fun s x => setRegW s x.1 x.2) s
def cand : Cand := ⟨0x20000, 1, 4, {}, 0, 0⟩
def deciding (state : Nat) (c : List Cand) : State :=
  { up with disp := { pipes := [(0, { state := state, cands := c })] }, regs := [(0x20008, 1)] }
theorem w_galliard_decides :
    (isRunning (deciding 2 [cand]) = true ∧ (getPipe (deciding 2 [cand]) (0 : Fin 8)).state = 2 ∧
      (getPipe (deciding 2 [cand]) (0 : Fin 8)).decided = none ∧
      frLe (getPipe (deciding 2 [cand]) (0 : Fin 8)).time.deadline (pipeNow (deciding 2 [cand]) (0 : Fin 8)) = true ∧
      dueBuffer (getPipe (deciding 2 [cand]) (0 : Fin 8)) {} = some cand) ∧
    (isRunning (deciding 1 []) = true ∧ (getPipe (deciding 1 []) (0 : Fin 8)).state ≠ 2) ∧
    (dueBuffer (getPipe (deciding 2 []) (0 : Fin 8)) {} = none ∧ bit (regW (deciding 2 []) (aGal (0 : Fin 8) 0)) 31 = false) := by
  decide +kernel
/-- Galliard is on and has no anchor: it holds (R354). -/
def holds : State := wr [(aGal 0 0, 0x80000800)] (deciding 2 [])
theorem w_galliard_holds : (getPipe holds (0 : Fin 8)).fg.bound = false ∧
    nextClaim (getPipe holds (0 : Fin 8)).fg.claims = none ∧
    dueBuffer (getPipe holds (0 : Fin 8)) (frMin (getPipe holds (0 : Fin 8)).time.deadline {}) = none ∧
    bit (regW holds (aGal (0 : Fin 8) 0)) 31 = true ∧ suppressed holds (0 : Fin 8) = false ∧ holdReason holds (0 : Fin 8) = some 1 := by
  decide +kernel
theorem test_galliard_decides :
    (getPipe (after (.galliardDecision 0) (deciding 2 [cand])) 0).decided = some (.show 0x20000 4) ∧
    (getGal (after (.galliardDecision 0) (deciding 2 [cand])) 0).anchor = some 0x20000 ∧
    (getPipe (after (.galliardDecision 0) (deciding 2 [])) 0).decided = some .repeat_ ∧
    (getPipe (after (.galliardDecision 0) holds) 0).decided = some (.hold 1) := by decide +kernel
/-! ## Sensors -/

def late (s : State) : State := { s with now := 10 ^ 15 }
/-- Receiver 0 and context 0 on its virtual channel 0, data type 0x2A. -/
def csi (x : Receiver) (c : Context) : State :=
  { wr [(aCtx 0 0, 0x4000002A), (aCsi 0 0, 0x80000000)] (late up) with
    sens := { rx := [(0, x)], ctx := [(0, { c with func := {} })] } }
def csi2 : State := csi { state := 2, frames := [(0, { number := 7, start := 0 })], sources := [⟨0, 0x2A, 4, 4, 0⟩] } {}
theorem w_csi_packets :
    (isRunning csi2 = true ∧ rxOn csi2 (0 : Fin 12) = true ∧ 2 ≤ (getRx csi2 (0 : Fin 12)).state) ∧
    pixelBits (0x3F : BitVec 6).toNat = none ∧ (pixelBits (0x2A : BitVec 6).toNat).isSome = true ∧
    (∃ f, frameOf (modRx csi2 0 fun x => { x with state := 3, lastPacket := csi2.now }) 0 0 = some f ∧ f.types = []) ∧
    (∃ f, frameOf (countRx (modRx csi2 0 fun x => { x with state := 3, lastPacket := csi2.now }) 0 8) 0 0 = some f) ∧
    frameOf (modRx csi2 0 fun x => { x with state := 3, lastPacket := csi2.now }) 0 3 = none ∧
    4 ≤ (4 : BitVec 4).toNat ∧ (3 : BitVec 4).toNat < 4 ∧ ignoredType (0x0F : BitVec 6).toNat = true :=
  ⟨by decide +kernel, by decide, by decide, ⟨_, rfl, rfl⟩, ⟨_, rfl⟩, by decide +kernel, by decide⟩
/-- With a corrected header the receiver counts it and goes on from there. -/
def corrected (f : State → State) : State := f (countRx (modRx csi2 0 fun x => { x with state := 3, lastPacket := csi2.now }) 0 24)
theorem w_csi_corrected : CsiHeader.corrected ≠ .uncorrectable ∧ CsiHeader.good ≠ .uncorrectable ∧
    (∃ f, frameOf (corrected fun w => markFixed w 0 0 true) 0 0 = some f ∧ f.fixed = true ∧ f.types = []) ∧
    (∃ f, frameOf (countRx (corrected fun w => markFixed w 0 0 true) 0 8) 0 0 = some f) ∧
    (∃ f, frameOf (corrected id) 0 0 = some f) ∧ frameOf (corrected id) 0 3 = none ∧
    frameOf (markFixed (modRx csi2 0 fun x => { x with state := 3, lastPacket := csi2.now }) 0 0 false) 0 0 =
      some { number := 7, start := 0 } :=
  ⟨by decide, by decide, ⟨_, rfl, rfl, rfl⟩, ⟨_, rfl⟩, ⟨_, rfl⟩, by decide +kernel, by decide +kernel⟩
/-- A corrected header of an ignored packet marks the frame (R400). -/
theorem test_csi_corrected : ((frameOf (after (.csiIgnoredPacket 0 0 0x0F .corrected) csi2) 0 0).map fun f => f.fixed) = some true := by
  decide +kernel
theorem test_csi_counts : (getRx (after (.csiLongPacket 0 0 0x3F .good 4 true []) csi2) 0).errors = 1 ∧
    (getRx (after (.csiFrameStart 0 0 7 .uncorrectable) csi2) 0).errors = 0x10000 ∧
    ((frameOf (after (.csiFrameStart 0 0 9 .good) csi2) 0 0).map fun f => f.number) = some 9 := by decide +kernel

def recNow : Record := ⟨1, 0, 0, 0, 0, 0, 0, 4, 4, 16, 64, [], 0, false, 4⟩
def tdm (x : TdmPort) : State := { wr [(aTdm 0 0, 0x80000001)] (late up) with sens := { tdm := [(0, x)] } }
theorem w_sensor_ports :
    (isRunning (csi {} { current := some recNow }) = true ∧
      (getCtx (csi {} { current := some recNow }) (0 : Fin 48)).current = some recNow ∧
      ctxKind (csi {} { current := some recNow }) (0 : Fin 48) = 1 ∧
      recNow.opened + frameTicks (csi {} { current := some recNow }) ≤ (csi {} { current := some recNow }).now) ∧
    (mayCarry csi2 (0 : Fin 12) (0 : Fin 4) = false ∧ (getRx csi2 (0 : Fin 12)).sources.find? (fun q => q.vc = (0 : Fin 4).val && q.dataType = (0x2A : BitVec 6).toNat) =
      some ⟨0, 0x2A, 4, 4, 0⟩ ∧ 0 + lostTicks csi2 ≤ csi2.now) ∧
    (rxOn (csi { state := 1 } {}) (0 : Fin 12) = true ∧ bit (csi { state := 1 } {}).chip.clk 6 = true ∧
      (getRx (csi { state := 1 } {}) (0 : Fin 12)).state < 2) ∧
    ((getRx (csi { state := 3 } {}) (0 : Fin 12)).state = 3 ∧
      (getRx (csi { state := 3 } {}) (0 : Fin 12)).lastPacket + lostTicks (csi { state := 3 } {}) ≤ (csi { state := 3 } {}).now) ∧
    (isRunning (tdm { state := 3 }) = true ∧ tdmOn (tdm { state := 3 }) (0 : Fin 6) = true ∧
      (getTdm (tdm { state := 3 }) (0 : Fin 6)).state = 3 ∧ 32 = portBits (tdm { state := 3 }) (0 : Fin 6) ∧
      31 ≠ portBits (tdm { state := 3 }) (0 : Fin 6) ∧ twoPeriods (tdm { state := 3, hz := 48000 }) (0 : Fin 6) = true) ∧
    ((getTdm (tdm { state := 2, run := 3 }) (0 : Fin 6)).state = 2 ∧ 4 ≤ (getTdm (tdm { state := 2, run := 3 }) (0 : Fin 6)).run + 1 ∧
      32 = portBits (tdm { state := 2, run := 3 }) (0 : Fin 6)) ∧
    ((getTdm (tdm { state := 2, run := 2 }) (0 : Fin 6)).run + 1 < 4 ∧ twoPeriods (tdm { state := 2, run := 2 }) (0 : Fin 6) = true) ∧
    (getTdm (tdm { state := 1 }) (0 : Fin 6)).state = 1 := by decide +kernel
theorem test_tdm_locks : (getTdm (after (.tdmFrame 0 32 [] 48000) (tdm { state := 2, run := 3 })) 0).state = 3 ∧
    (getTdm (after (.tdmFrame 0 31 [] 48000) (tdm { state := 3 })) 0).state = 2 ∧
    (getRx (after (.noPacketsTimeout 0) (csi { state := 3 } {})) 0).state = 2 := by decide +kernel

def feeding (c : Context) : State :=
  { wr [(aTen 0 0x0C, 1), (aCtx 0 0, 0xC0000000), (aCtx 0 8, 0x100000), (aCtx 0 0x10, 0x02000001)] mem0 with
    sens := { ctx := [(0, { c with func := {} })] } }
def feed1 : SnsFeedArgs := ⟨0, 1, 0, 1, 5, 0, 4, 4, 0, [1, 2]⟩
def feed2 : SnsFeedArgs := ⟨0, 2, 0, 1, 5, 16, 4, 4, 0, [1, 2]⟩
theorem w_sensor_requests :
    (Served (feeding {}) (.snsFeed rq feed1) opSnsFeed rq (ses 0) ∧ firstFault (feedChecks (feeding {}) 0 feed1) = none ∧
      slotUsable (feeding {}) 0 0 (getCtx (feeding {}) 0).nextSlot = true ∧
      ∃ r, (getCtx (feedOpen (feeding {}) 0 feed1) 0).current = some r ∧ r.bytes + 2 ≤ slotRoom (feedOpen (feeding {}) 0 feed1) 0) ∧
    (Served (feeding { current := some recNow }) (.snsFeed rq feed2) opSnsFeed rq (ses 0) ∧
      firstFault (feedChecks (feeding { current := some recNow }) 0 feed2) = none ∧
      continues (getCtx (feeding { current := some recNow }) 0) feed2 = true ∧
      (getCtx (feeding { current := some recNow }) 0).current = some recNow ∧
      recNow.bytes + 2 ≤ slotRoom (feeding { current := some recNow }) 0) ∧
    Served (on 0) (.snsScan rq) opSnsScan rq (ses 0) :=
  ⟨⟨served (by decide +kernel), by decide +kernel, by decide +kernel, _, rfl, by decide +kernel⟩,
    ⟨served (by decide +kernel), by decide +kernel⟩, served (by decide +kernel)⟩
theorem test_feed_writes : lastMsg (after (.snsFeed rq feed2) (feeding { current := some recNow })) = some (opSnsFeed, stOk, 0, []) ∧
    hbmRead (after (.snsFeed rq feed2) (feeding { current := some recNow })) 0 0x100000 6 = [1, 0, 0, 0, 1, 3] := by decide +kernel

/-! ## Data decode -/

def openArgs : DecOpenArgs := ⟨0, 8, 0, 0, 2, 0, 0, 0x100000, 1, 1, 0x110000, 0x140000, 0, 1, 1, 0, 0, 0⟩
def stream0 : Stream := { tenant := 0, args := openArgs }
/-- A PNG of one grey pixel of value 0x55, in one stored block. -/
def png1 : List Byte := [137, 80, 78, 71, 13, 10, 26, 10, 0, 0, 0, 13, 73, 72, 68, 82, 0, 0, 0, 1, 0, 0, 0, 1,
  8, 0, 0, 0, 0, 58, 126, 155, 85, 0, 0, 0, 13, 73, 68, 65, 84, 120, 1, 1, 2, 0, 253, 255,
  0, 85, 0, 87, 0, 86, 17, 142, 101, 101, 0, 0, 0, 0, 73, 69, 78, 68, 174, 66, 96, 130]
def rec0 (body : List Byte) (good : Bool) : DecRecord :=
  { seq := 1, codec := 2, hasAug := false, payload := body.length, sample := 0, tag := 0
    body := if good then crc32c body else crc32c body + 1
    start := 0, length := 64 + body.length, missing := 0 }
def decoding (x : Stream) (l : List Lane) (bytes : List Byte) : State :=
  storeBytes { mem0 with dec := { streams := [(0, x)], lanes := l.zipIdx.map fun p => (p.2, p.1) } } 0 0x100000 (zeros 64 ++ bytes)
def withRec (r : DecRecord) : Stream := { stream0 with pushed := 1000, records := [r] }
def inFlight (b : List Byte) : State :=
  decoding (withRec { rec0 b true with dispatched := true, lane := some 0 }) [{ job := some (0, 0) }] b
def ready (good : Bool) : State := decoding (withRec { rec0 png1 good with dispatched := true }) [{}] png1
theorem w_decode_requests :
    (Served mem0 (.decOpen rq openArgs) opDecOpen rq (ses 0) ∧ openArgs.reserved0 = 0 ∧ openArgs.reserved1 = 0 ∧
      decFieldsOk openArgs = true ∧ decRegionsOk mem0 0 stream0 = true ∧ freeStream mem0 = some 0) ∧
    (Served (decoding stream0 [] []) (.decPush rq ⟨0, 0, 0, 64, 0⟩) opDecPush rq (ses 0) ∧
      isStreamOf (decoding stream0 [] []) 0 (0 : Byte).toNat = some stream0 ∧ stream0.endPushed = false ∧
      stream0.pushed - stream0.consumed + (65536 : Word).toNat ≤ ringBytes stream0) ∧
    (Served (decoding stream0 [] []) (.decPush rq ⟨0, 1, 0, 0, 0⟩) opDecPush rq (ses 0) ∧
      asyncCount (decoding stream0 [] []) 0 rq.session.toNat < 4096) ∧
    Served (decoding stream0 [] []) (.decClose rq 0 0) opDecClose rq (ses 0) :=
  ⟨⟨served (by decide +kernel), by decide +kernel⟩, ⟨served (by decide +kernel), by decide +kernel⟩,
    ⟨served (by decide +kernel), by decide +kernel⟩, served (by decide +kernel)⟩
theorem w_decode_lanes :
    (getStream (decoding (withRec (rec0 png1 true)) [] png1) (0 : Fin 64) = some (withRec (rec0 png1 true)) ∧
      (withRec (rec0 png1 true)).records[0]? = some (rec0 png1 true) ∧ (withRec (rec0 png1 true)).state ≠ 5 ∧
      (withRec (rec0 png1 true)).records.findIdx? (fun r => !r.dispatched) = some 0 ∧
      mayDispatch (decoding (withRec (rec0 png1 true)) [] png1) (withRec (rec0 png1 true)) 0 (rec0 png1 true) = true) ∧
    (∀ g ∈ [true, false], (getLane (ready g) (0 : Fin 8)).job = none ∧ (getLane (ready g) (0 : Fin 8)).func.phase = .enabled ∧
      pickStream (ready g) = some (0, 0) ∧
      (ringPieces (withRec { rec0 png1 g with dispatched := true }) 0 (64 + png1.length)).findSome? (fun p => badLineIn (ready g) 0 p.1 p.2) = none ∧ (waitingRecord (withRec { rec0 png1 g with dispatched := true })).isSome = true ∧
      (claimFault (ready g) (withRec { rec0 png1 g with dispatched := true }) (rec0 png1 g) (zeros 64 ++ png1) (claimsOf 2 png1)).isNone = g) ∧
    (laneRecord (inFlight png1) (0 : Fin 8)).isSome = true ∧ (pngDecode png1).isSome = true ∧ pngDecode [0x89] = none := by
  decide +kernel
theorem test_png : (pngDecode png1).map (fun m => (m.width, m.height, m.channels)) = some (1, 1, 1) ∧
    hbmRead (after (.decodeFinish 0) (inFlight png1)) 0 0x110040 2 = [0x55, 0] ∧
    (getLane (after (.decodeFinish 0) (inFlight png1)) 0).job = none := by decide +kernel
/-! ## Display -/

/-- Pipe 0 sends on DSI unit 0 (transmitter 4) in tearing-effect mode, 4 x 2 pixels. -/
def showing (p : Pipe) (x : Transmitter) : State :=
  { wr [(aPipe 0 0, 0x80), (aPipe 0 8, 0x1000), (aPipe 0 0xC, 1000), (aPipe 0 0x10, 0x00080004), (aPipe 0 0x18, 0x00040002),
      (aPipe 0 0x4C, 1), (0x20008, 1)] mem0 with
    disp := { pipes := [(0, p)], txs := [(4, x)] } }
def at0 (f : Frac) : Pipe := { state := 3, time := { next := some f } }
def noNext : Pipe := { state := 3 }
def blank : Pipe := { state := 1, carried := true }
theorem w_display_pipes :
    (isRunning (showing (at0 {}) {}) = true ∧ pipeOn (showing (at0 {}) {}) (0 : Fin 8) = true ∧
      nextStart (showing (at0 {}) {}) (0 : Fin 8) = some {} ∧ frLe {} (pipeNow (showing (at0 {}) {}) (0 : Fin 8)) = true) ∧
    (nextStart (showing (at0 ⟨1, 1⟩) {}) (0 : Fin 8) = some ⟨1, 1⟩ ∧
      frLe ⟨1, 1⟩ (pipeNow (showing (at0 ⟨1, 1⟩) {}) (0 : Fin 8)) = false) ∧
    (tePipe (showing noNext {}) (0 : Fin 2) = some 0 ∧ true ≠ bit (regW (showing noNext {}) (aPipe 0 0x2C)) 0 ∧
      teAccepted (showing noNext {}) 0 (pipeNow (showing noNext {}) 0) = true ∧
      (getTx (showing noNext {}) (4 + (0 : Fin 2))).teLost = false ∧ (getPipe (showing noNext {}) 0).state ≠ 2) ∧
    (let s := showing { noNext with time := { last := ⟨-1000000000, 1⟩ } } {}
     let x := getPipe s (0 : Fin 8)
     syncMode s (0 : Fin 8) = 2 ∧ x.time.next = none ∧ (getTx s (pipeTx s (0 : Fin 8))).teLost = false ∧
      frLe (frAdd (x.time.teEdges.headD x.time.last)
        (fr ((timing s (0 : Fin 8)).period.num * 3) ((timing s (0 : Fin 8)).period.den * 2))) (pipeNow s (0 : Fin 8)) = true) ∧
    (let s := showing blank {}
     (getPipe s (0 : Fin 8)).line < (timing s (0 : Fin 8)).vactive ∧ regW s (aPipe (0 : Fin 8) 0x4C) ≠ 0 ∧
      frLt (pipeNow s (0 : Fin 8)) (frAdd (getPipe s (0 : Fin 8)).time.last
        (frScale (timing s (0 : Fin 8)).line (getPipe s (0 : Fin 8)).line)) = false ∧
      (composeLine s (0 : Fin 8) (getPipe s (0 : Fin 8)).line []).2 = [] ∧ (getPipe s (0 : Fin 8)).carried = true) := by
  decide +kernel
/-- With DSC the line leaves as compressed bytes, without it as pixels (R447). -/
theorem w_dsc : bit (regW (showing blank {}) (aPipe 0 8)) 0 = false ∧
    bit (regW (wr [(aPipe 0 8, 0x1001)] (showing blank {})) (aPipe 0 8)) 0 = true ∧
    (match (after (.lineStart 0 []) (wr [(aPipe 0 8, 0x1001)] (showing blank {}))).sent with
      | [.dscLine 0 0 _ _] => true | _ => false) = true ∧
    (match (after (.lineStart 0 []) (showing blank {})).sent with | [.line 0 0 _ l] => l.length | _ => 0) = 4 := by decide +kernel
theorem test_te_lost : regW (after (.teTimeout 0) (showing { noNext with time := { last := ⟨-1000000000, 1⟩ } } {})) (aPipe 0 0x50) = 16 ∧
    (getTx (after (.teTimeout 0) (showing { noNext with time := { last := ⟨-1000000000, 1⟩ } } {})) 4).teLost = true := by
  decide +kernel

def caps : SinkCaps := ⟨3, 2, false, false, false, 128, []⟩
def dpLink (x : Transmitter) : State :=
  { wr [(aTx 0 0, 0x80000023), (aPipe 0 8, 0), (0x20008, 1)] mem0 with disp := { txs := [(0, x)], pipes := [(0, { state := 1 })] } }
theorem w_display_links :
    (isRunning (dpLink {}) = true ∧ (getTx (dpLink { hpd := true }) (0 : Fin 4)).hpd = true ∧
      (getTx (dpLink { hpd := true, trained := some (0, 0) }) (0 : Fin 4)).trained.isSome = true) ∧
    (getTx (dpLink { training := true, sink := some caps }) (0 : Fin 4)).training = true ∧
    bit (dpLink {}).chip.clk 4 = true ∧
    resultPossible (dpLink { training := true, sink := some caps }) (0 : Fin 4) (3 : Fin 4) (2 : Fin 3) = true ∧
    resultPossible (dpLink { training := true, sink := some { caps with maxRate := 2 } }) (0 : Fin 4) (3 : Fin 4) (2 : Fin 3) =
      false := by decide +kernel
theorem test_training : (getTx (after (.linkTrainingDone 0 (.trained 3 2)) (dpLink { training := true, sink := some caps })) 0).trained =
      some (3, 2) ∧ (getTx (after (.hpdChange 0 none) (dpLink { hpd := true, trained := some (0, 0) })) 0).trained = none := by
  decide +kernel

def auxRead : DspAuxArgs := ⟨0, 0, 16, 0xFFFFF, []⟩
def dcs : DsiCmdArgs := ⟨0, 0x15, 2, 0, 0, [1, 2]⟩
def fallback0 : FallbackArgs := ⟨0, 0, 0, 0, 0, 0, 0, 0, 0⟩
def waitsAux (hpd : Bool) : State :=
  { dpLink { hpd := hpd, aux := [(0, ⟨1, opDspAux, 5⟩, auxRead)] } with
    tenants := [(0, { state := .active, session := some 1, lastAuth := some 0, async := [⟨1, opDspAux, 5⟩] })] }
def waitsDsi (d : Option Nat) : State :=
  { mem0 with disp := { txs := [(4, { dsi := [(0, ⟨1, opDspDsiCmd, 5⟩, dcs, d)] })] } }
def storingOne (g : Bool) : State :=
  { up with disp := { pipes := [(0, { storing := [(0, ⟨1, opDspFallbackSet, 5⟩, g, none)] })] } }
/-- The same with the reference of the display's transmitters lost or there. -/
def refs (k : Nat) (s : State) : State := { s with chip := { s.chip with clk := k } }
theorem w_references : (∀ h ∈ [true, false], bit (refs 0x1FF (waitsAux h)).chip.clk 4 = true ∧ bit (refs 0x1EF (waitsAux h)).chip.clk 4 = false ∧
      isRunning (refs 0x1EF (waitsAux h)) = true) ∧
    bit (waitsDsi none).chip.clk 5 = true ∧ bit (refs 0x1DF (waitsDsi none)).chip.clk 5 = false ∧
    (liveOn (refs 0x1DF (waitsDsi none)) (4 + (0 : Fin 2))).all (inVblank (refs 0x1DF (waitsDsi none))) = true := by decide +kernel
/-- A lost reference holds a transfer and a command back (R45); an image with a spoilt line is not stored (R155, R465). -/
theorem test_references : after (.auxDone 0 .noAcknowledge) (refs 0x1EF (waitsAux true)) = refs 0x1EF (waitsAux true) ∧
    after (.dsiCmdSend 0 (.acknowledged [])) (refs 0x1DF (waitsDsi none)) = refs 0x1DF (waitsDsi none) ∧
    (lastMsg (after (.fallbackCopyDone 0) { storingOne false with
      link := { sessions := [(1, ses 0)] }
      tenants := [(0, { state := .active, session := some 1, async := [⟨1, opDspFallbackSet, 5⟩] })] })).map (fun m => (m.2.1, m.2.2.1)) =
      some (stEccUncorrectable, dtEccHbm) := by decide +kernel
theorem w_display_requests :
    Served (on 0) (.dspScan rq) opDspScan rq (ses 0) ∧
    (Served mem0 (.dspAux rq auxRead) opDspAux rq (ses 0) ∧ auxFieldsOk auxRead = true ∧
      mayUseTx mem0 0 auxRead.unit.toNat = true ∧ asyncCount mem0 0 rq.session.toNat < 4096) ∧
    (Served mem0 (.dspDsiCmd rq dcs) opDspDsiCmd rq (ses 0) ∧ dcs.reserved = 0 ∧ dsiFieldsOk dcs = true ∧
      mayUseTx mem0 0 (4 + dcs.unit.toNat) = true) ∧
    (Served (dpLink {}) (.dspFallbackSet rq fallback0) opDspFallbackSet rq (ses 0) ∧
      firstFault (fallbackChecks (dpLink {}) 0 fallback0) = none ∧ asyncCount (dpLink {}) 0 rq.session.toNat < 4096) ∧
    (∀ h ∈ [true, false], isRunning (waitsAux h) = true ∧ (getTx (waitsAux h) (0 : Fin 4)).training = false ∧
      (getTx (waitsAux h) (0 : Fin 4)).aux = [(0, ⟨1, opDspAux, 5⟩, auxRead)] ∧ (getTx (waitsAux h) (0 : Fin 4)).hpd = h) ∧
    (∀ g ∈ [true, false], (getPipe (storingOne g) (0 : Fin 8)).storing = [(0, ⟨1, opDspFallbackSet, 5⟩, g, none)]) ∧
    (isRunning (waitsDsi (some 0)) = true ∧
      (getTx (waitsDsi (some 0)) (4 + (0 : Fin 2))).dsi = [(0, ⟨1, opDspDsiCmd, 5⟩, dcs, some 0)] ∧
      (liveOn (waitsDsi (some 0)) (4 + (0 : Fin 2))).all (inVblank (waitsDsi (some 0))) = true ∧ 0 ≤ (waitsDsi (some 0)).now) ∧
    ((getTx (waitsDsi none) (4 + (0 : Fin 2))).dsi = [(0, ⟨1, opDspDsiCmd, 5⟩, dcs, none)] ∧
      (liveOn (waitsDsi none) (4 + (0 : Fin 2))).all (inVblank (waitsDsi none)) = true) :=
  ⟨served (by decide +kernel), ⟨served (by decide +kernel), by decide +kernel⟩, ⟨served (by decide +kernel), by decide +kernel⟩,
    ⟨served (by decide +kernel), by decide +kernel⟩, by decide +kernel, by decide +kernel, by decide +kernel, by decide +kernel⟩
theorem test_aux_completes : (lastMsg (after (.auxDone 0 .noAcknowledge) (waitsAux true))).map (fun m => (m.1, m.2.1)) =
    some (opDspAux, stTimeout) := by decide +kernel
/-! ## Packets from hosts -/

def netUp (p : Port) (s : State) : State :=
  { wr [(aPort 0 0, 0x81000000), (aPort 0 0x10, 0x0A000002), (aPort 0 0x48, 0x80000000), (aTim 0 0xC, 0x80000000)] (late s) with
    net := { ports := [(0, { p with link := true })] } }
def net1 : State := hear rq (netUp {} (on 0))
theorem w_net_heard : hear rq net1 = net1 := by decide +kernel
def dgram (frag : Frag) (port : Half) : Datagram := ⟨fi, ep, port, frag, []⟩
/-- A stream filter for this frame, whose largest frame is 64 bytes (R492). -/
def blocking : Port := { filters := [(0, zeros 6 ++ [0xFF, 0xFF, 0xFF, 0, 0, 1] ++ le2 64 ++ zeros 2)] }
def cmdPort (s : State) : Half := BitVec.ofNat 16 (rField s aCmdPorts 15 0)
theorem w_datagrams : (isRunning net1 = true ∧ (getPort net1 fi.eth).link = true ∧ fi.length ≤ maxFrame ∧ maxFrame < 9217 ∧
    qci net1 fi.eth fi = (net1, some (frameClass fi)) ∧
    (cmdPort net1).toNat = rField (countClass net1 fi.eth (frameClass fi)) aCmdPorts 15 0 ∧
    (0 : Half).toNat ≠ rField (countClass net1 fi.eth (frameClass fi)) aCmdPorts 15 0) ∧
    (isRunning (netUp blocking (on 0)) = true ∧ qci (netUp blocking (on 0)) fi.eth fi = (netUp blocking (on 0), none)) ∧
    ((dgram .whole 0).bytes.length < 48 ∧ leAt ((zeros 48).take 32) 0 2 ≠ 0x4E44) ∧
    (leAt (zeros 32) 7 1 ≠ fgAckOnly ∧
      gcmOpen (bytes 32) (packetNonce 1 0 false false) (zeros 32) [] (zeros 16) = none) := by decide +kernel
theorem w_sequenced : getSes (on 0) 1 = some (ses 0) ∧
    (let d (w : Nat) := (w + 2 ^ 32 - (ses 0).rx.next % 2 ^ 32) % 2 ^ 32
     2 ^ 31 < d 0 ∧ (256 ≤ d 257 ∧ d 257 < 2 ^ 31) ∧ (0 < d 256 ∧ d 256 < 256) ∧ (0 < d 2 ∧ d 2 < 256)) := by decide +kernel
/-- An ECHO of the host of session 1 under tag 9, sealed under its key: the packet that the stream waits for (R56, R59). -/
def sealedEcho : Datagram :=
  { dgram .whole (cmdPort net1) with
    bytes := sealed (List.replicate 32 1) (packetNonce 1 1 false false) (wireHeader 3 0 opEcho 0 0 1 1 0 3 9 0 0) [1, 2, 3] }
def echo9 : Instr := .echo ⟨1, 9⟩ [1, 2, 3]
theorem w_datagram_runs :
    let v := countClass net1 fi.eth (frameClass fi)
    let hd := sealedEcho.bytes.take 32
    let r := received v sealedEcho 1 (ses 0)
    (sealedEcho.frag = .whole ∧ sealedEcho.dstPort.toNat = rField v aCmdPorts 15 0 ∧ sealedEcho.bytes.length = 48 + leAt hd 20 4 ∧
      leAt hd 0 2 = 0x4E44 ∧ leAt hd 8 4 = 1 ∧ getSes v 1 = some (ses 0) ∧ leAt hd 12 4 = (ses 0).rx.next % 2 ^ 32 ∧
      gcmOpen (ses 0).keyIn (packetNonce 1 (ses 0).rx.next false false) hd (sliceAt sealedEcho.bytes 32 (leAt hd 20 4))
        (sealedEcho.bytes.drop (32 + leAt hd 20 4)) = some [1, 2, 3]) ∧
    (leAt hd 2 1 = 3 ∧ leAt hd 6 1 = (ses 0).tenant ∧ leAt hd 7 1 = 0 ∧ leAt hd 28 2 = 0 ∧ leAt hd 30 2 = 0 ∧
      ackCovers (ses 0).tx.unacked (leAt hd 16 4) = 0 ∧ (ses 0).rx.buf = [] ∧ (ses 0).rx.unacked + 1 < 32 ∧ inLine (ses 0) = false) ∧
    requestOf (leAt hd 4 2) ⟨BitVec.ofNat 32 1, BitVec.ofNat 32 (leAt hd 24 4)⟩ [1, 2, 3] = some echo9 ∧
    (getSes r 1).map (fun x => requestFault r x (leAt hd 4 2) (leAt hd 24 4) [1, 2, 3]) = some none := by decide +kernel
/-- The packet's request runs, and its reply leaves under the session's other key, for the host's source (R77, R88). -/
theorem test_datagram_runs : lastMsg (after (.datagramReceive sealedEcho) net1) = some (opEcho, 0, 0, [1, 2, 3]) ∧
    after (.datagramReceive sealedEcho) net1 =
      after echo9 (received (countClass net1 fi.eth (frameClass fi)) sealedEcho 1 (ses 0)) ∧
    (match (after (.datagramReceive sealedEcho) net1).sent with
      | .packet 1 _ w :: _ => gcmOpen (ses 0).keyOut (packetNonce 1 1 true false) (w.bytes.take 32) (sliceAt w.bytes 32 3) (w.bytes.drop 35)
      | _ => none) = some [1, 2, 3] := by decide +kernel
theorem w_sequenced_free : (ses 0).closing = none ∧ PortFree (on 0) (ses 0).eth (ses 0).src.v6 :=
  by decide +kernel
theorem test_discards : regW (after (.datagramReceive (dgram .whole (cmdPort net1))) net1) aDiscFormat = 1 ∧
    regW (after (.datagramReceive (dgram .first (cmdPort net1))) net1) aDiscFormat = 1 ∧
    regW (after (.datagramReceive (dgram .whole (cmdPort net1))) (netUp blocking (on 0))) (aPort 0 0x50) = 1 := by decide +kernel

/-! ## Network and time -/

def arp1 : ArpPacket := ⟨true, 5, 0x0A000001, 0x0A000002⟩
def arpIn : Instr := .arpRequest 0 (.packet fi arp1)
/-- Port 1 is enabled and has no link yet. -/
def port1 : State := wr [(aPort 1 0, 0x80000000)] up
def gcl1 (apply : Byte) : GclWriteArgs := ⟨0, apply, 255, 1, 256, 0, 1000, 0, [⟨1000, 0xFF, 0⟩]⟩
def table1 (t : Byte) : StreamTableArgs := ⟨0, t, 15, 0, zeros 16⟩
theorem w_network_ports :
    (isRunning port1 = true ∧ portOn port1 (1 : Fin 4) = true ∧ (getPort port1 (1 : Fin 4)).link = false ∧
      bit port1.chip.clk 7 = true ∧ bootPending port1 = false) ∧
    ((getPort net1 (0 : Fin 4)).link = true ∧ (getPort net1 (0 : Fin 4)).conflict = false ∧ arp1.request = true ∧
      arp1.targetIp.toNat = portIp4 net1 (0 : Fin 4) ∧ arp1.senderIp.toNat ≠ portIp4 net1 (0 : Fin 4)) ∧
    ownAddress net1 (0 : Fin 4) false (0x0A000002 : BitVec 128).toNat = true ∧ bit (regW net1 (aPort (0 : Fin 4) 0x48)) 31 = true ∧
    ((getPort (netUp { switching := some (0, ⟨1, opNetGclWrite, 5⟩, 0) } up) (0 : Fin 4)).switching =
      some (0, ⟨1, opNetGclWrite, 5⟩, 0) ∧ 0 ≤ tbNs net1 (tsnBase net1 (0 : Fin 4))) ∧
    (let g : Port := { gclOn := true, gcl := ⟨[(400, 1), (600, 2)], 1000, 0⟩ }
     (getPort (netUp g up) (0 : Fin 4)).gclOn = true ∧ gclEntryEnd g.gcl 0 ≠ g.gcl.cycle ∧ gclEntryEnd g.gcl 1 = g.gcl.cycle) := by
  decide +kernel
def net6 : State := wr [(aPort 0 0, 0x81010000), (aPort 0 0x2C, 7)] net1
theorem w_neighbour : ∃ a : BitVec 128, ownIp6 net6 (0 : Fin 4) a.toNat = true :=
  ⟨7, by
    have h : decide (static6 net6 (0 : Fin 4) = some (7 : BitVec 128).toNat) = true := by decide +kernel
    simp only [ownIp6, h, Bool.or_true]⟩
def netFar (g : Port) : State := { netUp g up with net := { ports := [(0, { g with link := true })], bases := [(0, { t := ⟨10 ^ 15, 1⟩ })] } }
theorem w_gates : (netFar { gclOn := true, gcl := ⟨[(400, 1), (600, 2)], 1000, 0⟩ } |> fun s =>
    decide ((getPort s (0 : Fin 4)).gclStart + 1000 ≤ tbNs s (tsnBase s (0 : Fin 4)))) = true := by decide +kernel
/-- A gate list whose first entry closes every gate holds what the port would send (R489). -/
def shut : State := netUp { gclOn := true, gcl := ⟨[(400, 0), (600, 0xFF)], 1000, 0⟩ } up
theorem w_gate_shut : (∃ c n, ethFrame shut (.mldReport 0 false) = some (0, c, n) ∧ bit (openGates shut 0) c = false) ∧
    muted shut (.mldReport 0 false) = false ∧ paced shut 0 = true := ⟨⟨_, _, rfl, by decide +kernel⟩, by decide +kernel⟩
/-- A reply waits at the closed gate, and leaves when the interval ends. -/
theorem test_gate_holds : (after arpIn shut).sent = [] ∧ (getEgress (after arpIn shut) 0).queue.length = 1 ∧
    (after (.gateIntervalEnd 0) { after arpIn shut with
      net := { ports := (after arpIn shut).net.ports, bases := [(0, { t := ⟨500, 1⟩ })] } }).sent.length = 1 := by
  decide +kernel
theorem w_network_requests :
    (Served net1 (.netGclWrite rq (gcl1 0)) opNetGclWrite rq (ses 0) ∧ gclForm (gcl1 0) = true) ∧
    (Served net1 (.netGclWrite rq (gcl1 1)) opNetGclWrite rq (ses 0) ∧ gclForm (gcl1 1) = true ∧
      asyncCount net1 0 rq.session.toNat < 4096) ∧
    (Served net1 (.netGclWrite rq (gcl1 2)) opNetGclWrite rq (ses 0) ∧ gclForm (gcl1 2) = true) ∧
    (Served net1 (.netStreamTable rq (table1 1)) opNetStreamTable rq (ses 0) ∧ tableForm (table1 1) = true) ∧
    Served net1 (.timeRead rq) opTimeRead rq (ses 0) :=
  ⟨⟨served (by decide +kernel), by decide +kernel⟩, ⟨served (by decide +kernel), by decide +kernel⟩,
    ⟨served (by decide +kernel), by decide +kernel⟩, ⟨served (by decide +kernel), by decide +kernel⟩, served (by decide +kernel)⟩
theorem test_arp_answer : ((after arpIn net1).sent.head?.map fun x =>
    match x with | .arpReply p a => (p, a.request, a.targetIp) | _ => (9, true, 0)) = some (0, false, 0x0A000001) := by decide +kernel

def ann : AnnounceMsg := ⟨0, 246, 248, 0xFE, 0, 128, 77, 0, 88, 0⟩
def syncMsg (two : Bool) : SyncMsg := ⟨0, 88, 3, 0, two, 0, 0, 0⟩
def gptp (g : GptpPort) (state : Nat) : State :=
  { netUp {} up with net := { ports := [(0, { link := true, gptp := g })], bases := [(0, { state := state })] } }
def slaved : GptpPort := { role := 1, best := some ann, pending := some (syncMsg true), pdelaySent := some {}, pdelaySeq := 4 }
def mastered : GptpPort := { role := 2 }
theorem w_time_sync :
    (fromMaster (countGptp (gptp slaved 2) (0 : Fin 4)) (0 : Fin 4) 88 = true ∧
      domainOk (countGptp (gptp slaved 2) (0 : Fin 4)) (0 : Fin 4) 0 = true ∧
      (getPort (countGptp (gptp slaved 2) (0 : Fin 4)) (0 : Fin 4)).gptp.pending = some (syncMsg true) ∧
      (getPort (countGptp (gptp slaved 2) (0 : Fin 4)) (0 : Fin 4)).gptp.pdelaySent = some {} ∧
      (4 : Half).toNat = (getPort (countGptp (gptp slaved 2) (0 : Fin 4)) (0 : Fin 4)).gptp.pdelaySeq) ∧
    (gptpOn (countGptp (gptp {} 0) (0 : Fin 4)) (0 : Fin 4) = true ∧ timeRuns (countGptp (gptp {} 0) (0 : Fin 4)) = true ∧
      (getPort (countGptp (gptp {} 0) (0 : Fin 4)) (0 : Fin 4)).gptp.best = none) ∧
    (gptpOn (gptp mastered 5) (0 : Fin 4) = true ∧ (getPort (gptp mastered 5) (0 : Fin 4)).gptp.role = 2 ∧
      (getBase (gptp mastered 5) (ptpBase (gptp mastered 5) (0 : Fin 4))).state = 5 ∧
      (getPort (gptp mastered 5) (0 : Fin 4)).gptp.syncDue ≤ (gptp mastered 5).now ∧
      (paced (gptp mastered 5) (0 : Fin 4) = false ∧ portCfg (gptp mastered 5) (0 : Fin 4) 25 25 = 0 ∧
        timeRuns (gptp mastered 5) = true ∧ portCfg (wr [(aPort 0 0, 0x83000000)] (gptp mastered 5)) (0 : Fin 4) 25 25 = 1) ∧
      (getPort (gptp mastered 5) (0 : Fin 4)).gptp.pdelayDue ≤ (gptp mastered 5).now ∧
      (getPort (gptp mastered 5) (0 : Fin 4)).gptp.announceDue ≤ (gptp mastered 5).now) ∧
    ((getBase (gptp slaved 2) (0 : Fin 4)).state = 2 ∧ (getBase (gptp slaved 2) (0 : Fin 4)).lastSync +
      3 * logTicks (logSync (gptp slaved 2) (getBase (gptp slaved 2) (0 : Fin 4)).slave) ≤ (gptp slaved 2).now) ∧
    (getPort (gptp slaved 2) (0 : Fin 4)).gptp.bestSeen + 3 * logTicks (max (-7) (min 22 ann.logInterval)) ≤ (gptp slaved 2).now := by
  decide +kernel
/-- The chip's own clock identity holds FF-FE in its middle, so neither 77 nor 88 is it. -/
theorem w_qualified : qualified ann = true := by
  have h : 2 ^ 24 ≤ ownClock := by
    simp only [ownClock, eui64, beNat, List.map, List.foldl, BitVec.toNat_ofNat]
    omega
  have h1 : ann.source.toNat ≠ ownClock := by rw [show ann.source.toNat = 88 from rfl]; omega
  have h2 : ann.identity.toNat ≠ ownClock := by rw [show ann.identity.toNat = 77 from rfl]; omega
  simp only [qualified, decide_eq_true h1, decide_eq_true h2]
  decide
/-- A two-step master sends the Sync and its Follow_Up, a one-step master one Sync with its origin (R493, R496). -/
theorem test_sync_sent :
    ((after (.syncIntervalTimer 0) (gptp mastered 5)).sent.map fun x => match x with | .gptp p k l => (p, k, l.length) | _ => (9, 9, 9)) =
      [(0, 1, 4), (0, 0, 3)] ∧
    ((after (.syncIntervalTimer 0) (wr [(aPort 0 0, 0x83000000)] (gptp mastered 5))).sent.map fun x =>
      match x with | .gptp p k l => (p, k, l.length) | _ => (9, 9, 9)) = [(0, 0, 5)] := by decide +kernel
theorem test_follow_up_waits : (getPort (after (.sync 0 (syncMsg true)) (gptp { slaved with pending := none } 2)) 0).gptp.pending =
      some (syncMsg true) := by decide +kernel

/-! ## Wall sync -/

def wcfg : List (Nat × Nat) := [(aWall 0, 0x80000001), (aWall 4, 5), (aPipe 0 0, 0xC0)]
def member2 : WallMember := ⟨0, 0, 0, 0, none, none⟩
/-- A member of a wall with member 2, one pipe in wall sync, and everything late. -/
def wall (w : Wall) (t : Int) : State :=
  { wr wcfg (netUp {} (on 0)) with
    net := { ports := [(0, { link := true })], bases := [(0, { t := ⟨t, 1⟩ })]
             wall := { w with key := some (bytes 32), members := [(2, member2)] } }
    disp := { pipes := [(0, { state := 2 })] } }
/-- A message of member 2 in group 5, sealed with the key (R505). -/
def wallBytes (kind : Nat) : List Byte :=
  let head := le2 0x4E57 ++ by1 1 ++ by1 kind ++ le2 5 ++ by1 2 ++ by1 0 ++ le4 0 ++ le4 1 ++ le4 7 ++ zeros 4
  let x := gcmSeal (bytes 32) (wallNonce 2 kind 0 1) head (zeros 24)
  head ++ x.1 ++ x.2
def wdg (kind : Nat) : WallDatagram := ⟨fi, ep, wallBytes kind⟩
def wmsg : WallMsg := ⟨2, 0, 0, 1, 7, 0, 0⟩
theorem w_wall_messages : ∀ k ∈ [wkReady, wkAgree, wkClaim],
    (let s := wall { joined := true, leader := 2 } 0
     let v := countClass s fi.eth (frameClass fi)
     isRunning s = true ∧ (getPort s fi.eth).link = true ∧ qci s fi.eth fi = (s, some (frameClass fi)) ∧ wallLive v = true ∧
     (fi.eth.val = wallPort v) ∧ (2 ≠ wallIndex v) ∧ tabFind v.net.wall.members 2 = some member2 ∧
     wallMsg v k (wdg k) = some wmsg ∧ newer 7 v.net.wall.frame = true ∧ v.net.wall.joined = true ∧ v.net.wall.leader = 2) := by
  decide +kernel
theorem w_wall_timers :
    (let s := wall { isLeader := true } 10000000
     wallPipes s = [0] ∧ wallLive s = true ∧ s.net.wall.isLeader = true ∧ unagreed s = true ∧
      frLe (frSub (frSub (getPipe s 0).time.fmax (marginNs s 0)) (usNs 100)) (pipeNow s 0) = true ∧
      ((wallPipes s).filter fun p => (getPipe s p).time.agreed.isNone && (getPipe s p).time.next.isNone &&
        (!(getPipe s p).time.leaderless || regW s (aPipe p 0x4C) = 0) &&
        frLe (frSub (getPipe s p).time.fmax (marginNs s p)) (pipeNow s p)) ≠ []) ∧
    (let s := wall { leaderless := true, claimAt := some 0 } (10 ^ 12)
     s.net.wall.leaderless = true ∧ s.net.wall.claimAt = some 0 ∧
      (wallPeriods s 1).any (fun per => frLe (frAdd (frOf ((0 : Nat) : Int)) per) (getBase s (wallBase s)).t) = true ∧
      (∀ m ∈ s.net.wall.members, ∀ t, m.2.claim = some t → 0 ≤ t →
        wallCfg s 23 16 * 64 + wallIndex s < m.2.priority * 64 + m.1) ∧
      tabFind s.net.wall.members (2 : Fin 64) = some member2 ∧
      (wallPeriods s 3).any (fun per => frLe (frAdd (frOf ((member2.last : Nat) : Int)) per) (getBase s (wallBase s)).t) = true) := by
  refine ⟨by decide +kernel, by decide +kernel, by decide +kernel, by decide +kernel, ?_, by decide +kernel, by decide +kernel⟩
  intro m hm t ht
  rcases List.mem_singleton.1 hm with rfl
  cases ht
theorem w_wall_key : Served (on 0) (.wallKey rq (bytes 32)) opWallKey rq (ses 0) := served (by decide +kernel)
theorem test_wall_elects : (after .wallElectionTimeout (wall { leaderless := true, claimAt := some 0 } (10 ^ 12))).net.wall.isLeader = true := by decide +kernel
/-! ## Firmware -/

/-- An image of 4,096 bytes with key k and security version v: six sections of 4 bytes (R536). -/
def image (k : Byte) (v : Nat) : List Byte :=
  le4 0x4E444657 ++ le2 1 ++ [3, 0] ++ le2 9 ++ [k, 0] ++ le4 v ++ le4 4096 ++ zeros 44 ++
  ((List.range 6).map fun p => le4 (160 + 4 * p) ++ le4 4 ++ zeros 8).flatten ++ zeros 3936
def fwIn (f : Firmware) (s : State) : State := { s with fw := { f with procs := s.fw.procs, device := s.fw.device } }
def verifying (k : Byte) (v : Nat) : State := fwIn { actState := 1, next := image k v } (on 0)
def procIs (p : Nat) (st : ProcState) (s : State) : State := { s with fw := { s.fw with procs := tabSet s.fw.procs p { state := st } } }
def testing : State := { up with fw := { up.fw with device := 1 } }
theorem w_firmware_requests :
    (Served (on 0) (.fwLoad rq 0x3FFFFF 0 [1]) opFwLoad rq (ses 0) ∧ (0x3FFFFF : Word).toNat + 1 ≤ stageBytes ∧
      (on 0).chip.hbmReady = true ∧ fwPending (on 0) = false) ∧
    (Served (fwIn { staging := image 0 1 } (on 0)) (.fwActivate rq 4096 0) opFwActivate rq (ses 0) ∧
      imageForm (fit 160 (fwIn { staging := image 0 1 } (on 0)).fw.staging) (4096 : Word).toNat = true ∧
      imgMajor (fit 160 (fwIn { staging := image 0 1 } (on 0)).fw.staging) = ndMajor ∧
      fwPending (fwIn { staging := image 0 1 } (on 0)) = false ∧ asyncCount (fwIn { staging := image 0 1 } (on 0)) 0 rq.session.toNat < 4096) ∧
    (Served (on 0) (.fwRestart rq 5 0) opFwRestart rq (ses 0) ∧ (5 : Byte).toNat ≤ 5 ∧ (on 0).pwr.level = 0 ∧
      (getProc (on 0) (5 : Byte).toNat).state = .running) ∧
    (Served (on 0) (.logRead rq 0 1 0) opLogRead rq (ses 0) ∧ Served (on 0) (.logRead rq 0 255 0) opLogRead rq (ses 0) ∧
      1 ≤ (1 : Half).toNat ∧ (255 : Half).toNat ≤ 255) :=
  ⟨⟨served (by decide +kernel), by decide +kernel⟩, ⟨served (by decide +kernel), by decide +kernel⟩,
    ⟨served (by decide +kernel), by decide +kernel⟩, served (by decide +kernel), served (by decide +kernel), by decide⟩
theorem w_fw_verify_fails : isRunning (verifying 4 0) = true ∧ (verifying 4 0).fw.actState = 1 ∧
    imageSigned (verifying 4 0) (verifying 4 0).fw.next = false := by decide +kernel
theorem signs (s : State) (im : List Byte) (hk : imgKey im = 0) (hn : im.length - 64 = 4032) (hb : bit (nvrWord s 65) 0 = false)
    (h : edVerify (Config.signingKey 0) (im.take 4032) (im.drop 4032) = true) : imageSigned s im = true := by
  simp only [imageSigned, hk, hn, hb, h]
  decide
def verifyIn (v dev : Nat) : State :=
  { verifying 0 v with nvr := { words := [(64, 1)] }, fw := { (verifying 0 v).fw with device := dev } }
/-- Whatever signing key 0 the part holds, an image that it signs meets the other clauses: one below the minimum security
version, and one at it, with the device in recovery (0) and running (2). -/
theorem w_fw_verify_passes
    (h0 : edVerify (Config.signingKey 0) ((image 0 0).take 4032) ((image 0 0).drop 4032) = true)
    (h1 : edVerify (Config.signingKey 0) ((image 0 1).take 4032) ((image 0 1).drop 4032) = true) :
    (imageSigned (verifyIn 0 2) (verifyIn 0 2).fw.next = true ∧ imgSecver (verifyIn 0 2).fw.next < nvrWord (verifyIn 0 2) 64) ∧
    (∀ d ∈ [0, 2], imageSigned (verifyIn 1 d) (verifyIn 1 d).fw.next = true ∧
      nvrWord (verifyIn 1 d) 64 ≤ imgSecver (verifyIn 1 d).fw.next ∧ (verifyIn 1 d).fw.device = d) := by
  refine ⟨⟨signs _ _ (by decide +kernel) (by decide +kernel) (by decide +kernel) h0, by decide +kernel⟩, fun d hd =>
    ⟨signs _ _ ?_ ?_ ?_ h1, ?_, rfl⟩⟩ <;>
  (revert d; decide +kernel)
theorem w_processors :
    (isRunning up = true ∧ (getProc up (5 : Fin 6)).state = .running ∧ (getProc up (0 : Fin 6)).state = .running ∧ up.pwr.level = 0 ∧
      (0 : Fin 6).val ≠ 5) ∧
    (let s : State := { up with pwr := { level := 2 } }
     isRunning s = true ∧ (getProc s 5).state = .running ∧ 1 ≤ s.pwr.level ∧ s.pwr.level < 3) ∧
    (let s : State := late { up with pwr := { held := true, clear := some 0 } }
     s.pwr.held = true ∧ s.pwr.clear = some 0 ∧ 0 + 500 * msTicks ≤ s.now) ∧
    ((getProc (procIs 1 (.restarting 0) up) (1 : Fin 6)).state = .restarting 0 ∧ 0 ≤ (procIs 1 (.restarting 0) up).now) ∧
    (isRunning testing = true ∧ testing.fw.device = 1 ∧
      ((List.range 128).filter fun c => (getCore (testCores testing ⟨[(3, 1)], [(7, 1, 0), (8, 0, 2), (9, 0, 1)]⟩) c).state = 4).length ≤ 64) := by
  decide +kernel
theorem test_self_test : (getCore (testCores testing ⟨[(3, 1)], []⟩) 3).state = 4 ∧
    (after (.selfTestDone ⟨[(3, 1)], []⟩) testing).chip.failed = 1 := by decide +kernel
theorem test_power_processor_holds : (after (.watchdogExpiry 5) { up with pwr := { level := 2 } }).pwr.level = 3 ∧
    (after (.watchdogExpiry 5) { up with pwr := { level := 2 } }).pwr.held = true := by decide +kernel

/-! ## Power -/

def cool : SensorReadings := ⟨List.replicate 128 800, List.replicate 24 800, 800⟩
def hot : SensorReadings := ⟨List.replicate 128 (16 * 115), List.replicate 24 800, 800⟩
def pow (p : Power) : State := late { up with pwr := p }
theorem w_power :
    (sensed (pow { hot115 := true }) = true ∧ ((hot.core ++ hot.uncore).any fun v => decide (tripC ≤ v)) = true ∧
      ((cool.core ++ cool.uncore).any fun v => decide (tripC ≤ v)) = false) ∧
    (sensed { pow {} with chip := { (pow {}).chip with phase := .tripped } } = true ∧
      isRunning { pow {} with chip := { (pow {}).chip with phase := .tripped } } = false) ∧
    (loopsRun (pow {}) = true ∧ (pow {}).pwr.loopDue ≤ (pow {}).now ∧ (pow {}).pwr.parkDue ≤ (pow {}).now) ∧
    ((pow { level := 1 }).pwr.level ≠ 0 ∧ (pow { level := 1 }).pwr.duty ≤ 64 ∧
      dutyFloor (pow { level := 1 }).pwr.level ≤ (pow { level := 1 }).pwr.duty) ∧
    (let s := pow { level := 2, core := [(16 * 110, 0)] }
     s.pwr.level = 2 ∧ throttleC s ≤ hottest s) ∧
    (let s := wr [(aMemSleep, 1)] up
     s.chip.hbmReady = true ∧ s.disp.asleep = false ∧ sleepAllowed s = true) ∧
    sleepAllowed (wr [(aMemSleep, 0)] up) = false := by decide +kernel
theorem test_trips : (after (.sensorSample hot) (pow { hot115 := true })).chip.phase = .tripped ∧
    (after (.sensorSample hot) (pow {})).chip.phase = .running ∧ (after (.sensorSample hot) (pow {})).pwr.hot115 = true := by
  decide +kernel
theorem test_mem_sleeps : regW (after .memSleepEnter (wr [(aMemSleep, 1)] up)) aMemSleeps = 1 := by decide +kernel

/-! ## Security and storage -/

theorem w_security :
    Served (on 0) (.secCert rq) opSecCert rq (ses 0) ∧ Served (on 0) (.secAttest rq (bytes 32)) opSecAttest rq (ses 0) ∧
    (Served (on 0) (.ownerChange rq (leBytes 32 2) (bytes 64)) opOwnerChange rq (ses 0) ∧
      ((leBytes 32 2).all fun b => b = 0) = false ∧
      edVerify (fit 32 (leBytes 32 2)) (ownerMessage (on 0) (leBytes 32 2)) (fit 64 (bytes 64)) = false) ∧
    (Served { on 0 with nvr := { words := [(65, 8)] } } (.secKeyRevoke rq 3 0) opSecKeyRevoke rq (ses 0) ∧
      bit (nvrComing { on 0 with nvr := { words := [(65, 8)] } } 65) (3 : Byte).toNat = true) ∧
    (Served (on 0) (.secKeyRevoke rq 3 0) opSecKeyRevoke rq (ses 0) ∧ bit (nvrComing (on 0) 65) (3 : Byte).toNat = false ∧
      (3 : Byte).toNat ≠ imgKey (runningImage (on 0)) ∧ (nvrComing (on 0) 65 + 2 ^ (3 : Byte).toNat) % 16 ≠ 15) ∧
    (Served (fwIn { image := image 0 7 } (on 0)) (.secRollbackRaise rq 7) opSecRollbackRaise rq (ses 0) ∧
      nvrComing (fwIn { image := image 0 7 } (on 0)) 64 < (7 : Word).toNat ∧
      (7 : Word).toNat ≤ imgSecver (runningImage (fwIn { image := image 0 7 } (on 0)))) ∧
    (enrollArmed up = false ∧ i3cAwake up = true ∧ wordFault up 0 .i3c aSecEnroll (putBits (enrollWord up) 0 0 1) = none) ∧
    (let s : State := { on 0 with nvr := { queue := [(64, 5, 0)], jobs := [(0, (0, ⟨1, opSecRollbackRaise, 5⟩, 0, 0))] } }
     isRunning s = true ∧ s.nvr.due ≤ s.now ∧ s.nvr.queue = [(64, 5, 0)] ∧ 64 < 84 ∧
      tabFind s.nvr.jobs 0 = some (0, ⟨1, opSecRollbackRaise, 5⟩, 0, 0)) :=
  ⟨served (by decide +kernel), served (by decide +kernel), ⟨served (by decide +kernel), by decide +kernel⟩,
    ⟨served (by decide +kernel), by decide +kernel⟩, ⟨served (by decide +kernel), by decide +kernel⟩,
    ⟨served (by decide +kernel), by decide +kernel⟩, by decide +kernel, by decide +kernel⟩
theorem test_revoke : lastMsg (after (.secKeyRevoke rq 3 0) (on 0)) = some (opSecKeyRevoke, stAccepted, 0, []) ∧
    ((after (.secKeyRevoke rq 3 0) (on 0)).nvr.queue.map fun q => (q.1, q.2.1)) = [(65, 8)] := by decide +kernel

/-! ## Start-up, reset and the debug ports -/

def phased (p : ChipPhase) (w : Bool) (low : Nat) (s : State) : State := { s with chip := { s.chip with phase := p, wasTripped := w, lowAt := low } }
theorem w_reset :
    up.chip.phase = .running ∧ (∃ d, ({ up with chip := { up.chip with resetDue := some 0 } } : State).chip.resetDue = some d ∧ d ≤ up.now) ∧
    (phased .inReset false 0 up).chip.wasTripped = false ∧
    ((phased .inReset true 5 up).chip.wasTripped = true ∧ (phased .inReset true 5 up).now < (phased .inReset true 5 up).chip.lowAt + msTicks) ∧
    ((phased .inReset true 0 (late up)).chip.lowAt + msTicks ≤ (phased .inReset true 0 (late up)).now ∧
      stillHot (phased .inReset true 0 (late up)) = false) ∧
    ((phased .holdOff true 0 up).chip.phase = .holdOff ∧ stillHot (phased .holdOff true 0 up) = false) ∧
    (isRunning up = true ∧ bit up.chip.clk 3 = true ∧ ∀ r ∈ [PhyRef.hbm, .dp, .dsi, .csi, .eth], bit up.chip.clk (refBit r) = true ∧
      bit (setClk up (refBit r) false).chip.clk (refBit r) = false) :=
  ⟨rfl, ⟨0, rfl, by decide +kernel⟩, rfl, by decide +kernel, by decide +kernel, by decide +kernel, by decide +kernel⟩
/-- The strap pins of a running chip change, and the next internal reset samples them (R601). -/
theorem test_pins : (after (.resetRelease ⟨true, 0⟩) up).chip.straps.compatSel = false ∧
    (sampleStraps (resetChip (after (.resetRelease ⟨true, 0⟩) up) causePll)).chip.straps.compatSel = true := by decide +kernel

/-- A monitor at its limit, and one below it for less than 1 µs, reset nothing (R598). -/
theorem test_reset : (after .resetAssert up).chip.phase = .inReset ∧ (after (.brownout (.monitorLow 700 5000)) up).chip.phase = .running ∧
    (after (.brownout (.monitorLow 699 999)) up).chip.phase = .running := by decide +kernel

theorem w_debug_ports :
    (up.chip.phase ≠ .inReset ∧ (phased .inReset false 0 up).chip.phase = .inReset) ∧
    (∃ i r, findReg (0 : Word).toNat = some (i, r) ∧ r.cls = .device) ∧
    (∃ i r, findReg (BitVec.ofNat 32 aMemSleep : Word).toNat = some (i, r) ∧ r.cls = .owner ∧
      bit (regW (wr [(aSysJtag, 1)] up) aSysJtag) 0 = true ∧
      writeFault (wr [(aSysJtag, 1)] up) 0 .jtag [((BitVec.ofNat 32 aMemSleep : Word).toNat, (1 : Word).toNat)] = none) ∧
    bit (regW up aSysJtag) 0 = false ∧ (i3cAwake up = true ∧ up.chip.i3cDyn = none) ∧
    (i3cReadable (0 : Word).toNat = true ∧ i3cReadable (0x20000 : Word).toNat = false ∧ i3cWritable (0x20000 : Word).toNat = false) ∧
    wordFault up 0 .i3c aSysResetReq (0xD1E5 : Word).toNat = none :=
  ⟨by decide +kernel, ⟨_, _, rfl, rfl⟩, ⟨_, _, rfl, rfl, by decide +kernel, by decide +kernel⟩, by decide +kernel, by decide +kernel,
    by decide +kernel, by decide +kernel⟩
/-- The IDCODE of R614; a tenant's register is none of the target's (R612). -/
theorem test_jtag : (after .jtagIdcode up).sent.head? = some (.tdo 32 0x1A12876B) ∧
    (after (.i3cAddressWrite 0x20000) up).sent.head? = some .i3cNack := by decide +kernel
/-! ## Clauses of restarts, waits and refusals -/

/-- Control processor p restarts (R541). -/
def down (p : Nat) (s : State) : State := procIs p (.restarting 0) s
theorem w_restarting : restarting up 0 = false ∧ restarting up 1 = false ∧ restarting up 2 = false ∧ restarting up 4 = false ∧
    restarting (down 2 holding) 2 = true ∧ restarting (down 2 faulting) 2 = true ∧ restarting (down 4 (waitsAux true)) 4 = true ∧
    restarting (capturing capTable) 2 = false ∧ restarting (framing { publish := 1 } 2) 2 = false ∧
    restarting (waitsDsi none) 4 = false ∧ restarting (storingOne true) 4 = false ∧
    (getTen (down 2 holding) (0 : Fin 16)).mem.held.find? (fun h => h.id = (9 : Word).toNat && decide (h.due ≤ holding.now)) =
      some heldFault := by decide +kernel
/-- The owner's first authentication enrols its credential (R578); the point (0, 1) signs every message. -/
def auth0 : SessionAuthArgs := ⟨5, 0, 0, leBytes 32 1, leBytes 32 1 ++ zeros 32⟩
def half0 : State := { up with link := { half := [half] } }
theorem w_enrols : isRunning half0 = true ∧ sourceBlocked half0 hs.src.ip = false ∧
    keptAnswer half0 hs opSessionAuth (authPayload auth0) = none ∧ half0.link.enrolling = none ∧ half1.link.enrolling = none ∧
    findHalf half0 auth0.session.toNat = some half ∧ enrols half0 auth0.tenant.toNat = true ∧ authFault half0 hs auth0 = none := by
  decide +kernel
/-- The nine words of the credential wait in the bank's queue, and the answer waits for them. -/
theorem test_enrols : (after (.sessionAuth hs auth0) half0).nvr.queue.length = 9 ∧
    (after (.sessionAuth hs auth0) half0).link.enrolling.isSome = true ∧ (after (.sessionAuth hs auth0) half0).sent = [] := by
  decide +kernel
/-- A write of a nonvolatile word, and the header rules that refuse one. -/
def rwnAddr : Nat := 0x140200
theorem w_register_headers :
    (Served (on 0) (.regWrite rq (BitVec.ofNat 32 rwnAddr) 1 0 [5]) opRegWrite rq (ses 0) ∧ isRwn rwnAddr = true ∧
      writeFault (on 0) 0 .packet (writesOf rwnAddr [5]) = none ∧ asyncCount (on 0) 0 rq.session.toNat < 4096) ∧
    Served (on 0) (.regWrite rq 0x40000 0 0 []) opRegWrite rq (ses 0) ∧ Served (on 0) (.regWrite rq 0x40002 1 0 [16]) opRegWrite rq (ses 0) ∧
    Served (on 0) (.regUpdate rq 0x40002 0xFF 9) opRegUpdate rq (ses 0) :=
  ⟨⟨served (by decide +kernel), by decide +kernel⟩, served (by decide +kernel), served (by decide +kernel), served (by decide +kernel)⟩
theorem test_rwn : lastMsg (after (.regWrite rq (BitVec.ofNat 32 rwnAddr) 1 0 [5]) (on 0)) =
      some (opRegWrite, stAccepted, 0, le4 rwnAddr ++ le2 1 ++ le2 0) ∧
    ((after (.regWrite rq (BitVec.ofNat 32 rwnAddr) 1 0 [5]) (on 0)).nvr.queue.map fun q => (q.1, q.2.1)) = [(128, 5)] := by
  decide +kernel
/-- Behind a full window the 10 ms before a reset wait for the reply (R78, R606). -/
theorem test_reset_waits : (after (.sysResetReq rq 0xD1E5) (fullOn 0)).chip.resetDue = none ∧
    (after (.sysResetReq rq 0xD1E5) (fullOn 0)).link.resetNext = some (1, 7) := by decide +kernel
theorem w_register_refusals :
    (∃ i r, findReg 0x40000 = some (i, r) ∧ mayWrite (on 0) 0 .packet i 0x40000 r = true ∧
      ((0x80000000 : Nat) &&& (0xFFFFFFFF ^^^ r.covered) ≠ 0) ∧ ((16 : Nat) &&& (0xFFFFFFFF ^^^ r.covered) = 0) ∧ r.inRange 65 = false ∧
      ((65 : Nat) &&& (0xFFFFFFFF ^^^ r.covered) = 0)) ∧
    (∃ i r, findReg 0x10 = some (i, r) ∧ mayWrite (on 0) 0 .packet i 0x10 r = true ∧ (4 : Nat) &&& (0xFFFFFFFF ^^^ r.covered) = 0 ∧
      (4 ^^^ currentWord (on 0) 0 0x10) &&& maskOf (fun x => x = .ro) r.fields ≠ 0) :=
  ⟨⟨_, _, rfl, by decide +kernel⟩, ⟨_, _, rfl, by decide +kernel⟩⟩
/-- A line of tenant 0 is bad. -/
def badAt (va : Nat) (s : State) : State := markBad s 0 va
theorem w_bad_lines :
    badInExtents (capturing capTable) 0 capReads = false ∧ badInExtents (badAt 0x11040 (capturing capTable)) 0 capReads = true ∧
    (openCapture (getFg (badAt 0x11040 (capturing capTable)) (0 : Fin 8))).isSome = true ∧
    (let s := framing { publish := 2 } 2
     badLineIn s 0 (fgBank s (0 : Fin 8) 2) (bankBytes s (0 : Fin 8)) = none ∧
     (let u := badAt (fgBank s 0 2) s
      (badLineIn u 0 (fgBank u (0 : Fin 8) 2) (bankBytes u (0 : Fin 8))).isSome = true ∧ pipeHolder u (0 : Fin 8) = some 0 ∧
        (getFg u (0 : Fin 8)).publish = 2)) ∧
    (let s := badAt 0x100000 (inFlight png1)
     ∃ p, laneRecord s (0 : Fin 8) = some p ∧ (recordBad s p.2.1 p.2.2).isSome = true) ∧
    (∃ p, laneRecord (inFlight png1) (0 : Fin 8) = some p ∧ recordBad (inFlight png1) p.2.1 p.2.2 = none) ∧
    pickStream (badAt 0x100000 (ready true)) = some (0, 0) :=
  ⟨by decide +kernel, by decide +kernel, by decide +kernel, by decide +kernel, ⟨_, rfl, by decide +kernel⟩, ⟨_, rfl, by decide +kernel⟩,
    by decide +kernel⟩
theorem test_bad_lines : (getFg (after (.captureComplete 0) (badAt 0x11040 (capturing capTable))) 0).cap0 = .free ∧
    (getLane (after (.laneStart 0) (badAt 0x100000 (ready true))) 0).job = none := by decide +kernel
/-- A rectangle that overflows its bin. -/
theorem w_rect_overflow : ∃ q b, PacketAhead (drawing 64 192) ref 3 64 q b ∧ rectBins (drawing 64 192) q b = true :=
  stands (P := fun q b => rectBins _ q b) (by decide +kernel)
/-- The same step with commands that store nothing of what they read, so that none runs in place (R142). -/
def readOnly (s : State) : State := { s with sched := { s.sched with loops := tabMap (fun _ l => { l with
  queue := l.queue.map fun st => { st with cmds := st.cmds.map fun c =>
    { c with spec := { c.spec with extents := c.spec.extents.map fun e => { e with write := false } } } } }) s.sched.loops } }
theorem w_reel_errors :
    (findInst hNone cref).map (fun q => (isRun q.inst, inPlace q.cmd.spec, (haloProducer hNone q.loop.tenant q.step q.ref.cmd).isSome)) =
      some (true, true, true) ∧
    (findInst (readOnly hNone) cref).map (fun q => (isRun q.inst, inPlace q.cmd.spec,
      (haloProducer (readOnly hNone) q.loop.tenant q.step q.ref.cmd).isSome)) = some (true, false, true) ∧
    haloB (pumpRun hFull cref) (fun x => aboveTaken (pumpRun hFull cref) x.q x.h) = true := by decide +kernel
theorem test_reel_errors : ((findInst (after (.reelEccError cref false) (readOnly hNone)) cref).map fun q => isRun q.inst) = some false ∧
    ((getLoop (after (.reelEccError cref false) hNone) 1).map fun l => l.queue.map fun st => st.failing.isSome) = some [true] := by
  decide +kernel
/-- A stereo front end of an in-place step that streams its first band anew from what it kept. -/
theorem w_kept_bands : streamB (streaming { vinst none with strm := { kept := [[1]] } }) (fun q _ _ =>
    decide (q.inst.strm.kept[q.inst.strm.bands]? = some [1])) = true := by decide +kernel
/-- A port that sends at once, one whose link is down, and one where a frame waits behind closed gates. -/
theorem w_egress : (∃ c n, ethFrame net1 (.mldReport 0 false) = some (0, c, n)) ∧ paced net1 0 = false ∧ (getPort net1 0).link = true ∧
    (∃ c n, ethFrame net1 (.mldReport 1 false) = some (1, c, n)) ∧ (getPort net1 1).link = false ∧
    (∀ f ∈ (getEgress (after arpIn shut) 0).queue, bit (openGates (after arpIn shut) 0) f.cls = false) ∧
    (getEgress (after arpIn shut) 0).queue ≠ [] ∧ (getPort (after arpIn shut) 0).link = true :=
  ⟨⟨_, _, rfl⟩, by decide +kernel, by decide +kernel, ⟨_, _, rfl⟩, by decide +kernel, by decide +kernel, by decide +kernel, by decide +kernel⟩
/-- Port 0 has no static IPv4 address and probes its link-local one (R482). -/
def probing (k : Nat) : State := wr [(aPort 0 0, 0x81000000)] (late { up with net := { ports := [(0, { link := true, probes := k })] } })
theorem byte_lt (p i : Nat) : macByte p i < 256 := by
  simp only [macByte, leAt]
  rcases (macBytes p).drop i with _ | ⟨b, r⟩
  · decide
  · have := b.isLt
    simp [leNat]
    omega
/-- Another station speaks from that address. -/
def other : ArpPacket := ⟨true, Config.portMac 0 + 1, BitVec.ofNat 32 (portIp4 (probing 1) 0), 0⟩
theorem w_probes : (∀ k ∈ [2, 3, 4], isRunning (probing k) = true ∧ (getPort (probing k) (0 : Fin 4)).link = true ∧
      (getPort (probing k) (0 : Fin 4)).conflict = false ∧ regW (probing k) (aPort (0 : Fin 4) 0x10) = 0 ∧
      (getPort (probing k) (0 : Fin 4)).probeDue ≤ (probing k).now) ∧
    ip4Up (probing 1) (0 : Fin 4) = false ∧ qci (probing 1) (0 : Fin 4) (frameOn (0 : Fin 4) fi) = (probing 1, some (frameClass fi)) := by
  decide +kernel
theorem w_probe_conflict : probeConflict (probing 1) (0 : Fin 4) other = true := by
  have hm : other.senderMac ≠ Config.portMac 0 := by simp only [other]; bv_omega
  have hi : other.senderIp.toNat = portIp4 (probing 1) 0 := by
    have h4 : macByte 0 4 < 256 := byte_lt _ _
    have h5 : macByte 0 5 < 256 := byte_lt _ _
    have h : regW (probing 1) (aPort 0 0x10) = 0 := by decide +kernel
    have hp : portIp4 (probing 1) 0 = 0xA9FE0000 + (1 + macByte 0 4 % 254) * 256 + macByte 0 5 := by
      unfold portIp4
      rw [h, if_neg (by simp)]
    show (BitVec.ofNat 32 (portIp4 (probing 1) 0)).toNat = _
    rw [BitVec.toNat_ofNat, hp]
    generalize macByte 0 4 = a, macByte 0 5 = b at h5 ⊢
    exact Nat.mod_eq_of_lt (by clear h hp hm h4; omega)
  simp [probeConflict, hi, hm]
/-- The third probe and the first announcement (RFC 5227). -/
theorem test_probes : (after (.arpRequest 0 .probeTimer) (probing 2)).sent.map (fun o => match o with | .arpProbe p _ => p | _ => 9) = [0] ∧
    (after (.arpRequest 0 .probeTimer) (probing 3)).sent.map (fun o => match o with | .arpAnnounce p _ => p | _ => 9) = [0] := by
  decide +kernel
/-- Samples of the core rail: above the peak, below every limit, and one that the limiter still acts on. -/
def amps (n : Nat) : RailReadings := ⟨[(750, 16 * n)]⟩
theorem w_rails : sensed (pow {}) = true ∧ 16 * peakA (pow {}) < coreAmps (amps 651) ∧
    (coreAmps (amps 100) < 16 * peakA (pow {}) ∧
      currentSum (keepSample (pow {}) (amps 100)) < 16 * burstA (keepSample (pow {}) (amps 100)) * avgTicks) ∧
    ((pow { limiter := true }).pwr.limiter = true ∧ 16 * peakA (pow {}) ≤ coreAmps (amps 650)) ∧
    (let s := pow { core := [(16 * 110, 0)] }
     s.pwr.duty ≤ 64 ∧ throttleC s < hottest s ∧ dutyFloor s.pwr.level ≤ s.pwr.duty) ∧ (pow { level := 1 }).pwr.level ≤ 1 := by decide +kernel
theorem test_limiter : (after (.currentSample (amps 651)) (pow {})).pwr.limiter = true ∧
    (after (.currentSample (amps 650)) (pow { limiter := true })).pwr.limiter = true ∧
    (after (.currentSample (amps 100)) (pow { limiter := true })).pwr.limiter = false := by decide +kernel
/-- A worn word, and an activation that waits. -/
def worn (w : Nat) : State := { on 0 with nvr := { wear := [(w, nvrLife)] }, fw := { (on 0).fw with request := some ⟨1, opFwActivate, 3⟩ } }
def acting : State := fwIn { image := image 0 7, request := some ⟨1, opFwActivate, 3⟩ } (on 0)
theorem w_worn : (Served (worn 65) (.secKeyRevoke rq 3 0) opSecKeyRevoke rq (ses 0) ∧ nvrWorn (worn 65) 65 = true ∧ fwPending (worn 65) = true ∧
      bit (nvrWord (worn 65) 65) (3 : Byte).toNat = false) ∧
    (Served acting (.secKeyRevoke rq 3 0) opSecKeyRevoke rq (ses 0) ∧ nvrWorn acting 65 = false ∧ fwPending acting = true) ∧
    (Served acting (.secRollbackRaise rq 7) opSecRollbackRaise rq (ses 0) ∧ nvrWorn acting 64 = false ∧
      nvrWord acting 64 < (7 : Word).toNat ∧ (7 : Word).toNat ≤ imgSecver (runningImage acting)) ∧
    (Served (on 0) (.secRollbackRaise rq 0) opSecRollbackRaise rq (ses 0) ∧ (0 : Word).toNat = nvrWord (on 0) 64) ∧ (on 0).link.enrolling = none :=
  ⟨⟨served (by decide +kernel), by decide +kernel⟩, ⟨served (by decide +kernel), by decide +kernel⟩,
    ⟨served (by decide +kernel), by decide +kernel⟩, ⟨served (by decide +kernel), by decide +kernel⟩, rfl⟩
theorem test_worn : ((after (.secKeyRevoke rq 3 0) (worn 65)).sent.map fun o => match o with | .packet _ p _ => p.msg.status | _ => 0) =
      [stWorn, stAccepted] ∧
    (lastMsg (after (.secKeyRevoke rq 3 0) acting)).map (fun m => (m.2.1, m.2.2.1)) = some (stBusy, dtFwPending) := by decide +kernel
/-- RESET_N rises on a device that is still hot after a trip, and references go (R45, R602). -/
def heated (s : State) : State := { s with pwr := { core := [(16 * 120, 0)] } }
theorem w_hot : ((phased .inReset true 0 (heated (late up))).chip.lowAt + msTicks ≤ (heated (late up)).now ∧
      stillHot (phased .inReset true 0 (heated (late up))) = true) ∧
    (phased .holdOff true 0 (heated up)).chip.phase = .holdOff ∧ stillHot (phased .holdOff true 0 (heated up)) = true := by decide +kernel
theorem test_hot : (after (.resetRelease strap0) (phased .inReset true 0 (heated (late up)))).chip.phase = .holdOff ∧
    after .thermalHoldOffEnd (phased .holdOff true 0 (heated up)) = phased .holdOff true 0 (heated up) ∧
    (getTx (after (.phyReferenceLost .dp) (dpLink { trained := some (3, 2) })) 0).trained = none ∧
    (getRx (after (.phyReferenceLost .csi) csi2) 0).state = 1 ∧ (getPort (after (.phyReferenceLost .eth) up) 0).link = false := by
  decide +kernel
/-- What is to be sent before a pre-emption or a link is judged: a preemptable port (R491), and a host's echo. -/
theorem w_verify : (getPort net1 (0 : Fin 4)).link = true ∧ bit (regW net1 (aPort (0 : Fin 4) 0x48)) 31 = true := by decide +kernel
/-! ## The key that signs everything

The Ed25519 point (0, 1) is the neutral element, so a signature (that point, 0) holds for it on every message: it shows that
the accepting clause of OWNER_CHANGE is reached whatever the device's identity is. -/

theorem pow_step (a e k x : Nat) (hx : x = a ^ (e / 2 ^ (k + 1)) % p25519) :
    (if bit e k then fMul (fMul x x) a else fMul x x) = a ^ (e / 2 ^ k) % p25519 := by
  have h : e / 2 ^ (k + 1) = e / 2 ^ k / 2 := by rw [Nat.pow_succ, Nat.div_div_eq_div_mul]
  have hs : fMul x x = a ^ (2 * (e / 2 ^ k / 2)) % p25519 := by
    rw [hx, h, fMul, ← Nat.mul_mod, ← Nat.pow_add, Nat.two_mul]
  have hd := Nat.div_add_mod (e / 2 ^ k) 2
  by_cases hb : bit e k = true
  · have h1 : e / 2 ^ k % 2 = 1 := by simpa [bit] using hb
    rw [if_pos hb, hs, fMul, Nat.mod_mul_mod, ← Nat.pow_succ]
    congr 2
    omega
  · have h0 : e / 2 ^ k % 2 = 0 := by
      have : ¬ (e / 2 ^ k % 2 = 1) := fun h => hb (by simp [bit, h])
      omega
    rw [if_neg hb, hs]
    congr 2
    omega
theorem pow_loop (a e : Nat) : ∀ (k x : Nat), x = a ^ (e / 2 ^ k) % p25519 → fPowLoop k a e x = a ^ e % p25519
  | 0, x, h => by rw [fPowLoop, h, Nat.pow_zero, Nat.div_one]
  | k + 1, x, h => by rw [fPowLoop]; exact pow_loop a e k _ (pow_step a e k x h)
theorem pow_eq (a e : Nat) (h : e < 2 ^ 255) : fPow a e = a ^ e % p25519 :=
  pow_loop a e 255 1 (by rw [Nat.div_eq_of_lt h]; rfl)
theorem fpow_two : fPow 2 (p25519 - 1) = 1 := by decide +kernel
theorem two_order (e : Nat) (he : e = p25519 - 1) : 2 ^ e % p25519 = 1 := by
  have h := pow_eq 2 e (by rw [he]; decide)
  rw [← h, he]
  exact fpow_two
theorem inv_core (m e : Nat) (hp : e.succ = p25519 - 1) (he : e < 2 ^ 255) :
    fMul (2 ^ m % p25519) (fPow (2 ^ m % p25519) e) = 1 := by
  have h1 : (1 : Nat) % p25519 = 1 := by decide
  rw [pow_eq _ _ he, fMul, ← Nat.pow_mod, Nat.mod_mul_mod, Nat.mul_mod_mod, Nat.mul_comm, ← Nat.pow_succ, Nat.pow_right_comm,
    Nat.pow_mod, two_order _ hp, Nat.one_pow, h1]
theorem inv_two_pow (m : Nat) : fMul (2 ^ m % p25519) (fInv (2 ^ m % p25519)) = 1 :=
  inv_core m (p25519 - 2) (by decide) (by decide)
def Neutral (q : EdPt) : Prop := ∃ m : Nat, q = (0, 2 ^ m % p25519, 2 ^ m % p25519, 0)
theorem neutral_add {q r : EdPt} (hq : Neutral q) (hr : Neutral r) : Neutral (edAdd q r) := by
  obtain ⟨m, rfl⟩ := hq
  obtain ⟨n, rfl⟩ := hr
  refine ⟨2 * (m + n + 1), ?_⟩
  have hlt (k : Nat) : 2 ^ k % p25519 < p25519 := Nat.mod_lt _ (by decide)
  have ha (k : Nat) : fAdd (2 ^ k % p25519) 0 = 2 ^ k % p25519 := by rw [fAdd, Nat.add_zero, Nat.mod_mod]
  have hs (k : Nat) : fSub (2 ^ k % p25519) 0 = 2 ^ k % p25519 := by
    rw [fSub, Nat.zero_mod, Nat.sub_zero, Nat.add_mod_right, Nat.mod_mod]
  have hm (j k : Nat) : fMul (2 ^ j % p25519) (2 ^ k % p25519) = 2 ^ (j + k) % p25519 := by
    rw [fMul, ← Nat.mul_mod, Nat.pow_add]
  have h2 (k : Nat) : fMul 2 (2 ^ k % p25519) = 2 ^ (k + 1) % p25519 := by
    rw [fMul, Nat.mul_mod_mod, Nat.pow_succ, Nat.mul_comm]
  have hd (k : Nat) : fAdd (2 ^ k % p25519) (2 ^ k % p25519) = 2 ^ (k + 1) % p25519 := by
    rw [fAdd, ← Nat.add_mod, Nat.pow_succ, Nat.mul_two]
  have hz (k : Nat) : fSub (2 ^ k % p25519) (2 ^ k % p25519) = 0 := by
    rw [fSub, Nat.mod_mod, Nat.add_sub_cancel_left, Nat.mod_self]
  have h0 (x : Nat) : fMul 0 x = 0 := by rw [fMul, Nat.zero_mul, Nat.zero_mod]
  have h00 : fMul (fMul 2 0) edD = 0 := by rw [show fMul 2 0 = 0 from rfl, h0]
  have e2 (k : Nat) : k + 1 + (k + 1) = 2 * (k + 1) := by omega
  simp only [edAdd, ha, hs, hm, h2, hd, hz, h0, h00, e2]
theorem neutral_loop (s : Nat) (p : EdPt) (hp : ∀ k, bit s k = true → Neutral p) :
    ∀ (k : Nat) (acc : EdPt), Neutral acc → Neutral (edMulLoop k s p acc)
  | 0, _, h => h
  | k + 1, acc, h => by
    show Neutral (edMulLoop k s p (if bit s k then edAdd (edAdd acc acc) p else edAdd acc acc))
    refine neutral_loop s p hp k _ ?_
    by_cases hb : bit s k = true
    · rw [if_pos hb]
      exact neutral_add (neutral_add h h) (hp k hb)
    · rw [if_neg hb]
      exact neutral_add h h
theorem neutral_one : Neutral (0, 1, 1, 0) := ⟨0, by decide⟩
theorem neutral_encode {q : EdPt} (h : Neutral q) : edEncode q = leBytes 32 1 := by
  obtain ⟨m, rfl⟩ := h
  have h0 (x : Nat) : fMul 0 x = 0 := by rw [fMul, Nat.zero_mul, Nat.zero_mod]
  simp only [edEncode, inv_two_pow, h0]
  decide
theorem signs_all (m : List Byte) : edVerify (leBytes 32 1) m (leBytes 32 1 ++ zeros 32) = true := by
  have hd : edDecode (leBytes 32 1) = some (0, 1, 1, 0) := by decide +kernel
  have ht : (leBytes 32 1 ++ zeros 32).take 32 = leBytes 32 1 := by decide
  have hs : leNat (((leBytes 32 1 ++ zeros 32).drop 32).take 32) = 0 := by decide
  have hb (p : EdPt) : Neutral (edMul 0 p) :=
    neutral_loop 0 p (fun k h => by simp [bit] at h) 256 _ neutral_one
  have hk (k : Nat) : Neutral (edMul k (0, 1, 1, 0)) := neutral_loop k _ (fun _ _ => neutral_one) 256 _ neutral_one
  simp only [edVerify, ht, hs, hd, neutral_encode (hb _), neutral_encode (neutral_add neutral_one (hk _))]
  decide
theorem w_owner_change :
    Served (on 0) (.ownerChange rq (leBytes 32 1) (leBytes 32 1 ++ zeros 32)) opOwnerChange rq (ses 0) ∧
    ((leBytes 32 1).all fun b => b = 0) = false ∧ asyncCount (on 0) 0 rq.session.toNat < 4096 ∧
    edVerify (fit 32 (leBytes 32 1)) (ownerMessage (on 0) (leBytes 32 1)) (fit 64 (leBytes 32 1 ++ zeros 32)) = true :=
  ⟨served (by decide +kernel), by decide, by decide +kernel, by
    rw [show fit 32 (leBytes 32 1) = leBytes 32 1 by decide, show fit 64 (leBytes 32 1 ++ zeros 32) = leBytes 32 1 ++ zeros 32 by decide]
    exact signs_all _⟩

end Sys2Proof.Tests
end

section
/-! SUPPORT. What a store to a tenant's memory changes (R114, R127, R154). -/

namespace Sys2Proof.Machine

open Sys2Proof

/-! ## Bytes that a store does not touch -/

/-- A store leaves the bytes of other tenants, and those of its own tenant outside its range. -/
theorem hbmRead_hbmWrite_out (s : State) {t u va a n : Nat} {l : List Byte} (hl : va + l.length ≤ 2 ^ 48)
    (hn : a + n ≤ 2 ^ 48) (h : u ≠ t ∨ a + n ≤ va ∨ va + l.length ≤ a) :
    hbmRead (hbmWrite s t va l) u a n = hbmRead s u a n := by
  cases l with
  | nil => rfl
  | cons b r =>
    rw [List.length_cons] at hl h
    refine List.map_congr_left fun i hi => memRead_memWrites_out _ _ _ ?_
    have hi := List.mem_range.1 hi
    have ha : a % 2 ^ 48 = a := Nat.mod_eq_of_lt (by omega)
    have hva : va % 2 ^ 48 = va := Nat.mod_eq_of_lt (by omega)
    rw [hbmKey, hbmKey, ha, hva, List.length_cons]
    omega

/-! ## Lines that take new check bits -/

/-- Healing lines changes records of tenants alone. -/
theorem healLines_frame (s : State) (t va n : Nat) : { healLines s t va n with tenants := s.tenants } = s := by
  unfold healLines
  split <;> rfl

@[simp] theorem healLines_hbm (s : State) (t va n : Nat) : (healLines s t va n).hbm = s.hbm :=
  (congrArg State.hbm (healLines_frame s t va n) :)

/-- Of the tenant's record, the lines that the range covers whole are bad no more. -/
theorem getTen_healLines_self (s : State) (t va n : Nat) :
    getTen (healLines s t va n) t = { getTen s t with mem := { (getTen s t).mem with
      badLines := (getTen s t).mem.badLines.filter fun l => !(decide (va ≤ l) && decide (l + 64 ≤ va + n)) } } := by
  unfold healLines
  split
  · rename_i h
    rw [h, List.filter_nil, ← h]
  · rw [getTen_modTen_self]

theorem getTen_healLines_ne (s : State) {t u : Nat} (va n : Nat) (h : u ≠ t) :
    getTen (healLines s t va n) u = getTen s u := by
  unfold healLines
  split
  · rfl
  · exact getTen_modTen_ne s _ h

/-! ## A store -/

@[simp] theorem hbmRead_storeBytes (s : State) (t va : Nat) (l : List Byte) (u a n : Nat) :
    hbmRead (storeBytes s t va l) u a n = hbmRead (hbmWrite s t va l) u a n := by
  simp only [hbmRead, storeBytes, healLines_hbm]

/-- Beside memory, a store changes records of tenants alone. -/
theorem storeBytes_frame (s : State) (t va : Nat) (l : List Byte) :
    { storeBytes s t va l with hbm := s.hbm, tenants := s.tenants } = s := by
  have h := healLines_frame (hbmWrite s t va l) t va l.length
  exact congrArg (fun u : State => { u with hbm := s.hbm }) h

end Sys2Proof.Machine
end

section
/-! SUPPORT. How the register map keeps a written word (R8), and the checks of one word in the order of R94. -/

namespace Sys2Proof.Machine

open Sys2Proof

/-! ## The map keeps a word (R8) -/

/-- A word as kept bits take the written ones and the others stay. -/
def mixKept (r : RegSpec) (old v : Nat) : Nat := (old &&& (cap32 ^^^ r.kept)) ||| (v &&& r.kept)

/-- Without RWS bits the word itself is written; a written 1 clears a W1C bit. -/
theorem keepWord_direct {s : State} {a v i : Nat} {r : RegSpec} (h : findReg a = some (i, r)) (ha : a ≠ aCmdPorts)
    (hr : (r.has fun x => x = .rws) = false) :
    keepWord s a v =
      setRegW s a (mixKept r (regW s a) v &&& (cap32 ^^^ (v &&& maskOf (fun x => x = .w1c) r.fields))) := by
  simp [keepWord, h, ha, hr, mixKept]

/-- With RWS bits the pending word is written. -/
theorem keepWord_pending {s : State} {a v i : Nat} {r : RegSpec} (h : findReg a = some (i, r)) (ha : a ≠ aCmdPorts)
    (hr : (r.has fun x => x = .rws) = true) :
    keepWord s a v = { s with pend := tabSet s.pend a (BitVec.ofNat 32 (mixKept r (pendW s a) v)) } := by
  simp [keepWord, h, ha, hr, mixKept]

/-- The pending word of another register stays, whichever word is written. -/
theorem pendW_setRegW_ne (s : State) {a b : Nat} (v : Nat) (h : b ≠ a) : pendW (setRegW s a v) b = pendW s b := by
  unfold pendW
  rw [regW_setRegW_ne s v h]
  rfl

@[simp] theorem pendW_setPend_self (s : State) (a : Nat) (w : Word) :
    pendW { s with pend := tabSet s.pend a w } a = w.toNat := by
  simp [pendW]

theorem pendW_setPend_ne (s : State) {a b : Nat} (w : Word) (h : b ≠ a) :
    pendW { s with pend := tabSet s.pend a w } b = pendW s b := by
  simp only [pendW, tabFind_tabSet_ne _ _ h]
  rfl

/-- A written word changes the register at its own address alone. -/
theorem keepWord_other {s : State} {a v i : Nat} {r : RegSpec} (h : findReg a = some (i, r)) (ha : a ≠ aCmdPorts)
    {b : Nat} (hb : b ≠ a) : regW (keepWord s a v) b = regW s b ∧ pendW (keepWord s a v) b = pendW s b := by
  cases hr : r.has fun x => x = .rws with
  | false =>
    rw [keepWord_direct h ha hr]
    exact ⟨regW_setRegW_ne s _ hb, pendW_setRegW_ne s _ hb⟩
  | true =>
    rw [keepWord_pending h ha hr]
    exact ⟨rfl, pendW_setPend_ne s _ hb⟩

/-! ## Reads (R92) -/

/-- A tenant-class register reads 0 for a tenant that it does not act for. -/
theorem readWord_other_tenant {s : State} {t a i : Nat} {r : RegSpec} (h : findReg a = some (i, r)) (hc : r.cls = .tenant)
    (hx : actsFor s t i a r.part = false) : readWord s t a = some 0 := by
  simp [readWord, h, hc, hx]

/-! ## The checks of one word (R94) -/

theorem firstFault_true {e : Nat × Nat} {l : List (Bool × (Nat × Nat))} : firstFault ((true, e) :: l) = some e := rfl
theorem firstFault_false {e : Nat × Nat} {l : List (Bool × (Nat × Nat))} : firstFault ((false, e) :: l) = firstFault l := rfl

section
variable {s : State} {t a v i : Nat} {via : Via} {r : RegSpec}

theorem wordFault_unmapped (h : findReg a = none) : wordFault s t via a v = some (stBadParam, dtUnmappedAddress) := by
  simp [wordFault, h]

theorem wordFault_class (h : findReg a = some (i, r)) (hw : mayWrite s t via i a r = false) :
    wordFault s t via a v = some (stNotPermitted, dtPermissionClass) := by
  simp [wordFault, h, hw, firstFault_true]

theorem wordFault_reserved (h : findReg a = some (i, r)) (hw : mayWrite s t via i a r = true)
    (hv : v &&& (cap32 ^^^ r.covered) ≠ 0) : wordFault s t via a v = some (stBadParam, dtReservedNonzero) := by
  simp [wordFault, h, hw, hv, firstFault_true, firstFault_false]

theorem wordFault_readOnly (h : findReg a = some (i, r)) (hw : mayWrite s t via i a r = true)
    (hv : v &&& (cap32 ^^^ r.covered) = 0) (hc : (v ^^^ currentWord s t a) &&& roMask r ≠ 0) :
    wordFault s t via a v = some (stNotPermitted, dtReadOnlyField) := by
  simp [wordFault, h, hw, hv, hc, firstFault_true, firstFault_false]

theorem wordFault_range (h : findReg a = some (i, r)) (hw : mayWrite s t via i a r = true)
    (hv : v &&& (cap32 ^^^ r.covered) = 0) (hc : (v ^^^ currentWord s t a) &&& roMask r = 0) (hr : r.inRange v = false) :
    wordFault s t via a v = some (stBadParam, dtValueRange) := by
  simp [wordFault, h, hw, hv, hc, hr, firstFault_true, firstFault_false]

/-- No write reaches a device-class register (R9). -/
theorem mayWrite_device (h : r.cls = .device) : mayWrite s t via i a r = false := by
  simp [mayWrite, h]

/-- A register of the owner class takes writes of tenant 0 alone (R9). -/
theorem mayWrite_owner (h : r.cls = .owner) (ht : t ≠ 0) : mayWrite s t via i a r = false := by
  simp [mayWrite, h, ht]

end

end Sys2Proof.Machine
end

section
/-! SUPPORT. Packets of a session that leave (R69 to R74): they change nothing of the machine but what SameButReply names,
and the place of the receive window stays. -/

namespace Sys2Proof.Machine

open Sys2Proof

/-! ## Frames that the MAC does not stamp -/

/-- A frame that leaves as it is, with nothing to follow it. -/
def LeavesPlain (o : Output) : Prop := ∀ s : State, depart s o = ({ s with sent := o :: s.sent }, [])

/-- With no port that paces its frames, such a frame leaves or is lost. -/
theorem out_unpaced {s : State} {o : Output} (ho : LeavesPlain o) (h : ∀ p, paced s p = false) :
    (out s o).net = s.net ∧ (out s o).egress = s.egress := by
  unfold out
  split
  · exact ⟨rfl, rfl⟩
  · split
    · rw [ho]; exact ⟨rfl, rfl⟩
    · split
      · exact ⟨rfl, rfl⟩
      · rw [h, ho]; exact ⟨rfl, rfl⟩

theorem out_link (s : State) (o : Output) : (out s o).link = s.link := (congrArg State.link (out_sends s o).rest :)
theorem out_regs (s : State) (o : Output) : (out s o).regs = s.regs := (congrArg State.regs (out_sends s o).rest :)
theorem out_chip (s : State) (o : Output) : (out s o).chip = s.chip := (congrArg State.chip (out_sends s o).rest :)

@[simp] theorem getSes_out (s : State) (o : Output) (i : Nat) : getSes (out s o) i = getSes s i := by
  simp only [getSes, out_link]

theorem out_same (s : State) (i : Nat) {o : Output} (ho : LeavesPlain o) : SameButReply s (out s o) i where
  rest := by
    have h := (out_sends s o).rest
    rwa [out_link, out_regs, out_chip] at h
  net := ⟨(out_sends s o).net, (out_sends s o).ports, out_unpaced ho⟩
  link := by rw [out_link]
  sessions j _ := getSes_out s o j
  session ss h := ⟨ss, by rwa [getSes_out], rfl⟩
  regs a _ := by simp only [regW, out_regs]
  chip := by rw [out_chip]
  ports h := ⟨out_regs s o, by rw [out_link, h]⟩
  reset h := ⟨out_chip s o, by rw [out_link, h]⟩

/-! ## Ports that let a frame go at once -/

theorem portFree_congr {s t : State} {p : Nat} (hn : t.net = s.net) (he : t.egress = s.egress)
    (hr : ∀ a, a ≠ 0x10000 → regW t a = regW s a) {v6 : Bool} (h : PortFree s p v6) : PortFree t p v6 := by
  have ha : aPort p 0x10 ≠ 0x10000 := by unfold aPort; omega
  obtain ⟨hl, hp, h6⟩ := h
  have hg : getPort t p = getPort s p := by simp only [getPort, hn]
  refine ⟨by rw [hg, hl], by rw [paced_congr hn he hr, hp], h6.imp_right fun h => ?_⟩
  rwa [ip4Up, hg, hr _ ha]

theorem out_ackOnly_at_once {s : State} {w : Wire} (i ctl ack : Nat) (h : PortFree s w.eth w.v6) :
    out s (.ackOnly i ctl ack w) = { s with sent := .ackOnly i ctl ack w :: s.sent } := by
  obtain ⟨hl, hg, h6⟩ := h
  have hm : muted s (.ackOnly i ctl ack w) = false := by
    obtain h | h := h6 <;> simp [muted, h]
  exact out_at_once hm rfl hl hg rfl

/-! ## What waits for a reply -/

theorem armReset_frame (s : State) (i tag : Nat) : { armReset s i tag with chip := s.chip, link := s.link } = s ∧
    (armReset s i tag).link.sessions = s.link.sessions := by
  unfold armReset
  split <;> exact ⟨rfl, rfl⟩

/-- What takes effect once a reply is sent writes registers, timers of the chip and what waited for the reply. -/
theorem afterSent_frame (s : State) (i : Nat) (m : Msg) :
    { afterSent s i m with regs := s.regs, chip := s.chip, link := s.link } = s ∧
      (afterSent s i m).link.sessions = s.link.sessions := by
  obtain ⟨hf, hs⟩ := armReset_frame s i m.tag
  unfold afterSent
  split
  · exact ⟨rfl, rfl⟩
  · dsimp only
    split <;> exact ⟨congrArg (fun u : State => { u with regs := s.regs }) hf, hs⟩

@[simp] theorem afterSent_net (s : State) (i : Nat) (m : Msg) : (afterSent s i m).net = s.net :=
  (congrArg State.net (afterSent_frame s i m).1 :)
@[simp] theorem afterSent_egress (s : State) (i : Nat) (m : Msg) : (afterSent s i m).egress = s.egress :=
  (congrArg State.egress (afterSent_frame s i m).1 :)
@[simp] theorem getSes_afterSent (s : State) (i : Nat) (m : Msg) (j : Nat) : getSes (afterSent s i m) j = getSes s j := by
  simp only [getSes, (afterSent_frame s i m).2]

/-! ## Sending a packet -/

theorem getSes_transmit (s : State) (i : Nat) (ss : Session) (m : Msg) :
    ∃ tx, getSes (transmit s i ss m) i = some { ss with tx := tx, rx := { ss.rx with unacked := 0, ackDue := none } } :=
  ⟨_, by simp only [transmit, sendPacket, getSes_afterSent, getSes_out, getSes_setSes_self]; rfl⟩

/-- A port that lets a session's packets go at once still does when one has gone. -/
theorem transmit_portFree {s : State} (i : Nat) {ss : Session} (m : Msg) (h : PortFree s ss.eth ss.src.v6) :
    PortFree (transmit s i ss m) ss.eth ss.src.v6 := by
  refine portFree_congr (afterSent_net ..) (afterSent_egress ..) (afterSent_same _ i m).regs ?_
  rw [sendPacket, out_packet_at_once]
  · exact h
  · exact h

/-- From s, where session i is ss, to t, where it is u, packets of the session went: the receive window stands where it
stood, and a port that let them go at once still does. -/
structure KeepsWindow (s t : State) (i : Nat) (ss u : Session) : Prop where
  same : SameButReply s t i
  before : getSes s i = some ss
  after : getSes t i = some u
  record : { u with tx := ss.tx, rx := ss.rx } = ss
  next : u.rx.next = ss.rx.next
  buf : u.rx.buf = ss.rx.buf
  free : PortFree s ss.eth ss.src.v6 → PortFree t ss.eth ss.src.v6

namespace KeepsWindow

variable {s t v : State} {i : Nat} {ss u x : Session}

theorem refl (h : getSes s i = some ss) : KeepsWindow s s i ss ss :=
  ⟨sameButReply_refl s i, h, h, rfl, rfl, rfl, id⟩

theorem eth_eq (h : KeepsWindow s t i ss u) : u.eth = ss.eth := (congrArg Session.eth h.record :)
theorem src_eq (h : KeepsWindow s t i ss u) : u.src = ss.src := (congrArg Session.src h.record :)
theorem closing_eq (h : KeepsWindow s t i ss u) : u.closing = ss.closing := (congrArg Session.closing h.record :)

theorem trans (h : KeepsWindow s t i ss u) (k : KeepsWindow t v i u x) : KeepsWindow s v i ss x where
  same := sameButReply_trans h.same k.same
  before := h.before
  after := k.after
  record := by rw [← h.record, ← k.record]
  next := k.next.trans h.next
  buf := k.buf.trans h.buf
  free hp := by
    have hk := k.free
    rw [h.eth_eq, h.src_eq] at hk
    exact hk (h.free hp)

end KeepsWindow

/-- The send side of a session may change by itself. -/
theorem setSes_keepsWindow {s : State} {i : Nat} {ss : Session} (h : getSes s i = some ss) (tx : SessTx) :
    KeepsWindow s (setSes s i { ss with tx := tx }) i ss { ss with tx := tx } :=
  ⟨setSes_same h rfl, h, getSes_setSes_self .., rfl, rfl, rfl, id⟩

theorem transmit_keepsWindow {s : State} {i : Nat} {ss : Session} (h : getSes s i = some ss) (tx : SessTx) (m : Msg) :
    ∃ u, KeepsWindow s (transmit s i { ss with tx := tx } m) i ss u := by
  obtain ⟨tx', hu⟩ := getSes_transmit s i { ss with tx := tx } m
  exact ⟨_, transmit_same m h rfl, h, hu, rfl, rfl, rfl, transmit_portFree (ss := { ss with tx := tx }) i m⟩

theorem flushWaiting_keepsWindow (k : Nat) {s : State} {i : Nat} {ss : Session} (h : getSes s i = some ss) :
    ∃ u, KeepsWindow s (flushWaiting k s i) i ss u := by
  induction k generalizing s ss with
  | zero => exact ⟨ss, .refl h⟩
  | succ k ih =>
    simp only [flushWaiting, h]
    split
    · exact ⟨ss, .refl h⟩
    · rename_i m r _
      split
      · obtain ⟨u, hu⟩ := transmit_keepsWindow h { ss.tx with waiting := r } m
        obtain ⟨x, hx⟩ := ih hu.after
        exact ⟨x, hu.trans hx⟩
      · exact ⟨ss, .refl h⟩

/-- An acknowledgement moves the send side of its session alone (R71, R72, R74). -/
theorem ackAdvance_keepsWindow {s : State} {i : Nat} {ss : Session} (ack : Nat) (h : getSes s i = some ss) :
    ∃ u, KeepsWindow s (ackAdvance s i ack) i ss u := by
  simp only [ackAdvance, h]
  split
  · exact ⟨ss, .refl h⟩
  · have hs := setSes_keepsWindow h
    obtain ⟨u, hu⟩ := flushWaiting_keepsWindow (ss.tx.waiting.length + 1) (hs _).after
    exact ⟨u, (hs _).trans hu⟩

/-- An acknowledgement that covers nothing changes nothing. -/
theorem ackAdvance_covers_none {s : State} {i : Nat} {ss : Session} {ack : Nat} (h : getSes s i = some ss)
    (ha : ackCovers ss.tx.unacked ack = 0) : ackAdvance s i ack = s := by
  simp [ackAdvance, h, ha]

theorem finishClose_open {s : State} {i : Nat} {ss : Session} (h : getSes s i = some ss) (hc : ss.closing = none) :
    finishClose s i = s := by
  simp [finishClose, h, hc]

/-- A packet's acknowledgement is taken before its place is judged: it leaves the receive window where it stood. -/
theorem finishClose_ackAdvance_keepsWindow {s : State} {i : Nat} {ss : Session} (ack : Nat) (h : getSes s i = some ss)
    (hc : ss.closing = none) : ∃ u, KeepsWindow s (finishClose (ackAdvance s i ack) i) i ss u := by
  obtain ⟨u, hu⟩ := ackAdvance_keepsWindow ack h
  rw [finishClose_open hu.after (hu.closing_eq.trans hc)]
  exact ⟨u, hu⟩

/-! ## The ack-only packet (R73) -/

/-- The session when an ack-only packet has gone. -/
def acked (ss : Session) : Session :=
  { ss with tx := { ss.tx with ctl := ss.tx.ctl + 1 }, rx := { ss.rx with unacked := 0, ackDue := none } }

/-- The ack-only packet that a session sends next. -/
def nextAck (s : State) (i : Nat) (ss : Session) : Output :=
  .ackOnly i ss.tx.ctl (ss.rx.next - 1) (unicast s ss.eth ss.src (ackBytes i ss ss.tx.ctl (ss.rx.next - 1)))

theorem nextAck_leavesPlain (s : State) (i : Nat) (ss : Session) : LeavesPlain (nextAck s i ss) := fun _ => rfl

theorem sendAck_open {s : State} {i : Nat} {ss : Session} (h : getSes s i = some ss) :
    sendAck s i = out (setSes s i (acked ss)) (nextAck s i ss) := by
  simp only [sendAck, h]
  rfl

theorem sendAck_at_once {s : State} {i : Nat} {ss : Session} (h : getSes s i = some ss) (hp : PortFree s ss.eth ss.src.v6) :
    sendAck s i = { setSes s i (acked ss) with sent := nextAck s i ss :: s.sent } := by
  rw [sendAck_open h, nextAck, out_ackOnly_at_once]
  · rfl
  · exact hp

theorem sendAck_keepsWindow {s : State} {i : Nat} {ss : Session} (h : getSes s i = some ss) :
    KeepsWindow s (sendAck s i) i ss (acked ss) where
  same := by
    rw [sendAck_open h]
    exact sameButReply_trans (setSes_same (u := acked ss) h rfl) (out_same _ i (nextAck_leavesPlain s i ss))
  before := h
  after := by rw [sendAck_open h, getSes_out, getSes_setSes_self]
  record := rfl
  next := rfl
  buf := rfl
  free hp := by
    rw [sendAck_at_once h hp]
    exact hp

/-! ## The receive window (R69 to R71) -/

/-- How far a sequence number on the wire lies ahead of the one that is awaited (R13). -/
def aheadBy (next w : Nat) : Nat := (w + 2 ^ 32 - next % 2 ^ 32) % 2 ^ 32

theorem aheadBy_awaited (n : Nat) : aheadBy n (n % 2 ^ 32) = 0 := by
  unfold aheadBy
  omega

theorem wireCount_awaited (n : Nat) : wireCount n (n % 2 ^ 32) = n := by
  simp [wireCount]

section
variable {s : State} {i w ack : Nat} {p : RxPacket} {ss : Session}

/-- A packet behind the window draws an ack-only packet (R70). -/
theorem takeSequenced_behind (h : getSes s i = some ss) (hd : 2 ^ 31 < aheadBy ss.rx.next w) :
    takeSequenced s i w ack p = sendAck (finishClose (ackAdvance s i ack) i) i := by
  unfold aheadBy at hd
  have h1 : ¬ (w + 2 ^ 32 - ss.rx.next % 2 ^ 32) % 2 ^ 32 < windowSize := by unfold windowSize; omega
  have h2 : ¬ (w + 2 ^ 32 - ss.rx.next % 2 ^ 32) % 2 ^ 32 < 2 ^ 31 := by omega
  have h3 : ¬ (w + 2 ^ 32 - ss.rx.next % 2 ^ 32) % 2 ^ 32 = 2 ^ 31 := by omega
  simp only [takeSequenced, h, if_neg h1, if_neg h2, if_neg h3]

/-- A packet ahead of the window is counted and dropped (R69). -/
theorem takeSequenced_beyond (h : getSes s i = some ss) (hl : 256 ≤ aheadBy ss.rx.next w)
    (hd : aheadBy ss.rx.next w < 2 ^ 31) : takeSequenced s i w ack p = incReg s aDiscWindow 1 cap32 := by
  unfold aheadBy at hl hd
  have h1 : ¬ (w + 2 ^ 32 - ss.rx.next % 2 ^ 32) % 2 ^ 32 < windowSize := Nat.not_lt.2 hl
  simp only [takeSequenced, h, if_neg h1, if_pos hd]

/-- The session when a packet behind a gap has been kept at its place. -/
def buffered (u : Session) (n now : Nat) (p : RxPacket) : Session :=
  { u with rx := { u.rx with buf := u.rx.buf ++ [(n, now, p)] } }

/-- A packet of an open session in the window behind a gap: an ack-only packet goes, and the packet stands buffered,
where it is not already. -/
theorem takeSequenced_gap (h : getSes s i = some ss) (hc : ss.closing = none) (h0 : 0 < aheadBy ss.rx.next w)
    (hd : aheadBy ss.rx.next w < 256) : SameButReply s (takeSequenced s i w ack p) i ∧
      ∃ u, getSes (takeSequenced s i w ack p) i = some u ∧ u.rx.next = ss.rx.next ∧
        (u.rx.buf.any fun x => x.1 = ss.rx.next + aheadBy ss.rx.next w) = true := by
  obtain ⟨u, hu⟩ := finishClose_ackAdvance_keepsWindow ack h hc
  have hw : (w + 2 ^ 32 - ss.rx.next % 2 ^ 32) % 2 ^ 32 < windowSize := hd
  have hn : ¬ (w + 2 ^ 32 - ss.rx.next % 2 ^ 32) % 2 ^ 32 = 0 := Nat.ne_of_gt h0
  simp only [takeSequenced, h, if_pos hw, hu.after, if_neg hn]
  split
  · rename_i hb
    have ha := sendAck_keepsWindow hu.after
    refine ⟨sameButReply_trans hu.same ha.same, _, ha.after, ha.next.trans hu.next, ?_⟩
    rw [ha.buf, ← hu.next]
    simpa only [aheadBy, hu.next] using hb
  · let v := buffered u (u.rx.next + aheadBy ss.rx.next w) (finishClose (ackAdvance s i ack) i).now p
    have hs := setSes_same hu.after (u := v) rfl
    have ha := sendAck_keepsWindow (getSes_setSes_self (finishClose (ackAdvance s i ack) i) i v)
    refine ⟨sameButReply_trans (sameButReply_trans hu.same hs) ha.same, _, ha.after, ha.next.trans hu.next, ?_⟩
    rw [ha.buf]
    simp [v, buffered, hu.next]

end

/-! ## The packet that the stream waits for -/

section
variable {s : State} {i ack : Nat} {p : RxPacket} {ss : Session}

/-- With nothing buffered behind it and no burst full, the awaited packet alone is received and runs. -/
theorem acceptNext_alone (hb : ss.rx.buf = []) (hu : ss.rx.unacked + 1 < 32) :
    acceptNext s i ss p = runPacket (setSes s i { ss with rx := { ss.rx with
      next := ss.rx.next + 1
      unacked := ss.rx.unacked + 1
      ackDue := some (min (ss.rx.ackDue.getD (s.now + 80000)) (s.now + 80000)) } }) i p := by
  have hc : contiguous windowSize (ss.rx.next + 1) [] = [] := rfl
  have ha : ¬ ackBurst ≤ ss.rx.unacked + 1 := Nat.not_le.2 hu
  simp only [acceptNext, hb, hc, List.length_cons, List.length_nil, List.filter_nil, List.map_cons, List.map_nil,
    List.foldl_cons, List.foldl_nil, Nat.zero_add, if_neg ha, Nat.min_self]
  rfl

theorem takeSequenced_awaited (h : getSes s i = some ss) (hc : ss.closing = none) (ha : ackCovers ss.tx.unacked ack = 0) :
    takeSequenced s i (ss.rx.next % 2 ^ 32) ack p = acceptNext s i ss p := by
  have h0 : (ss.rx.next % 2 ^ 32 + 2 ^ 32 - ss.rx.next % 2 ^ 32) % 2 ^ 32 = 0 := aheadBy_awaited _
  have hw : 0 < windowSize := by decide
  simp only [takeSequenced, h, h0, if_pos hw, ackAdvance_covers_none h ha, finishClose_open h hc, if_true]

/-- A packet that passes checks 6 to 11 of R65 is taken as the request that it spells (R77). -/
theorem runPacket_passes {c : Instr} (h : getSes s i = some ss) (hl : inLine ss = false) (hh : headFault s ss p = none)
    (hf : requestFault s ss p.op p.tag p.payload = none)
    (hc : requestOf p.op ⟨BitVec.ofNat 32 i, BitVec.ofNat 32 p.tag⟩ p.payload = some c) : runPacket s i p = runRequest c s := by
  simp [runPacket, h, hl, hh, hf, hc]

end

/-! ## A request is its command -/

theorem reqOf_of_branch {q : Prop} [Decidable q] {rq : Req} {x c : Instr} {y : Option Instr} (hx : reqOf x = some rq)
    (hy : y = some c → reqOf c = some rq) (h : (if q then some x else y) = some c) : reqOf c = some rq := by
  split at h
  · rwa [← Option.some.inj h]
  · exact hy h

/-- The command that a payload spells is the request with that session and tag: every branch of requestOf is. -/
theorem reqOf_requestOf {op : Nat} {rq : Req} {p : List Byte} {c : Instr} :
    requestOf op rq p = some c → reqOf c = some rq := by
  unfold requestOf
  repeat refine reqOf_of_branch rfl ?_
  exact nofun

/-- A command that a request carries runs as the request does, once the request has been heard. -/
theorem exec_request {c : Instr} {rq : Req} (h : reqOf c = some rq) (s : State) :
    exec c s = .next (runRequest c (hear rq s)) := by
  cases c
  all_goals cases h
  all_goals rfl

/-! ## A received packet and its request -/

theorem tabSet_tabSet {α : Type} (t : Tab α) (k : Nat) (v w : α) : tabSet (tabSet t k v) k w = tabSet t k w := by
  induction t with
  | nil => simp [tabSet]
  | cons x r ih =>
    obtain ⟨j, y⟩ := x
    by_cases h : k < j
    · simp [tabSet, h]
    · by_cases e : k = j
      · simp [tabSet, e]
      · simp [tabSet, h, e, ih]

theorem leNat_lt (l : List Byte) : leNat l < 256 ^ l.length := by
  induction l with
  | nil => decide
  | cons b r ih =>
    have hb := b.isLt
    rw [leNat, List.length_cons, Nat.pow_succ]
    omega

theorem leAt_lt (l : List Byte) (off n : Nat) : leAt l off n < 256 ^ n :=
  Nat.lt_of_lt_of_le (leNat_lt _) (Nat.pow_le_pow_right (by decide) (List.length_take_le n _))

/-- A number of four bytes is the word that it spells. -/
theorem toNat_ofNat_leAt (l : List Byte) (off : Nat) : (BitVec.ofNat 32 (leAt l off 4)).toNat = leAt l off 4 := by
  have h := leAt_lt l off 4
  rw [BitVec.toNat_ofNat]
  omega

/-- A packet just received is the newest that its host has been heard by: its request, heard again, changes nothing. -/
theorem hear_received (v : State) (d : Datagram) (ss : Session) {rq : Req} {id : Nat} (h : rq.session.toNat = id) :
    hear rq (received v d id ss) = received v d id ss := by
  unfold hear
  split
  · simp only [h, received, getSes_setSes_self]
    simp only [modTen, setTen, setSes, getTen, tabGet_tabSet_self, tabSet_tabSet]
  · rfl

/-- The return address is written again with the receipt. -/
theorem setSes_modTen_setSes (s : State) (i t : Nat) (f : Tenant → Tenant) (x y : Session) :
    setSes (modTen (setSes s i x) t f) i y = setSes (modTen s t f) i y := by
  simp only [setSes, modTen, setTen, getTen, tabSet_tabSet]

theorem closing_of_inLine {ss : Session} (h : inLine ss = false) : ss.closing = none := by
  simp only [inLine, Bool.or_eq_false_iff, Option.isSome_eq_false_iff, Option.isNone_iff_eq_none] at h
  exact h.2

/-- What a header and its payload say (R56). -/
def packetOf (hd payload : List Byte) : RxPacket :=
  { major := leAt hd 2 1, op := leAt hd 4 2, tenant := leAt hd 6 1, flags := leAt hd 7 1, tag := leAt hd 24 4,
    status := leAt hd 28 2, detail := leAt hd 30 2, payload := payload }

/-- The session that a host's packet has moved to where the packet came from (R53). -/
def movedTo (d : Datagram) (ss : Session) : Session := { ss with eth := d.frame.eth.val, src := d.src }

/-- The state when a packet has been authenticated: the return address and the heartbeat are new (R53, R75). -/
def authenticated (s : State) (d : Datagram) (i : Nat) (ss : Session) : State :=
  modTen (setSes s i (movedTo d ss)) ss.tenant fun x => { x with lastAuth := some s.now }

section
variable {s : State} {d : Datagram} {i : Nat} {ss : Session} {hd ct tag payload : List Byte}

/-- A packet whose tag does not fit is counted (R65, check 4). -/
theorem takeKeyed_badTag (hf : leAt hd 7 1 ≠ fgAckOnly)
    (hg : gcmOpen ss.keyIn (packetNonce i (wireCount ss.rx.next (leAt hd 12 4)) false false) hd ct tag = none) :
    takeKeyed s d i ss hd ct tag = incReg s aDiscTag 1 cap32 := by
  simp only [takeKeyed, decide_eq_false hf, Bool.false_eq_true, if_false, hg]

theorem takeKeyed_sequenced (hf : leAt hd 7 1 ≠ fgAckOnly)
    (hg : gcmOpen ss.keyIn (packetNonce i (wireCount ss.rx.next (leAt hd 12 4)) false false) hd ct tag = some payload) :
    takeKeyed s d i ss hd ct tag =
      takeSequenced (authenticated s d i ss) i (leAt hd 12 4) (leAt hd 16 4) (packetOf hd payload) := by
  simp only [takeKeyed, decide_eq_false hf, Bool.false_eq_true, if_false, hg]
  rfl

/-- The awaited packet of a session, whose tag fits, is received and goes to the command sequencer (R59, R68, R75). -/
theorem takeKeyed_awaited (hf : leAt hd 7 1 ≠ fgAckOnly) (hw : leAt hd 12 4 = ss.rx.next % 2 ^ 32)
    (hg : gcmOpen ss.keyIn (packetNonce i ss.rx.next false false) hd ct tag = some payload)
    (ha : ackCovers ss.tx.unacked (leAt hd 16 4) = 0) (hb : ss.rx.buf = []) (hu : ss.rx.unacked + 1 < 32)
    (hc : ss.closing = none) :
    takeKeyed s d i ss hd ct tag = runPacket (received s d i ss) i (packetOf hd payload) := by
  have hx : getSes (authenticated s d i ss) i = some (movedTo d ss) := getSes_setSes_self ..
  rw [takeKeyed_sequenced hf (by rw [hw, wireCount_awaited, hg]), hw]
  calc takeSequenced (authenticated s d i ss) i (ss.rx.next % 2 ^ 32) (leAt hd 16 4) (packetOf hd payload)
    _ = acceptNext (authenticated s d i ss) i (movedTo d ss) (packetOf hd payload) := takeSequenced_awaited hx hc ha
    _ = _ := acceptNext_alone hb hu
    _ = runPacket (received s d i ss) i (packetOf hd payload) :=
      congrArg (runPacket · i _) (setSes_modTen_setSes ..)

end

/-! ## Datagrams (R51, R55, R65) -/

section
variable {d : Datagram} {s u : State}

/-- Checks 1 and 2 of R65: length and magic. -/
theorem takeDatagram_malformed (h : d.bytes.length < 48 ∨ d.bytes.length ≠ 48 + leAt (d.bytes.take 32) 20 4 ∨
    leAt (d.bytes.take 32) 0 2 ≠ 0x4E44) : takeDatagram s d = incReg s aDiscFormat 1 cap32 := if_pos h

theorem takeDatagram_keyed {ss : Session} (hl : d.bytes.length = 48 + leAt (d.bytes.take 32) 20 4)
    (hm : leAt (d.bytes.take 32) 0 2 = 0x4E44) (h0 : leAt (d.bytes.take 32) 8 4 ≠ 0)
    (hs : getSes s (leAt (d.bytes.take 32) 8 4) = some ss) :
    takeDatagram s d = takeKeyed s d (leAt (d.bytes.take 32) 8 4) ss (d.bytes.take 32)
      (sliceAt d.bytes 32 (leAt (d.bytes.take 32) 20 4)) (d.bytes.drop (32 + leAt (d.bytes.take 32) 20 4)) := by
  have h : ¬ (d.bytes.length < 48 ∨ d.bytes.length ≠ 48 + leAt (d.bytes.take 32) 20 4 ∨
      leAt (d.bytes.take 32) 0 2 ≠ 0x4E44) := by omega
  simp only [takeDatagram, if_neg h, if_neg h0, hs]

/-- A frame longer than a port accepts is lost (R481). -/
theorem receiveFrame_long {f : FrameInfo} {k : State → State} (h : maxFrame < f.length) : receiveFrame s f k = s := by
  simp [receiveFrame, h]

theorem receiveFrame_filtered {f : FrameInfo} {k : State → State} (hr : isRunning s = true)
    (hl : (getPort s f.eth).link = true) (hn : f.length ≤ maxFrame) (hq : qci s f.eth f = (u, none)) :
    receiveFrame s f k = incReg u (aPort f.eth 0x50) 1 cap32 := by
  simp [receiveFrame, hr, hl, Nat.not_lt.2 hn, hq]

theorem receiveFrame_passes {f : FrameInfo} {k : State → State} {c : Nat} (hr : isRunning s = true)
    (hl : (getPort s f.eth).link = true) (hn : f.length ≤ maxFrame) (hq : qci s f.eth f = (u, some c)) :
    receiveFrame s f k = k (countClass u f.eth c) := by
  simp [receiveFrame, hr, hl, Nat.not_lt.2 hn, hq]

theorem exec_datagramReceive : exec (.datagramReceive d) s = .next (onDatagram d s) := rfl

section
variable {c : Nat} (hr : isRunning s = true) (hl : (getPort s d.frame.eth).link = true)
  (hn : d.frame.length ≤ maxFrame) (hq : qci s d.frame.eth d.frame = (u, some c))
include hr hl hn hq

/-- A whole datagram on the command port goes through the checks. -/
theorem onDatagram_whole (hf : d.frag = .whole)
    (hp : d.dstPort.toNat = rField (countClass u d.frame.eth c) aCmdPorts 15 0) :
    onDatagram d s = takeDatagram (countClass u d.frame.eth c) d := by
  rw [onDatagram, receiveFrame_passes hr hl hn hq, hf]
  exact if_pos hp

/-- The fragment with the UDP header is counted, where it comes to the command port (R51). -/
theorem onDatagram_firstFragment (hf : d.frag = .first)
    (hp : d.dstPort.toNat = rField (countClass u d.frame.eth c) aCmdPorts 15 0) :
    onDatagram d s = incReg (countClass u d.frame.eth c) aDiscFormat 1 cap32 := by
  rw [onDatagram, receiveFrame_passes hr hl hn hq, hf]
  exact if_pos hp

/-- A later fragment, and a datagram on another port, is no command packet (R51, R55). -/
theorem onDatagram_other (h : d.frag = .later ∨ d.dstPort.toNat ≠ rField (countClass u d.frame.eth c) aCmdPorts 15 0) :
    onDatagram d s = countClass u d.frame.eth c := by
  rw [onDatagram, receiveFrame_passes hr hl hn hq]
  cases hf : d.frag with
  | later => rfl
  | whole => exact if_neg (h.resolve_left (by rw [hf]; nofun))
  | first => exact if_neg (h.resolve_left (by rw [hf]; nofun))

end

end

/-! ## What a sequenced packet does -/

/-- A packet behind the window draws an ack-only packet, and nothing else of the machine changes but the session (R70). -/
theorem takeSequenced_behind_same {s : State} {i w ack : Nat} {p : RxPacket} {ss : Session} (h : getSes s i = some ss)
    (hc : ss.closing = none) (hd : 2 ^ 31 < aheadBy ss.rx.next w) : SameButReply s (takeSequenced s i w ack p) i ∧
      (∃ u, getSes (takeSequenced s i w ack p) i = some u ∧ u.rx.next = ss.rx.next ∧ u.rx.buf = ss.rx.buf) ∧
      (PortFree s ss.eth ss.src.v6 → ∃ x y,
        (takeSequenced s i w ack p).sent.head? = some (.ackOnly i x (ss.rx.next - 1) y)) := by
  obtain ⟨u, hu⟩ := finishClose_ackAdvance_keepsWindow ack h hc
  have hk := hu.trans (sendAck_keepsWindow hu.after)
  rw [takeSequenced_behind h hd]
  refine ⟨hk.same, ⟨_, hk.after, hk.next, hk.buf⟩, fun hp => ?_⟩
  have hp' := hu.free hp
  rw [← hu.eth_eq, ← hu.src_eq] at hp'
  rw [sendAck_at_once hu.after hp', ← hu.next]
  exact ⟨_, _, rfl⟩

/-- A receipt leaves the session's tenant and what of it waits. -/
theorem received_session {v : State} {d : Datagram} {id : Nat} {ss ss' : Session}
    (hs : getSes (received v d id ss) id = some ss') : ss'.tenant = ss.tenant ∧ inLine ss' = inLine ss := by
  rw [received, getSes_setSes_self] at hs
  obtain rfl := Option.some.inj hs
  exact ⟨rfl, rfl⟩

/-- A received packet that passes checks 6 to 11 of R65 has the effect of the command that it spells. -/
theorem runPacket_received {v : State} {d : Datagram} {id : Nat} {ss ss' : Session} {p : RxPacket} {c : Instr}
    (hid : (BitVec.ofNat 32 id).toNat = id) (hs : getSes (received v d id ss) id = some ss') (hl : inLine ss = false)
    (hh : headFault (received v d id ss) ss' p = none)
    (hf : requestFault (received v d id ss) ss' p.op p.tag p.payload = none)
    (hc : requestOf p.op ⟨BitVec.ofNat 32 id, BitVec.ofNat 32 p.tag⟩ p.payload = some c) :
    exec c (received v d id ss) = .next (runPacket (received v d id ss) id p) := by
  rw [runPacket_passes hs ((received_session hs).2.trans hl) hh hf hc, exec_request (reqOf_requestOf hc), hear_received v d ss hid]

end Sys2Proof.Machine
end

section
/-! Registers, stores and datagrams: the statements about the register map (O23), tenants' memory (O26) and the checks of
packets from hosts (O52). -/

namespace Sys2Proof.Machine

open Sys2Proof

/-- Settles O26: a store is a write of memory, whose rules are read off byte by byte, and then a healing of lines, which
leaves memory alone. -/
theorem storeBytesStores : Obligations.StoreBytesStores := by
  intro s t va l hl
  refine ⟨?_, fun u a n hn h => ?_, storeBytes_frame s t va l, fun u h => getTen_healLines_ne _ va l.length h, ?_⟩
  · rw [hbmRead_storeBytes, hbmRead_hbmWrite]
  · rw [hbmRead_storeBytes, hbmRead_hbmWrite_out s hl hn h]
  · have h : getTen (storeBytes s t va l) t = _ := getTen_healLines_self (hbmWrite s t va l) t va l.length
    rw [h]
    exact ⟨rfl, rfl⟩

/-- Settles O23: what the map keeps is read off the write, by whether the register has RWS bits; each refusal is the
first check of R94 that fails. -/
theorem registerAccess : Obligations.RegisterAccess := by
  unfold Obligations.RegisterAccess
  refine ⟨fun s a v i r h ha => ⟨fun hr => ?_, fun hr => ?_, fun b hb => keepWord_other h ha hb⟩,
    fun s t a i r h hc hx => readWord_other_tenant h hc hx,
    fun s t a v i via r h hc => wordFault_class h (mayWrite_device hc),
    fun s t a v i r h hc ht => wordFault_class h (mayWrite_owner hc ht),
    fun s t a v via h => wordFault_unmapped h,
    fun s t a v i via r h hw => ⟨wordFault_reserved h hw, fun hv => ⟨wordFault_readOnly h hw hv, wordFault_range h hw hv⟩⟩⟩
  · rw [keepWord_direct h ha hr, regW_setRegW_self]
    rfl
  · rw [keepWord_pending h ha hr, pendW_setPend_self, BitVec.toNat_ofNat]
    exact ⟨rfl, rfl⟩

/-- Settles O52: the frame's way through its port, the checks of R65 and the receive window, case by case; a packet behind
the window moves what its acknowledgement moves and sends an ack-only packet, and the awaited one is its request. -/
theorem datagramsAreChecked : Obligations.DatagramsAreChecked := by
  unfold Obligations.DatagramsAreChecked
  refine ⟨fun d s u c hr hl hn hq => ⟨fun hf hp => ?_, fun hf hp => ?_, fun h => ?_⟩, fun d s u hr hl hn hq => ?_,
    fun d s h => ?_, fun d s => ⟨fun h => takeDatagram_malformed (.inl h), fun h => takeDatagram_malformed (.inr (.inr h))⟩,
    fun d s i ss hd ct tag hf hg => takeKeyed_badTag hf hg,
    fun s i w ack p ss h _ hc => ⟨takeSequenced_behind_same h hc, takeSequenced_beyond h, takeSequenced_gap h hc⟩, ?_⟩
  · rw [exec_datagramReceive, onDatagram_whole hr hl hn hq hf hp]
  · rw [exec_datagramReceive, onDatagram_firstFragment hr hl hn hq hf hp]
  · rw [exec_datagramReceive, onDatagram_other hr hl hn hq h]
  · rw [exec_datagramReceive, onDatagram, receiveFrame_filtered hr hl hn hq]
  · rw [exec_datagramReceive, onDatagram, receiveFrame_long h]
  · intro d s u k ss ss' payload c hr hl hn hq v hd n id r hf hp hlen hm h0 hs hw hg h2 h6 h7 h28 h30 ha hb hu hi hc hs' hq'
    have hack : leAt hd 7 1 ≠ fgAckOnly := by rw [h7]; decide
    have hh : headFault r ss' (packetOf hd payload) = none := by
      have ht : ss'.tenant = ss.tenant := (received_session hs').1
      simp [headFault, packetOf, h2, h6, h7, h28, h30, ht, ndMajor]
    refine ⟨runPacket r id (packetOf hd payload), ?_, runPacket_received (toNat_ofNat_leAt ..) hs' hi hh hq' hc⟩
    rw [exec_datagramReceive, onDatagram_whole hr hl hn hq hf hp, takeDatagram_keyed hlen hm h0 hs,
      takeKeyed_awaited hack hw hg ha hb hu (closing_of_inLine hi)]

end Sys2Proof.Machine
end

section
/-! SUPPORT. Equal states as equal outcomes. -/

namespace Sys2Proof.Machine

/-- What a command answers is read off the state that its operation leaves. -/
theorem next_eq {s t : State} (h : s = t) : (.next s : Out) = .next t := congrArg _ h

end Sys2Proof.Machine
end

section
/-! SUPPORT. Requests of the display group and what ends them (R465, R472 to R475): one equation per case. -/

namespace Sys2Proof.Machine

open Sys2Proof

/-! ## Requests that are served -/

section
variable {s : State} {rq : Req} {ss : Session}

theorem onDspScan_served (h : Served s (.dspScan rq) opDspScan rq ss) :
    onDspScan rq s = replyOk s opDspScan rq (dspScanReply s) := take_served h _

/-- A transfer joins those of its transmitter (R474). -/
theorem onDspAux_served {a : DspAuxArgs} (h : Served s (.dspAux rq a) opDspAux rq ss) (hf : auxFieldsOk a = true)
    (hm : mayUseTx s ss.tenant a.unit.toNat = true) (ho : a.op = 1 → ss.tenant = 0)
    (hc : asyncCount s ss.tenant rq.session.toNat < 4096) :
    let u := answered s opDspAux rq ss.tenant stAccepted []
    let x := getTx u a.unit.toNat
    onDspAux rq a s = setTx u a.unit.toNat { x with aux := x.aux ++ [(ss.tenant, asyncOf opDspAux rq, a)] } := by
  rw [onDspAux, take_served h, checked_pass (by simpa [firstFault_eq_none, hf, hm] using ho), accept_pass hc]
  rfl

/-- A command joins those of its transmitter (R475). -/
theorem onDspDsiCmd_served {a : DsiCmdArgs} (h : Served s (.dspDsiCmd rq a) opDspDsiCmd rq ss) (h0 : a.reserved = 0)
    (hf : dsiFieldsOk a = true) (hm : mayUseTx s ss.tenant (4 + a.unit.toNat) = true)
    (hc : asyncCount s ss.tenant rq.session.toNat < 4096) :
    let u := answered s opDspDsiCmd rq ss.tenant stAccepted []
    let x := getTx u (4 + a.unit.toNat)
    onDspDsiCmd rq a s =
      setTx u (4 + a.unit.toNat) { x with dsi := x.dsi ++ [(ss.tenant, asyncOf opDspDsiCmd rq, a, none)] } := by
  rw [onDspDsiCmd, take_served h, checked_pass (by simp [firstFault_eq_none, h0, hf, hm]), accept_pass hc]
  rfl

/-- An image is read and waits for its copy (R465). -/
theorem onDspFallbackSet_served {a : FallbackArgs} (h : Served s (.dspFallbackSet rq a) opDspFallbackSet rq ss)
    (hf : firstFault (fallbackChecks s ss.tenant a) = none) (hc : asyncCount s ss.tenant rq.session.toNat < 4096) :
    let u := answered s opDspFallbackSet rq ss.tenant stAccepted []
    onDspFallbackSet rq a s = modPipe u a.pipe.toNat fun x => { x with
      storing := x.storing ++ [(ss.tenant, asyncOf opDspFallbackSet rq,
        (decide (a.va = 0) || (firstBad u ss.tenant a.va.toNat (fallbackBytes a)).isNone), fallbackImage u ss.tenant a)] } := by
  rw [onDspFallbackSet, take_served h, checked_pass hf, accept_pass hc]
  rfl

end

/-! ## A transfer ends (R474) -/

section
variable {s : State} {x t : Nat} {q : Async} {a : DspAuxArgs} {rest : List (Nat × Async × DspAuxArgs)}
  (hr : isRunning s = true) (hp : restarting s 4 = false) (ht : (getTx s x).training = false)
  (ha : (getTx s x).aux = (t, q, a) :: rest)
include ha

/-- While its reference is lost the transfer waits (R45). -/
theorem onAuxDone_referenceLost (r : LinkReply) (hh : (getTx s x).hpd = true) (hc : bit s.chip.clk 4 = false) :
    onAuxDone x r s = s := by
  simp [onAuxDone, ha, hh, hc]

include hr hp ht

theorem onAuxDone_acknowledged (d : List Byte) (hh : (getTx s x).hpd = true) (hc : bit s.chip.clk 4 = true) :
    onAuxDone x (.acknowledged d) s = complete (setTx s x { getTx s x with aux := rest }) t q stOk 0
      (b32 a.address ++ b16 a.length ++ zeros 2 ++ if a.op = 1 then [] else fit a.length.toNat d) := by
  simp [onAuxDone, ha, hr, hp, ht, hh, hc]

theorem onAuxDone_noAcknowledge (hh : (getTx s x).hpd = true) (hc : bit s.chip.clk 4 = true) :
    onAuxDone x .noAcknowledge s = complete (setTx s x { getTx s x with aux := rest }) t q stTimeout 0
      (b32 a.address ++ b16 a.length ++ zeros 2) := by
  simp [onAuxDone, ha, hr, hp, ht, hh, hc]

/-- Without a sink a transfer fails, whether the reference is there or not. -/
theorem onAuxDone_unplugged (r : LinkReply) (hh : (getTx s x).hpd = false) :
    onAuxDone x r s = complete (setTx s x { getTx s x with aux := rest }) t q stNotEnabled 0
      (b32 a.address ++ b16 a.length ++ zeros 2) := by
  simp [onAuxDone, ha, hr, hp, ht, hh]

end

/-! ## A copy ends (R465) -/

section
variable {s : State} {p t : Nat} {q : Async} {im : Option FallbackImage}
  {rest : List (Nat × Async × Bool × Option FallbackImage)} (hr : isRunning s = true) (hp : restarting s 4 = false)
include hr hp

theorem onFallbackCopyDone_good (h : (getPipe s p).storing = (t, q, true, im) :: rest) :
    onFallbackCopyDone p s = complete (modPipe s p fun x => { x with stored := im, storing := rest }) t q stOk 0 [] := by
  simp [onFallbackCopyDone, h, hr, hp]

/-- A spoilt image is counted and not stored (R155). -/
theorem onFallbackCopyDone_spoilt (h : (getPipe s p).storing = (t, q, false, im) :: rest) :
    onFallbackCopyDone p s =
      complete (modPipe (countUncorr s) p fun x => { x with storing := rest }) t q stEccUncorrectable dtEccHbm [] := by
  simp [onFallbackCopyDone, h, hr, hp]

end

/-! ## A command goes out and ends (R475) -/

/-- A DSI packet is no Ethernet frame: it leaves at once. -/
theorem out_dsiSend (s : State) (u : Nat) (a : DsiCmdArgs) : out s (.dsiSend u a) = { s with sent := .dsiSend u a :: s.sent } := rfl

section
variable {s : State} {u t : Nat} {q : Async} {a : DsiCmdArgs} {rest : List (Nat × Async × DsiCmdArgs × Option Nat)}

/-- While its reference is lost the command waits (R45). -/
theorem onDsiCmdSend_referenceLost {due : Option Nat} (r : LinkReply) (h : (getTx s (4 + u)).dsi = (t, q, a, due) :: rest)
    (hc : bit s.chip.clk 5 = false) : onDsiCmdSend u r s = s := by
  simp [onDsiCmdSend, h, hc]

theorem onDsiCmdTimeout_due {due : Nat} (hr : isRunning s = true) (h : (getTx s (4 + u)).dsi = (t, q, a, some due) :: rest)
    (hd : due ≤ s.now) :
    onDsiCmdTimeout u s = complete (setTx s (4 + u) { getTx s (4 + u) with dsi := rest }) t q stTimeout 0 [] := by
  simp [onDsiCmdTimeout, h, hr, hd]

variable (hr : isRunning s = true) (hp : restarting s 4 = false) (hb : (liveOn s (4 + u)).all (inVblank s) = true)
  (hc : bit s.chip.clk 5 = true)
include hr hp hb hc

/-- A command whose first attempt has gone is not sent a second time. -/
theorem onDsiCmdSend_again {due : Nat} (h : (getTx s (4 + u)).dsi = (t, q, a, some due) :: rest) (d : List Byte) :
    onDsiCmdSend u (.acknowledged d) s =
      complete (setTx s (4 + u) { getTx s (4 + u) with dsi := rest }) t q stOk 0 (dsiData a d) := by
  simp [onDsiCmdSend, h, hr, hp, hb, hc]

theorem onDsiCmdSend_first (h : (getTx s (4 + u)).dsi = (t, q, a, none) :: rest) (d : List Byte) :
    onDsiCmdSend u (.acknowledged d) s =
      complete (out (setTx s (4 + u) { getTx s (4 + u) with dsi := rest }) (.dsiSend u a)) t q stOk 0 (dsiData a d) := by
  simp only [onDsiCmdSend, h, hr, hp, hb, hc, out_dsiSend, Bool.not_true, Bool.or_false, Bool.false_eq_true, if_false,
    Option.isNone_none, if_true]
  rfl

end

end Sys2Proof.Machine
end

section
/-! SUPPORT. What a link event and a lost link leave of the transmitters (R472, R476), and what a lost reference makes of
them (R45). -/

namespace Sys2Proof.Machine

open Sys2Proof

/-! ## Transmitters stand while links are reported -/

theorem getTx_congr {s t : State} (h : t.disp.txs = s.disp.txs) (x : Nat) : getTx t x = getTx s x := by
  simp only [getTx, h]

@[simp] theorem toTenant_disp (s : State) (t : Nat) (m : Msg) (keep : Bool) : (toTenant s t m keep).disp = s.disp := by
  unfold toTenant
  split
  · rw [sendMsg_disp]
  · split <;> rfl

@[simp] theorem event_disp (s : State) (t op st d : Nat) (p : List Byte) : (event s t op st d p).disp = s.disp :=
  toTenant_disp ..

theorem foldl_keeps_txs {α : Type} {f : State → α → State} (h : ∀ s x, (f s x).disp.txs = s.disp.txs) (l : List α) (s : State) :
    (l.foldl f s).disp.txs = s.disp.txs := by
  induction l generalizing s with
  | nil => rfl
  | cons x r ih => rw [List.foldl_cons, ih, h]

/-- A link event is sent to tenants and changes no transmitter. -/
@[simp] theorem getTx_linkEvent (s : State) (x change pipe y : Nat) : getTx (linkEvent s x change pipe) y = getTx s y :=
  getTx_congr (foldl_keeps_txs (fun s t => by rw [event_disp]) _ s) y

/-- A lost link marks pipes alone. -/
@[simp] theorem getTx_loseLink (s : State) (x y : Nat) : getTx (loseLink s x) y = getTx s y := by
  have h (u : State) (p : Nat) : (modPipe (dspErr u p 2) p fun z => { z with carried := false }).disp.txs = u.disp.txs := rfl
  exact getTx_congr (foldl_keeps_txs h _ s) y

/-! ## No link trains and none is trained -/

/-- A transmitter has no trained link and trains none. -/
def Untrained (s : State) (x : Nat) : Prop := (getTx s x).trained = none ∧ (getTx s x).training = false

theorem untrained_setTx {s : State} {y : Transmitter} {x k : Nat} (hy : y.trained = none ∧ y.training = false)
    (h : k = x ∨ Untrained s k) : Untrained (setTx s x y) k := by
  by_cases e : k = x
  · rwa [e, Untrained, getTx_setTx_self]
  · rw [Untrained, getTx_setTx_ne s y e]
    exact h.resolve_left e

/-- A new time of change leaves a transmitter as untrained as it was. -/
theorem untrained_stampTx {old s : State} {x k : Nat} (hx : Untrained s x) (hk : Untrained s k) : Untrained (stampTx old s x) k := by
  unfold stampTx
  split
  · exact hk
  · exact untrained_setTx hx (.inr hk)

/-- What the loss of the reference makes of one DisplayPort transmitter; t is the machine as the reference goes. -/
def dropTraining (t s : State) (x : Nat) : State :=
  let v := setTx s x { getTx s x with training := false, trained := none, idle := [] }
  if (getTx s x).trained.isSome then stampTx t (linkEvent (loseLink v x) x 4 0xFF) x else v

theorem untrained_dropTraining {t s : State} {x k : Nat} (h : k = x ∨ Untrained s k) : Untrained (dropTraining t s x) k := by
  have hv {j : Nat} (hj : j = x ∨ Untrained s j) :
      Untrained (setTx s x { getTx s x with training := false, trained := none, idle := [] }) j := untrained_setTx ⟨rfl, rfl⟩ hj
  unfold dropTraining
  dsimp only
  split
  · refine untrained_stampTx ?_ ?_
    · simpa only [Untrained, getTx_linkEvent, getTx_loseLink] using hv (.inl rfl)
    · simpa only [Untrained, getTx_linkEvent, getTx_loseLink] using hv h
  · exact hv h

/-- Every transmitter that the loss reaches is untrained at its end. -/
theorem untrained_foldl_dropTraining (t : State) (l : List Nat) (s : State) {k : Nat} (h : k ∈ l ∨ Untrained s k) :
    Untrained (l.foldl (dropTraining t) s) k := by
  induction l generalizing s with
  | nil => exact h.resolve_left (List.not_mem_nil)
  | cons x r ih =>
    refine ih _ ?_
    rcases h with h | h
    · rcases List.mem_cons.1 h with h | h
      · exact .inr (untrained_dropTraining (.inl h))
      · exact .inl h
    · exact .inr (untrained_dropTraining (.inr h))

/-! ## A machine after reset (R600) -/

/-- Where no byte was written, every byte reads 0 (R129). -/
theorem memReads_nil (a n : Nat) : memReads [] a n = List.replicate n 0 := by
  rw [memReads, show (fun i => memRead [] (a + i)) = fun _ => (0 : Byte) from rfl, List.map_const', List.length_range]

theorem onResetTimer_due {s : State} {d : Nat} (hd : s.chip.resetDue = some d) (hr : isRunning s = true) (hn : d ≤ s.now) :
    onResetTimer s = resetNow s causeRequest := by
  simp [onResetTimer, hd, hr, hn]

/-! ## Causes of a reset on a running chip (R604) -/

section
variable {s : State} (h : s.chip.phase = .running)
include h

theorem onResetAssert_running : onResetAssert s = resetChip s causePin := by simp [onResetAssert, h]
theorem onPllUnlock_running : onPllUnlock s = resetNow s causePll := by simp [onPllUnlock, h]
theorem onJtagReset_running : onJtagReset s = resetNow s causeJtag := by simp [onJtagReset, h]
theorem execBrownout_pwrGood : execBrownout .pwrGoodFell s = .next (resetChip s causeBrownout) := by simp [execBrownout, h]
theorem execBrownout_monitor {mv ns : Nat} (hm : mv < 700) (hn : 1000 ≤ ns) :
    execBrownout (.monitorLow mv ns) s = .next (resetNow s causeBrownout) := by simp [execBrownout, h, hm, hn]

end

/-! ## RESET_N rises (R601, R602) -/

theorem onResetRelease_high {s : State} (x : StrapLevels) (h : s.chip.phase ≠ .inReset) :
    onResetRelease x s = setPins s x := if_pos h

theorem onResetRelease_low {s : State} (x : StrapLevels) (h : s.chip.phase = .inReset) :
    onResetRelease x s = releaseReset (setPins s x) := if_neg (not_not_intro h)

section
variable {s : State}

theorem releaseReset_boots (hw : s.chip.wasTripped = false) : releaseReset s = boot (sampleStraps s) := by
  simp [releaseReset, hw]

variable (hw : s.chip.wasTripped = true)
include hw

/-- After a trip a pulse shorter than 1 ms resets nothing. -/
theorem releaseReset_short (hn : s.now < s.chip.lowAt + msTicks) :
    releaseReset s = { s with chip := { s.chip with phase := .tripped } } := by
  simp [releaseReset, hw, hn]

theorem releaseReset_cool (hn : s.chip.lowAt + msTicks ≤ s.now) (hc : stillHot s = false) :
    releaseReset s = resetAfterTrip (sampleStraps s) := by
  simp [releaseReset, hw, Nat.not_lt.2 hn, hc]

theorem releaseReset_hot (hn : s.chip.lowAt + msTicks ≤ s.now) (hc : stillHot s = true) :
    releaseReset s = { s with chip := { s.chip with straps := s.chip.pins, phase := .holdOff } } := by
  simp [releaseReset, hw, Nat.not_lt.2 hn, hc]

end

/-! ## References come and go (R45, R599) -/

section
variable {s : State} {r : PhyRef} (hr : isRunning s = true)
include hr

theorem phyLock_not_skipped (hc : bit s.chip.clk (refBit r) = false) : ¬ (!isRunning s || bit s.chip.clk (refBit r)) = true := by
  simp [hr, hc]

theorem phyLost_not_skipped (hc : bit s.chip.clk (refBit r) = true) : ¬ (!isRunning s || !bit s.chip.clk (refBit r)) = true := by
  simp [hr, hc]

/-- DisplayPort links train when their reference is there. -/
theorem onPhyLock_dp (hc : bit s.chip.clk (refBit .dp) = false) :
    onPhyLock .dp s = (List.range 4).foldl startTraining (setClk s (refBit .dp) true) := if_neg (phyLock_not_skipped hr hc)

/-- The transmitters of DSI are up again. -/
theorem onPhyLock_dsi (hc : bit s.chip.clk (refBit .dsi) = false) : onPhyLock .dsi s =
    (List.range 2).foldl (fun s u => if txOn s (4 + u) then
      setTx s (4 + u) { getTx s (4 + u) with changed := tbStamp s 0 } else s) (setClk s (refBit .dsi) true) :=
  if_neg (phyLock_not_skipped hr hc)

/-- Nothing starts by itself on another reference. -/
theorem onPhyLock_alone (hc : bit s.chip.clk (refBit r) = false) (hp : r ≠ .dp) (hs : r ≠ .dsi) :
    onPhyLock r s = setClk s (refBit r) true := by
  have h := phyLock_not_skipped hr hc
  cases r with
  | dp => exact absurd rfl hp
  | dsi => exact absurd rfl hs
  | hbm => exact if_neg h
  | csi => exact if_neg h
  | eth => exact if_neg h

theorem onPhyLost_hbm (hc : bit s.chip.clk (refBit .hbm) = true) : onPhyLost .hbm s =
    { setClk s (refBit .hbm) false with chip := { (setClk s (refBit .hbm) false).chip with hbmReady := false } } :=
  if_neg (phyLost_not_skipped hr hc)

theorem onPhyLost_dp (hc : bit s.chip.clk (refBit .dp) = true) :
    onPhyLost .dp s = (List.range 4).foldl (dropTraining (setClk s (refBit .dp) false)) (setClk s (refBit .dp) false) :=
  if_neg (phyLost_not_skipped hr hc)

theorem onPhyLost_dsi (hc : bit s.chip.clk (refBit .dsi) = true) : onPhyLost .dsi s =
    (List.range 2).foldl (fun s u => if txOn s (4 + u) then
      linkEvent (loseLink (setTx s (4 + u) { getTx s (4 + u) with changed := tbStamp s 0 }) (4 + u)) (4 + u) 4 0xFF
      else s) (setClk s (refBit .dsi) false) :=
  if_neg (phyLost_not_skipped hr hc)

theorem onPhyLost_csi (hc : bit s.chip.clk (refBit .csi) = true) :
    onPhyLost .csi s = (List.range 12).foldl (fun s i => onCsiLink i false 0 s) (setClk s (refBit .csi) false) :=
  if_neg (phyLost_not_skipped hr hc)

theorem onPhyLost_eth (hc : bit s.chip.clk (refBit .eth) = true) :
    onPhyLost .eth s = (List.range 4).foldl (fun s p => dropLink s p (ptpBase s p)) (setClk s (refBit .eth) false) :=
  if_neg (phyLost_not_skipped hr hc)

end

end Sys2Proof.Machine
end

section
/-! SUPPORT. Descriptors of running commands (R23, R145, R147, R258, R266): which one starts next, and what the oldest one
does when it is done. -/

namespace Sys2Proof.Machine

open Sys2Proof

/-! ## Work that meets no trouble -/

theorem runWork_lands {s : State} {q : Placed} {w : Work} {k : State → State} (h : firstStop s q w.hbm = none)
    (hb : w.bad = none) : runWork s q w k = k (applyPads (applyStores s q.loop.tenant w.stores) w.pads) := by
  simp [runWork, h, hb]

/-! ## Which engine a command runs on -/

theorem isWindow_of_dma {q : Placed} (h : q.cmd.spec.engine = 4) : isWindow q = false := by
  simp [isWindow, h]

/-- Only WE and Minuet runs go on by themselves when a descriptor starts. -/
theorem pumpRun_other {s : State} {r : CmdRef} {q : Placed} (h : findInst s r = some q) (hw : isWindow q = false) :
    pumpRun s r = s := by
  simp [pumpRun, h, hw]

/-! ## A descriptor of a DMA command starts (R147) -/

section
variable {s : State} {ref : CmdRef} {q : Placed}

theorem onDmaStart_dma (hr : isRunning s = true) (hf : findInst s ref = some q) (hi : isRun q.inst = true)
    (hw : isWindow q = false) : onDmaStart ref s = dmaNext s q := by
  simp [onDmaStart, hr, pumpRun_other hf hw, hf, hi, hw]

theorem onDmaStart_window (hr : isRunning s = true) (hf : findInst (pumpRun s ref) ref = some q)
    (hi : isRun q.inst = true) (hw : isWindow q = true) : onDmaStart ref s = winIssue (pumpRun s ref) q := by
  simp [onDmaStart, hr, hf, hi, hw]

/-- A descriptor that passes its checks is outstanding from now on. -/
theorem startDesc_valid {index group : Nat} {bytes : List Byte} {k : State → State} (hd : descFault (descOf bytes) = none)
    (ho : (descOf bytes).hbm.findSome? (outside q) = none) (hp : descPadsOk s q (descOf bytes) = true) :
    startDesc s q index group bytes k = k (modInst s q.ref fun i => { i with dma := { i.dma with
      next := index + 1, jobs := i.dma.jobs ++ [{ index := index, group := group, desc := bytes }] } }) := by
  simp [startDesc, hd, ho, hp]

/-- The next descriptor may start: there is one, fewer than 64 are outstanding, and it waits for none of them. -/
theorem dmaNext_ready (he : q.cmd.spec.engine = 4) (hn : q.inst.dma.next < dmaCount s q.loop.tenant q.cmd.spec)
    (hj : q.inst.dma.jobs.length < 64)
    (hb : bit (leAt (progBytes s q.loop.tenant q.cmd.spec (16 + 48 * q.inst.dma.next) 48) 40 4) 1 = true → q.inst.dma.jobs = []) :
    dmaNext s q = startDesc s q q.inst.dma.next 0 (progBytes s q.loop.tenant q.cmd.spec (16 + 48 * q.inst.dma.next) 48) id := by
  simpa [dmaNext, he, Nat.not_le.2 hn, Nat.not_le.2 hj] using fun h h' => absurd (hb h) h'

/-! ## A descriptor of a WE or Minuet run starts (R258, R266) -/

/-- Output that has drained goes first, while fewer than 8 writes are outstanding. -/
theorem winIssue_write {o : WinStore} {r : List WinStore} (ho : q.inst.win.out = o :: r)
    (hn : (q.inst.dma.jobs.filter fun j => j.out.isSome).length < 8)
    (hs : outside q { va := o.at_, n := o.bytes.length, write := true } = none) :
    winIssue s q = dmaJobs (modWin s q.ref fun w => { w with out := r }) q.ref { index := q.inst.dma.next, out := some o } := by
  simp [winIssue, ho, hn, hs]

/-- With nothing to write, the next fill starts while fewer than 8 are outstanding and its place in the ring is free. -/
theorem winIssue_fill {f : Nat × Nat} (ho : q.inst.win.out = [])
    (hf : (runFills q (winHeadOf s q))[q.inst.win.issued]? = some f)
    (hn : q.inst.dma.jobs.length < (q.inst.dma.jobs.filter fun j => j.out.isSome).length + 8)
    (hg : ringFree q (winHeadOf s q)
      (if (winHeadOf s q).inCodec ≠ 0 then min (8 * f.1 + 7) ((winHeadOf s q).inH - 1) else f.1) = true)
    (hs : outside q (fillAccess (winHeadOf s q) f) = none) :
    winIssue s q = dmaJobs (modWin s q.ref fun w => { w with issued := w.issued + 1 }) q.ref { index := q.inst.dma.next } := by
  have hk : q.inst.dma.jobs.length - (q.inst.dma.jobs.filter fun j => j.out.isSome).length < 8 := by omega
  simp only [winIssue, ho, ite_self, hf, hk, hg, and_self, if_true, hs]

end

/-! ## The oldest descriptor is done (R23, R145) -/

section
variable {s : State} {ref : CmdRef} {q : Placed} {j : DmaJob} {r : List DmaJob}

theorem onDmaDone_oldest (hr : isRunning s = true) (hf : findInst s ref = some q) (hi : isRun q.inst = true)
    (hj : q.inst.dma.jobs = j :: r) :
    onDmaDone ref j.index s = if isWindow q then winFinish s q j else finishDesc s q j := by
  simp [onDmaDone, hr, hf, hi, hj]

theorem hbm_of_memory {d : Desc} (hs : d.srcSpace = 0) (hd : d.dstSpace = 0) :
    d.hbm = (d.srcRanges.map fun r => { va := r.1, n := r.2, write := false }) ++
      d.dstRanges.map fun r => { va := r.1, n := r.2, write := true } := by
  simp [Desc.hbm, hs, hd]

/-- A descriptor into HBM lands what it moves. -/
theorem finishDesc_memory {ws : List (Nat × List Byte)} {ms : List Nat} (hd : (descOf j.desc).dstSpace = 0)
    (ht : transfer s q (descOf j.desc) = some (ws, ms)) (hn : firstStop s q (descOf j.desc).hbm = none) :
    finishDesc s q j = modInst (applyStores s q.loop.tenant ws) q.ref fun i => { i with
      dma := { i.dma with
        jobs := i.dma.jobs.drop 1
        done := i.dma.done ++ [j.index]
        exact := i.dma.exact + (ms.filter exactMode).length
        lossy := i.dma.lossy + (ms.filter fun m => !exactMode m).length } } := by
  simp only [finishDesc, ht, hd]
  exact runWork_lands hn rfl

/-- A write lands its bytes. -/
theorem winFinish_write {o : WinStore} (ho : j.out = some o)
    (hn : firstStop s q [{ va := o.at_, n := o.bytes.length, write := true }] = none) :
    winFinish s q j = modInst (dropJob (applyStores s q.loop.tenant [(o.at_, o.bytes)]) q.ref) q.ref fun i => { i with
      dma := { i.dma with
        exact := i.dma.exact + (o.modes.filter exactMode).length
        lossy := i.dma.lossy + (o.modes.filter fun m => !exactMode m).length } } := by
  simp only [winFinish, ho]
  exact runWork_lands hn rfl

/-- A fill whose blocks decode puts its row or band into the ring, and the run goes on. -/
theorem winFinish_fill {f : Nat × Nat} (ho : j.out = none) (hf : (runFills q (winHeadOf s q))[q.inst.win.filled]? = some f)
    (hn : firstStop s q [fillAccess (winHeadOf s q) f] = none) (hb : fillBad s q (winHeadOf s q) f = false) :
    winFinish s q j = pumpRun (modWin (dropJob (fillRing s q (winHeadOf s q) f) q.ref) q.ref fun w =>
      { w with filled := w.filled + 1 }) q.ref := by
  simp only [winFinish, ho, hf, hb]
  exact runWork_lands hn rfl

end

end Sys2Proof.Machine
end

section
/-! SUPPORT. Network ports: links, the addresses of a port and who asks for them (R482, RFC 5227), gate lists and what waits
behind them (R488 to R491), and stream tables (R492): one equation per case. -/

namespace Sys2Proof.Machine

open Sys2Proof

/-! ## Frames that arrive -/

/-- The tables of a port make nothing of the machine but token buckets of that port. -/
theorem qci_frame {s u : State} {p : Nat} {f : FrameInfo} {r : Option Nat} (h : qci s p f = (u, r)) :
    u.chip = s.chip ∧ (getPort u p).link = (getPort s p).link := by
  unfold qci at h
  dsimp only at h
  split at h
  · cases h; exact ⟨rfl, rfl⟩
  · split at h
    · cases h; exact ⟨rfl, rfl⟩
    · split at h
      · cases h; exact ⟨rfl, rfl⟩
      · split at h
        · cases h; exact ⟨rfl, rfl⟩
        · cases h; exact ⟨rfl, by rw [getPort_setPort_self]⟩

/-- A frame that its port passes finds the chip running and the link up. -/
theorem countClass_qci {s u : State} {p c : Nat} {f : FrameInfo} {r : Option Nat} (hq : qci s p f = (u, r))
    (hr : isRunning s = true) (hl : (getPort s p).link = true) :
    isRunning (countClass u p c) = true ∧ (getPort (countClass u p c) p).link = true := by
  obtain ⟨hc, hk⟩ := qci_frame hq
  constructor
  · show decide (u.chip.phase = .running) = true
    rw [hc]
    exact hr
  · rw [countClass, countIn, modPort, getPort_setPort_self]
    exact hk.trans hl

/-! ## Links (R45, R100, R608) -/

theorem onLinkUp_ready {p : Nat} {s : State} (hr : isRunning s = true) (ho : portOn s p = true)
    (hl : (getPort s p).link = false) (hc : bit s.chip.clk 7 = true) (hb : bootPending s = false) :
    let u := modPort s p fun x => { x with
      link := true, mode := portCfg s p 30 28, rate := portCfg s p 27 26, conflict := false, defended := none, probes := 0
      probeDue := s.now, preempt := bit (regW s (aPort p 0x48)) 31 && bit (regW s (aPort p 0x48)) 30, verified := false }
    let mld := out u (.mldReport p false)
    let w := if wallOn mld && wallPort mld = p && rField mld (aWall 0) 30 30 = 1 then out mld (.mldReport p true) else mld
    let v := reselect (gptpUp w p) (ptpBase w p)
    onLinkUp p s = onBeaconTimer p { v with link := { v.link with beaconDue := setAt v.link.beaconDue p v.now } } :=
  if_neg (by simp [hr, ho, hl, hc, hb])

theorem onLinkDown_up {p : Nat} {s : State} (hr : isRunning s = true) (hl : (getPort s p).link = true) :
    onLinkDown p s = gptpDown (setEgress (modPort s p fun x => { x with
      link := false, preempt := false, verified := false }) p {}) p (ptpBase s p) := by
  rw [onLinkDown, if_neg (by simp [hr]), dropLink, if_neg (by simp [hl])]

/-! ## Who asks for the port's addresses (R482) -/

theorem conflict_of_ip4Up {s : State} {p : Nat} (h : ip4Up s p = true) : (getPort s p).conflict = false := by
  simp only [ip4Up, Bool.and_eq_true, Bool.not_eq_true'] at h
  exact h.1

section
variable {s : State} {p : Nat} (hr : isRunning s = true) (hl : (getPort s p).link = true)
include hr hl

theorem onArp_answers {a : ArpPacket} (hu : ip4Up s p = true) (hq : a.request = true) (ht : a.targetIp.toNat = portIp4 s p)
    (hs : a.senderIp.toNat ≠ portIp4 s p) : onArp p a s = out s (.arpReply p
      { request := false, senderMac := Config.portMac p, senderIp := a.targetIp, targetIp := a.senderIp }) := by
  simp [onArp, hr, hl, conflict_of_ip4Up hu, hu, hq, ht, hs]

/-- Another station that holds or probes for the address that the port probes is a conflict (RFC 5227). -/
theorem onArp_conflicts {a : ArpPacket} (hc : (getPort s p).conflict = false) (hu : ip4Up s p = false)
    (hx : probeConflict s p a = true) : onArp p a s = modPort s p fun x => { x with conflict := true } := by
  simp [onArp, hr, hl, hc, hu, hx]

/-- The next probe or announcement goes in its time. -/
theorem onProbeTimer_due (hc : (getPort s p).conflict = false) (h0 : regW s (aPort p 0x10) = 0)
    (hn : (getPort s p).probes < 5) (hd : (getPort s p).probeDue ≤ s.now) :
    onProbeTimer p s =
      out (modPort s p fun x => { x with probes := x.probes + 1, probeDue := s.now + probeGap x.probes })
        (if (getPort s p).probes < 3 then .arpProbe p (BitVec.ofNat 32 (portIp4 s p))
         else .arpAnnounce p (BitVec.ofNat 32 (portIp4 s p))) := by
  simp [onProbeTimer, hr, hl, hc, h0, Nat.not_le.2 hn, Nat.not_lt.2 hd]

theorem onNeighbour_own {a : NsPacket} (h : ownIp6 s p a.target.toNat = true) :
    onNeighbour p a s = out s (.neighbourAdvert p a.target) := by
  simp [onNeighbour, hr, hl, h]

theorem onPing_own {a : EchoRequest} (h : ownAddress s p a.src.v6 a.dst.toNat = true) :
    onPing p a s = out s (.echoReply p a) := by
  simp [onPing, hr, hl, h]

theorem onPreemptVerified_on (h : bit (regW s (aPort p 0x48)) 31 = true) :
    onPreemptVerified p s = drainPort (modPort s p fun x => { x with preempt := true, verified := true }) p := by
  simp [onPreemptVerified, hr, hl, h]

end

/-! ## Gate lists (R488) -/

section
variable {s : State} {rq : Req} {a : GclWriteArgs} {ss : Session} (h : Served s (.netGclWrite rq a) opNetGclWrite rq ss)
  (hf : gclForm a = true) (ht : ss.tenant = 0)
include h hf ht

/-- A list is staged and does not run yet. -/
theorem onGclWrite_stages (ha : a.apply = 0) : onGclWrite rq a s = replyOk (stageGcl s a.port.toNat a) opNetGclWrite rq [] := by
  rw [onGclWrite, take_served h, checked_pass (by simp [firstFault_eq_none, hf, ht]), ha]
  rfl

/-- A list is staged and waits for the first of its cycles that is 1 ms off. -/
theorem onGclWrite_switches (ha : a.apply = 1) (hc : asyncCount s 0 rq.session.toNat < 4096) :
    let p := a.port.toNat
    let u := answered s opNetGclWrite rq 0 stAccepted []
    onGclWrite rq a s = modPort (stageGcl (cancelSwitch u p) p a) p fun x => { x with
      switching := some (0, asyncOf opNetGclWrite rq,
        firstCycle a.baseTime.toNat a.cycle.toNat (tbNs u (tsnBase u p) + 1000000)) } := by
  rw [onGclWrite, take_served h, checked_pass (by simp [firstFault_eq_none, hf, ht]), ha, ht]
  exact accept_pass hc

/-- The list that runs stops. -/
theorem onGclWrite_stops (ha : a.apply = 2) : onGclWrite rq a s =
    replyOk (drainPort (modPort (cancelSwitch s a.port.toNat) a.port.toNat fun x => { x with gclOn := false, gclIndex := 0 })
      a.port.toNat) opNetGclWrite rq [] := by
  rw [onGclWrite, take_served h, checked_pass (by simp [firstFault_eq_none, hf, ht]), ha]
  rfl

end

section
variable {s : State} {p : Nat} (hr : isRunning s = true)
include hr

theorem onGclSwitch_due {t at_ : Nat} {q : Async} (hs : (getPort s p).switching = some (t, q, at_))
    (hn : at_ ≤ tbNs s (tsnBase s p)) :
    let entries := (List.range (getPort s p).stagedLen).map fun i => tabGet (getPort s p).staged (0, 0) i
    let list : Gcl := ⟨entries, (getPort s p).stagedCycle, (getPort s p).stagedBase⟩
    onGclSwitch p s = complete (drainPort (modPort s p fun x => { x with
      gcl := list, gclOn := true, gclStart := at_, gclIndex := 0, switching := none }) p) t q stOk 0 [] := by
  simp [onGclSwitch, hs, hr, Nat.not_lt.2 hn]

/-- An interval ends: the list goes to its next entry, or to the first one of the next cycle. -/
theorem onGateInterval_ends (ho : (getPort s p).gclOn = true)
    (hn : (getPort s p).gclStart + gclEntryEnd (getPort s p).gcl (getPort s p).gclIndex ≤ tbNs s (tsnBase s p)) :
    let x := getPort s p
    let stop := gclEntryEnd x.gcl x.gclIndex
    let span := stop - (if x.gclIndex = 0 then 0 else gclEntryEnd x.gcl (x.gclIndex - 1))
    onGateInterval p s = drainPort (setPort (freezeCredit s p (openGates s p) span) p
      (if stop = x.gcl.cycle then { x with gclStart := x.gclStart + stop, gclIndex := 0 }
       else { x with gclIndex := x.gclIndex + 1 })) p :=
  if_neg (by simp [hr, ho, Nat.not_lt.2 hn])

end

/-! ## Frames that wait at closed gates (R489) -/

@[simp] theorem getEgress_setEgress_self (s : State) (p : Nat) (e : Egress) : getEgress (setEgress s p e) p = e :=
  tabGet_tabSet_self ..

/-- The gate of every frame that waits at a port is closed. -/
def Shut (s : State) (p : Nat) (e : Egress) : Prop := ∀ f ∈ e.queue, bit (openGates s p) f.cls = false

theorem lineUse_shut {s : State} {p : Nat} {e : Egress} {f : HeldFrame} (h : bit (openGates s p) f.cls = false) :
    lineUse s p e f = none := by
  simp [lineUse, h]

theorem headOf_mem {e : Egress} {c : Nat} {f : HeldFrame} (h : headOf e c = some f) : f ∈ e.queue := by
  rw [headOf, Option.orElse_eq_orElse, Option.orElse_eq_or, Option.or_eq_some_iff] at h
  rcases h with h | ⟨-, h⟩
  · exact List.mem_of_find?_eq_some h
  · exact List.mem_of_find?_eq_some h

/-- No frame pre-empts while none may start. -/
theorem preempted_shut {s : State} {p : Nat} {e : Egress} (h : Shut s p e) : preempted s p e = e := by
  unfold preempted
  split
  · rfl
  · split
    · rfl
    · refine if_neg fun hx => ?_
      obtain ⟨f, hf, hu⟩ := List.any_eq_true.1 hx
      rw [lineUse_shut (h f hf)] at hu
      simp at hu

theorem drainClass_shut {s : State} {p : Nat} (c k : Nat) (h : Shut s p (getEgress s p)) : drainClass p c k s = s := by
  cases k with
  | zero => rfl
  | succ k =>
    unfold drainClass
    dsimp only
    split
    · rfl
    · rename_i f hf
      rw [lineUse_shut (h f (headOf_mem hf))]

/-- Where every gate that frames wait for is closed, all of them wait on. -/
theorem drainPort_shut {s : State} {p : Nat} (h : Shut s p (getEgress s p)) :
    (drainPort s p).sent = s.sent ∧ getEgress (drainPort s p) p = getEgress s p := by
  unfold drainPort
  split
  · exact ⟨rfl, rfl⟩
  · have hs : Shut (setEgress s p (getEgress s p)) p (getEgress (setEgress s p (getEgress s p)) p) := by
      rwa [getEgress_setEgress_self]
    rw [preempted_shut h]
    simp only [List.foldl_cons, List.foldl_nil, drainClass_shut _ _ hs, getEgress_setEgress_self, setEgress_sent, and_self]

/-- A frame whose gate is closed joins the frames that wait. -/
theorem out_shut {s : State} {o : Output} {p c n : Nat} (he : ethFrame s o = some (p, c, n)) (hm : muted s o = false)
    (hl : (getPort s p).link = true) (hp : paced s p = true) (hc : bit (openGates s p) c = false)
    (hs : Shut s p (getEgress s p)) :
    (out s o).sent = s.sent ∧
      (getEgress (out s o) p).queue = (getEgress s p).queue ++ [{ out := o, cls := c, bytes := n, left := none }] := by
  have hj : out s o = drainPort (setEgress s p { getEgress s p with
      queue := (getEgress s p).queue ++ [{ out := o, cls := c, bytes := n, left := none }] }) p := by
    simp [out, hm, he, hl, hp, joinPort]
  have hq : Shut s p { getEgress s p with
      queue := (getEgress s p).queue ++ [{ out := o, cls := c, bytes := n, left := none }] } := by
    intro f hf
    rcases List.mem_append.1 hf with hf | hf
    · exact hs f hf
    · rw [List.mem_singleton.1 hf]
      exact hc
  obtain ⟨h1, h2⟩ := drainPort_shut (s := setEgress s p _) (p := p) (by rw [getEgress_setEgress_self]; exact hq)
  rw [hj, h1, h2, getEgress_setEgress_self]
  exact ⟨rfl, rfl⟩

/-- An Ethernet frame that the MAC does not stamp leaves as it is. -/
theorem depart_plain {s : State} {o : Output} {p c n : Nat} (he : ethFrame s o = some (p, c, n))
    (hg : ∀ k l, o ≠ .gptp p k l) : depart s o = ({ s with sent := o :: s.sent }, []) := by
  cases o with
  | gptp r k l =>
    have hr : r = p := by simp only [ethFrame, Option.some.injEq, Prod.mk.injEq] at he; exact he.1
    exact absurd (by rw [hr]) (hg k l)
  | _ => rfl

/-! ## Stream tables and time (R492, R499) -/

theorem onStreamTable_served {s : State} {rq : Req} {a : StreamTableArgs} {ss : Session}
    (h : Served s (.netStreamTable rq a) opNetStreamTable rq ss) (hf : tableForm a = true) (ht : ss.tenant = 0) :
    let i := a.index.toNat
    let e := fit 16 a.entry
    onStreamTable rq a s = replyOk (modPort s a.port.toNat fun x =>
      if a.table = 0 then { x with filters := tabSet x.filters i e }
      else if a.table = 1 then { x with gates := tabSet x.gates i e }
      else { x with meters := tabSet x.meters i e, buckets := tabSet x.buckets i (fullBucket s e) })
      opNetStreamTable rq [] := by
  rw [onStreamTable, take_served h, checked_pass (by simp [firstFault_eq_none, hf, ht])]
  by_cases h0 : a.table = 0
  · rw [h0]
    rfl
  · by_cases h1 : a.table = 1
    · rw [h1]
      rfl
    · have n0 : a.table.toNat ≠ 0 := fun e => h0 (BitVec.eq_of_toNat_eq e)
      have n1 : a.table.toNat ≠ 1 := fun e => h1 (BitVec.eq_of_toNat_eq e)
      obtain ⟨k, hk⟩ : ∃ k, a.table.toNat = k + 2 := ⟨a.table.toNat - 2, by omega⟩
      simp only [hk, if_neg h0, if_neg h1]

theorem onTimeRead_served {s : State} {rq : Req} {ss : Session} (h : Served s (.timeRead rq) opTimeRead rq ss) :
    onTimeRead rq s = replyOk s opTimeRead rq ((List.range 4).map (timeEntry s)).flatten := take_served h _

end Sys2Proof.Machine
end

section
/-! Display requests, resets, descriptors and network ports: the statements O51, O59, O34 and O53. -/

namespace Sys2Proof.Machine

open Sys2Proof

/-- Settles O51: each request is taken as it is served, and each end is the case of its operation: the reference, the sink,
the image's good bytes or the first attempt decide which. -/
theorem displayRequests : Obligations.DisplayRequests := by
  unfold Obligations.DisplayRequests
  refine ⟨fun rq s₀ ss hs => next_eq (onDspScan_served hs),
    fun rq a s₀ ss hs hf hm ho hc => next_eq (onDspAux_served hs hf hm ho hc),
    fun rq a s₀ ss hs h0 hf hm hc => next_eq (onDspDsiCmd_served hs h0 hf hm hc),
    fun rq a s₀ ss hs hf hc => next_eq (onDspFallbackSet_served hs hf hc),
    fun x s t q a r d hr hp ht ha => ⟨fun hh hc => next_eq (onAuxDone_acknowledged hr hp ht ha d hh hc),
      fun hh hc => next_eq (onAuxDone_noAcknowledge hr hp ht ha hh hc),
      fun hh hc => next_eq (onAuxDone_referenceLost ha _ hh hc),
      fun hh => next_eq (onAuxDone_unplugged hr hp ht ha _ hh)⟩,
    fun p s t q good im r hr hp h => ⟨?_, ?_⟩,
    fun u s t q a due r d hr h => ⟨fun hb hp hc => next_eq (onDsiCmdSend_again hr hp hb hc h d),
      fun hd => next_eq (onDsiCmdTimeout_due hr h hd)⟩,
    fun u s t q a r d hr h hb hp => ⟨fun hc => next_eq (onDsiCmdSend_first hr hp hb hc h d),
      fun hc => next_eq (onDsiCmdSend_referenceLost _ h hc)⟩⟩
  · rintro rfl
    exact next_eq (onFallbackCopyDone_good hr hp h)
  · rintro rfl
    exact next_eq (onFallbackCopyDone_spoilt hr hp h)

/-- Settles O59: a reset state is written out field by field; each cause and each release is the branch of its operation
that the phase, the trip and the pulse name; a reference that changes sides runs the loop over its interfaces, and over
DisplayPort's that loop leaves every transmitter untrained. -/
theorem resetRestarts : Obligations.ResetRestarts := by
  unfold Obligations.ResetRestarts
  refine ⟨fun s k => ⟨rfl, rfl, rfl, fun _ => rfl, fun a => BitVec.toNat_ofNat .., fun t va n => memReads_nil _ n,
      fun c a n => memReads_nil _ n⟩,
    fun s h => ⟨next_eq (onResetAssert_running h), execBrownout_pwrGood h, fun _ _ hm hn => execBrownout_monitor h hm hn,
      next_eq (onPllUnlock_running h), next_eq (onJtagReset_running h),
      fun d hd hn => next_eq (onResetTimer_due hd (by simp [isRunning, h]) hn)⟩,
    fun s k => rfl, fun x s => rfl, fun x s h => next_eq (onResetRelease_high x h), fun x s h => ?_,
    fun s h => ⟨fun hc => next_eq (if_pos (by simp [h, hc])), fun hc => next_eq (if_neg (by simp [hc]))⟩,
    fun s hr hc => next_eq (if_pos (by simp [hr, hc])), fun r s hr => ?_⟩
  · have hx := onResetRelease_low x h
    exact ⟨fun hw => next_eq (hx.trans (releaseReset_boots hw)),
      fun hw hn => next_eq (hx.trans (releaseReset_short hw hn)),
      fun hw hn => ⟨fun hc => next_eq (hx.trans (releaseReset_cool hw hn hc)),
        fun hc => next_eq (hx.trans (releaseReset_hot hw hn hc))⟩⟩
  · refine ⟨fun hc hp hs => next_eq (onPhyLock_alone hr hc hp hs), ?_, ?_, ?_, ?_, ?_, ?_, ?_, ?_,
      fun hc => next_eq (if_pos (by simp [hc]))⟩
    · rintro hc rfl
      exact next_eq (onPhyLock_dsi hr hc)
    · rintro hc rfl
      exact next_eq (onPhyLock_dp hr hc)
    · rintro hc rfl
      exact next_eq (onPhyLost_hbm hr hc)
    · rintro hc rfl
      exact next_eq (onPhyLost_eth hr hc)
    · rintro hc rfl
      exact next_eq (onPhyLost_csi hr hc)
    · rintro hc rfl
      exact next_eq (onPhyLost_dsi hr hc)
    · rintro hc rfl
      exact next_eq (onPhyLost_dp hr hc)
    · rintro hc rfl
      exact ⟨_, next_eq (onPhyLost_dp hr hc), fun x hx => untrained_foldl_dropTraining _ _ _ (.inl (List.mem_range.2 hx))⟩

/-- Settles O34: the engine of the command says which list of work it takes from; a start is the branch of the first piece
that may go, and an end is work that meets no trouble and so lands. -/
theorem dmaDescriptors : Obligations.DmaDescriptors := by
  unfold Obligations.DmaDescriptors
  refine ⟨fun ref s q hr hf hi he hn hj hb hd ho hp => next_eq ?_, fun ref s q hr hf hi hw => ⟨fun o r ho hn hs => next_eq ?_,
      fun f ho hx hn hg hs => next_eq ?_⟩,
    fun ref s q j r ws ms hr hf hi hw hj hs hd ht hn => next_eq ?_,
    fun ref s q j r hr hf hi hw hj => ⟨fun o ho hn => next_eq ?_, fun f ho hx hn hb => next_eq ?_⟩⟩
  · rw [onDmaStart_dma hr hf hi (isWindow_of_dma he), dmaNext_ready he hn hj hb, startDesc_valid hd ho hp]
    rfl
  · rw [onDmaStart_window hr hf hi hw, winIssue_write ho hn hs]
  · rw [onDmaStart_window hr hf hi hw, winIssue_fill ho hx hn hg hs]
  · rw [onDmaDone_oldest hr hf hi hj, if_neg (by simp [hw]), finishDesc_memory hd ht (by rwa [hbm_of_memory hs hd])]
  · rw [onDmaDone_oldest hr hf hi hj, if_pos hw, winFinish_write ho hn]
  · rw [onDmaDone_oldest hr hf hi hj, if_pos hw, winFinish_fill ho hx hn hb]

/-- Settles O53: a frame reaches its port's handler by the filters' verdict; each timer, request and answer is the branch of
its operation that its hypotheses name; and a frame at its port leaves, is lost or waits by the link, the pace and the
gates. -/
theorem networkPorts : Obligations.NetworkPorts := by
  unfold Obligations.NetworkPorts
  refine ⟨fun p s hr ho hl hc hb => next_eq (onLinkUp_ready hr ho hl hc hb), fun p s hr hl => next_eq (onLinkDown_up hr hl),
    fun p f s u c hr hl hn hq => ?_, fun p s hr hl hc h0 hn hd => next_eq (onProbeTimer_due hr hl hc h0 hn hd),
    fun p s hr hl h => next_eq (onPreemptVerified_on hr hl h),
    fun rq a s₀ ss h hf ht => ⟨fun ha => next_eq (onGclWrite_stages h hf ht ha),
      fun ha hc => next_eq (onGclWrite_switches h hf ht ha hc), fun ha => next_eq (onGclWrite_stops h hf ht ha)⟩,
    fun p s t at_ q hr hs hn => next_eq (onGclSwitch_due hr hs hn), fun p s hr ho hn => ?_,
    fun s p c o n he hm => ⟨fun hl => out_without_link he hl,
      fun hl hp hg => out_at_once hm he hl hp (depart_plain he hg), fun hl hp hc hs => out_shut he hm hl hp hc hs⟩,
    fun rq a s₀ ss h hf ht => next_eq (onStreamTable_served h hf ht), fun rq s₀ ss h => next_eq (onTimeRead_served h)⟩
  · obtain ⟨hr', hl'⟩ := countClass_qci hq hr hl
    have hk (k : State → State) : receiveFrame s (frameOn p f) k = k (countClass u p c) :=
      receiveFrame_passes (f := frameOn p f) hr hl hn hq
    refine ⟨fun a hu hq ht hs => next_eq ((hk _).trans (onArp_answers hr' hl' hu hq ht hs)),
      fun a hc hu hx => next_eq ((hk _).trans (onArp_conflicts hr' hl' hc hu hx)), ?_, ?_⟩
    · rintro a rfl h
      exact next_eq ((hk _).trans (onNeighbour_own hr' hl' h))
    · rintro a rfl h
      exact next_eq ((hk _).trans (onPing_own hr' hl' h))
  · have h := onGateInterval_ends hr ho hn
    exact ⟨fun he => next_eq (h.trans (by rw [if_pos he])), fun he => next_eq (h.trans (by rw [if_neg he]))⟩

end Sys2Proof.Machine
end

section
/-! SUPPORT. Every command keeps the queue and the canonical form of memory: one line per command names the operation's
own lemma. -/

namespace Sys2Proof.Machine

open Sys2Proof

theorem Keeps.ofNext {s t u : State} (h : (.next u : Out) = .next t) (k : Keeps true true s u) : Keeps true true s t := by
  cases h
  exact k

theorem execRequest_keeps {c : Instr} {rq : Req} {s t : State} (hq : reqOf c = some rq) (h : exec c s = .next t) :
    Keeps true true s t :=
  .ofNext ((exec_request hq s).symm.trans h) (runRequest_keeps c (hear_keeps rq (.refl s)))

theorem execBrownout_keeps {e : SupplyEvent} {s t : State} (h : execBrownout e s = .next t) : Keeps true true s t := by
  unfold execBrownout at h
  split at h
  · split at h
    · exact .ofNext h (resetChip_keeps _ (.refl s))
    · exact .ofNext h (alsoCause_keeps _ (.refl s))
    · exact .ofNext h (.refl s)
  · split at h
    · split at h
      · exact .ofNext h (resetNow_keeps _ (.refl s))
      · exact .ofNext h (alsoCause_keeps _ (.refl s))
      · exact .ofNext h (.refl s)
    · split at h
      · exact .ofNext h (.refl s)
      · cases h
  · cases h

/-- A command that answers a next state keeps the queue and the canonical form of memory. -/
theorem exec_keeps {c : Instr} {s t : State} (h : exec c s = .next t) : Keeps true true s t := by
  cases c with
  | sessionClose | heartbeat | echo | deviceInfo | completionQuery | memMap | memUnmap | memProtect | memWrite |
  memRead | mmuWalk | faultResume | loopCreate | loopDestroy | stepSubmit | seqSubmit | funcDisable | funcEnable |
  regRead | regWrite | regUpdate | regReadList | regWait | dspScan | dspAux | dspFallbackSet | dspDsiCmd | snsFeed |
  snsScan | decOpen | decClose | decPush | timeRead | netGclWrite | netStreamTable | wallKey | fwLoad | fwActivate |
  fwRestart | secCert | secAttest | ownerChange | secKeyRevoke | secRollbackRaise | logRead =>
    exact execRequest_keeps rfl h
  | datagramReceive => exact .ofNext h (onDatagram_keeps _ (.refl s))
  | ackDelayTimeout => exact .ofNext h (onAckDelay_keeps _ (.refl s))
  | retransmitTimeout => exact .ofNext h (onRetransmit_keeps _ (.refl s))
  | sessionOpen => exact .ofNext h (onSessionOpen_keeps _ _ (.refl s))
  | sessionAuth => exact .ofNext h (onSessionAuth_keeps _ _ (.refl s))
  | regWaitPoll => exact .ofNext h (onRegWaitPoll_keeps _ (.refl s))
  | regWaitTimeout => exact .ofNext h (onRegWaitTimeout_keeps _ (.refl s))
  | cmdPortsWrite => exact .ofNext h (onCmdPortsWrite_keeps _ _ (hear_keeps _ (.refl s)))
  | halfOpenTimeout => exact .ofNext h (onHalfOpenTimeout_keeps _ (.refl s))
  | authBlockExpiry => exact .ofNext h (onAuthBlockExpiry_keeps _ (.refl s))
  | beaconTimer => exact .ofNext h (onBeaconTimer_keeps _ (.refl s))
  | heartbeatTimeout => exact .ofNext h (onHeartbeatTimeout_keeps _ (.refl s))
  | orphanTimeout => exact .ofNext h (onOrphanTimeout_keeps _ (.refl s))
  | reclaimTimeout => exact .ofNext h (onReclaimTimeout_keeps _ (.refl s))
  | forceReclaim => exact .ofNext h (onForceReclaim_keeps _ _ _ (hear_keeps _ (.refl s)))
  | release => exact .ofNext h (onRelease_keeps _ (hear_keeps _ (.refl s)))
  | tenLimitsWrite => exact .ofNext h (onTenLimitsWrite_keeps _ _ _ (hear_keeps _ (.refl s)))
  | reclaimComplete => exact .ofNext h (onReclaimComplete_keeps _ (.refl s))
  | memMapBacked => exact .ofNext h (onMemMapBacked_keeps _ _ (.refl s))
  | pageFault => exact .ofNext h (onPageFault_keeps _ _ _ _ (.refl s))
  | demandBackingDone => exact .ofNext h (onDemandBackingDone_keeps _ (.refl s))
  | faultTimeout => exact .ofNext h (onFaultTimeout_keeps _ _ (.refl s))
  | uncorrectableError => exact .ofNext h (onUncorrectable_keeps _ (.refl s))
  | patrolScrub => exact .ofNext h (onPatrolScrub_keeps _ (.refl s))
  | zeroFillDone => exact .ofNext h (onZeroFillDone_keeps _ (.refl s))
  | killedWritesSettled => exact .ofNext h (onKilledWritesSettled_keeps _ (.refl s))
  | schedulerTick => exact .ofNext h (onSchedulerTick_keeps (.refl s))
  | urgentTick => exact .ofNext h (onUrgentTick_keeps (.refl s))
  | commandCommit => exact .ofNext h (onCommandCommit_keeps _ (.refl s))
  | sysCompatWrite => exact .ofNext h (onSysCompatWrite_keeps _ _ (hear_keeps _ (.refl s)))
  | dmaDescriptorStart => exact .ofNext h (onDmaStart_keeps _ (.refl s))
  | dmaDescriptorDone => exact .ofNext h (onDmaDone_keeps _ _ (.refl s))
  | veNop => exact .ofNext h (onVeNop_keeps _ _ (.refl s))
  | veFadd => exact .ofNext h (onVeFadd_keeps _ _ (.refl s))
  | veFsub => exact .ofNext h (onVeFsub_keeps _ _ (.refl s))
  | veFmul => exact .ofNext h (onVeFmul_keeps _ _ (.refl s))
  | veFfma => exact .ofNext h (onVeFfma_keeps _ _ (.refl s))
  | veFmin => exact .ofNext h (onVeFmin_keeps _ _ (.refl s))
  | veFmax => exact .ofNext h (onVeFmax_keeps _ _ (.refl s))
  | veFabs => exact .ofNext h (onVeFabs_keeps _ _ (.refl s))
  | veFneg => exact .ofNext h (onVeFneg_keeps _ _ (.refl s))
  | veFcopysign => exact .ofNext h (onVeFcopysign_keeps _ _ (.refl s))
  | veFeq => exact .ofNext h (onVeFeq_keeps _ _ (.refl s))
  | veFne => exact .ofNext h (onVeFne_keeps _ _ (.refl s))
  | veFlt => exact .ofNext h (onVeFlt_keeps _ _ (.refl s))
  | veFle => exact .ofNext h (onVeFle_keeps _ _ (.refl s))
  | veFunord => exact .ofNext h (onVeFunord_keeps _ _ (.refl s))
  | veIeq => exact .ofNext h (onVeIeq_keeps _ _ (.refl s))
  | veIlt => exact .ofNext h (onVeIlt_keeps _ _ (.refl s))
  | veUlt => exact .ofNext h (onVeUlt_keeps _ _ (.refl s))
  | veSel => exact .ofNext h (onVeSel_keeps _ _ (.refl s))
  | veIadd => exact .ofNext h (onVeIadd_keeps _ _ (.refl s))
  | veIsub => exact .ofNext h (onVeIsub_keeps _ _ (.refl s))
  | veImullo => exact .ofNext h (onVeImullo_keeps _ _ (.refl s))
  | veSmulhi => exact .ofNext h (onVeSmulhi_keeps _ _ (.refl s))
  | veUmulhi => exact .ofNext h (onVeUmulhi_keeps _ _ (.refl s))
  | veShl => exact .ofNext h (onVeShl_keeps _ _ (.refl s))
  | veShr => exact .ofNext h (onVeShr_keeps _ _ (.refl s))
  | veSra => exact .ofNext h (onVeSra_keeps _ _ (.refl s))
  | veAnd => exact .ofNext h (onVeAnd_keeps _ _ (.refl s))
  | veOr => exact .ofNext h (onVeOr_keeps _ _ (.refl s))
  | veXor => exact .ofNext h (onVeXor_keeps _ _ (.refl s))
  | veSmin => exact .ofNext h (onVeSmin_keeps _ _ (.refl s))
  | veSmax => exact .ofNext h (onVeSmax_keeps _ _ (.refl s))
  | veUmin => exact .ofNext h (onVeUmin_keeps _ _ (.refl s))
  | veUmax => exact .ofNext h (onVeUmax_keeps _ _ (.refl s))
  | veMov => exact .ofNext h (onVeMov_keeps _ _ (.refl s))
  | veCvt => exact .ofNext h (onVeCvt_keeps _ _ (.refl s))
  | veBfi => exact .ofNext h (onVeBfi_keeps _ _ (.refl s))
  | veBfx => exact .ofNext h (onVeBfx_keeps _ _ (.refl s))
  | veRcp => exact .ofNext h (onVeRcp_keeps _ _ (.refl s))
  | veDiv => exact .ofNext h (onVeDiv_keeps _ _ (.refl s))
  | veSqrt => exact .ofNext h (onVeSqrt_keeps _ _ (.refl s))
  | veRsqrt => exact .ofNext h (onVeRsqrt_keeps _ _ (.refl s))
  | veExp2 => exact .ofNext h (onVeExp2_keeps _ _ (.refl s))
  | veLog2 => exact .ofNext h (onVeLog2_keeps _ _ (.refl s))
  | veSinpi => exact .ofNext h (onVeSinpi_keeps _ _ (.refl s))
  | veCospi => exact .ofNext h (onVeCospi_keeps _ _ (.refl s))
  | veExp => exact .ofNext h (onVeExp_keeps _ _ (.refl s))
  | veLog => exact .ofNext h (onVeLog_keeps _ _ (.refl s))
  | veSigmoid => exact .ofNext h (onVeSigmoid_keeps _ _ (.refl s))
  | veTanh => exact .ofNext h (onVeTanh_keeps _ _ (.refl s))
  | veShuffle => exact .ofNext h (onVeShuffle_keeps _ _ (.refl s))
  | veBcast => exact .ofNext h (onVeBcast_keeps _ _ (.refl s))
  | veGred => exact .ofNext h (onVeGred_keeps _ _ (.refl s))
  | veDred => exact .ofNext h (onVeDred_keeps _ _ (.refl s))
  | veLd32 => exact .ofNext h (onVeLd32_keeps _ _ (.refl s))
  | veLd64 => exact .ofNext h (onVeLd64_keeps _ _ (.refl s))
  | veLd128 => exact .ofNext h (onVeLd128_keeps _ _ (.refl s))
  | veSt32 => exact .ofNext h (onVeSt32_keeps _ _ (.refl s))
  | veSt64 => exact .ofNext h (onVeSt64_keeps _ _ (.refl s))
  | veSt128 => exact .ofNext h (onVeSt128_keeps _ _ (.refl s))
  | veAadd => exact .ofNext h (onVeAadd_keeps _ _ (.refl s))
  | veAsmin => exact .ofNext h (onVeAsmin_keeps _ _ (.refl s))
  | veAsmax => exact .ofNext h (onVeAsmax_keeps _ _ (.refl s))
  | veAand => exact .ofNext h (onVeAand_keeps _ _ (.refl s))
  | veAor => exact .ofNext h (onVeAor_keeps _ _ (.refl s))
  | veAxor => exact .ofNext h (onVeAxor_keeps _ _ (.refl s))
  | veAxchg => exact .ofNext h (onVeAxchg_keeps _ _ (.refl s))
  | veAcas => exact .ofNext h (onVeAcas_keeps _ _ (.refl s))
  | veBraAny => exact .ofNext h (onVeBraAny_keeps _ _ (.refl s))
  | veBraAll => exact .ofNext h (onVeBraAll_keeps _ _ (.refl s))
  | veBarGroup => exact .ofNext h (onVeBarGroup_keeps _ _ (.refl s))
  | veBarDispatch => exact .ofNext h (onVeBarDispatch_keeps _ _ (.refl s))
  | veDmaIssue => exact .ofNext h (onVeDmaIssue_keeps _ _ (.refl s))
  | veDmaWait => exact .ofNext h (onVeDmaWait_keeps _ _ (.refl s))
  | veExit => exact .ofNext h (onVeExit_keeps _ _ (.refl s))
  | dlState => exact .ofNext h (onDlState_keeps _ (.refl s))
  | dlTriangles => exact .ofNext h (onDlTriangles_keeps _ (.refl s))
  | dlRects => exact .ofNext h (onDlRects_keeps _ (.refl s))
  | dlEnd => exact .ofNext h (onDlEnd_keeps _ (.refl s))
  | dlNop => exact .ofNext h (onDlNop_keeps _ (.refl s))
  | haloRowSend => exact .ofNext h (onHaloRowSend_keeps _ _ (.refl s))
  | haloSlotRead => exact .ofNext h (onHaloSlotRead_keeps _ _ (.refl s))
  | haloCredit => exact .ofNext h (onHaloCredit_keeps _ _ (.refl s))
  | haloTimeout => exact .ofNext h (onHaloTimeout_keeps _ _ _ (.refl s))
  | reelEccError => exact .ofNext h (onReelEccError_keeps _ _ (.refl s))
  | fgEnable => exact .ofNext h (onFgEnable_keeps _ _ _ (hear_keeps _ (.refl s)))
  | fgDisable => exact .ofNext h (onFgDisable_keeps _ _ _ (hear_keeps _ (.refl s)))
  | fgStepEligible => exact .ofNext h (onFgStepEligible_keeps _ (.refl s))
  | captureComplete => exact .ofNext h (onCaptureComplete_keeps _ (.refl s))
  | publishCopyStart => exact .ofNext h (onPublishCopyStart_keeps _ (.refl s))
  | publishCopyDone => exact .ofNext h (onPublishCopyDone_keeps _ (.refl s))
  | galliardDecision => exact .ofNext h (onGalliardDecision_keeps _ (.refl s))
  | galEnable => exact .ofNext h (onGalEnable_keeps _ _ _ (hear_keeps _ (.refl s)))
  | streamBandWrite => exact .ofNext h (onStreamBand_keeps _ (.refl s))
  | streamTimeout => exact .ofNext h (onStreamTimeout_keeps _ (.refl s))
  | tileMemoryEcc => exact .ofNext h (onTileMemoryEcc_keeps _ (.refl s))
  | csiFrameStart => exact .ofNext h (onFrameStartCsi_keeps _ _ _ _ (.refl s))
  | csiFrameEnd => exact .ofNext h (onFrameEndCsi_keeps _ _ _ (.refl s))
  | csiLongPacket => exact .ofNext h (onCsiLong_keeps _ _ _ _ _ _ _ (.refl s))
  | csiIgnoredPacket => exact .ofNext h (onCsiIgnored_keeps _ _ _ _ (.refl s))
  | frameTimeout => exact .ofNext h (onFrameTimeout_keeps _ (.refl s))
  | sourceLost => exact .ofNext h (onSourceLost_keeps _ _ _ (.refl s))
  | csiLinkChange => exact .ofNext h (onCsiLink_keeps _ _ _ (.refl s))
  | tdmFrame => exact .ofNext h (onTdmFrame_keeps _ _ _ _ (.refl s))
  | tdmSyncTimeout => exact .ofNext h (onTdmSync_keeps _ (.refl s))
  | fifoOverflow => exact .ofNext h (onFifoOverflow_keeps _ (.refl s))
  | recordDispatch => exact .ofNext h (onRecordDispatch_keeps _ (.refl s))
  | laneStart => exact .ofNext h (onLaneStart_keeps _ (.refl s))
  | decodeFinish => exact .ofNext h (onDecodeFinish_keeps _ (.refl s))
  | budgetTimeout => exact .ofNext h (onBudgetTimeout_keeps _ (.refl s))
  | frameStart => exact .ofNext h (onFrameStart_keeps _ (.refl s))
  | dspCommitApply => exact .ofNext h (onDspCommitApply_keeps _ _ (hear_keeps _ (.refl s)))
  | dspStop => exact .ofNext h (onDspStop_keeps _ _ (hear_keeps _ (.refl s)))
  | teEdge => exact .ofNext h (onTeEdge_keeps _ _ (.refl s))
  | teTimeout => exact .ofNext h (onTeTimeout_keeps _ (.refl s))
  | hpdChange => exact .ofNext h (onHpdChange_keeps _ _ (.refl s))
  | irqHpd => exact .ofNext h (onIrqHpd_keeps _ _ (.refl s))
  | linkTrainingDone => exact .ofNext h (onLinkTrainingDone_keeps _ _ (.refl s))
  | auxDone => exact .ofNext h (onAuxDone_keeps _ _ (.refl s))
  | fallbackCopyDone => exact .ofNext h (onFallbackCopyDone_keeps _ (.refl s))
  | dsiCmdSend => exact .ofNext h (onDsiCmdSend_keeps _ _ (.refl s))
  | dsiCmdTimeout => exact .ofNext h (onDsiCmdTimeout_keeps _ (.refl s))
  | memSleepEnter => exact .ofNext h (onMemSleepEnter_keeps (.refl s))
  | memSleepExit => exact .ofNext h (onMemSleepExit_keeps (.refl s))
  | linkUp => exact .ofNext h (onLinkUp_keeps _ (.refl s))
  | linkDown => exact .ofNext h (onLinkDown_keeps _ (.refl s))
  | arpRequest => exact .ofNext h (onArpEvent_keeps _ _ (.refl s))
  | neighbourSolicitation => exact .ofNext h (receiveFrame_keeps _ (.refl s) fun _ => onNeighbour_keeps _ _)
  | icmpEchoRequest => exact .ofNext h (receiveFrame_keeps _ (.refl s) fun _ => onPing_keeps _ _)
  | netPortConfigWrite => exact .ofNext h (onNetPortConfigWrite_keeps _ _ _ (hear_keeps _ (.refl s)))
  | sync => exact .ofNext h (onSync_keeps _ _ (countGptp_keeps _ (.refl s)))
  | followUp => exact .ofNext h (onFollowUp_keeps _ _ (countGptp_keeps _ (.refl s)))
  | pdelayReq => exact .ofNext h (onPdelayReq_keeps _ _ (countGptp_keeps _ (.refl s)))
  | pdelayResp => exact .ofNext h (onPdelayResp_keeps _ _ (countGptp_keeps _ (.refl s)))
  | announce => exact .ofNext h (onAnnounce_keeps _ _ (countGptp_keeps _ (.refl s)))
  | syncIntervalTimer => exact .ofNext h (onSyncInterval_keeps _ (.refl s))
  | pdelayIntervalTimer => exact .ofNext h (onPdelayInterval_keeps _ (.refl s))
  | syncTimeout => exact .ofNext h (onSyncTimeout_keeps _ (.refl s))
  | gclSwitch => exact .ofNext h (onGclSwitch_keeps _ (.refl s))
  | gateIntervalEnd => exact .ofNext h (onGateInterval_keeps _ (.refl s))
  | netWallEnable => exact .ofNext h (onNetWallEnable_keeps _ _ (hear_keeps _ (.refl s)))
  | wallReady => exact .ofNext h (onWallReady_keeps _ (.refl s))
  | wallAgree => exact .ofNext h (onWallAgree_keeps _ (.refl s))
  | wallClaim => exact .ofNext h (onWallClaim_keeps _ (.refl s))
  | agreeFallbackTimeout => exact .ofNext h (onAgreeFallback_keeps (.refl s))
  | wallAgreementMissing => exact .ofNext h (onAgreementMissing_keeps (.refl s))
  | wallElectionTimeout => exact .ofNext h (onElection_keeps (.refl s))
  | fwVerifyDone => exact .ofNext h (onFwVerifyDone_keeps (.refl s))
  | activationResume => exact .ofNext h (onActivationResume_keeps (.refl s))
  | processorRestartDone => exact .ofNext h (onRestartDone_keeps _ (.refl s))
  | watchdogExpiry => exact .ofNext h (procFault_keeps _ _ (.refl s))
  | protectionViolation => exact .ofNext h (procFault_keeps _ _ (.refl s))
  | sramError => exact .ofNext h (procFault_keeps _ _ (.refl s))
  | consistencyCheckFail => exact .ofNext h (procFault_keeps _ _ (.refl s))
  | holdRelease => exact .ofNext h (onHoldRelease_keeps (.refl s))
  | selfTestDone => exact .ofNext h (onSelfTestDone_keeps _ (.refl s))
  | sensorSample => exact .ofNext h (onSensorSample_keeps _ (.refl s))
  | currentSample => exact .ofNext h (onCurrentSample_keeps _ (.refl s))
  | powerLoopPeriod => exact .ofNext h (onPowerLoop_keeps (.refl s))
  | parkPeriod => exact .ofNext h (onParkPeriod_keeps (.refl s))
  | entropyFail => exact .ofNext h (onEntropyFail_keeps (.refl s))
  | secEnrollArm => exact .ofNext h (onEnrollArm_keeps (.refl s))
  | enrollWindowExpiry => exact .ofNext h (onEnrollExpiry_keeps (.refl s))
  | nvrWordStored => exact .ofNext h (onNvrWordStored_keeps (.refl s))
  | powerOn => exact .ofNext h (onPowerOn_keeps _ (.refl s))
  | brownout => exact execBrownout_keeps h
  | resetAssert => exact .ofNext h (onResetAssert_keeps (.refl s))
  | resetRelease => exact .ofNext h (onResetRelease_keeps _ (.refl s))
  | hbmTrained => exact .ofNext h (onHbmTrained_keeps (.refl s))
  | thermalHoldOffEnd => exact .ofNext h (onHoldOffEnd_keeps (.refl s))
  | rootPllUnlock => exact .ofNext h (onPllUnlock_keeps (.refl s))
  | phyReferenceLost => exact .ofNext h (onPhyLost_keeps _ (.refl s))
  | phyReferenceLock => exact .ofNext h (onPhyLock_keeps _ (.refl s))
  | sysResetReq => exact .ofNext h (onSysResetReq_keeps _ _ (hear_keeps _ (.refl s)))
  | resetRequestTimer => exact .ofNext h (onResetTimer_keeps (.refl s))
  | jtagBypass => exact .ofNext h (bypass_keeps (.refl s))
  | jtagIdcode => exact .ofNext h (out_keeps _ (.refl s))
  | jtagSamplePreload => exact .ofNext h (onSamplePreload_keeps (.refl s))
  | jtagExtest => exact .ofNext h (onExtest_keeps (.refl s))
  | jtagDebugRead => exact .ofNext h (onDebugRead_keeps _ (.refl s))
  | jtagDebugWrite => exact .ofNext h (onDebugWrite_keeps _ _ (.refl s))
  | jtagReset => exact .ofNext h (onJtagReset_keeps (.refl s))
  | i3cSetdasa => exact .ofNext h (onSetdasa_keeps _ (.refl s))
  | i3cEntdaa => exact .ofNext h (onEntdaa_keeps _ (.refl s))
  | i3cAddressWrite => exact .ofNext h (onI3cAddress_keeps _ (.refl s))
  | i3cRegisterWrite => exact .ofNext h (onI3cRegister_keeps _ _ (.refl s))
  | i3cPrivateRead => exact .ofNext h (onI3cRead_keeps (.refl s))
  | lineStart => exact .ofNext h (onLineStart_keeps _ _ (.refl s))
  | memWriteBacked => exact .ofNext h (onMemWriteBacked_keeps _ (.refl s))
  | wallMemberLost => exact .ofNext h (onMemberLost_keeps _ (.refl s))
  | noPacketsTimeout => exact .ofNext h (onNoPackets_keeps _ (.refl s))
  | bitClockLoss => exact .ofNext h (onBitClockLoss_keeps _ (.refl s))
  | bitClockDetected => exact .ofNext h (onBitClockDetected_keeps _ (.refl s))
  | preemptionVerifyDone => exact .ofNext h (onPreemptVerified_keeps _ (.refl s))
  | announceReceiptTimeout => exact .ofNext h (onAnnounceTimeout_keeps _ (.refl s))
  | announceIntervalTimer => exact .ofNext h (onAnnounceInterval_keeps _ (.refl s))

end Sys2Proof.Machine
end

section
/-! SUPPORT. What becomes of a request before its own meaning (R64, R65, R77, R78, R120, R542): one equation per outcome. -/

namespace Sys2Proof.Machine

open Sys2Proof

/-! ## The heartbeat of a request (R120) -/

section
variable {s : State} {rq : Req} {ss : Session}

theorem hear_stopped (h : isRunning s = false) : hear rq s = s := by
  simp [hear, h]

theorem hear_absent (h : getSes s rq.session.toNat = none) : hear rq s = s := by
  simp [hear, h]

theorem hear_open (hr : isRunning s = true) (h : getSes s rq.session.toNat = some ss) :
    hear rq s = modTen s ss.tenant fun x => { x with lastAuth := some s.now } := by
  simp [hear, hr, h]

theorem isRunning_hear : isRunning (hear rq s) = isRunning s := by
  unfold hear
  split
  · split <;> rfl
  · rfl

theorem getSes_hear (i : Nat) : getSes (hear rq s) i = getSes s i := by
  unfold hear
  split
  · split <;> rfl
  · rfl

end

/-! ## The outcomes of the sequencer -/

section
variable {s : State} {op : Nat} {rq : Req} {p : List Byte} {k : Nat → Session → State} {ss : Session}

theorem request_stopped (h : isRunning s = false) : request s op rq p k = s := by
  simp [request, h]

theorem request_absent (hr : isRunning s = true) (h : getSes s rq.session.toNat = none) :
    request s op rq p k = incReg s aDiscSession 1 cap32 := by
  simp [request, hr, h]

section
variable (hr : isRunning s = true) (h : getSes s rq.session.toNat = some ss)
include hr h

theorem request_inLine (hl : inLine ss = true) :
    request s op rq p k = stall s rq.session.toNat ss op rq.tag.toNat p := by
  simp [request, hr, h, hl]

theorem request_refused {e : Nat × Nat} (hl : inLine ss = false) (hf : requestFault s ss op rq.tag.toNat p = some e) :
    request s op rq p k = refuse s op rq e := by
  simp [request, hr, h, hl, hf]

theorem request_waits (hl : inLine ss = false) (hf : requestFault s ss op rq.tag.toNat p = none)
    (hw : mustWait s op = true) : request s op rq p k = stall s rq.session.toNat ss op rq.tag.toNat p := by
  simp [request, hr, h, hl, hf, hw]

end

end

/-- A command that a request carries goes to the sequencer with its opcode and payload, once the request is heard. -/
theorem exec_take {i : Instr} {rq : Req} (h : reqOf i = some rq) (s : State) :
    ∃ k, exec i s = .next (take i (hear rq s) k) := by
  cases i
  all_goals cases h
  all_goals exact ⟨_, rfl⟩

theorem exec_sequenced {i : Instr} {op : Nat} {p : List Byte} {rq : Req} (hb : requestBytes i = some (op, p))
    (hq : reqOf i = some rq) (s : State) : ∃ k, exec i s = .next (request (hear rq s) op rq p k) := by
  obtain ⟨k, hk⟩ := exec_take hq s
  exact ⟨_, hk.trans (by simp only [take, hb, hq]; rfl)⟩

end Sys2Proof.Machine
end

section
/-! SUPPORT. The timers of a session's stream (R71 to R73) and the beacons of a port (R100 to R102), and reads of registers (R92, R93). -/

namespace Sys2Proof.Machine

open Sys2Proof

/-! ## Timers of the stream -/

section
variable {s : State} {id : Word} {ss : Session} {d : Nat}
  (hr : isRunning s = true) (h : getSes s id.toNat = some ss) (hn : d ≤ s.now)
include hr h hn

theorem onAckDelay_due (hd : ss.rx.ackDue = some d) :
    onAckDelay id s = out (setSes s id.toNat (acked ss)) (nextAck s id.toNat ss) := by
  rw [← sendAck_open h]
  simp [onAckDelay, hr, h, hd, hn]

/-- The timer doubles up to 64 ms, and the oldest packet goes again (R72). -/
theorem onRetransmit_due {p : TxPacket} {r : List TxPacket} (hd : ss.tx.rtoDue = some d) (hu : ss.tx.unacked = p :: r) :
    onRetransmit id s = sendPacket (setSes s id.toNat { ss with tx := { ss.tx with
      rtoStep := min (ss.tx.rtoStep + 1) 5
      rtoDue := some (s.now + rto0 * 2 ^ min (ss.tx.rtoStep + 1) 5) } }) id.toNat ss p := by
  simp [onRetransmit, hr, h, hd, hu, hn]

end

/-! ## Beacons -/

/-- The frames of a beacon have been offered to its port, as CMD_BEACON asks. -/
def beaconsOut (s : State) (p : Nat) (b : List Byte) : State :=
  let s := if rField s aCmdBeacon 30 30 = 1 then out s (.beacon (beaconWire s p false b)) else s
  if rField s aCmdBeacon 31 31 = 1 then out s (.beacon (beaconWire s p true b)) else s

/-- The beacon of a port under its next sequence number (R101). -/
def nextBeacon (s : State) (p : Nat) : List Byte :=
  let b := beaconBytes s p ((s.link.beaconSeq.getD p 0 + 1) % 2 ^ 32)
  b ++ signIdentity b

theorem beacon_leavesPlain (w : Wire) : LeavesPlain (.beacon w) := fun _ => rfl

theorem beaconsOut_sends (s : State) (p : Nat) (b : List Byte) : Sends s (beaconsOut s p b) := by
  unfold beaconsOut
  dsimp only
  split <;> split
  · exact (out_sends ..).trans (out_sends ..)
  · exact out_sends ..
  · exact out_sends ..
  · exact .refl s

theorem beaconsOut_netKept (s : State) (p : Nat) (b : List Byte) : NetKept s (beaconsOut s p b) := by
  have same (u : State) (w : Wire) := out_same u 0 (beacon_leavesPlain w)
  unfold beaconsOut
  dsimp only
  split <;> split
  · exact (sameButReply_trans (same ..) (same ..)).net
  · exact (same ..).net
  · exact (same ..).net
  · exact netKept_of_eq rfl rfl

/-- A beacon changes, beside the frames, the beacon's own clock alone. -/
theorem sendBeacon_eq (s : State) (p : Nat) : ∃ last due body, sendBeacon s p = { beaconsOut s p (nextBeacon s p) with
    link := { s.link with
      beaconSeq := s.link.beaconSeq.set p ((s.link.beaconSeq.getD p 0 + 1) % 2 ^ 32)
      beaconLast := last, beaconDue := due, beaconBody := body } } := by
  have h : (beaconsOut s p (nextBeacon s p)).link = s.link := (congrArg State.link (beaconsOut_sends s p _).rest :)
  exact ⟨_, _, _, congrArg (fun l : Transport => { beaconsOut s p (nextBeacon s p) with
    link := { l with
      beaconSeq := l.beaconSeq.set p ((s.link.beaconSeq.getD p 0 + 1) % 2 ^ 32)
      beaconLast := (sendBeacon s p).link.beaconLast
      beaconDue := (sendBeacon s p).link.beaconDue
      beaconBody := (sendBeacon s p).link.beaconBody } }) h⟩

theorem out_beacon_at_once {s : State} {w : Wire} (h : PortFree s w.eth w.v6) :
    out s (.beacon w) = { s with sent := .beacon w :: s.sent } := by
  obtain ⟨hl, hg, h6⟩ := h
  have hm : muted s (.beacon w) = false := by
    obtain h | h := h6 <;> simp [muted, h]
  exact out_at_once hm rfl hl hg rfl

theorem beaconsOut_at_once {s : State} {p : Nat} {b : List Byte} (h : PortFree s p false) : (beaconsOut s p b).sent =
    (if rField s aCmdBeacon 31 31 = 1 then [Output.beacon (beaconWire s p true b)] else []) ++
    (if rField s aCmdBeacon 30 30 = 1 then [Output.beacon (beaconWire s p false b)] else []) ++ s.sent := by
  have h4 : out s (.beacon (beaconWire s p false b)) = { s with sent := .beacon (beaconWire s p false b) :: s.sent } :=
    out_beacon_at_once h
  have h6 (u : State) (hu : PortFree u p true) :
      out u (.beacon (beaconWire u p true b)) = { u with sent := .beacon (beaconWire u p true b) :: u.sent } :=
    out_beacon_at_once hu
  have hp : PortFree s p true := ⟨h.1, h.2.1, .inl rfl⟩
  unfold beaconsOut
  dsimp only
  by_cases e4 : rField s aCmdBeacon 30 30 = 1
  · rw [if_pos e4, if_pos e4, h4]
    by_cases e6 : rField s aCmdBeacon 31 31 = 1
    · rw [if_pos e6]
      refine (congrArg State.sent (if_pos e6)).trans ?_
      rw [h6]
      · rfl
      · exact hp
    · rw [if_neg e6]
      exact congrArg State.sent (if_neg e6)
  · rw [if_neg e4, if_neg e4]
    by_cases e6 : rField s aCmdBeacon 31 31 = 1
    · rw [if_pos e6, if_pos e6, h6 s hp]
      rfl
    · rw [if_neg e6, if_neg e6]
      rfl

/-- The timer of a beacon that is due, 100 ms or more after the last one (R100). -/
theorem onBeaconTimer_due {s : State} {p : Nat} (hr : isRunning s = true) (hl : (getPort s p).link = true)
    (hp : restarting s 1 = false) (hd : s.link.beaconDue.getD p 0 ≤ s.now)
    (hg : ∀ t, s.link.beaconLast.getD p none = some t → t + beaconGap ≤ s.now) : onBeaconTimer p s = sendBeacon s p := by
  have hd' : decide (s.link.beaconDue.getD p 0 ≤ s.now) = true := decide_eq_true hd
  unfold onBeaconTimer
  rw [hd']
  cases hb : s.link.beaconLast.getD p none with
  | none => simp [hr, hl, hp]
  | some t => simp [hr, hl, hp, hg t hb]

/-! ## Reads (R92, R93) -/

/-- Where neither the header's checks nor those of the addresses refuse, the words are answered. -/
theorem readBody_answers {s : State} {op : Nat} {rq : Req} {t count limit : Nat} {as : List Nat} {head : Nat → List Byte}
    (h1 : 1 ≤ count) (h2 : count ≤ limit) (hf : firstReadFault s t as = none) :
    readBody s op rq t count limit 0 as head = replyOk s op rq (head 0 ++ readValues s t as) := by
  simp [readBody, Nat.one_le_iff_ne_zero.1 h1, Nat.not_lt.2 h2, hf]

end Sys2Proof.Machine
end

section
/-! SUPPORT. Fields of a payload (R4): each is read back from where it was written. -/

namespace Sys2Proof.Machine

open Sys2Proof

@[simp] theorem length_leBytes (n v : Nat) : (leBytes n v).length = n := by
  induction n generalizing v with
  | zero => rfl
  | succ n ih => simp [leBytes, ih]

theorem leNat_leBytes (n v : Nat) : leNat (leBytes n v) = v % 256 ^ n := by
  induction n generalizing v with
  | zero => simp [leBytes, leNat, Nat.mod_one]
  | succ n ih => rw [leBytes, leNat, ih, BitVec.toNat_ofNat, Nat.pow_succ' (m := 256), Nat.mod_mul]

/-! ## A field behind others -/

section
variable {n off : Nat} (v : Nat) (r : List Byte)

@[simp] theorem drop_field (h : n ≤ off) : (leBytes n v ++ r).drop off = r.drop (off - n) := by
  rw [List.drop_append, List.drop_eq_nil_of_le (by simpa using h), length_leBytes, List.nil_append]

@[simp] theorem leAt_field (k : Nat) (h : n ≤ off) : leAt (leBytes n v ++ r) off k = leAt r (off - n) k := by
  rw [leAt, drop_field v r h, leAt]

theorem wordsAt_field (k : Nat) (h : n ≤ off) : wordsAt (leBytes n v ++ r) off k = wordsAt r (off - n) k := by
  induction k generalizing off with
  | zero => rfl
  | succ k ih => rw [wordsAt, wordsAt, ih (Nat.le_add_right_of_le h), wordAt, leAt_field v r 4 h, wordAt, Nat.sub_add_comm h]

theorem gclEntriesAt_field (k : Nat) (h : n ≤ off) : gclEntriesAt (leBytes n v ++ r) off k = gclEntriesAt r (off - n) k := by
  induction k generalizing off with
  | zero => rfl
  | succ k ih =>
    rw [gclEntriesAt, gclEntriesAt, ih (Nat.le_add_right_of_le h), Nat.sub_add_comm h]
    simp only [wordAt, byteAt, bvAt, leAt_field v r _ h, leAt_field v r _ (Nat.le_add_right_of_le h), Nat.sub_add_comm h]

end

/-! ## The field at hand -/

section
variable {w n : Nat} (v : BitVec w) (r : List Byte)

theorem leAt_leBytes_append (h : w = 8 * n) : leAt (leBytes n v.toNat ++ r) 0 n = v.toNat := by
  have hv : v.toNat < 256 ^ n := by
    rw [show 256 = 2 ^ 8 from rfl, ← Nat.pow_mul, ← h]
    exact v.isLt
  rw [leAt, List.drop_zero, List.take_append_of_le_length (by simp), List.take_of_length_le (by simp), leNat_leBytes,
    Nat.mod_eq_of_lt hv]

theorem leAt_leBytes (h : w = 8 * n) : leAt (leBytes n v.toNat) 0 n = v.toNat := by
  rw [← List.append_nil (leBytes n v.toNat), leAt_leBytes_append v [] h]

end

theorem b8_eq (v : Byte) : b8 v = leBytes 1 v.toNat := by
  simp [b8, leBytes]

theorem wordsAt_wordsBytes {ws : List Word} {n : Nat} (h : ws.length = n) : wordsAt (wordsBytes ws) 0 n = ws := by
  subst h
  induction ws with
  | nil => rfl
  | cons w r ih =>
    simp only [wordsBytes, List.length_cons, wordsAt, wordAt, b32, leAt_leBytes_append, wordsAt_field, Nat.le_refl,
      Nat.reduceAdd, Nat.reduceSub, Nat.reduceMul, ih, BitVec.ofNat_toNat, BitVec.setWidth_eq]

theorem gclEntriesAt_gclEntriesBytes {es : List GclEntry} {n : Nat} (h : es.length = n) :
    gclEntriesAt (gclEntriesBytes es) 0 n = es := by
  subst h
  induction es with
  | nil => rfl
  | cons e r ih =>
    simp only [gclEntriesBytes, List.length_cons, gclEntriesAt, wordAt, byteAt, bvAt, b32, b24, b8_eq, List.append_assoc,
      leAt_leBytes_append, leAt_field, gclEntriesAt_field, Nat.le_refl, Nat.reduceLeDiff, Nat.reduceAdd, Nat.reduceSub,
      Nat.reduceMul, ih, BitVec.ofNat_toNat, BitVec.setWidth_eq]

end Sys2Proof.Machine
end

section
/-! SUPPORT. A reply that goes out at once, and one that waits for the send window (R68, R69, R71, R74). -/

namespace Sys2Proof.Machine

open Sys2Proof

/-- The packet that carries a session's next message. -/
def nextPacket (ss : Session) (m : Msg) : TxPacket := { seq := ss.tx.next, ack := ss.rx.next - 1, msg := m }

/-- A packet that goes takes the next sequence number, waits for its acknowledgement, and bears the session's own. -/
theorem transmit_session (s : State) (i : Nat) (ss : Session) (m : Msg) :
    ∃ due, getSes (transmit s i ss m) i = some { ss with
      tx := { ss.tx with next := ss.tx.next + 1, unacked := ss.tx.unacked ++ [nextPacket ss m], rtoDue := due }
      rx := { ss.rx with unacked := 0, ackDue := none } } :=
  ⟨_, by simp only [transmit, sendPacket, getSes_afterSent, getSes_out, getSes_setSes_self]; rfl⟩

/-- The message of a reply (R78). -/
def replyMsg (op : Nat) (rq : Req) (status detail : Nat) (p : List Byte) : Msg :=
  { op := op, flags := fgReply, tag := rq.tag.toNat, status := status, detail := detail, payload := p }

theorem reply_at_once {s : State} {rq : Req} {ss : Session} (op status detail : Nat) (p : List Byte)
    (h : getSes s rq.session.toNat = some ss) (hw : ss.tx.waiting = []) (hu : ss.tx.unacked.length < 256) :
    reply s op rq status detail p = transmit s rq.session.toNat ss (replyMsg op rq status detail p) :=
  sendMsg_at_once h hw hu

section
variable {s : State} {i : Nat} {ss : Session} {m : Msg} (h : getSes s i = some ss)
include h

/-- With the window full a message waits in order. -/
theorem sendMsg_full (hf : 256 ≤ ss.tx.unacked.length) :
    sendMsg s i m = setSes s i { ss with tx := { ss.tx with waiting := ss.tx.waiting ++ [m] } } := by
  simp [sendMsg, h, Nat.not_lt.2 hf]

end

section
variable {s : State} {rq : Req} {ss : Session} (h : getSes s rq.session.toNat = some ss)
include h

/-- Whatever the window, a reply changes of its session the send side and the acknowledgement that is due. -/
theorem reply_session (op status detail : Nat) (p : List Byte) :
    ∃ tx rx, getSes (reply s op rq status detail p) rq.session.toNat = some { ss with tx := tx, rx := rx } := by
  obtain ⟨u, hu, e⟩ := (reply_same s op rq status detail p).session ss h
  exact ⟨u.tx, u.rx, by rw [hu, ← e]⟩

theorem answered_session (op t status : Nat) (p : List Byte) :
    ∃ tx rx, getSes (answered s op rq t status p) rq.session.toNat = some { ss with tx := tx, rx := rx } :=
  reply_session (s := modTen s t fun x => { x with async := x.async ++ [asyncOf op rq] }) h op status 0 p

end

/-- Below the limit of asynchronous requests, the request is answered and joins the outstanding ones (R79, R80). -/
theorem accept_answered {s : State} {op : Nat} {rq : Req} {t status : Nat} {p : List Byte} {k : State → Async → State}
    (h : asyncCount s t rq.session.toNat < asyncLimit) :
    accept s op rq t status p k = k (answered s op rq t status p) (asyncOf op rq) :=
  accept_pass h

end Sys2Proof.Machine
end

section
/-! SUPPORT. The end of a session (R75, R86, R97, R121). -/

namespace Sys2Proof.Machine

open Sys2Proof

theorem pushLog_frame (s : State) (source severity code t : Nat) (args : List Nat) :
    { pushLog s source severity code t args with fw := s.fw } = s := by
  unfold pushLog
  dsimp only
  generalize (if s.now / secTicks = s.fw.logSecond then s.fw.logCount else 0) = n
  split <;> rfl

/-- A trace record changes the log alone. -/
theorem trace_frame (s : State) (point t : Nat) (args : List Nat) : { trace s point t args with fw := s.fw } = s := by
  unfold trace
  split
  · exact pushLog_frame ..
  · rfl

theorem trace_eq (s : State) (point t : Nat) (args : List Nat) :
    trace s point t args = { s with fw := (trace s point t args).fw } :=
  congrArg (fun u : State => { u with fw := (trace s point t args).fw }) (trace_frame s point t args)

@[simp] theorem tabFind_tabErase_self {α : Type} (t : Tab α) (k : Nat) : tabFind (tabErase t k) k = none := by
  induction t with
  | nil => rfl
  | cons x r ih =>
    by_cases h : x.1 = k
    · simp [tabErase, h, ih]
    · simp [tabErase, tabFind, h, ih]

theorem tabFind_tabErase_ne {α : Type} (t : Tab α) {k j : Nat} (h : j ≠ k) : tabFind (tabErase t k) j = tabFind t j := by
  induction t with
  | nil => rfl
  | cons x r ih =>
    by_cases hx : x.1 = k
    · simp [tabErase, tabFind, hx, ih, h.symm]
    · simp [tabErase, tabFind, hx, ih]

/-- The write that a session was backing stands, and its pages are raised no more (R138). -/
def storeBacking (s : State) (t : Nat) (ss : Session) : State :=
  match ss.backing with
  | some b => hbmWrite (modTen s t fun x => { x with mem := { x.mem with
      raising := x.mem.raising.filter fun p => p.1 ≠ none } }) t b.va b.data
  | none => s

theorem storeBacking_link (s : State) (t : Nat) (ss : Session) : (storeBacking s t ss).link = s.link := by
  unfold storeBacking
  split <;> rfl

@[simp] theorem getTen_hbmWrite (s : State) (t va : Nat) (l : List Byte) (u : Nat) :
    getTen (hbmWrite s t va l) u = getTen s u := rfl

theorem getTen_storeBacking_self (s : State) (t : Nat) (ss : Session) :
    ∃ mem, getTen (storeBacking s t ss) t = { getTen s t with mem := mem } := by
  unfold storeBacking
  split
  · exact ⟨_, by rw [getTen_hbmWrite, getTen_modTen_self]⟩
  · exact ⟨_, rfl⟩

theorem getTen_storeBacking_ne (s : State) {t u : Nat} (ss : Session) (h : u ≠ t) :
    getTen (storeBacking s t ss) u = getTen s u := by
  unfold storeBacking
  split
  · rw [getTen_hbmWrite, getTen_modTen_ne s _ h]
  · rfl

/-- What a tenant keeps of session i when it ends: no REG_WAIT of it, and the completions that the host has not
acknowledged, up to 4,096. -/
def afterSession (x : Tenant) (i reason : Nat) (ss : Session) : Tenant :=
  { x with
    session := none, reason := reason,
    async := x.async.filter fun a => !(decide (a.op = opRegWait) && decide (a.session = i)),
    held := (x.held ++ keptCompletions ss).take 4096 }

section
variable {s : State} {t i : Nat} {ss : Session} (reason : Nat) (ht : (getTen s t).session = some i)
  (h : getSes s i = some ss)
include ht h

theorem dropSession_open : ∃ regs next reset fw, dropSession s t reason =
    { modTen (storeBacking s t ss) t (fun x => afterSession x i reason ss) with
      regs := regs
      link := { s.link with sessions := tabErase s.link.sessions i, portsNext := next, resetNext := reset }
      fw := fw } := by
  rw [← storeBacking_link s t ss]
  simp only [dropSession, ht, h]
  exact ⟨_, _, _, _, trace_eq ..⟩

/-- The session is gone, and no other session with it. -/
theorem getSes_dropSession : getSes (dropSession s t reason) i = none ∧
    ∀ j, j ≠ i → getSes (dropSession s t reason) j = getSes s j := by
  obtain ⟨_, _, _, _, e⟩ := dropSession_open reason ht h
  rw [e]
  exact ⟨tabFind_tabErase_self .., fun j hj => tabFind_tabErase_ne _ hj⟩

/-- Its tenant keeps what a session leaves, and no other tenant changes. -/
theorem getTen_dropSession : (∃ mem, getTen (dropSession s t reason) t =
      afterSession { getTen s t with mem := mem } i reason ss) ∧
    ∀ u, u ≠ t → getTen (dropSession s t reason) u = getTen s u := by
  obtain ⟨_, _, _, _, e⟩ := dropSession_open reason ht h
  obtain ⟨mem, hm⟩ := getTen_storeBacking_self s t ss
  rw [e]
  refine ⟨⟨mem, ?_⟩, fun u hu => ?_⟩
  · rw [← hm]
    exact getTen_modTen_self (storeBacking s t ss) t fun x => afterSession x i reason ss
  · rw [← getTen_storeBacking_ne s ss hu]
    exact getTen_modTen_ne (storeBacking s t ss) (fun x => afterSession x i reason ss) hu

end

end Sys2Proof.Machine
end

section
/-! SUPPORT. REG_WRITE, REG_UPDATE and REG_WAIT case by case (R94 to R97). -/

namespace Sys2Proof.Machine

open Sys2Proof

/-! ## REG_WRITE (R94, R95) -/

section
variable {s : State} {op : Nat} {rq : Req} {t addr count : Nat} {vs : List Nat}

theorem regWriteBody_countRange (h : count < 1 ∨ 256 < count) : regWriteBody s op rq t addr count 0 vs =
    reply s op rq stBadParam dtCountRange (regHeader addr count 0) := by
  simp only [regWriteBody, if_pos h, ne_eq, not_true_eq_false, if_false]

section
variable (hc : ¬ (count < 1 ∨ 256 < count))
include hc

theorem regWriteBody_unaligned (h4 : addr % 4 ≠ 0) : regWriteBody s op rq t addr count 0 vs =
    reply s op rq stBadParam dtUnalignedAddress (regHeader addr count 0) := by
  simp only [regWriteBody, if_neg hc, if_pos h4, ne_eq, not_true_eq_false, if_false]

section
variable (h4 : addr % 4 = 0)
include h4

theorem regWriteBody_fault {e : (Nat × Nat) × Nat} (hf : writeFault s t .packet (writesOf addr vs) = some e) :
    regWriteBody s op rq t addr count 0 vs = reply s op rq e.1.1 e.1.2 (regHeader addr count e.2) := by
  simp only [regWriteBody, if_neg hc, h4, hf, ne_eq, not_true_eq_false, if_false]

section
variable (hf : writeFault s t .packet (writesOf addr vs) = none)
include hf

theorem regWriteBody_writes (hn : ((writesOf addr vs).any fun w => isRwn w.1) = false) :
    regWriteBody s op rq t addr count 0 vs = commitWrites s op rq t (writesOf addr vs) (regHeader addr count 0) := by
  simp only [regWriteBody, if_neg hc, h4, hf, hn, ne_eq, not_true_eq_false, if_false, Bool.false_eq_true]

/-- Words of the nonvolatile bank join its queue (R95). -/
theorem regWriteBody_enqueues (hn : ((writesOf addr vs).any fun w => isRwn w.1) = true)
    (ha : asyncCount s t rq.session.toNat < asyncLimit) : regWriteBody s op rq t addr count 0 vs =
      nvrEnqueue (answered s op rq t stAccepted (regHeader addr count 0)) t (asyncOf op rq) addr
        ((writesOf addr vs).map fun w => ((w.1 - 0x140000) / 4, w.2)) := by
  simp only [regWriteBody, if_neg hc, h4, hf, hn, if_neg (Nat.not_le.2 ha), accept_answered ha, ne_eq, not_true_eq_false,
    if_false, if_true]

end

end

end

end

/-! ## REG_UPDATE (R96) -/

section
variable {s : State} {rq : Req} {a m v : Word} {ss : Session} (h : Served s (.regUpdate rq a m v) opRegUpdate rq ss)
include h

theorem onRegUpdate_unaligned (h4 : a.toNat % 4 ≠ 0) :
    onRegUpdate rq a m v s = refuse s opRegUpdate rq (stBadParam, dtUnalignedAddress) := by
  rw [onRegUpdate, take_served h]
  exact if_pos h4

/-- The word with the bits of the mask replaced is written as a REG_WRITE of it would be. -/
theorem onRegUpdate_writes {i old : Nat} {r : RegSpec} (h4 : a.toNat % 4 = 0) (hr : findReg a.toNat = some (i, r))
    (ho : readWord s ss.tenant a.toNat = some old)
    (hk : (r.has fun x => x = .wo || x = .w1c || x = .w1s || x = .rwn) = false)
    (hf : writeFault s ss.tenant .packet
      [(a.toNat, (old &&& (cap32 ^^^ m.toNat)) ||| (v.toNat &&& m.toNat))] = none) :
    onRegUpdate rq a m v s = commitWrites s opRegUpdate rq ss.tenant
      [(a.toNat, (old &&& (cap32 ^^^ m.toNat)) ||| (v.toNat &&& m.toNat))]
      (le4 old ++ le4 ((old &&& (cap32 ^^^ m.toNat)) ||| (v.toNat &&& m.toNat))) := by
  rw [onRegUpdate, take_served h]
  simp only [h4, hr, ho, hk, hf, ne_eq, not_true_eq_false, if_false, Bool.false_eq_true]

end

/-! ## REG_WAIT (R97) -/

section
variable {s : State} {rq : Req} {a m e us : Word} {ss : Session} (h : Served s (.regWait rq a m e us) opRegWait rq ss)
  (h1 : 1 ≤ us.toNat) (h2 : us.toNat ≤ 10000000) (hf : readFault s ss.tenant a.toNat = none)
include h h1 h2 hf

theorem onRegWait_holds (hv : (readWord s ss.tenant a.toNat).getD 0 &&& m.toNat = e.toNat) :
    onRegWait rq a m e us s = replyOk s opRegWait rq (le4 ((readWord s ss.tenant a.toNat).getD 0)) := by
  have hu : ¬ (us.toNat < 1 ∨ 10000000 < us.toNat) := by omega
  rw [onRegWait, take_served h]
  simp only [if_neg hu, hf, if_pos hv]

/-- The wait that a request leaves behind. -/
def newWait (s : State) (rq : Req) (t : Nat) (a m e us : Word) : RegWait :=
  { tag := rq.tag.toNat, address := a.toNat, mask := m.toNat, expected := e.toNat
    last := (readWord s t a.toNat).getD 0, due := s.now + us.toNat * usTicks }

/-- Where the condition does not hold, the session waits. -/
theorem onRegWait_waits (hv : (readWord s ss.tenant a.toNat).getD 0 &&& m.toNat ≠ e.toNat) (hw : ss.waits.length < waitLimit)
    (hc : asyncCount s ss.tenant rq.session.toNat < asyncLimit) : ∃ u, getSes (onRegWait rq a m e us s) rq.session.toNat = some u ∧
      u.waits = ss.waits ++ [newWait s rq ss.tenant a m e us] := by
  have hu : ¬ (us.toNat < 1 ∨ 10000000 < us.toNat) := by omega
  obtain ⟨tx, rx, hy⟩ := answered_session h.session opRegWait ss.tenant stAccepted
    (le4 ((readWord s ss.tenant a.toNat).getD 0))
  rw [onRegWait, take_served h]
  simp only [if_neg hu, hf, if_neg hv, if_neg (Nat.not_le.2 hw), accept_answered hc, hy]
  exact ⟨_, getSes_setSes_self .., by simp [newWait, answered]⟩

end

section
variable {s : State} {rq : Req} {ss : Session} {w : RegWait} (hr : isRunning s = true)
  (h : getSes s rq.session.toNat = some ss) (hw : (ss.waits.find? fun w => w.tag = rq.tag.toNat) = some w)
include hr h hw

theorem onRegWaitPoll_holds (hv : (readWord s ss.tenant w.address).getD 0 &&& w.mask = w.expected) :
    onRegWaitPoll rq s = endWait s rq.session.toNat ss w stOk ((readWord s ss.tenant w.address).getD 0) := by
  simp [onRegWaitPoll, pendingWait, hr, h, hw, hv]

theorem onRegWaitTimeout_due (hd : w.due ≤ s.now) :
    onRegWaitTimeout rq s = endWait s rq.session.toNat ss w stTimeout w.last := by
  simp [onRegWaitTimeout, pendingWait, hr, h, hw, hd]

end

end Sys2Proof.Machine
end

section
/-! SUPPORT. Marks on steps and loops leave which steps a loop's queue holds (R144, R173, R176 to R178). -/

namespace Sys2Proof.Machine

open Sys2Proof

/-! ## Loops that keep their steps -/

/-- A loop holds the same steps in the same order, for the same tenant. -/
structure SameSteps (l u : Loop) : Prop where
  seqs : (u.queue.map fun x => x.seq) = l.queue.map fun x => x.seq
  next : u.nextSeq = l.nextSeq
  tenant : u.tenant = l.tenant

theorem SameSteps.refl (l : Loop) : SameSteps l l := ⟨rfl, rfl, rfl⟩

theorem SameSteps.trans {l u v : Loop} (h : SameSteps l u) (k : SameSteps u v) : SameSteps l v :=
  ⟨k.seqs.trans h.seqs, k.next.trans h.next, k.tenant.trans h.tenant⟩

/-- Every loop of s still stands in t and holds the same steps. -/
structure KeepsSteps (s t : State) : Prop where
  stands : ∀ j l, getLoop s j = some l → ∃ u, getLoop t j = some u ∧ SameSteps l u

namespace KeepsSteps

theorem of_loops {s t : State} (h : t.sched.loops = s.sched.loops) : KeepsSteps s t :=
  ⟨fun j l hl => ⟨l, by rwa [getLoop, h], .refl l⟩⟩

theorem refl (s : State) : KeepsSteps s s := of_loops rfl

theorem trans {a b c : State} (h : KeepsSteps a b) (k : KeepsSteps b c) : KeepsSteps a c where
  stands j l hl := by
    obtain ⟨u, hu, e⟩ := h.stands j l hl
    obtain ⟨v, hv, e'⟩ := k.stands j u hu
    exact ⟨v, hv, e.trans e'⟩

theorem foldl {α : Type} {f : State → α → State} (h : ∀ s x, KeepsSteps s (f s x)) (l : List α) (s : State) :
    KeepsSteps s (l.foldl f s) := by
  induction l generalizing s with
  | nil => exact refl s
  | cons x r ih => exact (h s x).trans (ih _)

theorem ite {c : Prop} [Decidable c] {s a b : State} (ha : KeepsSteps s a) (hb : KeepsSteps s b) :
    KeepsSteps s (if c then a else b) := by
  split <;> assumption

end KeepsSteps

/-! ## Changes of a loop -/

theorem getLoop_modLoop_self {s : State} {id : Nat} {l : Loop} (f : Loop → Loop) (h : getLoop s id = some l) :
    getLoop (modLoop s id f) id = some (f l) := by
  simp [modLoop, h]

theorem getLoop_modLoop_ne (s : State) {id j : Nat} (f : Loop → Loop) (h : j ≠ id) :
    getLoop (modLoop s id f) j = getLoop s j := by
  unfold modLoop
  split
  · rfl
  · exact getLoop_setLoop_ne s _ h

theorem modLoop_keepsSteps {f : Loop → Loop} (h : ∀ l, SameSteps l (f l)) (s : State) (id : Nat) :
    KeepsSteps s (modLoop s id f) where
  stands j l hl := by
    by_cases e : j = id
    · subst e
      exact ⟨f l, getLoop_modLoop_self f hl, h l⟩
    · exact ⟨l, by rwa [getLoop_modLoop_ne s f e], .refl l⟩

theorem map_listMod {α β : Type} {f : α → α} {g : α → β} (h : ∀ x, g (f x) = g x) (l : List α) (n : Nat) :
    (listMod l n f).map g = l.map g := by
  induction l generalizing n with
  | nil => rfl
  | cons x r ih =>
    cases n with
    | zero => simp [listMod, h]
    | succ n => simp [listMod, ih]

/-- A step may take new marks, and its commands too. -/
theorem listMod_sameSteps {f : Step → Step} (h : ∀ x, (f x).seq = x.seq) (l : Loop) (n : Nat) :
    SameSteps l { l with queue := listMod l.queue n f } := ⟨map_listMod h l.queue n, rfl, rfl⟩

theorem modHead_keepsSteps {f : Step → Step} (h : ∀ x, (f x).seq = x.seq) (s : State) (id : Nat) :
    KeepsSteps s (modHead s id f) := modLoop_keepsSteps (fun l => listMod_sameSteps h l 0) s id

theorem modInst_keepsSteps (s : State) (r : CmdRef) (f : Inst → Inst) : KeepsSteps s (modInst s r f) :=
  modHead_keepsSteps (by intro x; rfl) s r.loop

theorem modQueued_keepsSteps (s : State) (id n c : Nat) (f : Cmd → Cmd) : KeepsSteps s (modQueued s id n c f) :=
  modLoop_keepsSteps (fun l => listMod_sameSteps (by intro x; rfl) l n) s id

theorem trace_keepsSteps (s : State) (point t : Nat) (args : List Nat) : KeepsSteps s (trace s point t args) :=
  .of_loops (congrArg (fun u : State => u.sched.loops) (trace_frame s point t args) :)

/-! ## Resident slots -/

theorem loadLoop_keepsSteps (s : State) (id : Nat) : KeepsSteps s (loadLoop s id) :=
  (modLoop_keepsSteps (f := fun l => { l with resident := some s.now, blocked := none, waiting := false })
    (fun _ => ⟨rfl, rfl, rfl⟩) s id).trans (.of_loops rfl)

theorem unloadLoop_keepsSteps (s : State) (id by_ records : Nat) : KeepsSteps s (unloadLoop s id by_ records) :=
  ((modLoop_keepsSteps (f := fun l => { l with resident := none, blocked := none })
    (fun _ => ⟨rfl, rfl, rfl⟩) s id).trans (.of_loops (t := incReg _ aEvictions 1 cap32) rfl)).trans (trace_keepsSteps _ 4 _ _)

theorem admitLoop_keepsSteps (s : State) (id : Nat) : KeepsSteps s (admitLoop s id) := by
  unfold admitLoop
  split
  · exact loadLoop_keepsSteps s id
  · split
    · exact ((unloadLoop_keepsSteps ..).trans (loadLoop_keepsSteps ..)).trans (.of_loops rfl)
    · exact modLoop_keepsSteps (by exact fun _ => ⟨rfl, rfl, rfl⟩) s id

/-! ## The passes over the loops -/

theorem refreshLoops_keepsSteps (s : State) : KeepsSteps s (refreshLoops s) := by
  unfold refreshLoops
  refine (KeepsSteps.foldl (fun s p => .ite (modLoop_keepsSteps (by exact fun _ => ⟨rfl, rfl, rfl⟩) s _) (.refl s)) _ s).trans
    (KeepsSteps.foldl (fun s p => ?_) _ _)
  split
  · exact .refl s
  · exact .ite (.ite (.ite (.refl s) (admitLoop_keepsSteps ..)) (modLoop_keepsSteps (by exact fun _ => ⟨rfl, rfl, rfl⟩) s _)) (.refl s)

theorem markEligible_keepsSteps (s : State) : KeepsSteps s (markEligible s) :=
  .foldl (fun s _ => .foldl (fun s _ => .ite (modInst_keepsSteps ..) (.refl s)) _ s) _ s

theorem raiseBlockers_keepsSteps (s : State) : KeepsSteps s (raiseBlockers s) :=
  .foldl (fun _ _ => modQueued_keepsSteps ..) _ s

theorem refresh_keepsSteps (s : State) : KeepsSteps s (refresh s) :=
  ((refreshLoops_keepsSteps s).trans (raiseBlockers_keepsSteps _)).trans (markEligible_keepsSteps _)

theorem claimFrames_keepsSteps (s : State) (p order : Nat) (ready : Frac) : KeepsSteps s (claimFrames s p order ready) :=
  .ite (.of_loops rfl) (.refl s)

theorem makeEligible_keepsSteps (s : State) (id : Nat) (l : Loop) (st : Step) (deadline : Option (Nat × Frac)) :
    KeepsSteps s (makeEligible s id l st deadline) :=
  (modHead_keepsSteps (by intro x; rfl) s id).trans (trace_keepsSteps ..)

theorem promote_keepsSteps (s : State) (id : Nat) : KeepsSteps s (promote s id) := by
  unfold promote
  split
  · exact .refl s
  · split
    · exact .refl s
    · refine .ite (.refl s) (.ite (modHead_keepsSteps (by intro x; rfl) s id) ?_)
      split
      · exact .ite (.refl s) ((modHead_keepsSteps (by intro x; rfl) s id).trans (claimFrames_keepsSteps ..))
      · exact .ite (makeEligible_keepsSteps ..) (.refl s)

/-! ## A step joins its loop -/

/-- The step stands last in its queue, under the loop's next sequence number, which moves on. -/
theorem enqueue_joins {s : State} {id : Nat} {l : Loop} (f : Loop → Nat → Step) (h : getLoop s id = some l) :
    ∃ u, getLoop (enqueue s id f) id = some u ∧
      SameSteps { l with queue := l.queue ++ [f l s.sched.nextOrder], nextSeq := (l.nextSeq + 1) % 2 ^ 32 } u := by
  have hm := getLoop_modLoop_self (s := { s with sched := { s.sched with nextOrder := s.sched.nextOrder + 1 } })
    (fun l => { l with queue := l.queue ++ [f l s.sched.nextOrder], nextSeq := (l.nextSeq + 1) % 2 ^ 32 }) h
  exact ((promote_keepsSteps _ id).trans (refresh_keepsSteps _)).stands id _ hm

/-! ## Submissions that pass their checks (R79, R199, R623) -/

section
variable {s : State} {rq : Req} {ss : Session} {l : Loop}

theorem onStepSubmit_joins {a : StepSubmitArgs} {x : StepRec} (h : Served s (.stepSubmit rq a) opStepSubmit rq ss)
    (hc : submitChecks s ss.tenant a = none) (hl : getLoop s a.loop.toNat = some l)
    (hx : parseStep s ss.tenant l.lc (hbmRead s ss.tenant a.va.toNat a.length.toNat) = .ok x)
    (hp : presentFault s ss.tenant a.loop.toNat x = none) (ha : asyncCount s ss.tenant rq.session.toNat < asyncLimit) :
    onStepSubmit rq a s = enqueue (lockCompat (answered s opStepSubmit rq ss.tenant stAccepted (le4 l.nextSeq)))
      a.loop.toNat fun l n => newStep l n (asyncOf opStepSubmit rq) x := by
  rw [onStepSubmit, take_served h]
  simp only [hc, hl, hx, hp, accept_answered ha]

theorem onSeqSubmit_joins {a : SeqSubmitArgs} (h : Served s (.seqSubmit rq a) opSeqSubmit rq ss)
    (hl : getLoop s a.loop.toNat = some l) (hf : firstFault
      [ (decide (l.tenant ≠ ss.tenant), (stBadParam, dtLoopUnknown)),
        (a.promptLength.toNat = 0 || decide (65536 < a.promptLength.toNat) || a.maxNewTokens.toNat = 0
          || decide (65536 < a.maxNewTokens.toNat), (stBadParam, dtValueRange)),
        (l.sequence.isNone, (stBadParam, dtLoopKind)),
        (decide (l.func.phase ≠ .enabled), (stNotEnabled, dtLoopDisabled)),
        (decide (4096 ≤ l.seqs.length), (stNoResource, dtQueueFull)),
        (!rangeOk s ss.tenant (fun m => m.read) a.promptVa.toNat (a.promptLength.toNat * tokenBytes), (stBadParam, dtNotMapped)) ] = none)
    (ha : asyncCount s ss.tenant rq.session.toNat < asyncLimit) :
    onSeqSubmit rq a s = formStep (modLoop (answered s opSeqSubmit rq ss.tenant stAccepted []) a.loop.toNat fun l => { l with
      nextOrder := l.nextOrder + 1
      seqs := l.seqs ++ [{ order := l.nextOrder, tag := a.seqTag.toNat, request := asyncOf opSeqSubmit rq
                           promptVa := a.promptVa.toNat, prompt := a.promptLength.toNat
                           maxNew := a.maxNewTokens.toNat }] }) a.loop.toNat := by
  rw [onSeqSubmit, take_served h]
  simp only [hl, checked_pass hf, accept_answered ha]

end

end Sys2Proof.Machine
end

section
/-! SUPPORT. The register writes with rows of their own: each is the REG_WRITE of one word (R94). -/

namespace Sys2Proof.Machine

open Sys2Proof

/-! ## Registers of the nonvolatile bank (R95, R587) -/

theorem mem_of_tabFind {α : Type} {t : Tab α} {k : Nat} {v : α} (h : tabFind t k = some v) : (k, v) ∈ t := by
  induction t with
  | nil => cases h
  | cons x r ih =>
    by_cases hx : x.1 = k
    · simp only [tabFind, hx, if_true, Option.some.injEq] at h
      exact List.mem_cons.2 (.inl (by rw [← hx, ← h]))
    · simp only [tabFind, hx, if_false] at h
      exact List.mem_cons_of_mem _ (ih h)

theorem findIn_block {bs : List RegBlock} {a : Nat} {x : Nat × RegSpec} (h : findIn bs a = some x) :
    ∃ b ∈ bs, b.find a = some x := by
  induction bs with
  | nil => cases h
  | cons b r ih =>
    cases hb : b.find a with
    | some y =>
      simp only [findIn, hb] at h
      exact ⟨b, List.mem_cons_self, hb.trans h⟩
    | none =>
      simp only [findIn, hb] at h
      obtain ⟨c, hc, e⟩ := ih h
      exact ⟨c, List.mem_cons_of_mem _ hc, e⟩

/-- A register of a block lies at the block's base or above it. -/
theorem RegBlock.find_some {b : RegBlock} {a i : Nat} {r : RegSpec} (h : b.find a = some (i, r)) :
    b.base ≤ a ∧ ∃ k, (k, r) ∈ b.regs := by
  unfold RegBlock.find at h
  split at h
  · cases h
  · rename_i hb
    dsimp only at h
    split at h
    · obtain ⟨r', hr, e⟩ := Option.map_eq_some_iff.1 h
      cases e
      exact ⟨Nat.not_lt.1 hb, _, mem_of_tabFind hr⟩
    · cases h

/-- RWN bits stand in the owner's words of the bank alone. -/
theorem blocks_without_rwn : (regBlocks.all fun b =>
    decide (0x140200 ≤ b.base) || b.regs.all fun x => !x.2.has fun c => c = .rwn) = true := by decide +kernel

theorem isRwn_below {a : Nat} (h : a < 0x140200) : isRwn a = false := by
  unfold isRwn
  split
  · rename_i i r hr
    obtain ⟨b, hb, hf⟩ := findIn_block hr
    obtain ⟨hbase, k, hk⟩ := RegBlock.find_some hf
    have hall := List.all_eq_true.1 blocks_without_rwn b hb
    have hlow : ¬ 0x140200 ≤ b.base := by omega
    simp only [hlow, decide_false, Bool.false_or, List.all_eq_true] at hall
    simpa using hall (k, r) hk
  · rfl

/-! ## One word -/

/-- The word with its enable bit set or cleared (log entry 19). -/
theorem withTop_eq (w : Word) (on : Bool) : withTop w.toNat on = w.toNat % 2 ^ 31 + boolNat on * 2 ^ 31 := by
  have hw := w.isLt
  cases on <;> norm_num [withTop, putBits, bits, boolNat] <;> omega

theorem oneWrite_commits {s : State} {rq : Req} {a b x : Nat} {ss : Session} {v : Nat → Nat} (h : ServedWrite s rq a ss)
    (hf : writeFault s ss.tenant .packet [(a, x)] = none) (ha : b = a ∧ a % 4 = 0 ∧ a < 0x140200) (hv : v ss.tenant = x) :
    oneWrite s rq b v = commitWrites s opRegWrite rq ss.tenant [(a, x)] (regHeader a 1 0) := by
  obtain ⟨rfl, h4, hlow⟩ := ha
  subst hv
  have hn : ((writesOf b [v ss.tenant]).any fun w => isRwn w.1) = false := by
    simp [writesOf, isRwn_below hlow]
  rw [oneWrite_served h]
  exact regWriteBody_writes (by decide) h4 hf hn

/-! ## A word in the map -/

/-- A written word changes the map and the pending copies alone (R8). -/
theorem keepWord_frame (s : State) (a v : Nat) : { keepWord s a v with regs := s.regs, pend := s.pend } = s := by
  cases h : findReg a with
  | none => simp only [keepWord, h]
  | some x =>
    obtain ⟨i, r⟩ := x
    by_cases ha : a = aCmdPorts
    · simp only [keepWord, h, if_pos ha]
    · cases hr : r.has fun x => x = .rws with
      | false => rw [keepWord_direct h ha hr]; rfl
      | true => rw [keepWord_pending h ha hr]

theorem keepWord_chip (s : State) (a v : Nat) : (keepWord s a v).chip = s.chip := (congrArg State.chip (keepWord_frame s a v) :)
theorem keepWord_link (s : State) (a v : Nat) : (keepWord s a v).link = s.link := (congrArg State.link (keepWord_frame s a v) :)
theorem keepWord_now (s : State) (a v : Nat) : (keepWord s a v).now = s.now := (congrArg State.now (keepWord_frame s a v) :)
theorem keepWord_tenants (s : State) (a v : Nat) : (keepWord s a v).tenants = s.tenants :=
  (congrArg State.tenants (keepWord_frame s a v) :)

/-- CMD_PORTS is not written before its reply (R55). -/
theorem keepWord_cmdPorts (s : State) (v : Nat) : keepWord s aCmdPorts v = s := by
  unfold keepWord
  split
  · rfl
  · exact if_pos rfl

/-- A word of another register than CMD_PORTS and SYS_RESET_REQ waits for no reply. -/
theorem holdWrites_now (s : State) (rq : Req) {a : Nat} (v : Nat) (hp : a ≠ aCmdPorts) (hr : a ≠ aSysResetReq) :
    holdWrites s rq [(a, v)] = s := by
  simp [holdWrites, hp, hr]

/-! ## What waits for the reply (R55, R606) -/

/-- A packet leaves; what waits for it is found as it stood. -/
theorem transmit_after (s : State) (i : Nat) (ss : Session) (m : Msg) : ∃ t, transmit s i ss m = afterSent t i m ∧
    t.chip = s.chip ∧ t.now = s.now ∧ t.link.resetNext = s.link.resetNext ∧ t.link.portsNext = s.link.portsNext :=
  ⟨_, rfl, out_chip .., (congrArg State.now (out_sends ..).rest :), by rw [sendPacket, out_link]; rfl,
    by rw [sendPacket, out_link]; rfl⟩

section
variable {s : State} {i : Nat} {m : Msg} (hm : m.flags = fgReply)
include hm

theorem afterSent_arms (hn : s.link.resetNext = some (i, m.tag)) (hc : s.chip.resetDue = none) :
    (afterSent s i m).chip.resetDue = some (s.now + resetDelay) := by
  simp only [afterSent, hm, armReset, hn, hc, ne_eq, not_true_eq_false, if_false, if_true]
  split <;> rfl

theorem afterSent_ports {v : Nat} (hp : s.link.portsNext = [(v, i, m.tag)]) :
    regW (afterSent s i m) aCmdPorts = v % 2 ^ 32 := by
  have ha : (armReset s i m.tag).link.portsNext = [(v, i, m.tag)] := by
    unfold armReset
    split <;> exact hp
  have hf : [(v, i, m.tag)].find? (fun x => x.2.1 = i && x.2.2 = m.tag) = some (v, i, m.tag) := by simp
  simp only [afterSent, hm, ha, hf, ne_eq, not_true_eq_false, if_false]
  exact regW_setRegW_self (armReset s i m.tag) aCmdPorts v

end

section
variable {s : State} {rq : Req} {ss : Session} (op : Nat) (p : List Byte) (h : getSes s rq.session.toNat = some ss)
include h

/-- A reset request runs from the reply that goes at once. -/
theorem replyOk_arms (hw : ss.tx.waiting = []) (hu : ss.tx.unacked.length < 256)
    (hn : s.link.resetNext = some (rq.session.toNat, rq.tag.toNat)) (hc : s.chip.resetDue = none) :
    (replyOk s op rq p).chip.resetDue = some (s.now + resetDelay) := by
  obtain ⟨t, ht, htc, htn, htr, -⟩ := transmit_after s rq.session.toNat ss (replyMsg op rq stOk 0 p)
  rw [replyOk, reply_at_once op stOk 0 p h hw hu, ht, ← htn]
  exact afterSent_arms rfl (htr.trans hn) (htc ▸ hc)

/-- A reset request waits with the reply that the window holds back. -/
theorem replyOk_full (hf : 256 ≤ ss.tx.unacked.length) : (replyOk s op rq p).chip = s.chip ∧
    (replyOk s op rq p).link.resetNext = s.link.resetNext := by
  rw [replyOk, reply, sendMsg_full h hf]
  exact ⟨rfl, rfl⟩

theorem replyOk_ports (hw : ss.tx.waiting = []) (hu : ss.tx.unacked.length < 256) {v : Nat}
    (hp : s.link.portsNext = [(v, rq.session.toNat, rq.tag.toNat)]) : regW (replyOk s op rq p) aCmdPorts = v % 2 ^ 32 := by
  obtain ⟨t, ht, -, -, -, htp⟩ := transmit_after s rq.session.toNat ss (replyMsg op rq stOk 0 p)
  rw [replyOk, reply_at_once op stOk 0 p h hw hu, ht]
  exact afterSent_ports rfl (htp.trans hp)

end

/-! ## Force reclaim (R115, R124) -/

theorem reclaimMemory_hbm (s : State) (t : Nat) : ∃ m, (reclaimMemory s t).hbm = memZero m (t * 2 ^ 48) (2 ^ 48) := ⟨_, rfl⟩

theorem settled_hbm (s : State) : (settleFuncs (refresh s)).hbm = s.hbm :=
  (settleFuncs_keeps (wh := false) (wp := false) (refresh_keeps (Keeps.refl s))).hbm rfl

theorem startReclaim_hbm (s : State) (t : Nat) : ∃ m, (startReclaim s t).hbm = memZero m (t * 2 ^ 48) (2 ^ 48) := by
  unfold startReclaim
  dsimp only
  rw [settled_hbm]
  exact reclaimMemory_hbm ..

/-- Whatever follows it, the zero fill of a reclaim stands: every byte of the tenant reads 0. -/
theorem hbmRead_startReclaim (s : State) (t : Nat) {va k : Nat} (h : va % 2 ^ 48 + k ≤ 2 ^ 48) :
    hbmRead (startReclaim s t) t va k = List.replicate k 0 := by
  obtain ⟨m, hm⟩ := startReclaim_hbm s t
  refine List.eq_replicate_iff.2 ⟨memReads_length .., fun b hb => ?_⟩
  simp only [hbmRead, memReads, hm, hbmKey, List.mem_map, List.mem_range] at hb
  obtain ⟨i, hi, rfl⟩ := hb
  rw [memRead_memZero, if_pos (by omega)]
  rfl

/-! ## The effects (R55, R115, R118, R606) -/

section
variable (s : State) (rq : Req) (t : Nat) (p : List Byte)

theorem commitWrites_cmdPorts {ss : Session} (v : Nat) (h : getSes s rq.session.toNat = some ss) (hw : ss.tx.waiting = [])
    (hu : ss.tx.unacked.length < 256) (hn : s.link.portsNext = []) :
    regW (commitWrites s opRegWrite rq t [(aCmdPorts, v)] p) aCmdPorts = v % 2 ^ 32 := by
  have hk : ∀ s old, wordEffect (keepWord s aCmdPorts v) t aCmdPorts old v = s := fun s _ => keepWord_cmdPorts s v
  have ha : ∀ s, afterReply s [(aCmdPorts, v)] = s := fun _ => rfl
  simp only [commitWrites, ha, writeAll, List.foldl_cons, List.foldl_nil, hk]
  have hh : holdWrites s rq [(aCmdPorts, v)] = { s with link := { s.link with
      portsNext := s.link.portsNext ++ [(v, rq.session.toNat, rq.tag.toNat)] } } := rfl
  rw [hh, hn]
  refine replyOk_ports (ss := ss) _ _ ?_ hw hu rfl
  exact h

theorem commitWrites_release {v : Nat} (hv : bit v 8 = true) :
    (getTen (commitWrites s opRegWrite rq t [(0x21004, v)] p) t).release = true := by
  have hk : ∀ s old, wordEffect s t 0x21004 old v = modTen s t fun x => { x with release := true } := fun s _ => by
    simp [wordEffect, aCmdBeacon, hv]
  have ha : ∀ s, afterReply s [(0x21004, v)] = s := fun _ => rfl
  simp only [commitWrites, ha, writeAll, List.foldl_cons, List.foldl_nil, hk]
  rw [getTen, replyOk_tenants, ← getTen, getTen_modTen_self]

/-- The state in which the reply to a reset request is made. -/
theorem commitWrites_reset (v : Nat) : ∃ x : State, commitWrites s opRegWrite rq t [(aSysResetReq, v)] p = replyOk x opRegWrite rq p ∧
    x.chip = s.chip ∧ x.now = s.now ∧ x.link = { s.link with
      resetNext := s.link.resetNext <|> some (rq.session.toNat, rq.tag.toNat) } := by
  have hh : holdWrites s rq [(aSysResetReq, v)] = { s with link := { s.link with
      resetNext := s.link.resetNext <|> some (rq.session.toNat, rq.tag.toNat) } } := rfl
  have hk : ∀ s old, wordEffect s t aSysResetReq old v = s := fun _ _ => rfl
  have ha : ∀ s, afterReply s [(aSysResetReq, v)] = s := fun _ => rfl
  refine ⟨keepWord (holdWrites s rq [(aSysResetReq, v)]) aSysResetReq v, ?_, ?_, ?_, ?_⟩
  · simp only [commitWrites, ha, writeAll, List.foldl_cons, List.foldl_nil, hk]
  · rw [keepWord_chip, hh]
  · rw [keepWord_now, hh]
  · rw [keepWord_link, hh]

theorem enabledEffect_partition {s : State} {n : Nat} (new : Nat) (h : hasPartition (getTen s n) = true) :
    enabledEffect s n new = s := by
  unfold enabledEffect
  split
  · rename_i e; simp [hasPartition, e] at h
  · rename_i e; simp [hasPartition, e] at h
  · rfl

/-- TEN_CONTROL.force_reclaim of a tenant with a partition frees it after the reply. -/
theorem commitWrites_forceReclaim (n : Fin 16) {v : Nat} (hv : bit v 8 = true) (h : hasPartition (getTen s n) = true) :
    ∃ x, commitWrites s opRegWrite rq t [(aTen n 0x1C, v)] p = startReclaim x n := by
  have hn := n.isLt
  have hb : aTen n 0x1C ≠ aCmdBeacon ∧ aTen n 0x1C ≠ 0x21004 ∧ 0x20000 ≤ aTen n 0x1C ∧ aTen n 0x1C < 0x21000 ∧
      aTen n 0x1C % 0x100 = 0x1C ∧ (aTen n 0x1C - 0x20000) / 0x100 = n := by
    simp only [aTen, aCmdBeacon]; omega
  obtain ⟨h1, h2, h3, h4, h5, h6⟩ := hb
  have hk : ∀ s old, hasPartition (getTen s n) = true → wordEffect s t (aTen n 0x1C) old v = s := fun s old hs => by
    simp only [wordEffect, h1, h2, h3, h4, h5, h6, and_self, if_true, if_false, enabledEffect_partition v hs]
  have hkeep : getTen (keepWord s (aTen n 0x1C) v) n = getTen s n := by rw [getTen, keepWord_tenants, ← getTen]
  have hr : ∀ y, getTen y n = getTen s n → afterReply (replyOk y opRegWrite rq p) [(aTen n 0x1C, v)] =
      startReclaim (dropSession (replyOk y opRegWrite rq p) n 5) n := fun y hy => by
    have hp : hasPartition (getTen (replyOk y opRegWrite rq p) n) = true := by
      rw [getTen, replyOk_tenants, ← getTen, hy, h]
    simp only [afterReply, List.foldl_cons, List.foldl_nil, h3, h4, h5, h6, hv, and_self, if_true, forceReclaim, hp]
  refine ⟨dropSession (replyOk (keepWord s (aTen n 0x1C) v) opRegWrite rq p) n 5, ?_⟩
  rw [commitWrites, holdWrites_now s rq v (by simp only [aTen, aCmdPorts]; omega) (by simp only [aTen, aSysResetReq]; omega)]
  simp only [writeAll, List.foldl_cons, List.foldl_nil]
  rw [hk _ _ (by rw [hkeep, h])]
  exact hr _ hkeep

end

end Sys2Proof.Machine
end

section
/-! Requests, replies and registers: the statements of the command protocol. -/

namespace Sys2Proof.Machine

open Sys2Proof

/-- Settles O1, by the branch of a queue that is not empty. -/
theorem stepTakesFront : Obligations.StepTakesFront := by
  intro c r s h
  rw [step, h]

/-- Settles O6: each command's operation keeps the queue. -/
theorem execKeepsQueue : Obligations.ExecKeepsQueue :=
  fun _ _ _ h => (exec_keeps h).pending

/-- Settles O9: hearing a request changes none of what the sequencer looks at, and each outcome is a branch of it. -/
theorem requestsAreChecked : Obligations.RequestsAreChecked := by
  intro i s op p rq hb hq u
  obtain ⟨k, hk⟩ := exec_sequenced hb hq s
  refine ⟨fun hr => ?_, fun hr h => ?_, fun ss hr h => ?_⟩
  · rw [hk, hear_stopped hr, request_stopped hr]
  · rw [hk, hear_absent h, request_absent hr h]
  · have hr' : isRunning u = true := isRunning_hear.trans hr
    have h' : getSes u rq.session.toNat = some ss := (getSes_hear _).trans h
    exact ⟨hear_open hr h, fun hl => hk.trans (next_eq (request_inLine hr' h' hl)),
      fun e hl hf => hk.trans (next_eq (request_refused hr' h' hl hf)),
      fun hl hf hw => hk.trans (next_eq (request_waits hr' h' hl hf hw))⟩

/-- Settles O12: ECHO has a payload of any length that the session takes, and the session group needs no firmware. -/
theorem echoAnswersPayload : Obligations.EchoAnswersPayload := by
  intro rq p s₀ ss s hr hs hl hw hp ht hh
  have ht' : rq.tag.toNat ≠ 0 := fun e => ht (BitVec.eq_of_toNat_eq e)
  have hn : payloadNeed opEcho p = some p.length := rfl
  have hf : requestFault s ss opEcho rq.tag.toNat p = none := by
    simp [requestFault, hn, Nat.not_lt.2 hp, lengthFault, ht', hh, servedWithoutFirmware, opEcho]
  exact next_eq (take_served ⟨hr, hs, hl, rfl, ⟨p, rfl, hf⟩, hw⟩ _)

/-- Settles O13: each of the three answers at once. -/
theorem sessionGroupAnswers : Obligations.SessionGroupAnswers := by
  refine ⟨fun rq v s₀ ss h => ?_, fun rq s₀ ss h => next_eq (take_served h _), fun rq about s₀ ss h => ?_⟩
  · exact next_eq (take_served h _)
  · refine next_eq ((take_served h _).trans ?_)
    unfold completionQueryReply
    split <;> rfl

/-- Settles O15: each timer that is due sends, and a beacon is its two frames and its own clock. -/
theorem timersSend : Obligations.TimersSend := by
  refine ⟨⟨fun id s ss d hr h hd hn => next_eq (onAckDelay_due hr h hn hd),
    fun id s ss d p r hr h hd hu hn => next_eq (onRetransmit_due hr h hn hd hu)⟩,
    fun p s hr hl hp hd hg => ?_⟩
  obtain ⟨last, due, body, h⟩ := sendBeacon_eq s p
  refine ⟨next_eq (onBeaconTimer_due hr hl hp hd hg), ⟨fun hf => ?_, ?_⟩, ?_, ?_, ?_⟩
  · rw [h]
    exact beaconsOut_at_once hf
  · rw [h]
  · rw [h]
    have hk := beaconsOut_netKept s p (nextBeacon s p)
    exact ⟨hk.rest, hk.ports, hk.free⟩
  · rw [h]
    exact congrArg (fun u : State => { u with link := s.link }) (beaconsOut_sends s p _).rest
  · rw [h]

/-- Settles O19: neither the header's checks nor those of the addresses refuse, so the words are answered. -/
theorem registerReads : Obligations.RegisterReads := by
  refine ⟨fun rq a n s₀ ss h h1 h2 hf => next_eq ((take_served h _).trans ((readBody_answers h1 h2 hf).trans ?_)),
    fun rq n as s₀ ss h h1 h2 hf => next_eq ((take_served h _).trans ((readBody_answers h1 h2 hf).trans ?_))⟩
  all_goals
    simp only [readValues, List.map_map]
    rfl

/-- Settles O10: the branch of the opcode reads each field back from where the command's payload has it; a command's lists
have the length that its counts and rules say. -/
theorem requestRoundTrip : Obligations.RequestRoundTrip := by
  intro i op p rq hw hb hq
  cases i
  all_goals cases hb
  all_goals cases hq
  all_goals refine Eq.trans (b := some _) rfl (congrArg some ?_)
  all_goals
    simp only [byteAt, halfAt, wordAt, dwordAt, bvAt, sliceAt, b8_eq, b16, b24, b32, b48, b56, b64, List.append_assoc,
      leAt_leBytes_append, leAt_leBytes, leAt_field, wordsAt_field, gclEntriesAt_field, drop_field, List.drop_zero,
      Nat.le_refl, Nat.reduceLeDiff, Nat.reduceSub, Nat.reduceMul, BitVec.ofNat_toNat, BitVec.setWidth_eq]
  case regWrite.refl.refl => rw [wordsAt_wordsBytes (of_decide_eq_true hw)]
  case regReadList.refl.refl => rw [wordsAt_wordsBytes (of_decide_eq_true hw)]
  case netGclWrite.refl.refl => rw [gclEntriesAt_gclEntriesBytes (of_decide_eq_true hw)]
  case netStreamTable.refl.refl => rw [List.take_of_length_le (of_decide_eq_true hw).le]
  case wallKey.refl.refl => rw [List.take_of_length_le (of_decide_eq_true hw).le]
  case secAttest.refl.refl => rw [List.take_of_length_le (of_decide_eq_true hw).le]
  case ownerChange.refl.refl =>
    obtain ⟨hk, hs⟩ := of_decide_eq_true hw
    rw [List.take_left' hk, List.drop_left' hk, List.take_of_length_le hs.le]

/-- Settles O11: with room the reply is the packet of transmit, and with the window full it joins what waits. -/
theorem repliesGoOut : Obligations.RepliesGoOut := by
  intro s op status detail rq p ss h
  refine ⟨reply_same .., fun hw hu => ?_, fun hf => ?_⟩
  · obtain ⟨due, ht⟩ := transmit_session s rq.session.toNat ss (replyMsg op rq status detail p)
    rw [reply_at_once op status detail p h hw hu]
    exact ⟨fun hp => transmit_sent _ _ hp, _, ht, rfl, by simp, rfl, rfl⟩
  · rw [reply, sendMsg_full h hf]
    exact ⟨rfl, _, getSes_setSes_self .., rfl, by simp⟩

/-- Settles O14: with room the reply is gone and the session with it, else it waits; the end of a session is read off what
it leaves. -/
theorem sessionCloseEnds : Obligations.SessionCloseEnds := by
  refine ⟨fun rq reason s₀ ss h => ⟨fun hw hu => next_eq ((take_served h _).trans ?_),
    fun v hv hn => next_eq ((take_served h _).trans ?_)⟩, fun s t i reason ss ht h => ?_⟩
  · obtain ⟨due, hv⟩ := transmit_session (hear rq s₀) rq.session.toNat ss (replyMsg opSessionClose rq stOk 0 [])
    rw [← reply_at_once opSessionClose stOk 0 [] h.session hw hu] at hv
    simp only [replyOk, hv, hw, if_true]
    rfl
  · simp only [hv, if_neg hn]
  · obtain ⟨hs, hj⟩ := getSes_dropSession reason ht h
    obtain ⟨⟨mem, hm⟩, hu⟩ := getTen_dropSession reason ht h
    rw [hm]
    exact ⟨hs, rfl, rfl, rfl, fun a ha hx => absurd (List.mem_filter.1 ha).2 (by simp [hx]), hu, hj⟩

/-- Settles O20: each outcome of REG_WRITE and REG_UPDATE is the branch that its checks name. -/
theorem registerWrites : Obligations.RegisterWrites := by
  refine ⟨fun rq a n vs s₀ ss h => ⟨fun h1 h2 h4 hf => ⟨fun hn => next_eq ((take_served h _).trans ?_),
      fun hn ha => next_eq ((take_served h _).trans ?_)⟩, fun e he => ⟨_, next_eq (take_served h _), ?_⟩⟩,
    fun rq a m v s₀ ss i old r h h4 hr ho hk hf => next_eq (onRegUpdate_writes h h4 hr ho hk hf),
    fun rq a m v s₀ ss h h4 => next_eq (onRegUpdate_unaligned h h4)⟩
  · exact regWriteBody_writes (by omega) h4 hf hn
  · exact regWriteBody_enqueues (by omega) h4 hf hn ha
  · have hw : regWriteBody (hear rq s₀) opRegWrite rq ss.tenant a.toNat n.toNat 0 (vs.map fun v => v.toNat) =
        reply (hear rq s₀) opRegWrite rq e.1.1 e.1.2 (regHeader a.toNat n.toNat e.2) := by
      obtain ⟨h1, h2, h4, hf⟩ | ⟨hc, rfl⟩ | ⟨h1, h2, h4, rfl⟩ := he
      · exact regWriteBody_fault (by omega) h4 hf
      · exact regWriteBody_countRange hc
      · exact regWriteBody_unaligned (by omega) h4
    refine ⟨?_, hw⟩
    exact hw ▸ reply_same ..

/-- Settles O21: the request's condition is looked at once by REG_WAIT, again by its poll, and no more at its timeout. -/
theorem registerWaits : Obligations.RegisterWaits := by
  refine ⟨fun rq a m e us s₀ ss h h1 h2 hf => ⟨fun hv => next_eq (onRegWait_holds h h1 h2 hf hv), fun hv hw hc => ?_⟩,
    fun rq s ss w hr h hw hv => next_eq (onRegWaitPoll_holds hr h hw hv),
    fun rq s ss w hr h hw hd => next_eq (onRegWaitTimeout_due hr h hw hd)⟩
  obtain ⟨u, hu, hx⟩ := onRegWait_waits h h1 h2 hf hv hw hc
  exact ⟨_, u, rfl, hu, hx⟩

/-- Settles O30: a submission that no check refuses is answered and joins its loop, whose marks leave which steps it holds. -/
theorem submissionsQueue : Obligations.SubmissionsQueue := by
  refine ⟨⟨fun rq a s₀ ss l x h hc hl hx hp ha => next_eq (onStepSubmit_joins h hc hl hx hp ha),
    fun rq a s₀ ss l h hl ht h1 h2 h3 h4 hq he hs hr ha => next_eq (onSeqSubmit_joins h hl ?_ ha)⟩, fun s id l f h => ?_⟩
  · simp [firstFault_eq_none, ht, Nat.one_le_iff_ne_zero.1 h1, h2, Nat.one_le_iff_ne_zero.1 h3, h4, hq, he, hs, hr]
  · obtain ⟨u, hu, e⟩ := enqueue_joins f h
    have hm := e.seqs
    refine ⟨u, hu, ?_, e.next, e.tenant, by simpa using hm⟩
    simpa using congrArg List.length hm

/-- Settles O22: each row is the REG_WRITE of its one word, outside the nonvolatile bank; the effects follow from the
word, the reply that goes or waits, and what follows it. -/
theorem registerRows : Obligations.RegisterRows := by
  refine ⟨fun c rq s₀ ss a v hc h hf => ?_, fun s rq t p ss h => ⟨fun v hw hu hn => ?_, fun v hv => ?_,
    fun v hn hd => ?_, fun n v hv hp va k hk => ?_⟩⟩
  · obtain ⟨w, rfl, rfl, rfl⟩ | ⟨t, e, rfl, rfl, rfl⟩ | ⟨rfl, rfl, rfl⟩ | ⟨t, w, rfl, rfl, rfl⟩ | ⟨w, rfl, rfl, rfl⟩ |
      ⟨p, w, rfl, rfl, rfl⟩ | ⟨p, w, rfl, rfl, rfl⟩ | ⟨p, w, rfl, rfl, rfl⟩ | ⟨p, rfl, rfl, rfl⟩ | ⟨p, rfl, rfl, rfl⟩ |
      ⟨w, rfl, rfl, rfl⟩ | ⟨p, w, rfl, rfl, rfl⟩ | ⟨w, rfl, rfl, rfl⟩ := hc
    · exact next_eq (oneWrite_commits h hf (by decide) rfl)
    · exact next_eq (oneWrite_commits h hf (by rw [aTen]; omega) rfl)
    · exact next_eq (oneWrite_commits h hf (by decide) rfl)
    · exact next_eq (oneWrite_commits h hf (by rw [aTen]; omega) rfl)
    · exact next_eq (oneWrite_commits h hf (by decide) rfl)
    · exact next_eq (oneWrite_commits h hf (by rw [aFg]; omega) (withTop_eq w true))
    · exact next_eq (oneWrite_commits h hf (by rw [aFg]; omega) (withTop_eq w false))
    · exact next_eq (oneWrite_commits h hf (by rw [aGal]; omega) (withTop_eq w true))
    · exact next_eq (oneWrite_commits h hf (by rw [aPipe]; omega) rfl)
    · exact next_eq (oneWrite_commits h hf (by rw [aPipe]; omega) rfl)
    · exact next_eq (oneWrite_commits h hf (by decide) rfl)
    · exact next_eq (oneWrite_commits h hf (by rw [aPort]; omega) rfl)
    · exact next_eq (oneWrite_commits h hf (by decide) (withTop_eq w true))
  · exact commitWrites_cmdPorts s rq t p v h hw hu hn
  · exact commitWrites_release s rq t p hv
  · obtain ⟨x, hx, hc, hnow, hl⟩ := commitWrites_reset s rq t p v
    have hs : getSes x rq.session.toNat = some ss := by rw [getSes, hl]; exact h
    have hr : x.link.resetNext = some (rq.session.toNat, rq.tag.toNat) := by rw [hl, hn]; rfl
    have e : commitWrites s opRegWrite rq t [(0x20, v)] p = replyOk x opRegWrite rq p := hx
    rw [e]
    refine ⟨fun hw hu => ?_, fun hf => ?_⟩
    · rw [← hnow]
      exact replyOk_arms opRegWrite p hs hw hu hr (hc ▸ hd)
    · obtain ⟨hch, hrn⟩ := replyOk_full opRegWrite p hs hf
      exact ⟨by rw [hch, hc, hd], hrn.trans hr⟩
  · obtain ⟨x, hx⟩ := commitWrites_forceReclaim s rq t p n hv hp
    have ha : 0x2001C + 0x100 * n.val = aTen n 0x1C := by rw [aTen]; omega
    rw [ha, hx]
    exact hbmRead_startReclaim x n hk

end Sys2Proof.Machine
end

section
/-! SUPPORT. The timers of sessions and tenants (R107, R111, R112, R121, R123, R124): what each does when it is due, and
what a reclaim does to memory. -/

namespace Sys2Proof.Machine

open Sys2Proof

/-! ## The state of a tenant (R112) -/

@[simp] theorem getTen_trace (s : State) (point t : Nat) (args : List Nat) (u : Nat) :
    getTen (trace s point t args) u = getTen s u := by
  rw [trace_eq]
  rfl

@[simp] theorem getTen_setTenState_self (s : State) (t : Nat) (st : TenState) :
    getTen (setTenState s t st) t = { getTen s t with state := st } := by
  rw [setTenState, getTen_trace, getTen_modTen_self]

theorem getTen_setTenState_ne (s : State) {t u : Nat} (st : TenState) (h : u ≠ t) :
    getTen (setTenState s t st) u = getTen s u := by
  rw [setTenState, getTen_trace, getTen_modTen_ne s _ h]

/-! ## The timers when they are due -/

section
variable {s : State} (hr : isRunning s = true)
include hr

theorem onHalfOpenTimeout_running (id : Word) : onHalfOpenTimeout id s = { s with
    link := { s.link with half := s.link.half.filter fun x => x.id ≠ id.toNat || halfLive s x } } := by
  simp only [onHalfOpenTimeout, hr, Bool.not_true, Bool.false_eq_true, if_false]

theorem onAuthBlockExpiry_running (ip : BitVec 128) : onAuthBlockExpiry ip s = { s with
    link := { s.link with blocked := s.link.blocked.filter fun b => b.1 ≠ ip || decide (s.now < b.2) } } := by
  simp only [onAuthBlockExpiry, hr, Bool.not_true, Bool.false_eq_true, if_false]

variable {t : Nat}

theorem onHeartbeatTimeout_due (hx : (getTen s t).state = .active)
    (hq : silentFor s t (msTicks * rField s (aTen t 0x14) 15 0) = true) :
    onHeartbeatTimeout t s = ctxOrphaned (setTenState (dropSession s t 2) t .orphaned) t := by
  simp [onHeartbeatTimeout, hr, hx, hq]

theorem onOrphanTimeout_due (hx : (getTen s t).state = .orphaned)
    (hq : silentFor s t (secTicks * rField s (aTen t 0x18) 15 0) = true) :
    onOrphanTimeout t s = setTenState s t .fallback := by
  simp [onOrphanTimeout, hr, hx, hq]

theorem onReclaimTimeout_due (h0 : t ≠ 0) (hx : (getTen s t).state = .orphaned ∨ (getTen s t).state = .fallback)
    (hq : silentFor s t (secTicks * rField s (aTen t 0x18) 31 16) = true) :
    onReclaimTimeout t s = startReclaim s t := by
  simp [onReclaimTimeout, hr, h0, hx, hq]

theorem onReclaimComplete_reclaiming (hx : (getTen s t).state = .reclaiming) :
    onReclaimComplete t s = setTenState (modTen s t fun x => { x with reclaimDue := none }) t
      (if tenEnabled s t then .configured else .unconfigured) := by
  simp [onReclaimComplete, hr, hx]

end

/-! ## Memory at a reclaim (R124, R129) -/

/-- A reclaim up to where memory goes: the tenant's state, its work, its streams, its contexts and its pipes. -/
def reclaimUnits (s : State) (t : Nat) : State :=
  let s := setTenState s t .reclaiming
  let s := modTen s t fun x => { x with reclaimDue := some (s.now + reclaimTicks), release := false }
  let s := decReclaim (reclaimLoops s t) t
  let s := ((List.range 48).filter fun c => ctxHolder s c = some t).foldl ctxReclaim s
  (pipesOf s t).foldl reclaimPipe s

theorem startReclaim_eq (s : State) (t : Nat) :
    startReclaim s t = settleFuncs (refresh (reclaimMemory (reclaimUnits s t) t)) := rfl

theorem reclaimUnits_keeps {wh : Bool} {z s : State} (t : Nat) (h : Keeps wh true z s) :
    Keeps wh true z (reclaimUnits s t) := by
  refine .foldl _ (.foldl _ ?_ fun _ c => ctxReclaim_keeps c) fun _ p => reclaimPipe_keeps p
  exact decReclaim_keeps t (reclaimLoops_keeps t (modTen_keeps t _ (setTenState_keeps t _ h)))

theorem reclaimMemory_hbm_eq (s : State) (t : Nat) : (reclaimMemory s t).hbm = memZero s.hbm (t * 2 ^ 48) (2 ^ 48) :=
  congrArg (memZero · (t * 2 ^ 48) (2 ^ 48))
    ((retireFrames_keeps (wh := false) (wp := false) t _ (.refl s)).hbm rfl)

/-- Of tenant memory a reclaim changes the zeroed space alone. -/
theorem startReclaim_hbm_eq (s : State) (t : Nat) :
    (startReclaim s t).hbm = memZero s.hbm (t * 2 ^ 48) (2 ^ 48) := by
  rw [startReclaim_eq, settled_hbm, reclaimMemory_hbm_eq, (reclaimUnits_keeps (wh := false) t (.refl s)).hbm rfl]

/-- No byte of another tenant lies in the zeroed space: the spaces of two tenants are disjoint (R126). -/
theorem hbmRead_startReclaim_ne (s : State) {t u va n : Nat} (hu : u ≠ t) (h : va % 2 ^ 48 + n ≤ 2 ^ 48) :
    hbmRead (startReclaim s t) u va n = hbmRead s u va n := by
  refine List.map_congr_left fun i hi => ?_
  have hi := List.mem_range.1 hi
  have hout : ¬ (t * 2 ^ 48 ≤ hbmKey u va + i ∧ hbmKey u va + i < t * 2 ^ 48 + 2 ^ 48) := by
    rw [hbmKey]
    omega
  rw [startReclaim_hbm_eq, memRead_memZero, if_neg hout]

end Sys2Proof.Machine
end

section
/-! Tenants and discovery: the statements. -/

namespace Sys2Proof.Machine

open Sys2Proof

/-- Settles O18: the zero fill covers the tenant's whole space and meets no other tenant's. -/
theorem reclaimZeroesMemory : Obligations.ReclaimZeroesMemory :=
  fun s t => ⟨fun _ _ h => hbmRead_startReclaim s t h, fun _ _ _ hu h => hbmRead_startReclaim_ne s hu h⟩

/-- Settles O17: each timer takes the branch in which it is due, and a change of state touches one tenant's state alone. -/
theorem tenantTimers : Obligations.TenantTimers := by
  refine ⟨fun id s hr => ?_, fun ip s hr => ?_, fun t s hr hx hq => ?_, fun t s hr hx hq => ?_,
    fun t s hr h0 hx hq => ?_, fun t s hr hx => ?_, fun s t st => ⟨?_, fun u hu => ?_⟩⟩
  · exact next_eq (onHalfOpenTimeout_running hr id)
  · exact next_eq (onAuthBlockExpiry_running hr ip)
  · exact next_eq (onHeartbeatTimeout_due hr hx (decide_eq_true hq))
  · exact next_eq (onOrphanTimeout_due hr hx (decide_eq_true hq))
  · exact next_eq (onReclaimTimeout_due hr (Fin.val_ne_iff.2 h0) hx (decide_eq_true hq))
  · exact next_eq (onReclaimComplete_reclaiming hr hx)
  · rw [getTen_setTenState_self]
  · exact getTen_setTenState_ne s st hu

end Sys2Proof.Machine
end

section
/-! SUPPORT. Which commands leave tenants' memory and the scratchpads alone (R24, R124, R143, R148, R150): one line per command
names the operation's own lemma, under the two lists of commands that may store. -/

namespace Sys2Proof.Machine

open Sys2Proof

/-! ## Operations that store nothing

The Keep files speak of these only where tenants' memory may change; here of either case. -/

section
variable {wh wp : Bool} {z s : State}

theorem timeStep_keeps_memory (b : Nat) (d : Frac) (h : Keeps wh wp z s) : Keeps wh wp z (timeStep s b d) := by
  unfold timeStep
  refine .upd (.ite (setWall_keeps _ ?_) ?_) ..
  all_goals
    refine .upd (.foldl _ (modBase_keeps b _ h) fun u p hu => ?_) ..
    exact regrid_keeps p (modPipe_keeps p _ hu)

/-- An offset steps the time base or turns its rate. -/
theorem servoStep_keeps_memory (b : Nat) (o : Frac) (logT rateRatio : Int) (h : Keeps wh wp z s) :
    Keeps wh wp z (servoStep s b o logT rateRatio) := by
  unfold servoStep
  refine .ite ?_ ?_
  · exact countOffset_keeps b o (timeEvent_keeps b 5 (modBase_keeps b _ (timeStep_keeps_memory b _ h)))
  · exact countOffset_keeps b o (modBase_keeps b _ h)

theorem useSync_keeps_memory (p : Nat) (m : SyncMsg) (origin : Nat) (corr rateRatio : Int) (h : Keeps wh wp z s) :
    Keeps wh wp z (useSync s p m origin corr rateRatio) := by
  have moved (o : Frac) : Keeps wh wp z (modBase s (ptpBase s p) fun x => { x with offset := offsetNs o }) :=
    modBase_keeps _ _ h
  unfold useSync
  dsimp only
  split
  · exact servoStep_keeps_memory _ _ _ _ (moved _)
  · exact servoStep_keeps_memory _ _ _ _ (moved _)
  · exact .ite (timeEvent_keeps _ _ (modBase_keeps _ _ (setBaseState_keeps _ _ (moved _)))) (modBase_keeps _ _ (moved _))
  · exact moved _

theorem onSync_keeps_memory (p : Nat) (m : SyncMsg) (h : Keeps wh wp z s) : Keeps wh wp z (onSync p m s) := by
  have heard : Keeps wh wp z (modBase s (ptpBase s p) fun x => { x with lastSync := s.now }) := modBase_keeps _ _ h
  exact .ite h (.ite (modGptp_keeps p _ heard) (useSync_keeps_memory _ _ _ _ _ (modGptp_keeps p _ heard)))

theorem onFollowUp_keeps_memory (p : Nat) (m : FollowUpMsg) (h : Keeps wh wp z s) : Keeps wh wp z (onFollowUp p m s) := by
  unfold onFollowUp
  split
  · exact h
  · exact .ite h (useSync_keeps_memory _ _ _ _ _ (modGptp_keeps p _ h))

theorem onMemSleepEnter_keeps_memory (h : Keeps wh wp z s) : Keeps wh wp z (onMemSleepEnter s) :=
  .ite (incReg_keeps _ _ _ (.upd h ..)) h

/-- The write of SEC_ENROLL is no reset request. -/
theorem onEnrollArm_keeps_memory (h : Keeps wh wp z s) : Keeps wh wp z (onEnrollArm s) := by
  have acked (a : Nat) : Keeps wh wp z (out (setI3cAddr s a) .i3cAck) := out_keeps _ (setI3cAddr_keeps a h)
  have hne : aSecEnroll ≠ aSysResetReq := by decide
  rw [onEnrollArm, i3cWrite]
  simp only [hne, if_false]
  exact .ite (out_keeps _ h) (.ite (armEnroll_keeps (acked _)) (acked _))

end

/-! ## Commands -/

theorem Keeps.ofOut {wh wp : Bool} {s t u : State} (h : (.next u : Out) = .next t) (k : Keeps wh wp s u) :
    Keeps wh wp s t := by
  cases h
  exact k

/-- A command outside a list leaves the memory that the list speaks of; one that stands in both keeps what every command
keeps. -/
theorem exec_keeps_unnamed {c : Instr} {s t : State} (h : exec c s = .next t) :
    Keeps (mayStoreMemory c) (mayStorePad c) s t := by
  cases c with
  | sessionClose | funcDisable | regWrite | regUpdate | datagramReceive | cmdPortsWrite | reclaimTimeout |
  forceReclaim | release | tenLimitsWrite | uncorrectableError | schedulerTick | urgentTick | commandCommit |
  sysCompatWrite | dmaDescriptorStart | dmaDescriptorDone | haloRowSend | haloSlotRead | fgEnable | fgDisable |
  galEnable | dspCommitApply | dspStop | netPortConfigWrite | netWallEnable | processorRestartDone |
  sensorSample | powerOn | brownout | resetAssert | resetRelease | hbmTrained | thermalHoldOffEnd |
  rootPllUnlock | sysResetReq | resetRequestTimer | jtagDebugWrite | jtagReset | i3cRegisterWrite |
  memWriteBacked =>
    exact exec_keeps h
  | heartbeat => exact .ofOut h (onHeartbeat_keeps _ _ (hear_keeps _ (.refl s)))
  | echo => exact .ofOut h (onEcho_keeps _ _ (hear_keeps _ (.refl s)))
  | deviceInfo => exact .ofOut h (onDeviceInfo_keeps _ (hear_keeps _ (.refl s)))
  | completionQuery => exact .ofOut h (onCompletionQuery_keeps _ _ (hear_keeps _ (.refl s)))
  | memMap => exact .ofOut h (onMemMap_keeps _ _ (hear_keeps _ (.refl s)))
  | memUnmap => exact .ofOut h (onMemUnmap_keeps _ _ _ (hear_keeps _ (.refl s)))
  | memProtect => exact .ofOut h (onMemProtect_keeps _ _ _ _ _ (hear_keeps _ (.refl s)))
  | memWrite => exact .ofOut h (onMemWrite_keeps _ _ _ _ _ (hear_keeps _ (.refl s)))
  | memRead => exact .ofOut h (onMemRead_keeps _ _ _ _ (hear_keeps _ (.refl s)))
  | mmuWalk => exact .ofOut h (onMmuWalk_keeps _ _ (hear_keeps _ (.refl s)))
  | faultResume => exact .ofOut h (onFaultResume_keeps _ _ _ (hear_keeps _ (.refl s)))
  | loopCreate => exact .ofOut h (onLoopCreate_keeps _ _ (hear_keeps _ (.refl s)))
  | loopDestroy => exact .ofOut h (onLoopDestroy_keeps _ _ (hear_keeps _ (.refl s)))
  | stepSubmit => exact .ofOut h (onStepSubmit_keeps _ _ (hear_keeps _ (.refl s)))
  | seqSubmit => exact .ofOut h (onSeqSubmit_keeps _ _ (hear_keeps _ (.refl s)))
  | funcEnable => exact .ofOut h (onFuncEnable_keeps _ _ (hear_keeps _ (.refl s)))
  | regRead => exact .ofOut h (onRegRead_keeps _ _ _ _ (hear_keeps _ (.refl s)))
  | regReadList => exact .ofOut h (onRegReadList_keeps _ _ _ _ (hear_keeps _ (.refl s)))
  | regWait => exact .ofOut h (onRegWait_keeps _ _ _ _ _ (hear_keeps _ (.refl s)))
  | dspScan => exact .ofOut h (onDspScan_keeps _ (hear_keeps _ (.refl s)))
  | dspAux => exact .ofOut h (onDspAux_keeps _ _ (hear_keeps _ (.refl s)))
  | dspFallbackSet => exact .ofOut h (onDspFallbackSet_keeps _ _ (hear_keeps _ (.refl s)))
  | dspDsiCmd => exact .ofOut h (onDspDsiCmd_keeps _ _ (hear_keeps _ (.refl s)))
  | snsFeed => exact .ofOut h (onSnsFeed_keeps _ _ (hear_keeps _ (.refl s)))
  | snsScan => exact .ofOut h (onSnsScan_keeps _ (hear_keeps _ (.refl s)))
  | decOpen => exact .ofOut h (onDecOpen_keeps _ _ (hear_keeps _ (.refl s)))
  | decClose => exact .ofOut h (onDecClose_keeps _ _ _ (hear_keeps _ (.refl s)))
  | decPush => exact .ofOut h (onDecPush_keeps _ _ (hear_keeps _ (.refl s)))
  | timeRead => exact .ofOut h (onTimeRead_keeps _ (hear_keeps _ (.refl s)))
  | netGclWrite => exact .ofOut h (onGclWrite_keeps _ _ (hear_keeps _ (.refl s)))
  | netStreamTable => exact .ofOut h (onStreamTable_keeps _ _ (hear_keeps _ (.refl s)))
  | wallKey => exact .ofOut h (onWallKey_keeps _ _ (hear_keeps _ (.refl s)))
  | fwLoad => exact .ofOut h (onFwLoad_keeps _ _ _ _ (hear_keeps _ (.refl s)))
  | fwActivate => exact .ofOut h (onFwActivate_keeps _ _ _ (hear_keeps _ (.refl s)))
  | fwRestart => exact .ofOut h (onFwRestart_keeps _ _ _ (hear_keeps _ (.refl s)))
  | secCert => exact .ofOut h (onSecCert_keeps _ (hear_keeps _ (.refl s)))
  | secAttest => exact .ofOut h (onSecAttest_keeps _ _ (hear_keeps _ (.refl s)))
  | ownerChange => exact .ofOut h (onOwnerChange_keeps _ _ _ (hear_keeps _ (.refl s)))
  | secKeyRevoke => exact .ofOut h (onSecKeyRevoke_keeps _ _ _ (hear_keeps _ (.refl s)))
  | secRollbackRaise => exact .ofOut h (onSecRollbackRaise_keeps _ _ (hear_keeps _ (.refl s)))
  | logRead => exact .ofOut h (onLogRead_keeps _ _ _ _ (hear_keeps _ (.refl s)))
  | ackDelayTimeout => exact .ofOut h (onAckDelay_keeps _ (.refl s))
  | retransmitTimeout => exact .ofOut h (onRetransmit_keeps _ (.refl s))
  | sessionOpen => exact .ofOut h (onSessionOpen_keeps _ _ (.refl s))
  | sessionAuth => exact .ofOut h (onSessionAuth_keeps _ _ (.refl s))
  | regWaitPoll => exact .ofOut h (onRegWaitPoll_keeps _ (.refl s))
  | regWaitTimeout => exact .ofOut h (onRegWaitTimeout_keeps _ (.refl s))
  | halfOpenTimeout => exact .ofOut h (onHalfOpenTimeout_keeps _ (.refl s))
  | authBlockExpiry => exact .ofOut h (onAuthBlockExpiry_keeps _ (.refl s))
  | beaconTimer => exact .ofOut h (onBeaconTimer_keeps _ (.refl s))
  | heartbeatTimeout => exact .ofOut h (onHeartbeatTimeout_keeps _ (.refl s))
  | orphanTimeout => exact .ofOut h (onOrphanTimeout_keeps _ (.refl s))
  | reclaimComplete => exact .ofOut h (onReclaimComplete_keeps _ (.refl s))
  | memMapBacked => exact .ofOut h (onMemMapBacked_keeps _ _ (.refl s))
  | pageFault => exact .ofOut h (onPageFault_keeps _ _ _ _ (.refl s))
  | demandBackingDone => exact .ofOut h (onDemandBackingDone_keeps _ (.refl s))
  | faultTimeout => exact .ofOut h (onFaultTimeout_keeps _ _ (.refl s))
  | patrolScrub => exact .ofOut h (onPatrolScrub_keeps _ (.refl s))
  | zeroFillDone => exact .ofOut h (onZeroFillDone_keeps _ (.refl s))
  | killedWritesSettled => exact .ofOut h (onKilledWritesSettled_keeps _ (.refl s))
  | veNop => exact .ofOut h (onVeNop_keeps _ _ (.refl s))
  | veFadd => exact .ofOut h (onVeFadd_keeps _ _ (.refl s))
  | veFsub => exact .ofOut h (onVeFsub_keeps _ _ (.refl s))
  | veFmul => exact .ofOut h (onVeFmul_keeps _ _ (.refl s))
  | veFfma => exact .ofOut h (onVeFfma_keeps _ _ (.refl s))
  | veFmin => exact .ofOut h (onVeFmin_keeps _ _ (.refl s))
  | veFmax => exact .ofOut h (onVeFmax_keeps _ _ (.refl s))
  | veFabs => exact .ofOut h (onVeFabs_keeps _ _ (.refl s))
  | veFneg => exact .ofOut h (onVeFneg_keeps _ _ (.refl s))
  | veFcopysign => exact .ofOut h (onVeFcopysign_keeps _ _ (.refl s))
  | veFeq => exact .ofOut h (onVeFeq_keeps _ _ (.refl s))
  | veFne => exact .ofOut h (onVeFne_keeps _ _ (.refl s))
  | veFlt => exact .ofOut h (onVeFlt_keeps _ _ (.refl s))
  | veFle => exact .ofOut h (onVeFle_keeps _ _ (.refl s))
  | veFunord => exact .ofOut h (onVeFunord_keeps _ _ (.refl s))
  | veIeq => exact .ofOut h (onVeIeq_keeps _ _ (.refl s))
  | veIlt => exact .ofOut h (onVeIlt_keeps _ _ (.refl s))
  | veUlt => exact .ofOut h (onVeUlt_keeps _ _ (.refl s))
  | veSel => exact .ofOut h (onVeSel_keeps _ _ (.refl s))
  | veIadd => exact .ofOut h (onVeIadd_keeps _ _ (.refl s))
  | veIsub => exact .ofOut h (onVeIsub_keeps _ _ (.refl s))
  | veImullo => exact .ofOut h (onVeImullo_keeps _ _ (.refl s))
  | veSmulhi => exact .ofOut h (onVeSmulhi_keeps _ _ (.refl s))
  | veUmulhi => exact .ofOut h (onVeUmulhi_keeps _ _ (.refl s))
  | veShl => exact .ofOut h (onVeShl_keeps _ _ (.refl s))
  | veShr => exact .ofOut h (onVeShr_keeps _ _ (.refl s))
  | veSra => exact .ofOut h (onVeSra_keeps _ _ (.refl s))
  | veAnd => exact .ofOut h (onVeAnd_keeps _ _ (.refl s))
  | veOr => exact .ofOut h (onVeOr_keeps _ _ (.refl s))
  | veXor => exact .ofOut h (onVeXor_keeps _ _ (.refl s))
  | veSmin => exact .ofOut h (onVeSmin_keeps _ _ (.refl s))
  | veSmax => exact .ofOut h (onVeSmax_keeps _ _ (.refl s))
  | veUmin => exact .ofOut h (onVeUmin_keeps _ _ (.refl s))
  | veUmax => exact .ofOut h (onVeUmax_keeps _ _ (.refl s))
  | veMov => exact .ofOut h (onVeMov_keeps _ _ (.refl s))
  | veCvt => exact .ofOut h (onVeCvt_keeps _ _ (.refl s))
  | veBfi => exact .ofOut h (onVeBfi_keeps _ _ (.refl s))
  | veBfx => exact .ofOut h (onVeBfx_keeps _ _ (.refl s))
  | veRcp => exact .ofOut h (onVeRcp_keeps _ _ (.refl s))
  | veDiv => exact .ofOut h (onVeDiv_keeps _ _ (.refl s))
  | veSqrt => exact .ofOut h (onVeSqrt_keeps _ _ (.refl s))
  | veRsqrt => exact .ofOut h (onVeRsqrt_keeps _ _ (.refl s))
  | veExp2 => exact .ofOut h (onVeExp2_keeps _ _ (.refl s))
  | veLog2 => exact .ofOut h (onVeLog2_keeps _ _ (.refl s))
  | veSinpi => exact .ofOut h (onVeSinpi_keeps _ _ (.refl s))
  | veCospi => exact .ofOut h (onVeCospi_keeps _ _ (.refl s))
  | veExp => exact .ofOut h (onVeExp_keeps _ _ (.refl s))
  | veLog => exact .ofOut h (onVeLog_keeps _ _ (.refl s))
  | veSigmoid => exact .ofOut h (onVeSigmoid_keeps _ _ (.refl s))
  | veTanh => exact .ofOut h (onVeTanh_keeps _ _ (.refl s))
  | veShuffle => exact .ofOut h (onVeShuffle_keeps _ _ (.refl s))
  | veBcast => exact .ofOut h (onVeBcast_keeps _ _ (.refl s))
  | veGred => exact .ofOut h (onVeGred_keeps _ _ (.refl s))
  | veDred => exact .ofOut h (onVeDred_keeps _ _ (.refl s))
  | veLd32 => exact .ofOut h (onVeLd32_keeps _ _ (.refl s))
  | veLd64 => exact .ofOut h (onVeLd64_keeps _ _ (.refl s))
  | veLd128 => exact .ofOut h (onVeLd128_keeps _ _ (.refl s))
  | veSt32 => exact .ofOut h (onVeSt32_keeps _ _ (.refl s))
  | veSt64 => exact .ofOut h (onVeSt64_keeps _ _ (.refl s))
  | veSt128 => exact .ofOut h (onVeSt128_keeps _ _ (.refl s))
  | veAadd => exact .ofOut h (onVeAadd_keeps _ _ (.refl s))
  | veAsmin => exact .ofOut h (onVeAsmin_keeps _ _ (.refl s))
  | veAsmax => exact .ofOut h (onVeAsmax_keeps _ _ (.refl s))
  | veAand => exact .ofOut h (onVeAand_keeps _ _ (.refl s))
  | veAor => exact .ofOut h (onVeAor_keeps _ _ (.refl s))
  | veAxor => exact .ofOut h (onVeAxor_keeps _ _ (.refl s))
  | veAxchg => exact .ofOut h (onVeAxchg_keeps _ _ (.refl s))
  | veAcas => exact .ofOut h (onVeAcas_keeps _ _ (.refl s))
  | veBraAny => exact .ofOut h (onVeBraAny_keeps _ _ (.refl s))
  | veBraAll => exact .ofOut h (onVeBraAll_keeps _ _ (.refl s))
  | veBarGroup => exact .ofOut h (onVeBarGroup_keeps _ _ (.refl s))
  | veBarDispatch => exact .ofOut h (onVeBarDispatch_keeps _ _ (.refl s))
  | veDmaIssue => exact .ofOut h (onVeDmaIssue_keeps _ _ (.refl s))
  | veDmaWait => exact .ofOut h (onVeDmaWait_keeps _ _ (.refl s))
  | veExit => exact .ofOut h (onVeExit_keeps _ _ (.refl s))
  | dlState => exact .ofOut h (onDlState_keeps _ (.refl s))
  | dlTriangles => exact .ofOut h (onDlTriangles_keeps _ (.refl s))
  | dlRects => exact .ofOut h (onDlRects_keeps _ (.refl s))
  | dlEnd => exact .ofOut h (onDlEnd_keeps _ (.refl s))
  | dlNop => exact .ofOut h (onDlNop_keeps _ (.refl s))
  | haloCredit => exact .ofOut h (onHaloCredit_keeps _ _ (.refl s))
  | haloTimeout => exact .ofOut h (onHaloTimeout_keeps _ _ _ (.refl s))
  | reelEccError => exact .ofOut h (onReelEccError_keeps _ _ (.refl s))
  | fgStepEligible => exact .ofOut h (onFgStepEligible_keeps _ (.refl s))
  | captureComplete => exact .ofOut h (onCaptureComplete_keeps _ (.refl s))
  | publishCopyStart => exact .ofOut h (onPublishCopyStart_keeps _ (.refl s))
  | publishCopyDone => exact .ofOut h (onPublishCopyDone_keeps _ (.refl s))
  | galliardDecision => exact .ofOut h (onGalliardDecision_keeps _ (.refl s))
  | streamBandWrite => exact .ofOut h (onStreamBand_keeps _ (.refl s))
  | streamTimeout => exact .ofOut h (onStreamTimeout_keeps _ (.refl s))
  | tileMemoryEcc => exact .ofOut h (onTileMemoryEcc_keeps _ (.refl s))
  | csiFrameStart => exact .ofOut h (onFrameStartCsi_keeps _ _ _ _ (.refl s))
  | csiFrameEnd => exact .ofOut h (onFrameEndCsi_keeps _ _ _ (.refl s))
  | csiLongPacket => exact .ofOut h (onCsiLong_keeps _ _ _ _ _ _ _ (.refl s))
  | csiIgnoredPacket => exact .ofOut h (onCsiIgnored_keeps _ _ _ _ (.refl s))
  | frameTimeout => exact .ofOut h (onFrameTimeout_keeps _ (.refl s))
  | sourceLost => exact .ofOut h (onSourceLost_keeps _ _ _ (.refl s))
  | csiLinkChange => exact .ofOut h (onCsiLink_keeps _ _ _ (.refl s))
  | tdmFrame => exact .ofOut h (onTdmFrame_keeps _ _ _ _ (.refl s))
  | tdmSyncTimeout => exact .ofOut h (onTdmSync_keeps _ (.refl s))
  | fifoOverflow => exact .ofOut h (onFifoOverflow_keeps _ (.refl s))
  | recordDispatch => exact .ofOut h (onRecordDispatch_keeps _ (.refl s))
  | laneStart => exact .ofOut h (onLaneStart_keeps _ (.refl s))
  | decodeFinish => exact .ofOut h (onDecodeFinish_keeps _ (.refl s))
  | budgetTimeout => exact .ofOut h (onBudgetTimeout_keeps _ (.refl s))
  | frameStart => exact .ofOut h (onFrameStart_keeps _ (.refl s))
  | teEdge => exact .ofOut h (onTeEdge_keeps _ _ (.refl s))
  | teTimeout => exact .ofOut h (onTeTimeout_keeps _ (.refl s))
  | hpdChange => exact .ofOut h (onHpdChange_keeps _ _ (.refl s))
  | irqHpd => exact .ofOut h (onIrqHpd_keeps _ _ (.refl s))
  | linkTrainingDone => exact .ofOut h (onLinkTrainingDone_keeps _ _ (.refl s))
  | auxDone => exact .ofOut h (onAuxDone_keeps _ _ (.refl s))
  | fallbackCopyDone => exact .ofOut h (onFallbackCopyDone_keeps _ (.refl s))
  | dsiCmdSend => exact .ofOut h (onDsiCmdSend_keeps _ _ (.refl s))
  | dsiCmdTimeout => exact .ofOut h (onDsiCmdTimeout_keeps _ (.refl s))
  | memSleepEnter => exact .ofOut h (onMemSleepEnter_keeps_memory (.refl s))
  | memSleepExit => exact .ofOut h (onMemSleepExit_keeps (.refl s))
  | linkUp => exact .ofOut h (onLinkUp_keeps _ (.refl s))
  | linkDown => exact .ofOut h (onLinkDown_keeps _ (.refl s))
  | arpRequest => exact .ofOut h (onArpEvent_keeps _ _ (.refl s))
  | neighbourSolicitation => exact .ofOut h (receiveFrame_keeps _ (.refl s) fun _ => onNeighbour_keeps _ _)
  | icmpEchoRequest => exact .ofOut h (receiveFrame_keeps _ (.refl s) fun _ => onPing_keeps _ _)
  | sync => exact .ofOut h (onSync_keeps_memory _ _ (countGptp_keeps _ (.refl s)))
  | followUp => exact .ofOut h (onFollowUp_keeps_memory _ _ (countGptp_keeps _ (.refl s)))
  | pdelayReq => exact .ofOut h (onPdelayReq_keeps _ _ (countGptp_keeps _ (.refl s)))
  | pdelayResp => exact .ofOut h (onPdelayResp_keeps _ _ (countGptp_keeps _ (.refl s)))
  | announce => exact .ofOut h (onAnnounce_keeps _ _ (countGptp_keeps _ (.refl s)))
  | syncIntervalTimer => exact .ofOut h (onSyncInterval_keeps _ (.refl s))
  | pdelayIntervalTimer => exact .ofOut h (onPdelayInterval_keeps _ (.refl s))
  | syncTimeout => exact .ofOut h (onSyncTimeout_keeps _ (.refl s))
  | gclSwitch => exact .ofOut h (onGclSwitch_keeps _ (.refl s))
  | gateIntervalEnd => exact .ofOut h (onGateInterval_keeps _ (.refl s))
  | wallReady => exact .ofOut h (onWallReady_keeps _ (.refl s))
  | wallAgree => exact .ofOut h (onWallAgree_keeps _ (.refl s))
  | wallClaim => exact .ofOut h (onWallClaim_keeps _ (.refl s))
  | agreeFallbackTimeout => exact .ofOut h (onAgreeFallback_keeps (.refl s))
  | wallAgreementMissing => exact .ofOut h (onAgreementMissing_keeps (.refl s))
  | wallElectionTimeout => exact .ofOut h (onElection_keeps (.refl s))
  | fwVerifyDone => exact .ofOut h (onFwVerifyDone_keeps (.refl s))
  | activationResume => exact .ofOut h (onActivationResume_keeps (.refl s))
  | watchdogExpiry => exact .ofOut h (procFault_keeps _ _ (.refl s))
  | protectionViolation => exact .ofOut h (procFault_keeps _ _ (.refl s))
  | sramError => exact .ofOut h (procFault_keeps _ _ (.refl s))
  | consistencyCheckFail => exact .ofOut h (procFault_keeps _ _ (.refl s))
  | holdRelease => exact .ofOut h (onHoldRelease_keeps (.refl s))
  | selfTestDone => exact .ofOut h (onSelfTestDone_keeps _ (.refl s))
  | currentSample => exact .ofOut h (onCurrentSample_keeps _ (.refl s))
  | powerLoopPeriod => exact .ofOut h (onPowerLoop_keeps (.refl s))
  | parkPeriod => exact .ofOut h (onParkPeriod_keeps (.refl s))
  | entropyFail => exact .ofOut h (onEntropyFail_keeps (.refl s))
  | secEnrollArm => exact .ofOut h (onEnrollArm_keeps_memory (.refl s))
  | enrollWindowExpiry => exact .ofOut h (onEnrollExpiry_keeps (.refl s))
  | nvrWordStored => exact .ofOut h (onNvrWordStored_keeps (.refl s))
  | phyReferenceLost => exact .ofOut h (onPhyLost_keeps _ (.refl s))
  | phyReferenceLock => exact .ofOut h (onPhyLock_keeps _ (.refl s))
  | jtagBypass => exact .ofOut h (bypass_keeps (.refl s))
  | jtagIdcode => exact .ofOut h (out_keeps _ (.refl s))
  | jtagSamplePreload => exact .ofOut h (onSamplePreload_keeps (.refl s))
  | jtagExtest => exact .ofOut h (onExtest_keeps (.refl s))
  | jtagDebugRead => exact .ofOut h (onDebugRead_keeps _ (.refl s))
  | i3cSetdasa => exact .ofOut h (onSetdasa_keeps _ (.refl s))
  | i3cEntdaa => exact .ofOut h (onEntdaa_keeps _ (.refl s))
  | i3cAddressWrite => exact .ofOut h (onI3cAddress_keeps _ (.refl s))
  | i3cPrivateRead => exact .ofOut h (onI3cRead_keeps (.refl s))
  | lineStart => exact .ofOut h (onLineStart_keeps _ _ (.refl s))
  | wallMemberLost => exact .ofOut h (onMemberLost_keeps _ (.refl s))
  | noPacketsTimeout => exact .ofOut h (onNoPackets_keeps _ (.refl s))
  | bitClockLoss => exact .ofOut h (onBitClockLoss_keeps _ (.refl s))
  | bitClockDetected => exact .ofOut h (onBitClockDetected_keeps _ (.refl s))
  | preemptionVerifyDone => exact .ofOut h (onPreemptVerified_keeps _ (.refl s))
  | announceReceiptTimeout => exact .ofOut h (onAnnounceTimeout_keeps _ (.refl s))
  | announceIntervalTimer => exact .ofOut h (onAnnounceInterval_keeps _ (.refl s))

end Sys2Proof.Machine
end

section
/-! Memory and its canonical form: what reset leaves (O3, O4), what every step keeps (O5), and which commands change a byte
(O7). -/

namespace Sys2Proof.Machine

open Sys2Proof

/-! ## At reset (R8, R112, R129) -/

theorem regW_reset (a : Nat) : regW State.reset a = resetWord a % 2 ^ 32 := BitVec.toNat_ofNat ..

theorem getTen_reset (t : Nat) : getTen State.reset t = tenantDflt t := rfl

/-- Settles O3: a field that reset leaves empty reads as its default. -/
theorem resetLeaves : Obligations.ResetLeaves := by
  refine ⟨rfl, rfl, rfl, regW_reset, rfl, fun t ht => ?_, fun _ => rfl, fun _ _ n => memReads_nil _ n,
    fun _ _ n => memReads_nil _ n⟩
  rw [getTen_reset, tenantDflt, if_neg ht]

/-- Settles O4: nothing is listed at reset. -/
theorem memoryWfAtReset : Obligations.MemoryWfAtReset := ⟨rfl, rfl⟩

/-! ## Along a step -/

/-- A step passes a cycle or runs the command at the front of the queue. -/
theorem step_keeps_memoryWf {s t : State} (hs : MemoryWf s) (h : step s = .next t) : MemoryWf t := by
  unfold step at h
  split at h
  · have idle : Keeps true true s t := .ofOut h (passCycle_keeps (.refl s))
    exact idle.wf hs
  · exact (exec_keeps h).wf hs

/-- Settles O5: the cycle that passes and every command keep the canonical form. -/
theorem stepKeepsMemoryWf : Obligations.StepKeepsMemoryWf := fun _ _ hs h => step_keeps_memoryWf hs h

/-- Settles O7: a command outside a list keeps that memory whole, so every byte of it reads as before. -/
theorem onlyStoresChangeMemory : Obligations.OnlyStoresChangeMemory := by
  intro c s t h
  have keeps := exec_keeps_unnamed h
  refine ⟨fun hm u va n => ?_, fun hp k a n => ?_⟩
  · rw [hbmRead, keeps.hbm hm, hbmRead]
  · rw [padRead, keeps.pad hp, padRead]

end Sys2Proof.Machine
end

section
/-! SUPPORT. Requests of the memory group that are served (R135 to R139, R621), and what ends the two that wait for their pages:
one equation per case. -/

namespace Sys2Proof.Machine

open Sys2Proof

/-! ## Memory records of tenants -/

@[simp] theorem getTen_reply (s : State) (op : Nat) (rq : Req) (st d : Nat) (p : List Byte) (u : Nat) :
    getTen (reply s op rq st d p) u = getTen s u := by
  rw [getTen, reply_tenants, getTen]

@[simp] theorem getTen_replyOk (s : State) (op : Nat) (rq : Req) (p : List Byte) (u : Nat) :
    getTen (replyOk s op rq p) u = getTen s u := getTen_reply ..

@[simp] theorem getTen_modMem_self (s : State) (t : Nat) (f : TenMem → TenMem) :
    getTen (modMem s t f) t = { getTen s t with mem := f (getTen s t).mem } := getTen_modTen_self ..

theorem getTen_modMem_ne (s : State) {t u : Nat} (f : TenMem → TenMem) (h : u ≠ t) : getTen (modMem s t f) u = getTen s u :=
  getTen_modTen_ne s _ h

theorem getTen_answered_ne (s : State) {t u : Nat} (op : Nat) (rq : Req) (status : Nat) (p : List Byte) (h : u ≠ t) :
    getTen (answered s op rq t status p) u = getTen s u := by
  rw [answered, getTen_reply, getTen_modTen_ne s _ h]

@[simp] theorem getTen_answered_self (s : State) (t op : Nat) (rq : Req) (status : Nat) (p : List Byte) :
    getTen (answered s op rq t status p) t =
      { getTen s t with async := (getTen s t).async ++ [asyncOf op rq] } := by
  rw [answered, getTen_reply, getTen_modTen_self]

/-! ## MEM_MAP (R136) -/

/-- What backs a pinned mapping that a request has added, at 64 GB/s (R129). -/
def pinBacking (s : State) (rq : Req) (m : Mapping) : PinBacking :=
  { va := m.va, request := asyncOf opMemMap rq, due := s.now + ceilDiv m.size backRate }

section
variable {s : State} {rq : Req} {ss : Session}

section
variable {a : MemMapArgs} (h : Served s (.memMap rq a) opMemMap rq ss)
  (hf : firstFault (memMapChecks s ss.tenant a) = none)
include h hf

theorem onMemMap_demand (hp : (newMapping a).pinned = false) :
    onMemMap rq a s = replyOk (addMapping s ss.tenant (newMapping a)) opMemMap rq [] := by
  simp only [onMemMap, take_served h, checked_pass hf, hp, Bool.false_eq_true, if_false]

/-- A pinned mapping stands at once, and its pages are being backed (R129, R136). -/
theorem onMemMap_pinned (hp : (newMapping a).pinned = true) (hc : asyncCount s ss.tenant rq.session.toNat < 4096) :
    onMemMap rq a s =
      modMem (addMapping (answered s opMemMap rq ss.tenant stAccepted []) ss.tenant (newMapping a)) ss.tenant
        fun x => { x with backing := x.backing ++ [pinBacking s rq (newMapping a)] } := by
  simp only [onMemMap, take_served h, checked_pass hf, hp, if_true, accept_pass hc, reply_now]
  rfl

end

/-- The pages of a pinned mapping are backed: its completion goes (R136). -/
theorem onMemMapBacked_backing {t va : Nat} {b : PinBacking}
    (hb : (getTen s t).mem.backing.find? (fun b => b.va = va) = some b) (hr : restarting s 2 = false) :
    onMemMapBacked t va s =
      complete (modMem s t fun x => { x with backing := x.backing.erase b }) t b.request stOk 0 [] := by
  simp [onMemMapBacked, hb, hr]

/-! ## MEM_UNMAP and MEM_PROTECT (R621) -/

theorem onMemUnmap_served {va size : DWord} (h : Served s (.memUnmap rq va size) opMemUnmap rq ss)
    (hf : firstFault (rangeChecks s ss.tenant va.toNat size.toNat ++ mapBusyChecks s ss.tenant va.toNat size.toNat) = none) :
    onMemUnmap rq va size s = replyOk (unmapRange s ss.tenant va.toNat size.toNat) opMemUnmap rq [] := by
  rw [onMemUnmap, take_served h, checked_pass hf]

/-- Of the mappings, what lies outside the range stays. -/
theorem unmapRange_maps (s : State) (t va n : Nat) :
    (getTen (unmapRange s t va n) t).mem.maps =
      ((splitMaps va (va + n) (getTen s t).mem.maps).filter fun p => !p.1).map fun p => p.2 := by
  have h (u : State) : getTen (hbmZero u t va n) t = getTen u t := rfl
  rw [unmapRange, h, getTen_modMem_self]
  rfl

theorem onMemProtect_served {va size : DWord} {fl : Byte} {r : BitVec 56}
    (h : Served s (.memProtect rq va size fl r) opMemProtect rq ss)
    (hf : firstFault (protectChecks fl r ++ rangeChecks s ss.tenant va.toNat size.toNat
      ++ mapBusyChecks s ss.tenant va.toNat size.toNat) = none) :
    onMemProtect rq va size fl r s = replyOk (protectRange s ss.tenant va.toNat size.toNat fl.toNat) opMemProtect rq [] := by
  rw [onMemProtect, take_served h, checked_pass hf]

/-! ## MEM_WRITE and MEM_READ (R138, R155) -/

section
variable {va : DWord} {n : Word} {data : List Byte} (h : Served s (.memWrite rq va n 0 data) opMemWrite rq ss)
  (hf : firstFault (accessChecks s ss.tenant ss va n 0 (fun m => m.write) ++ writeBusyChecks s ss.tenant va.toNat n.toNat)
    = none) (hb : partialBad s ss.tenant va.toNat n.toNat = none)
include h hf hb

theorem onMemWrite_backed (hp : unbacked (getTen s ss.tenant)
      [{ va := va.toNat, rowBytes := n.toNat, rows := 1, pitch := n.toNat, read := false, write := true }] = []) :
    onMemWrite rq va n 0 data s = replyOk (storeBytes s ss.tenant va.toNat data) opMemWrite rq [] := by
  simp only [onMemWrite, take_served h, checked_pass hf, hb, hp, if_true]

/-- While pages of the range are being backed the write waits with its session (R138). -/
theorem onMemWrite_waits {pages : List (Nat × Nat)} {u : State} (hp : unbacked (getTen s ss.tenant)
      [{ va := va.toNat, rowBytes := n.toNat, rows := 1, pitch := n.toNat, read := false, write := true }] = pages)
    (hne : pages ≠ []) (hu : backPages s ss.tenant none pages = some u) :
    onMemWrite rq va n 0 data s = setSes u rq.session.toNat { ss with
      backing := some { tag := rq.tag.toNat, va := va.toNat, data := data
                        due := u.now + ceilDiv (pagesBytes pages) backRate } } := by
  simp only [onMemWrite, take_served h, checked_pass hf, hb, hp, hne, if_false, hu]

end

/-- The pages are backed: the bytes land, the reply goes, and the requests behind it go on (R138). -/
theorem onMemWriteBacked_backing {id : Word} {b : Backing} (hr : isRunning s = true) (hs : getSes s id.toNat = some ss)
    (hb : ss.backing = some b) (hp : restarting s 2 = false) (hm : s.chip.hbmReady = true) :
    let u := pagesRaised (setSes s id.toNat { ss with backing := none }) ss.tenant none
    onMemWriteBacked id s = resumeSession (replyOk (storeBytes u ss.tenant b.va b.data) opMemWrite
      { session := id, tag := BitVec.ofNat 32 b.tag } []) id.toNat := by
  simp only [onMemWriteBacked, hr, hp, hm, hs, hb, Bool.not_true, Bool.or_false, Bool.false_eq_true, if_false]

theorem onMemRead_served {va : DWord} {n : Word} (h : Served s (.memRead rq va n 0) opMemRead rq ss)
    (hf : firstFault (accessChecks s ss.tenant ss va n 0 (fun m => m.read) ++
      [(((stepExtents s ss.tenant).filter fun e => e.write).any fun e => e.meets va.toNat n.toNat,
        (stBusy, dtRangeUncommitted))]) = none) (hb : firstBad s ss.tenant va.toNat n.toNat = none) :
    onMemRead rq va n 0 s =
      replyOk s opMemRead rq (memReadReply va.toNat n.toNat (hbmRead s ss.tenant va.toNat n.toNat)) := by
  simp only [onMemRead, take_served h, checked_pass hf, hb]

/-! ## MMU_WALK (R135, R137) -/

section
variable {va : DWord} (h : Served s (.mmuWalk rq va) opMmuWalk rq ss)
include h

theorem onMmuWalk_within (hv : va.toNat < vaEnd) :
    onMmuWalk rq va s = replyOk s opMmuWalk rq (mmuWalkReply s ss.tenant va.toNat) := by
  rw [onMmuWalk, take_served h, if_neg (Nat.not_le.2 hv)]

theorem onMmuWalk_beyond (hv : vaEnd ≤ va.toNat) :
    onMmuWalk rq va s = refuse s opMmuWalk rq (stBadParam, dtValueRange) := by
  rw [onMmuWalk, take_served h, if_pos hv]

end

end

end Sys2Proof.Machine
end

section
/-! Memory: the statements about mappings (O24) and host access (O25). -/

namespace Sys2Proof.Machine

open Sys2Proof

/-- Settles O24: a served request passes its checks; the mapping and its backing are read off the tenant's record, which the
reply leaves alone. -/
theorem memoryMaps : Obligations.MemoryMaps := by
  refine ⟨fun rq a s₀ ss h hf => ⟨fun hp => next_eq (onMemMap_demand h hf hp), fun hp hc => ?_⟩,
    fun t va s b hb hr => next_eq (onMemMapBacked_backing hb hr),
    fun rq va size s₀ ss h hf => ⟨next_eq (onMemUnmap_served h hf), fun t ht => ?_⟩,
    fun rq va size fl r _ ss h hf => next_eq (onMemProtect_served h hf)⟩
  · refine ⟨_, pinBacking (hear rq s₀) rq (newMapping a), next_eq (onMemMap_pinned h hf hp hc), ?_, ?_, rfl, fun u hu => ?_⟩
    · simp only [getTen_modMem_self, addMapping, getTen_answered_self]
    · simp only [getTen_modMem_self, addMapping, getTen_answered_self]
    · rw [getTen_modMem_ne _ _ hu, addMapping, getTen_modMem_ne _ _ hu, getTen_answered_ne _ _ _ _ _ hu]
  · obtain rfl : replyOk (unmapRange (hear rq s₀) ss.tenant va.toNat size.toNat) opMemUnmap rq [] = t :=
      Host.Outcome.next.inj ((next_eq (onMemUnmap_served h hf)).symm.trans ht)
    rw [getTen_replyOk, unmapRange_maps]

/-- Settles O25: each answer is the branch of its operation in which the request is served, by whether a page waits to be
backed and by the address of a walk. -/
theorem memoryReadsAndWrites : Obligations.MemoryReadsAndWrites := by
  refine ⟨⟨fun rq va n data _ ss h hf hb => ⟨fun hp => ?_, fun u hu hp => ?_⟩,
    fun id s ss b hr hs hb hp hm => next_eq (onMemWriteBacked_backing hr hs hb hp hm),
    fun rq va n _ ss h hf hb => next_eq (onMemRead_served h hf hb)⟩,
    fun rq va _ ss h => ⟨fun hv => next_eq (onMmuWalk_within h hv), fun hv => next_eq (onMmuWalk_beyond h hv)⟩⟩
  · exact next_eq (onMemWrite_backed h hf hb hp)
  · exact next_eq (onMemWrite_waits h hf hb rfl hp hu)

end Sys2Proof.Machine
end

section
/-! SUPPORT. Page faults and memory errors of commands, and what settles behind them (R149 to R157, R542): one equation per
case. -/

namespace Sys2Proof.Machine

open Sys2Proof

/-! ## Held faults (R152, R153) -/

section
variable {s : State}

section
variable {rq : Req} {ss : Session} {id action : Word} {h : HeldFault}
  (hs : Served s (.faultResume rq id action) opFaultResume rq ss)
  (hh : (getTen s ss.tenant).mem.held.find? (fun h => h.id = id.toNat) = some h)
include hs hh

/-- Action 0: the command may run again. -/
theorem onFaultResume_rerun (ha : action = 0) :
    onFaultResume rq id action s = refresh (modInst
      (modMem (replyOk s opFaultResume rq []) ss.tenant fun m => { m with held := m.held.erase h })
      { loop := h.loop, cmd := h.cmd, inst := h.inst } afterHold) := by
  subst ha
  rw [onFaultResume, take_served hs]
  simp only [hh]
  rfl

/-- Action 1: its step fails. -/
theorem onFaultResume_fail (ha : action = 1) :
    onFaultResume rq id action s = failHeld (replyOk s opFaultResume rq []) h dtFaultRefused := by
  subst ha
  rw [onFaultResume, take_served hs]
  simp only [hh]
  rfl

end

theorem onFaultTimeout_due {t id : Nat} {h : HeldFault}
    (hh : (getTen s t).mem.held.find? (fun h => h.id = id && decide (h.due ≤ s.now)) = some h)
    (hr : restarting s 2 = false) : onFaultTimeout t id s = failHeld s h dtFaultTimeout := by
  simp only [onFaultTimeout, hr, Bool.not_false, Bool.and_true, hh]

/-- The time of a restart of the scheduler processor does not count (R542). -/
theorem onFaultTimeout_restarting (t id : Nat) (hr : restarting s 2 = true) : onFaultTimeout t id s = s := by
  have none_due : ((getTen s t).mem.held.find? fun h => h.id = id && decide (h.due ≤ s.now) && !restarting s 2) = none :=
    List.find?_eq_none.2 fun h _ => by simp [hr]
  rw [onFaultTimeout, none_due]

/-- FAULT_EVENT reports the held fault once more, with outcome 1. -/
theorem failHeld_reports {h : HeldFault} {q : Placed} (detail : Nat)
    (hq : findInst s { loop := h.loop, cmd := h.cmd, inst := h.inst } = some q) :
    failHeld s h detail = failStep (faultReport s q h.id 1 h.va 1 detail) h.loop stPageFault detail h.cmd := by
  rw [failHeld, hq]

/-! ## Page faults (R151) -/

section
variable {ref : CmdRef} {q : Placed} (hr : isRunning s = true) (hq : findInst s ref = some q) (hi : isRun q.inst = true)
include hr hq hi

theorem onPageFault_corrupt (va : DWord) (w : Bool) :
    onPageFault ref va w .tableCorrupt s = faultFail s q 3 va.toNat 0 := by
  simp [onPageFault, hr, hq, hi]

variable {va : DWord} {w : Bool}

theorem onPageFault_outside
    (hw : withinSet (if w then writeSet q.cmd.spec else readSet q.cmd.spec) va.toNat 1 = false) :
    onPageFault ref va w .access s = faultFail s q 2 va.toNat dtSetViolation := by
  simp only [onPageFault, hq, hr, hi, hw, Bool.not_true, Bool.or_false, Bool.false_eq_true, if_false, Bool.not_false, if_true]

theorem onPageFault_demand
    (hw : withinSet (if w then writeSet q.cmd.spec else readSet q.cmd.spec) va.toNat 1 = true)
    (hd : isDemandPage (getTen s q.loop.tenant) va.toNat = true) :
    onPageFault ref va w .access s = demandFault s q va.toNat := by
  simp only [onPageFault, hq, hr, hi, hw, hd, Bool.not_true, Bool.or_false, Bool.false_eq_true, if_false, if_true]

end

/-- While the scheduler processor restarts, the run stands at its access (R542). -/
theorem demandFault_restarting (q : Placed) (va : Nat) (hr : restarting s 2 = true) : demandFault s q va = s := by
  rw [demandFault, if_pos hr]

/-! ## The backing of demand pages (R129, R151) -/

theorem onDemandBackingDone_restarting (ref : CmdRef) (hr : restarting s 2 = true) : onDemandBackingDone ref s = s := by
  rw [onDemandBackingDone, if_pos hr]

theorem onDemandBackingDone_backing {ref : CmdRef} {q : Placed} {due : Nat} (hq : findInst s ref = some q)
    (hp : q.inst.phase = .backing due) (hr : restarting s 2 = false) :
    onDemandBackingDone ref s = refresh (modInst (raisedFor s ref) ref afterHold) := by
  have found : findInst (raisedFor s ref) ref = some q := hq
  simp only [onDemandBackingDone, hr, found, hp, Bool.false_eq_true, if_false]

/-! ## Uncorrectable errors and the patrol scrub (R154, R155) -/

section
variable {ref : CmdRef} {q : Placed} (hr : isRunning s = true) (hq : findInst s ref = some q) (hi : isRun q.inst = true)
include hr hq hi

theorem onUncorrectable_hbm {va : DWord} (he : (q.cmd.spec.extents.any fun e => e.meets (va.toNat / 64 * 64) 64) = true) :
    onUncorrectable (.hbm ref va) s = eccHbm (markBad s q.loop.tenant (va.toNat / 64 * 64)) q (va.toNat / 64 * 64) := by
  simp only [onUncorrectable, eccOfCommand, hr, hq, hi, he, Bool.not_true, Bool.false_eq_true, if_false, Bool.and_self, if_true]

theorem onUncorrectable_scratchpad (off : Word) : onUncorrectable (.scratchpad ref off) s = eccPad s q := by
  simp only [onUncorrectable, eccOfCommand, hr, hq, hi, Bool.not_true, Bool.false_eq_true, if_false, if_true]

end

theorem onPatrolScrub_due (found : ScrubReport) (hr : isRunning s = true) (hm : s.chip.hbmReady = true)
    (hp : restarting s 0 = false) (hd : s.chip.scrubDue ≤ s.now) :
    onPatrolScrub found s = found.uncorrectable.foldl scrubOne { s with chip := { s.chip with
      scrubDue := s.now + 3600 * secTicks * rField s aMmuConfig 23 16
      eccCorr := satAdd s.chip.eccCorr found.corrected cap32 } } := by
  simp only [onPatrolScrub, hr, hm, hp, Nat.not_lt.2 hd, Bool.not_true, Bool.or_false, decide_false, Bool.false_eq_true, if_false]

/-! ## Settling (R149, R150) -/

theorem onKilledWritesSettled_settles {ref : CmdRef} {q : Placed} (hq : findInst s ref = some q) (hw : q.inst.wasOn ≠ []) :
    onKilledWritesSettled ref s = settleFuncs (refresh (modInst s ref fun i => { i with
      wasOn := []
      phase := if isSettling i then .waiting else i.phase })) := by
  simp only [onKilledWritesSettled, hq, hw, if_false]

theorem onZeroFillDone_settled {id : Nat} {l : Loop} {st : Step} {r : List Step} {f : Failing} (hr : isRunning s = true)
    (hl : getLoop s id = some l) (hq : l.queue = st :: r) (hf : st.failing = some f)
    (hw : ((stepInsts id l st).any fun p => p.inst.wasOn ≠ []) = false) :
    onZeroFillDone id s = settleFuncs (refresh (formStep (popStep
      (failSeqs (fgFail (zeroStep s l.tenant st) id st) id l st f.status f.detail) id f.status f.detail f.cmd false) id)) := by
  simp only [onZeroFillDone, hl, hq, hf, hr, hw, Bool.not_true, Bool.or_false, Bool.false_eq_true, if_false]

end

end Sys2Proof.Machine
end

section
/-! SUPPORT. The zeroes of a failed step (R150): its write sets as rows, and what a byte reads once they are zeroed. -/

namespace Sys2Proof.Machine

open Sys2Proof

/-! ## One row -/

/-- A row of a write set is zeroed, and its whole lines take new check bits. -/
def zeroRow (t : Nat) (s : State) (row : Nat × Nat) : State :=
  healLines (hbmZero s t row.1 row.2) t row.1 row.2

/-- A byte of the row reads 0, and every other byte of every tenant as before. -/
theorem hbmRead_zeroRow (s : State) (t : Nat) {row : Nat × Nat} (u : Nat) {va : Nat} (hr : row.1 + row.2 ≤ 2 ^ 48)
    (hv : va < 2 ^ 48) :
    hbmRead (zeroRow t s row) u va 1 =
      if u = t ∧ row.1 ≤ va ∧ va < row.1 + row.2 then [0] else hbmRead s u va 1 := by
  have key : (hbmKey t row.1 ≤ hbmKey u va ∧ hbmKey u va < hbmKey t row.1 + row.2) ↔
      u = t ∧ row.1 ≤ va ∧ va < row.1 + row.2 := by
    unfold hbmKey
    omega
  have read (v : State) : hbmRead v u va 1 = [memRead v.hbm (hbmKey u va)] := by
    simp [hbmRead, memReads]
  rw [read, read, zeroRow, healLines_hbm, hbmZero, memRead_memZero, if_congr key rfl rfl]
  split <;> rfl

/-! ## The rows of a step -/

/-- The rows of the write sets of a step's commands, each with its length. -/
def writeRows (st : Step) : List (Nat × Nat) :=
  st.cmds.flatMap fun c => (writeSet c.spec).flatMap fun e =>
    (List.range e.norm.rows).map fun r => (e.norm.va + r * e.norm.pitch, e.norm.rowBytes)

theorem mem_writeRows {st : Step} {row : Nat × Nat} :
    row ∈ writeRows st ↔ ∃ c ∈ st.cmds, ∃ e ∈ writeSet c.spec, ∃ r < e.norm.rows,
      (e.norm.va + r * e.norm.pitch, e.norm.rowBytes) = row := by
  simp only [writeRows, List.mem_flatMap, List.mem_map, List.mem_range]

/-- The zero fill goes row by row. -/
theorem zeroStep_eq (s : State) (t : Nat) (st : Step) : zeroStep s t st = (writeRows st).foldl (zeroRow t) s := by
  simp only [zeroStep, writeRows, List.foldl_flatMap, List.foldl_map]
  rfl

theorem hbmRead_zeroRows (t : Nat) (rows : List (Nat × Nat)) (s : State) (u : Nat) {va : Nat}
    (hr : ∀ row ∈ rows, row.1 + row.2 ≤ 2 ^ 48) (hv : va < 2 ^ 48) :
    hbmRead (rows.foldl (zeroRow t) s) u va 1 =
      if u = t ∧ ∃ row ∈ rows, row.1 ≤ va ∧ va < row.1 + row.2 then [0] else hbmRead s u va 1 := by
  induction rows generalizing s with
  | nil => simp
  | cons x rows ih =>
    rw [List.foldl_cons, ih _ fun row h => hr row (List.mem_cons_of_mem _ h), hbmRead_zeroRow s t u (hr x (by simp)) hv,
      ← ite_or]
    simp only [List.mem_cons, exists_eq_or_imp, and_or_left, or_comm]

end Sys2Proof.Machine
end

section
/-! Faults and errors: the statements about page faults (O27) and about errors, settling and the zero fill (O28). -/

namespace Sys2Proof.Machine

open Sys2Proof

/-- Settles O27: each outcome is a branch of its operation, and the report of a held fault is the event that R153 spells. -/
theorem pageFaults : Obligations.PageFaults := by
  refine ⟨fun rq id action _ ss h hs hh => ⟨fun ha => next_eq (onFaultResume_rerun hs hh ha),
      fun ha => next_eq (onFaultResume_fail hs hh ha)⟩,
    fun ref va w s q hr hq hi => ⟨next_eq (onPageFault_corrupt hr hq hi va w),
      fun hw => next_eq (onPageFault_outside hr hq hi hw),
      fun hw hd => ⟨next_eq (onPageFault_demand hr hq hi hw hd), demandFault_restarting q va.toNat⟩⟩,
    fun ref s q due hq hp => ⟨fun hr => next_eq (onDemandBackingDone_backing hq hp hr),
      fun hr => next_eq (onDemandBackingDone_restarting ref hr)⟩,
    fun t id s h hh => ⟨fun hr => next_eq (onFaultTimeout_due hh hr),
      fun hr => next_eq (onFaultTimeout_restarting t id.toNat hr)⟩,
    fun s h q detail hq => failHeld_reports detail hq⟩

/-- Settles O28: errors and settling by the branch of each operation; the zero fill by its rows, of which a byte lies in one
or in none. -/
theorem errorsAndSettling : Obligations.ErrorsAndSettling := by
  refine ⟨⟨fun ref va s q hr hq hi he => next_eq (onUncorrectable_hbm hr hq hi he),
      fun ref off s q hr hq hi => next_eq (onUncorrectable_scratchpad hr hq hi off),
      fun found s hr hm hp hd => next_eq (onPatrolScrub_due found hr hm hp hd),
      fun ref s q hq hw => next_eq (onKilledWritesSettled_settles hq hw),
      fun id s l st r f hr hl hq hf hw => next_eq (onZeroFillDone_settled hr hl hq hf hw)⟩,
    fun s t st u va hv hrows => ?_⟩
  have fits : ∀ row ∈ writeRows st, row.1 + row.2 ≤ 2 ^ 48 := by
    intro row h
    obtain ⟨c, hc, e, he, r, hr, rfl⟩ := mem_writeRows.1 h
    exact hrows c hc e he r hr
  refine ⟨fun hout => ?_, fun hin => ?_⟩
  · rw [zeroStep_eq, hbmRead_zeroRows t _ s u fits hv, if_neg]
    rintro ⟨rfl, row, h, hlo, hhi⟩
    obtain ⟨c, hc, e, he, r, hr, rfl⟩ := mem_writeRows.1 h
    have apart := (hout.resolve_left (not_not_intro rfl)) c hc e he r hr
    omega
  · obtain ⟨c, hc, e, he, r, hr, hlo, hhi⟩ := hin
    rw [zeroStep_eq, hbmRead_zeroRows t _ s t fits hv, if_pos ⟨rfl, _, mem_writeRows.2 ⟨c, hc, e, he, r, hr, rfl⟩, hlo, hhi⟩]

end Sys2Proof.Machine
end

section
/-! SUPPORT. What a run does with its work (R143, R148), and frame generation's captures and publishes (R312, R322, R327, R542):
one equation per case. -/

namespace Sys2Proof.Machine

open Sys2Proof

/-! ## Work (R143, R148) -/

/-- A run that a fault or an error ends leaves memory: none of its writes has landed. -/
theorem runWork_stopped_hbm {s : State} {q : Placed} {w : Work} {x : Stop} (k : State → State)
    (h : firstStop s q w.hbm = some x) : (runWork s q w k).hbm = s.hbm := by
  rw [runWork, h]
  exact (stopRun_keeps (wh := false) q x (.refl s)).hbm rfl

/-! ## A step of a bound loop becomes eligible (R312, R317) -/

section
variable {s : State} {p : Nat} {l : Loop} {st : Step} {r : List Step} (hr : isRunning s = true)
  (hl : getLoop s (lcLoop s p) = some l) (hq : l.queue = st :: r) (hb : (getFg s p).bound = true)
  (hs : st.ready.isSome = true) (he : st.eligible = none) (hf : st.failing = none)
include hr hl hq hb hs he hf

theorem onFgStepEligible_claimed {c : Claim}
    (hc : (getFg s p).claims.find? (fun c => c.step = st.order ∧ c.sub = 0) = some c)
    (ht : frLe (frSub (frSub c.fmax (usNs c.lead)) (budgetNs s p)) (pipeNow s p) = true) :
    onFgStepEligible p s = fgEligible s p (lcLoop s p) l st (some c) := by
  simp only [onFgStepEligible, hl, hq, hr, hb, Option.isNone_eq_false_iff.2 hs, he, hf, Option.isSome_none, Bool.not_true,
    Bool.or_false, Bool.false_eq_true, if_false, hc, ht, if_true]

theorem onFgStepEligible_unclaimed
    (hc : (getFg s p).claims.find? (fun c => c.step = st.order ∧ c.sub = 0) = none) :
    onFgStepEligible p s = if (getPipe s p).state = 2 then claimFrames s p st.order (pipeNow s p)
      else fgEligible s p (lcLoop s p) l st none := by
  simp only [onFgStepEligible, hl, hq, hr, hb, Option.isNone_eq_false_iff.2 hs, he, hf, Option.isSome_none, Bool.not_true,
    Bool.or_false, Bool.false_eq_true, if_false, hc]

end

/-! ## Captures (R322, R323, R155) -/

section
variable {s : State} {p t b ref last render : Nat} {table : List Byte} {reads : List Extent} (hr : isRunning s = true)
  (ht : pipeHolder s p = some t) (hc : openCapture (getFg s p) = some (b, ref, last, render, table, reads))
  (hp : restarting s 2 = false)
include hr ht hc hp

theorem onCaptureComplete_holds (hb : badInExtents s t reads = false) (ho : captureOk s t p table reads = true) :
    onCaptureComplete p s = rePromote
      (modFg ((captureRuns s t p ref last render table).foldl (fun s r => storeBytes s t (fgCapBuf s p b + r.1) r.2) s) p
        fun g => { setCap g b (.held ref) with capOrder := g.capOrder ++ [b] }) p := by
  simp only [onCaptureComplete, ht, hc, hr, hp, hb, ho, Bool.not_true, Bool.or_false, Bool.false_eq_true, if_false, if_true]

/-- A rule of R323 stands against it. -/
theorem onCaptureComplete_abandoned (hb : badInExtents s t reads = false) (ho : captureOk s t p table reads = false) :
    onCaptureComplete p s = refresh (capFail s p b) := by
  simp only [onCaptureComplete, ht, hc, hr, hp, hb, ho, Bool.not_true, Bool.or_false, Bool.false_eq_true, if_false]

/-- An uncorrectable error touches what it read. -/
theorem onCaptureComplete_spoilt (hb : badInExtents s t reads = true) :
    onCaptureComplete p s = refresh (capFail (countUncorr s) p b) := by
  simp only [onCaptureComplete, ht, hc, hr, hp, hb, Bool.not_true, Bool.or_false, Bool.false_eq_true, if_false, if_true]

end

/-! ## Publishes (R327) -/

section
variable {s : State} {p : Nat} (hr : isRunning s = true) (hp : restarting s 2 = false)
include hr hp

theorem onPublishCopyStart_starts (hg : (getFg s p).publish = 1) (hw : (getFg s p).pubWait = []) :
    onPublishCopyStart p s = modFg s p fun x => { x with publish := 2 } := by
  simp [onPublishCopyStart, hr, hp, hg, hw]

variable {t : Nat} (ht : pipeHolder s p = some t) (hg : (getFg s p).publish = 2)
include ht hg

/-- The candidate stands in the bank that is not shown. -/
theorem onPublishCopyDone_copied (hb : badLineIn s t (fgBank s p 2) (bankBytes s p) = none) :
    onPublishCopyDone p s = modFg (storeBytes s t (fgBank s p (1 - (getFg s p).bank))
      (hbmRead s t (fgBank s p 2) (bankBytes s p))) p fun x => { x with publish := 3 } := by
  simp [onPublishCopyDone, ht, hr, hp, hg, hb]

/-- An uncorrectable error touches the candidate: it is rolled back. -/
theorem onPublishCopyDone_spoilt (hb : (badLineIn s t (fgBank s p 2) (bankBytes s p)).isSome = true) :
    onPublishCopyDone p s =
      incReg (modFg (countUncorr s) p fun x => { x with publish := 0 }) (fgRolled p) 1 cap32 := by
  simp [onPublishCopyDone, ht, hr, hp, hg, hb]

end

/-! ## The urgent tick (R175, R179, R182) -/

theorem exec_urgentTick (s : State) : exec .urgentTick s = .next (onUrgentTick s) := rfl

section
variable {s : State} (hr : isRunning s = true)
include hr

/-- No loop is evicted: LC commands are placed. -/
theorem onUrgentTick_spares (h : (urgentLoad (refresh s)).2 = none) :
    let x := (urgentLoad (refresh s)).1
    let u := lcPass x { kill := true, loaded := x.sched.evicted }
    onUrgentTick s = refresh { u with sched := { u.sched with evicted := [] } } := by
  simp only [onUrgentTick, hr, h, Bool.not_true, Bool.false_eq_true, if_false]

/-- The commands of the evicted loop go once LC commands are placed. -/
theorem onUrgentTick_evicts {b : Nat} (h : (urgentLoad (refresh s)).2 = some b) :
    let x := (urgentLoad (refresh s)).1
    let u := evictPass (lcPass x { kill := true, loaded := x.sched.evicted }) b x.sched.evicted
    onUrgentTick s = refresh { u with sched := { u.sched with evicted := [] } } := by
  simp only [onUrgentTick, hr, h, Bool.not_true, Bool.false_eq_true, if_false]

end

/-! ## Commit (R148) -/

/-- An engine that is ready ends its run, and what may commits. -/
theorem onCommandCommit_ready {s : State} {ref : CmdRef} {q : Placed} (hr : isRunning s = true)
    (hq : findInst (pumpRun s ref) ref = some q) (hi : isRun q.inst = true) (hd : runReady (pumpRun s ref) q = true) :
    onCommandCommit ref s = finishRun (pumpRun s ref) q fun u =>
      wallReady (settleFuncs (refresh (commitStep (commitCmds ref.loop 512 u) ref.loop))) := by
  simp only [onCommandCommit, hr, hq, hi, hd, Bool.not_true, Bool.or_false, Bool.false_eq_true, if_false]

end Sys2Proof.Machine
end

section
/-! What lands: the statements about the scheduler and commit (O32), about the work of a run (O33) and about frame generation
(O42). -/

namespace Sys2Proof.Machine

open Sys2Proof

/-- Settles O32: a running chip takes the branch of the tick that is due, by whether an urgent one evicts a loop, or of the
run that is ready; another none. -/
theorem schedulerActs : Obligations.SchedulerActs := by
  refine ⟨fun s hr ht => next_eq (if_neg ?_), fun s hr => ?_,
    fun ref s q hr hq hi hd => next_eq (onCommandCommit_ready hr hq hi hd), fun c s hr hc => ?_⟩
  · simpa [hr] using ht
  · rw [exec_urgentTick]
    dsimp only
    cases h : (urgentLoad (refresh s)).2 with
    | none => rw [onUrgentTick_spares hr h]
    | some b => rw [onUrgentTick_evicts hr h]
  · rcases hc with rfl | rfl | ⟨ref, rfl⟩ <;> exact next_eq (if_pos (by simp [hr]))

/-- Settles O33: work that meets no trouble lands whole; what stops a run stores nothing in memory. -/
theorem workLands : Obligations.WorkLands :=
  ⟨fun _ _ _ _ h hb => runWork_lands h hb, fun _ _ _ k _ h => runWork_stopped_hbm k h⟩

/-- Settles O42: each answer is the branch of its operation, by the claim of the step, by what the capture meets and by the
bytes of the candidate. -/
theorem frameGeneration : Obligations.FrameGeneration := by
  refine ⟨fun p s l st r hr hl hq hb hs he hf =>
      ⟨fun c hc ht => next_eq (onFgStepEligible_claimed hr hl hq hb hs he hf hc ht),
        fun hc => next_eq (onFgStepEligible_unclaimed hr hl hq hb hs he hf hc)⟩,
    fun p s t b ref last render table reads hr ht hc hp =>
      ⟨fun hb ho => next_eq (onCaptureComplete_holds hr ht hc hp hb ho),
        fun hb ho => next_eq (onCaptureComplete_abandoned hr ht hc hp hb ho),
        fun hb => next_eq (onCaptureComplete_spoilt hr ht hc hp hb)⟩,
    fun p s hr hp hg hw => next_eq (onPublishCopyStart_starts hr hp hg hw),
    fun p s t hr hp ht hg => ⟨fun hb => next_eq (onPublishCopyDone_copied hr hp ht hg hb),
      fun hb => next_eq (onPublishCopyDone_spoilt hr hp ht hg hb)⟩⟩

end Sys2Proof.Machine
end

section
/-! SUPPORT. Loops that come and go (R163 to R165) and targets that leave service and return (R191 to R195): one equation per
case. -/

namespace Sys2Proof.Machine

open Sys2Proof

/-! ## LOOP_CREATE -/

/-- The loop that a LOOP_CREATE makes (R164). -/
def createdLoop (t : Nat) (a : LoopCreateArgs) (q : Option SeqParams) : Loop :=
  { tenant := t, lc := a.cls = 0, depth := a.queueDepth.toNat, notify := bit a.flags.toNat 0
    pipe := if a.pipe = 0xFF then none else some a.pipe.toNat, sequence := q }

/-- The machine without one of its loops (R165). -/
def dropLoop (s : State) (id : Nat) : State := { s with sched := { s.sched with loops := tabErase s.sched.loops id } }

@[simp] theorem getLoop_dropLoop_self (s : State) (id : Nat) : getLoop (dropLoop s id) id = none :=
  tabFind_tabErase_self ..

theorem getLoop_dropLoop_ne (s : State) {id j : Nat} (h : j ≠ id) : getLoop (dropLoop s id) j = getLoop s j :=
  tabFind_tabErase_ne _ h

@[simp] theorem getLoop_replyOk (s : State) (op : Nat) (rq : Req) (p : List Byte) (j : Nat) :
    getLoop (replyOk s op rq p) j = getLoop s j := by
  rw [getLoop, replyOk_sched, getLoop]

section
variable {s : State} {rq : Req} {ss : Session}

theorem onLoopCreate_creates {a : LoopCreateArgs} {q : Option SeqParams} {id : Nat}
    (h : Served s (.loopCreate rq a) opLoopCreate rq ss) (hf : firstFault (loopCreateChecks s ss.tenant a) = none)
    (hq : seqParams s ss.tenant a = .ok q) (hi : newLoopId s = some id) :
    onLoopCreate rq a s =
      replyOk (setLoop (draw s) id (createdLoop ss.tenant a q)) opLoopCreate rq (le4 id) := by
  simp only [onLoopCreate, take_served h, checked_pass hf, hq, hi]
  rfl

/-! ## LOOP_DESTROY -/

/-- A loop that holds nothing, and that no enabled pipe names, goes. -/
theorem onLoopDestroy_idle {id : Word} {l : Loop} (h : Served s (.loopDestroy rq id) opLoopDestroy rq ss)
    (hl : getLoop s id.toNat = some l) (ht : l.tenant = ss.tenant) (hq : l.queue = []) (hs : l.seqs = [])
    (hn : namedByFg s ss.tenant id.toNat = false) :
    onLoopDestroy rq id s = replyOk (dropLoop s id.toNat) opLoopDestroy rq [] := by
  simp only [onLoopDestroy, take_served h, hl]
  exact checked_pass (by simp [firstFault_eq_none, ht, hq, hs, hn])

/-! ## FUNC_DISABLE -/

theorem leaving_iff {f : Func} : leaving f = true ↔ f.phase = .draining ∨ f.phase = .aborting := by
  simp [leaving]

section
variable {a : FuncArgs} (h : Served s (.funcDisable rq a) opFuncDisable rq ss) (hf : funcFault s ss.tenant a 2 = none)
include h hf

/-- Of a disabled target nothing is left to finish or to abort (log entry 25). -/
theorem onFuncDisable_disabled (hp : (targetFunc s a.target.toNat a.id.toNat).phase = .disabled) :
    onFuncDisable rq a s = replyOk s opFuncDisable rq (funcPayload a.target.toNat a.id.toNat {}) := by
  simp only [onFuncDisable, take_served h, hf, hp, if_true]

section
variable (hp : (targetFunc s a.target.toNat a.id.toNat).phase = .enabled)
  (hc : asyncCount s ss.tenant rq.session.toNat < asyncLimit)
include hp hc

theorem onFuncDisable_drain (hm : a.mode = 0) :
    let k := a.target.toNat
    let i := a.id.toNat
    onFuncDisable rq a s = drainTarget (setTargetFunc (answered s opFuncDisable rq ss.tenant stAccepted []) k i
      { targetFunc s k i with phase := .draining, drain := some (ss.tenant, asyncOf opFuncDisable rq) }) k i := by
  simp [onFuncDisable, take_served h, hf, leaving_iff, hp, hm, accept_answered hc]

theorem onFuncDisable_abort (hm : a.mode = 1) :
    let k := a.target.toNat
    let i := a.id.toNat
    let f := targetFunc s k i
    onFuncDisable rq a s = abortTarget (setTargetFunc (answered s opFuncDisable rq ss.tenant stAccepted []) k i
      { f with phase := .aborting, abort := f.abort ++ [(ss.tenant, asyncOf opFuncDisable rq)] }) k i := by
  simp [onFuncDisable, take_served h, hf, leaving_iff, hp, hm, accept_answered hc]

end

end

/-! ## FUNC_ENABLE -/

theorem onFuncEnable_disabled {a : FuncArgs} (h : Served s (.funcEnable rq a) opFuncEnable rq ss)
    (hf : funcFault s ss.tenant a 1 = none) (hp : (targetFunc s a.target.toNat a.id.toNat).phase = .disabled)
    (he : enableFault s ss.tenant a.target.toNat a.id.toNat = none) :
    onFuncEnable rq a s = replyOk (enableTarget s a.target.toNat a.id.toNat) opFuncEnable rq [] := by
  simp [onFuncEnable, take_served h, hf, leaving_iff, hp, he]

end

end Sys2Proof.Machine
end

section
/-! Scheduling: the statements about function disable (O31) and about loops (O29). -/

namespace Sys2Proof.Machine

open Sys2Proof

/-- Settles O31: a served request about a target takes the branch of the target's phase and of the mode. -/
theorem functionDisable : Obligations.FunctionDisable :=
  ⟨fun _ _ _ _ h hf => ⟨fun hp => next_eq (onFuncDisable_disabled h hf hp),
      fun hp hm hc => next_eq (onFuncDisable_drain h hf hp hc hm),
      fun hp hm hc => next_eq (onFuncDisable_abort h hf hp hc hm)⟩,
    fun _ _ _ _ h hf hp he => next_eq (onFuncEnable_disabled h hf hp he)⟩

/-- Settles O29: the answer puts one entry into the table of loops or takes one out of it, and the reply leaves that table
alone. -/
theorem loopsComeAndGo : Obligations.LoopsComeAndGo := by
  refine ⟨fun rq a s₀ ss q id h hf hq hi => ?_, fun rq id s₀ ss l h hl ht hq hs hn => ?_⟩
  · refine ⟨_, next_eq (onLoopCreate_creates h hf hq hi), ?_, fun j hj => ?_, replyOk_tenants .., replyOk_hbm ..,
      replyOk_pad .., by rw [replyOk_sched]; rfl⟩
    · rw [getLoop_replyOk, getLoop_setLoop_self]; rfl
    · rw [getLoop_replyOk, getLoop_setLoop_ne _ _ hj]; rfl
  · refine ⟨_, next_eq (onLoopDestroy_idle h hl ht hq hs hn), ?_, fun j hj => ?_, replyOk_tenants .., replyOk_hbm ..,
      replyOk_pad ..⟩
    · rw [getLoop_replyOk, getLoop_dropLoop_self]
    · rw [getLoop_replyOk, getLoop_dropLoop_ne _ hj]

end Sys2Proof.Machine
end

section
/-! SUPPORT. Instructions of the vector engine (R229, R231): one takes effect on the group that stands before it and on no
other; the lane rows by the shared operation of each. -/

namespace Sys2Proof.Machine

open Sys2Proof

/-! ## The instruction and its group -/

section
variable {op : Nat} {v : VeAt} {f : VeFields} {s : State} {x : VeCtx} {k : VeCtx → State}

theorem veAt_some (h : veCtx s v op f = some x) : veAt op v f s k = k x := by simp only [veAt, h]

theorem veAt_none (h : veCtx s v op f = none) : veAt op v f s k = s := by simp only [veAt, h]

/-- The lanes in which the guard holds come in their order. -/
theorem veCtx_lanes_sublist (h : veCtx s v op f = some x) : x.lanes.Sublist (List.range 64) := by
  unfold veCtx at h
  dsimp only at h
  split at h
  · contradiction
  split at h
  · contradiction
  split at h
  · contradiction
  split at h
  · contradiction
  obtain rfl := Option.some.inj h
  exact List.filter_sublist.trans List.filter_sublist

theorem veCtx_lanes_pairwise (h : veCtx s v op f = some x) : x.lanes.Pairwise (· < ·) :=
  List.pairwise_lt_range.sublist (veCtx_lanes_sublist h)

end

/-! ## Lane rows (R230) -/

section
variable {mk : VeAt → VeFields → Instr} {op : Nat}

theorem row1 {fn : Nat → Nat} (hx : ∀ v f s, exec (mk v f) s = .next (veAlu1 op fn v f s)) : Row1 mk op fn :=
  laneRow _ _ _ hx

theorem row2 {fn : Nat → Nat → Nat} (hx : ∀ v f s, exec (mk v f) s = .next (veAlu2 op fn v f s)) : Row2 mk op fn :=
  laneRow _ _ _ hx

/-- A register keeps 32 bits of a result, whether or not the operation cuts it to them. -/
theorem row2_mod {fn : Nat → Nat → Nat}
    (hx : ∀ v f s, exec (mk v f) s = .next (veAlu2 op (fun a b => fn a b % 2 ^ 32) v f s)) : Row2 mk op fn :=
  laneRow _ _ _ fun v f s => (hx v f s).trans (next_eq (veLanes_mod ..))

end

theorem sLt_iff {a b : Nat} : sLt a b = true ↔ sInt 32 a < sInt 32 b := decide_eq_true_iff

theorem sMin_eq : sMin = fun a b => if sInt 32 b < sInt 32 a then b else a := by
  funext a b
  simp only [sMin, sLt_iff]

theorem sMax_eq : sMax = fun a b => if sInt 32 a < sInt 32 b then b else a := by
  funext a b
  simp only [sMax, sLt_iff]

/-! ## Compare rows (R230) -/

/-- Predicates of a lane do not meet those of another, and predicate 0 stands. -/
theorem pred_setPred (g : VeGroup) {l m d p : Nat} (b : Bool) (hd : d < 8) (hp : p < 8) :
    pred (setPred g l d b) m p = if m = l ∧ p = d ∧ p ≠ 0 then b else pred g m p := by
  have key : 8 * m + p = 8 * l + d ↔ m = l ∧ p = d := by omega
  by_cases h0 : p = 0
  · simp [pred, h0]
  · by_cases h : m = l ∧ p = d
    · obtain ⟨rfl, rfl⟩ := h
      cases b <;> simp [pred, setPred, h0]
    · have hne := mt key.1 h
      rw [if_neg fun e => h ⟨e.1, e.2.1⟩]
      cases b <;> simp [pred, setPred, hne]

theorem preds_setPreds (d : Nat) (fn : Nat → Bool) (ls : List Nat) (g : VeGroup) :
    let u := ls.foldl (fun g l => setPred g l d (fn l)) g
    u = { g with preds := u.preds } := by
  induction ls generalizing g with
  | nil => rfl
  | cons a t ih => exact ih _

theorem pred_setPreds {d : Nat} (fn : Nat → Bool) (ls : List Nat) (g : VeGroup) {m p : Nat} (hd : d < 8) (hp : p < 8) :
    pred (ls.foldl (fun g l => setPred g l d (fn l)) g) m p =
      if m ∈ ls ∧ p = d ∧ p ≠ 0 then fn m else pred g m p := by
  induction ls generalizing g with
  | nil => simp
  | cons a t ih =>
    rw [List.foldl_cons, ih, pred_setPred _ _ hd hp]
    by_cases h : p = d ∧ p ≠ 0
    · obtain ⟨rfl, h0⟩ := h
      by_cases ha : m = a
      · subst ha; simp [h0]
      · simp [h0, ha]
    · simp only [h, and_false, if_false]

/-- A compare row meets CompareRow when its meaning is the shared compare with that row's comparison. -/
theorem compareRow {mk : VeAt → VeFields → Instr} {op : Nat} {fn : Nat → Nat → Bool}
    (hx : ∀ v f s, exec (mk v f) s = .next (veCmp op fn v f s)) : CompareRow mk op fn := fun v f s _ h =>
  ⟨_, (hx v f s).trans (next_eq (veAt_some h)), preds_setPreds .., fun _ _ hp hd => pred_setPreds _ _ _ hd hp⟩

end Sys2Proof.Machine
end

section
/-! SUPPORT. FP32 arithmetic with a NaN (R210, R230), and the constants of R233. -/

namespace Sys2Proof.Machine

open Sys2Proof

/-! ## NaN operands -/

theorem f32Nan_iff {a : Nat} : f32Nan a = true ↔ f32 a = .nan := by
  unfold f32Nan
  cases f32 a <;> simp [Ext.isNan]

theorem extSum_nan {x y : Ext} (h : x = .nan ∨ y = .nan) : extSum [x, y] = .nan := by
  rcases h with rfl | rfl
  · rfl
  · cases x <;> rfl

theorem Ext.mul_nan {x y : Ext} (h : x = .nan ∨ y = .nan) : x.mul y = .nan := by
  rcases h with rfl | rfl
  · rfl
  · cases x <;> rfl

theorem Ext.div_nan {x y : Ext} (h : x = .nan ∨ y = .nan) : x.div y = some .nan := by
  rcases h with rfl | rfl
  · rfl
  · cases x <;> rfl

theorem rn32Sum_nan {x y : Ext} (h : x = .nan ∨ y = .nan) : rn32Sum [x, y] = nan32 := by
  rw [rn32Sum, extSum_nan h]
  rfl

/-- Every operation with two operands answers the canonical NaN for a NaN. -/
theorem f32_binary_nan {a b : Nat} (h : f32Nan a = true ∨ f32Nan b = true) :
    f32Add a b = nan32 ∧ f32Sub a b = nan32 ∧ f32Mul a b = nan32 ∧ f32Min a b = nan32 ∧ f32Max a b = nan32 ∧
      f32Div a b = nan32 := by
  have hab : (f32Nan a || f32Nan b) = true := by simpa using h
  have hn : f32 a = .nan ∨ f32 b = .nan := h.imp f32Nan_iff.1 f32Nan_iff.1
  have hneg : f32 a = .nan ∨ (f32 b).neg = .nan := hn.imp_right fun e => by rw [e]; rfl
  refine ⟨rn32Sum_nan hn, rn32Sum_nan hneg, ?_, if_pos hab, if_pos hab, ?_⟩
  · rw [f32Mul, Ext.mul_nan hn]; rfl
  · rw [f32Div, Ext.div_nan hn]; rfl

/-- Every operation with one operand answers the canonical NaN for a NaN. -/
theorem f32_unary_nan {a : Nat} (h : f32Nan a = true) :
    f32Abs a = nan32 ∧ f32Neg a = nan32 ∧ f32Rcp a = nan32 ∧ f32Sqrt a = nan32 ∧ f32Rsqrt a = nan32 ∧
      f32Exp2 a = nan32 ∧ f32Log2 a = nan32 ∧ f32SinPi a = nan32 ∧ f32CosPi a = nan32 := by
  refine ⟨if_pos h, if_pos h, ?_⟩
  simp only [f32Rcp, f32Sqrt, f32Rsqrt, f32Exp2, f32Log2, f32SinPi, f32CosPi, f32Nan_iff.1 h]
  exact ⟨rfl, rfl, rfl, rfl, rfl, rfl, rfl⟩

/-- A NaN is not equal to, below or above anything. -/
theorem f32_compare_nan {a b : Nat} (h : f32Nan a = true ∨ f32Nan b = true) :
    f32Eq a b = false ∧ f32Lt a b = false ∧ f32Le a b = false := by
  have hab : (!(f32 a).isNan && !(f32 b).isNan) = false := by simpa [f32Nan, or_iff_not_imp_left] using h
  have heq : f32Eq a b = false := by rw [f32Eq, hab, Bool.false_and]
  have hlt : f32Lt a b = false := by rw [f32Lt, hab, Bool.false_and]
  exact ⟨heq, hlt, by rw [f32Le, heq, hlt, Bool.or_false]⟩

/-- Of the two zeroes the negative one is below (R230). -/
theorem f32_zeroes_ordered : f32Min 0x80000000 0 = 0x80000000 ∧ f32Max 0x80000000 0 = 0 ∧ f32Min 0 0x80000000 = 0x80000000 ∧
    f32Max 0 0x80000000 = 0 := by
  decide +kernel

/-! ## The constants of R233 -/

theorem cLog2e_eq : cLog2e = 0x3FB8AA3B := by decide +kernel
theorem cLn2_eq : cLn2 = 0x3F317218 := by decide +kernel
theorem cTanh_eq : cTanh = 0xC038AA3B := by decide +kernel
theorem f32Neg_cLog2e : f32Neg cLog2e = 0xBFB8AA3B := by decide +kernel

end Sys2Proof.Machine
end

section
/-! SUPPORT. Loads, stores and atomics of the vector engine (R228, R230, R235): lanes that read and write aligned pieces of a
scratchpad one after the other. -/

namespace Sys2Proof.Machine

open Sys2Proof

/-! ## Aligned pieces of a scratchpad -/

@[simp] theorem padRead_length (s : State) (c a n : Nat) : (padRead s c a n).length = n := memReads_length ..

/-- Addresses count modulo the scratchpad's 4 MiB window. -/
theorem padRead_mod (s : State) (c a n : Nat) : padRead s c (a % 2 ^ 22) n = padRead s c a n := by
  rw [padRead, padKey, Nat.mod_mod]; rfl

theorem padRead_congr (s : State) (c n : Nat) {a b : Nat} (h : a % 2 ^ 22 = b % 2 ^ 22) : padRead s c a n = padRead s c b n := by
  rw [← padRead_mod, h, padRead_mod]

theorem padWrite_mod (s : State) (c a : Nat) (l : List Byte) : padWrite s c (a % 2 ^ 22) l = padWrite s c a l := by
  rw [padWrite, padKey, Nat.mod_mod]; rfl

section
variable {n : Nat} (hn : n ∣ 2 ^ 22)
include hn

/-- An aligned piece lies whole in the window. -/
theorem aligned_fits {a : Nat} (ha : n ∣ a) : a % 2 ^ 22 + n ≤ 2 ^ 22 := by
  have hlt : a % 2 ^ 22 < 2 ^ 22 := Nat.mod_lt _ (by decide)
  have := Nat.le_of_dvd (Nat.sub_pos_of_lt hlt) (Nat.dvd_sub hn ((Nat.dvd_mod_iff hn).2 ha))
  omega

/-- Two aligned pieces are one, or share no byte. -/
theorem aligned_apart {a b : Nat} (ha : n ∣ a) (hb : n ∣ b) (h : a % 2 ^ 22 ≠ b % 2 ^ 22) :
    b % 2 ^ 22 + n ≤ a % 2 ^ 22 ∨ a % 2 ^ 22 + n ≤ b % 2 ^ 22 := by
  have ha := (Nat.dvd_mod_iff hn).2 ha
  have hb := (Nat.dvd_mod_iff hn).2 hb
  rcases Nat.lt_or_gt_of_ne h with h | h
  · have := Nat.le_of_dvd (Nat.sub_pos_of_lt h) (Nat.dvd_sub hb ha)
    omega
  · have := Nat.le_of_dvd (Nat.sub_pos_of_lt h) (Nat.dvd_sub ha hb)
    omega

end

/-! ## Lanes that replace aligned pieces in turn -/

/-- Each lane in turn replaces the n bytes at its address by what blk makes of them. -/
def blockRun (c n : Nat) (adr : Nat → Nat) (blk : Nat → List Byte → List Byte) (ls : List Nat) (s : State) : State :=
  ls.foldl (fun s l => padWrite s c (adr l) (blk l (padRead s c (adr l) n))) s

/-- What those lanes make of the piece at an address. -/
def blockFold (adr : Nat → Nat) (blk : Nat → List Byte → List Byte) (a : Nat) (ls : List Nat) (w : List Byte) : List Byte :=
  ls.foldl (fun w l => if adr l % 2 ^ 22 = a % 2 ^ 22 then blk l w else w) w

theorem blockRun_cons (c n : Nat) (adr : Nat → Nat) (blk : Nat → List Byte → List Byte) (l : Nat) (t : List Nat) (s : State) :
    blockRun c n adr blk (l :: t) s = blockRun c n adr blk t (padWrite s c (adr l) (blk l (padRead s c (adr l) n))) := rfl

theorem blockRun_append (c n : Nat) (adr : Nat → Nat) (blk : Nat → List Byte → List Byte) (ls t : List Nat) (s : State) :
    blockRun c n adr blk (ls ++ t) s = blockRun c n adr blk t (blockRun c n adr blk ls s) := List.foldl_append

theorem blockFold_cons (adr : Nat → Nat) (blk : Nat → List Byte → List Byte) (a l : Nat) (t : List Nat) (w : List Byte) :
    blockFold adr blk a (l :: t) w = blockFold adr blk a t (if adr l % 2 ^ 22 = a % 2 ^ 22 then blk l w else w) := rfl

theorem blockRun_frame (c n : Nat) (adr : Nat → Nat) (blk : Nat → List Byte → List Byte) (ls : List Nat) (s : State) :
    blockRun c n adr blk ls s = { s with pad := (blockRun c n adr blk ls s).pad } := by
  induction ls generalizing s with
  | nil => rfl
  | cons a t ih => exact ih _

section
variable {c n : Nat} {adr : Nat → Nat} {blk : Nat → List Byte → List Byte} (hn : n ∣ 2 ^ 22) (hadr : ∀ l, n ∣ adr l)
  (hblk : ∀ l w, w.length = n → (blk l w).length = n)
include hn hadr hblk

/-- A byte in no lane's piece stays. -/
theorem padRead_blockRun_out (h0 : 0 < n) {k a : Nat} (ha : a < 2 ^ 22) (ls : List Nat) (s : State)
    (h : k ≠ c ∨ ∀ l ∈ ls, a < adr l % 2 ^ 22 ∨ adr l % 2 ^ 22 + n ≤ a) :
    padRead (blockRun c n adr blk ls s) k a 1 = padRead s k a 1 := by
  induction ls generalizing s with
  | nil => rfl
  | cons l t ih =>
    have len := hblk l _ (padRead_length s c (adr l) n)
    rw [blockRun_cons, ih _ (h.imp_right fun h m hm => h m (List.mem_cons_of_mem _ hm)), ← padWrite_mod]
    refine padRead_padWrite_out s (by rw [len]; exact aligned_fits hn (hadr l)) (by rwa [len]) ha ?_
    rw [len]
    exact h.imp_right fun h => (h l List.mem_cons_self).imp_left Nat.succ_le_of_lt

/-- An aligned piece reads as the lanes at its address leave it one after the other. -/
theorem padRead_blockRun (h0 : 0 < n) {a : Nat} (ha : n ∣ a) (ls : List Nat) (s : State) :
    padRead (blockRun c n adr blk ls s) c a n = blockFold adr blk a ls (padRead s c a n) := by
  induction ls generalizing s with
  | nil => rfl
  | cons l t ih =>
    have len := hblk l _ (padRead_length s c (adr l) n)
    rw [blockRun_cons, blockFold_cons, ih]
    refine congrArg (blockFold adr blk a t) ?_
    by_cases h : adr l % 2 ^ 22 = a % 2 ^ 22
    · rw [if_pos h, ← padRead_congr _ c n h, ← padRead_congr s c n h]
      exact (congrArg (padRead _ c (adr l)) len).symm.trans (padRead_padWrite_self ..)
    · rw [if_neg h, ← padRead_mod _ c a, ← padRead_mod s c a, ← padWrite_mod]
      refine padRead_padWrite_out s (by rw [len]; exact aligned_fits hn (hadr l)) (by rwa [len]) (aligned_fits hn ha) ?_
      rw [len]
      exact .inr (aligned_apart hn (hadr l) ha h)

end

section
variable {adr : Nat → Nat} {blk : Nat → List Byte → List Byte}

/-- No lane at the address: the piece stays. -/
theorem blockFold_fixed {a : Nat} {ls : List Nat} (h : ∀ l ∈ ls, adr l % 2 ^ 22 ≠ a % 2 ^ 22) (w : List Byte) :
    blockFold adr blk a ls w = w := by
  induction ls generalizing w with
  | nil => rfl
  | cons l t ih =>
    rw [blockFold_cons, if_neg (h l List.mem_cons_self)]
    exact ih (fun m hm => h m (List.mem_cons_of_mem _ hm)) w

/-- Where lanes only store, the piece of a lane stands that no later lane stores over. -/
theorem blockFold_last {piece : Nat → List Byte} {ls : List Nat} (hs : ls.Pairwise (· < ·)) {l : Nat} (hl : l ∈ ls)
    (hlast : ∀ m ∈ ls, l < m → adr m % 2 ^ 22 ≠ adr l % 2 ^ 22) (w : List Byte) :
    blockFold adr (fun l _ => piece l) (adr l) ls w = piece l := by
  induction ls generalizing w with
  | nil => contradiction
  | cons a t ih =>
    obtain ⟨hat, ht⟩ := List.pairwise_cons.1 hs
    rcases List.mem_cons.1 hl with rfl | hlt
    · rw [blockFold_cons, if_pos rfl]
      exact blockFold_fixed (fun m hm => hlast m (List.mem_cons_of_mem _ hm) (hat m hm)) _
    · exact ih ht hlt (fun m hm => hlast m (List.mem_cons_of_mem _ hm)) _

end

/-! ## Addresses of lanes -/

theorem dvd_laneAddr (x : VeCtx) (f : VeFields) (n l : Nat) : n ∣ laneAddr x f n l := Nat.dvd_mul_left ..

section
variable {op n : Nat} {v : VeAt} {f : VeFields} {s : State} {x : VeCtx} {k : VeCtx → State} (h : veCtx s v op f = some x)
include h

/-- With every lane's access in the command's regions the instruction goes on. -/
theorem access_runs (hin : lanesIn x f n = true) :
    (veAt op v f s fun x => if !lanesIn x f n then padViolation s x.q else k x) = k x := by
  simp [veAt_some h, hin]

/-- One access outside stops the command. -/
theorem access_stops (hout : lanesIn x f n = false) :
    (veAt op v f s fun x => if !lanesIn x f n then padViolation s x.q else k x) = padViolation s x.q := by
  simp [veAt_some h, hout]

end

/-! ## Loads -/

section
variable {mk : VeAt → VeFields → Instr} {op n : Nat}

/-- A load row meets LoadRow when its meaning is the shared load. -/
theorem loadRow (hx : ∀ v f s, exec (mk v f) s = .next (veLoad op n v f s)) : LoadRow mk op n := by
  intro v f s x h
  refine ⟨fun hin => ⟨_, (hx v f s).trans (next_eq (access_runs h hin)), ?_⟩,
    fun hout => (hx v f s).trans (next_eq (access_stops h hout))⟩
  simpa using runs_change x f.d.toNat (n / 4)
    (fun l r => leNat (padRead s v.core.val (laneAddr x f n l + 4 * (r - f.d.toNat)) 4)) x.lanes s (veCtx_lanes h)

/-! ## Stores -/

/-- What a lane stores. -/
def storePiece (x : VeCtx) (f : VeFields) (n l : Nat) : List Byte :=
  ((List.range (n / 4)).map fun k => le4 (storeWord x f l k)).flatten

theorem storePiece_length (x : VeCtx) (f : VeFields) (l : Nat) (h : 4 ∣ n) : (storePiece x f n l).length = n := by
  have (k : Nat) : (le4 k).length = 4 := rfl
  simp [storePiece, List.length_flatten, Function.comp_def, this, Nat.div_mul_cancel h]

theorem veStore_lands {v : VeAt} {f : VeFields} {s : State} {x : VeCtx} (h : veCtx s v op f = some x)
    (hin : lanesIn x f n = true) :
    veStore op n v f s =
      veNext (blockRun v.core.val n (laneAddr x f n) (fun l _ => storePiece x f n l) x.lanes s) x f x.grp :=
  access_runs h hin

/-- A store row meets StoreRow when its meaning is the shared store. -/
theorem storeRow (hn : n ∣ 2 ^ 22) (h4 : 4 ∣ n) (hx : ∀ v f s, exec (mk v f) s = .next (veStore op n v f s)) :
    StoreRow mk op n := by
  intro v f s x h
  have h0 : 0 < n := Nat.pos_of_dvd_of_pos hn (by decide)
  have hadr (l : Nat) := dvd_laneAddr x f n l
  have hblk (l : Nat) (w : List Byte) (_ : w.length = n) := storePiece_length x f l h4
  refine ⟨fun hin => ⟨_, (hx v f s).trans (next_eq (veStore_lands h hin)), blockRun_frame ..,
      fun k a ha hk => padRead_blockRun_out hn hadr hblk h0 ha _ _ hk, fun l hl hlast => ?_⟩,
    fun hout => (hx v f s).trans (next_eq (access_stops h hout))⟩
  rw [padRead_blockRun hn hadr hblk h0 (hadr l)]
  exact blockFold_last (veCtx_lanes_pairwise h) hl hlast _

end

/-! ## Atomics -/

theorem leBytes_leNat (l : List Byte) : leBytes l.length (leNat l) = l := by
  induction l with
  | nil => rfl
  | cons b r ih =>
    have hb : BitVec.ofNat 8 (leNat (b :: r)) = b := by
      apply BitVec.eq_of_toNat_eq
      simp only [leNat, BitVec.toNat_ofNat]
      omega
    have hr : leNat (b :: r) / 256 = leNat r := by
      simp only [leNat]
      omega
    rw [List.length_cons, leBytes, hb, hr, ih]

section
variable (x : VeCtx) (f : VeFields) (fn : Nat → Nat → Nat → Nat)

/-- What an atomic of a lane makes of the word that it finds. -/
def atomicPiece (l : Nat) (w : List Byte) : List Byte := le4 (fn (leNat w) (x.b f l) (x.c f l))

theorem atomicWord_cons (a w l : Nat) (t : List Nat) :
    atomicWord x f fn a w (l :: t) =
      atomicWord x f fn a (if laneAddr x f 4 l % 2 ^ 22 = a then fn w (x.b f l) (x.c f l) % 2 ^ 32 else w) t := rfl

/-- The bytes of a word under some lanes' atomics spell the word of atomicWord. -/
theorem leNat_blockFold (a : Nat) (ls : List Nat) (w : List Byte) :
    leNat (blockFold (laneAddr x f 4) (atomicPiece x f fn) a ls w) = atomicWord x f fn (a % 2 ^ 22) (leNat w) ls := by
  induction ls generalizing w with
  | nil => rfl
  | cons l t ih =>
    rw [blockFold_cons, ih, atomicWord_cons]
    refine congrArg (atomicWord x f fn (a % 2 ^ 22) · t) ?_
    split
    · exact leNat_le4 _
    · rfl

/-- One lane's atomic, with the words that the lanes so far found. -/
def atomicStep (c : Nat) (sg : State × List (Nat × Nat)) (l : Nat) : State × List (Nat × Nat) :=
  (padWrite sg.1 c (laneAddr x f 4 l) (atomicPiece x f fn l (padRead sg.1 c (laneAddr x f 4 l) 4)),
    sg.2 ++ [(l, leNat (padRead sg.1 c (laneAddr x f 4 l) 4))])

/-- The word that a lane finds: the lanes below it have been at it. -/
def atomicFound (c : Nat) (s : State) (ls : List Nat) (l : Nat) : Nat :=
  atomicWord x f fn (laneAddr x f 4 l % 2 ^ 22) (leNat (padRead s c (laneAddr x f 4 l % 2 ^ 22) 4)) (ls.filter fun m => m < l)

theorem padRead_atomics (c : Nat) (s : State) (ls : List Nat) (l : Nat) :
    leNat (padRead (blockRun c 4 (laneAddr x f 4) (atomicPiece x f fn) ls s) c (laneAddr x f 4 l) 4) =
      atomicWord x f fn (laneAddr x f 4 l % 2 ^ 22) (leNat (padRead s c (laneAddr x f 4 l % 2 ^ 22) 4)) ls := by
  rw [padRead_blockRun (by decide) (dvd_laneAddr x f 4) (fun _ _ _ => rfl) (by decide) (dvd_laneAddr x f 4 l),
    leNat_blockFold, padRead_mod]

theorem atomicSteps_eq (c : Nat) (s : State) {ls : List Nat} (hs : ls.Pairwise (· < ·)) :
    ls.foldl (atomicStep x f fn c) (s, []) =
      (blockRun c 4 (laneAddr x f 4) (atomicPiece x f fn) ls s, ls.map fun l => (l, atomicFound x f fn c s ls l)) := by
  induction ls using List.reverseRecOn with
  | nil => rfl
  | append_singleton t a ih =>
    obtain ⟨ht, -, hlt⟩ := List.pairwise_append.1 hs
    have below {l : Nat} (h : l = a ∨ l ∈ t) : (t ++ [a]).filter (fun m => m < l) = t.filter fun m => m < l := by
      have : ¬ a < l := by
        rcases h with rfl | h
        · omega
        · have := hlt l h a (by simp)
          omega
      simp [List.filter_append, this]
    have all : t.filter (fun m => m < a) = t :=
      List.filter_eq_self.2 fun m hm => by simpa using hlt m hm a (by simp)
    have old (l : Nat) (h : l ∈ t) : atomicFound x f fn c s t l = atomicFound x f fn c s (t ++ [a]) l := by
      rw [atomicFound, atomicFound, below (.inr h)]
    have new : atomicFound x f fn c s (t ++ [a]) a = leNat (padRead
        (blockRun c 4 (laneAddr x f 4) (atomicPiece x f fn) t s) c (laneAddr x f 4 a) 4) := by
      rw [padRead_atomics, atomicFound, below (.inl rfl), all]
    rw [List.foldl_append, ih ht, blockRun_append, List.map_append, List.map_singleton, new,
      ← List.map_congr_left fun l h => congrArg (Prod.mk l) (old l h)]
    rfl

end

/-- The lanes act on the words, and then take what they found. -/
theorem veAtomic_lands {op : Nat} {fn : Nat → Nat → Nat → Nat} {v : VeAt} {f : VeFields} {s : State} {x : VeCtx}
    (h : veCtx s v op f = some x) (hin : lanesIn x f 4 = true) :
    veAtomic op fn v f s = veNext (setRegs (blockRun v.core.val 4 (laneAddr x f 4) (atomicPiece x f fn) x.lanes s) x x.lanes
      f.d.toNat (atomicFound x f fn v.core.val s x.lanes)) x f x.grp := by
  have hfold := atomicSteps_eq x f fn v.core.val s (veCtx_lanes_pairwise h)
  have hrun : veAtomic op fn v f s = veNext ((x.lanes.foldl (atomicStep x f fn v.core.val) (s, [])).2.foldl
      (fun s1 lo => setReg s1 x lo.1 f.d.toNat lo.2) (x.lanes.foldl (atomicStep x f fn v.core.val) (s, [])).1) x f x.grp :=
    access_runs h hin
  rw [hrun, hfold, List.foldl_map]
  rfl

/-- An atomic row meets AtomicRow when its meaning is the shared atomic with that row's function. -/
theorem atomicRow {mk : VeAt → VeFields → Instr} {op : Nat} {fn : Nat → Nat → Nat → Nat}
    (hx : ∀ v f s, exec (mk v f) s = .next (veAtomic op fn v f s)) : AtomicRow mk op fn := by
  intro v f s x h
  refine ⟨fun hin => ⟨_, _, _, (hx v f s).trans (next_eq (veAtomic_lands h hin)), blockRun_frame ..,
      setRegs_changes x f.d.toNat (fun l _ => atomicFound x f fn v.core.val s x.lanes l) x.lanes _ (veCtx_lanes h),
      fun k a ha hk => padRead_blockRun_out (by decide) (dvd_laneAddr x f 4) (fun _ _ _ => rfl) (by decide) ha _ _ hk,
      fun l _ => ⟨rfl, ?_⟩⟩,
    fun hout => (hx v f s).trans (next_eq (access_stops h hout))⟩
  rw [← padRead_atomics, padRead_mod]
  exact (leBytes_leNat _).symm

end Sys2Proof.Machine
end

section
/-! SUPPORT. Control of the vector engine (R231): branches and what DMA_ISSUE makes outstanding. -/

namespace Sys2Proof.Machine

open Sys2Proof

section
variable {op : Nat} {v : VeAt} {f : VeFields} {s : State} {x : VeCtx} (h : veCtx s v op f = some x)
include h

theorem veBranch_taken {take : VeCtx → Bool} (ht : take x = true) {off : Nat}
    (hoff : veTarget (veProgram s x.q) x.grp.pc (veImm f) = some off) :
    veBranch op take v f s = putGroup s x { x.grp with pc := off } := by
  rw [veBranch, veAt_some h, if_pos ht, hoff]

theorem veBranch_passed {take : VeCtx → Bool} (ht : take x = false) : veBranch op take v f s = veNext s x f x.grp := by
  rw [veBranch, veAt_some h, if_neg (by simp [ht])]

theorem veDmaStart_issues {l : Nat} {r : List Nat} (hl : x.lanes = l :: r) (hj : x.q.inst.dma.jobs.length < 16) :
    let d := progBytes s x.q.loop.tenant x.q.cmd.spec (x.head.desc + 48 * f.imm.toNat) 48
    veDmaStart op v f s = startDesc s x.q f.imm.toNat x.gid
      (le8 (leAt d 0 8 + x.a f l) ++ le8 (leAt d 8 8 + x.b f l) ++ d.drop 16) fun s => veNext s x f x.grp := by
  simp only [veDmaStart, veAt_some h, hl, if_neg (Nat.not_le.2 hj)]

end

end Sys2Proof.Machine
end

section
/-! The vector engine: the statements about its lane rows (O35), composite functions (O36), compare rows (O37), scratchpad rows
(O38) and control rows (O39). -/

namespace Sys2Proof.Machine

open Sys2Proof

/-- Settles O38: loads are runs of register writes; stores and atomics replace aligned pieces of the scratchpad, lane after
lane. -/
theorem vectorScratchpadRows : Obligations.VectorScratchpadRows :=
  ⟨loadRow fun _ _ _ => rfl, loadRow fun _ _ _ => rfl, loadRow fun _ _ _ => rfl,
    storeRow (by decide) (by decide) fun _ _ _ => rfl, storeRow (by decide) (by decide) fun _ _ _ => rfl,
    storeRow (by decide) (by decide) fun _ _ _ => rfl,
    atomicRow fun _ _ _ => rfl, atomicRow fun _ _ _ => rfl, atomicRow fun _ _ _ => rfl, atomicRow fun _ _ _ => rfl,
    atomicRow fun _ _ _ => rfl, atomicRow fun _ _ _ => rfl, atomicRow fun _ _ _ => rfl, atomicRow fun _ _ _ => rfl⟩

/-- Settles O35: each row's meaning is the shared operation of its shape with the function of the row; a NaN goes through
exact arithmetic to the canonical NaN. -/
theorem vectorLaneRows : Obligations.VectorLaneRows :=
  ⟨⟨row2 fun _ _ _ => rfl, row2 fun _ _ _ => rfl, row2 fun _ _ _ => rfl, laneRow _ _ _ fun _ _ _ => rfl,
    row2 fun _ _ _ => rfl, row2 fun _ _ _ => rfl, row1 fun _ _ _ => rfl, row1 fun _ _ _ => rfl, row2 fun _ _ _ => rfl,
    laneRow _ _ _ fun _ _ _ => rfl,
    row2_mod fun _ _ _ => rfl, row2 fun _ _ _ => rfl, row2_mod fun _ _ _ => rfl, row2 fun _ _ _ => rfl,
    row2 fun _ _ _ => rfl, row2_mod fun _ _ _ => rfl, row2 fun _ _ _ => rfl, row2 fun _ _ _ => rfl,
    row2 fun _ _ _ => rfl, row2 fun _ _ _ => rfl, row2 fun _ _ _ => rfl,
    sMin_eq ▸ row2 fun _ _ _ => rfl, sMax_eq ▸ row2 fun _ _ _ => rfl, row2 fun _ _ _ => rfl, row2 fun _ _ _ => rfl,
    laneRow _ _ _ fun _ _ _ => rfl, laneRow _ _ _ fun _ _ _ => rfl, laneRow _ _ _ fun _ _ _ => rfl,
    laneRow _ _ _ fun _ _ _ => rfl,
    row1 fun _ _ _ => rfl, row2 fun _ _ _ => rfl, row1 fun _ _ _ => rfl, row1 fun _ _ _ => rfl, row1 fun _ _ _ => rfl,
    row1 fun _ _ _ => rfl, row1 fun _ _ _ => rfl, row1 fun _ _ _ => rfl,
    laneRow _ _ _ fun _ _ _ => rfl, laneRow _ _ _ fun _ _ _ => rfl, laneRow _ _ _ fun _ _ _ => rfl⟩,
    fun _ _ => f32_binary_nan, fun _ => f32_unary_nan, f32_zeroes_ordered⟩

/-- Settles O37: the shared compare writes one predicate of each lane in turn. -/
theorem vectorCompareRows : Obligations.VectorCompareRows :=
  ⟨compareRow fun _ _ _ => rfl, compareRow fun _ _ _ => rfl, compareRow fun _ _ _ => rfl, compareRow fun _ _ _ => rfl,
    compareRow fun _ _ _ => rfl, compareRow fun _ _ _ => rfl, compareRow fun _ _ _ => rfl, compareRow fun _ _ _ => rfl,
    fun _ _ => f32_compare_nan⟩

/-- Settles O36: the model composes as R233 does, and its constants round to the codes that the statement names. -/
theorem compositeFunctions : Obligations.CompositeFunctions := by
  unfold Obligations.CompositeFunctions
  rw [← cLog2e_eq, ← cLn2_eq, ← f32Neg_cLog2e, ← cTanh_eq]
  exact ⟨row1 fun _ _ _ => rfl, row1 fun _ _ _ => rfl, row1 fun _ _ _ => rfl, row1 fun _ _ _ => rfl⟩

/-- Settles O39: each outcome is the branch of the row's operation that the lanes and the descriptors name, and a group that
stands elsewhere takes none. -/
theorem vectorControlRows : Obligations.VectorControlRows := by
  intro v f s x
  refine ⟨fun h => next_eq (veAt_some h), fun h => next_eq (veAt_some h),
    fun off hoff => ⟨fun h hl => next_eq (veBranch_taken h (decide_eq_true hl) hoff),
      fun h hl => next_eq (veBranch_taken h (decide_eq_true hl) hoff)⟩,
    fun h hl => next_eq (veBranch_passed h (decide_eq_false (not_not_intro hl))),
    fun h hl => next_eq (veBranch_passed h (decide_eq_false hl)),
    fun h hl => next_eq ((veAt_some h).trans (if_pos hl)), fun h hl => next_eq ((veAt_some h).trans (if_neg hl)),
    fun l r h hl hj hd ho hp => next_eq ((veDmaStart_issues h hl hj).trans (startDesc_valid hd ho hp)),
    fun h hw => next_eq ((veAt_some h).trans (if_pos (.inr hw))),
    fun h hl hw => next_eq ((veAt_some h).trans (if_neg (by simp [hl, hw]))),
    fun h hl => next_eq ((veAt_some h).trans (if_neg hl)), fun h => ⟨_, next_eq (veAt_some h), rfl⟩, fun mk op h hm => ?_⟩
  simp only [List.mem_cons, List.not_mem_nil, or_false, Prod.mk.injEq] at hm
  rcases hm with ⟨rfl, rfl⟩ | ⟨rfl, rfl⟩ | ⟨rfl, rfl⟩ | ⟨rfl, rfl⟩ | ⟨rfl, rfl⟩ | ⟨rfl, rfl⟩ | ⟨rfl, rfl⟩ | ⟨rfl, rfl⟩ |
    ⟨rfl, rfl⟩ <;> exact next_eq (veAt_none h)

end Sys2Proof.Machine
end

section
/-! SUPPORT. Halo rows between cores (R292 to R297, R300) and bands of the vision front end (R383 to R385): one equation per
outcome. -/

namespace Sys2Proof.Machine

open Sys2Proof

/-! ## The stream that a command speaks of (R292) -/

section
variable {s : State} {ref : CmdRef} {d : HaloDir} {x : HaloCtx}

theorem onHaloRowSend_stream (h : haloCtx (pumpSender s ref d) ref d = some x) :
    onHaloRowSend ref d s = sendHaloRow (pumpSender s ref d) x d := by
  simp only [onHaloRowSend, h]

theorem onHaloSlotRead_stream (h : haloCtx (pumpRun s ref) ref d = some x) :
    onHaloSlotRead ref d s = readHaloSlot (pumpRun s ref) x d := by
  simp only [onHaloSlotRead, h]

/-- A credit returns while the consumer has freed more slots than credits have come back for. -/
theorem onHaloCredit_returns (h : haloCtx s ref d = some x)
    (hc : (haloOf x.q.inst d).credits + (haloOf x.q.inst d).sent < (haloOf x.q.inst d).taken + x.b.slots) :
    onHaloCredit ref d s = modInst s ref fun i =>
      setHalo i d { haloOf x.q.inst d with credits := (haloOf x.q.inst d).credits + 1, waitCredit := none } := by
  simp only [onHaloCredit, h, if_pos hc]

theorem onHaloTimeout_over {w : HaloWait} (h : haloCtx s ref d = some x) (ho : haloOver s x d w = true) :
    onHaloTimeout ref d w s = haloTimeout s x := by
  simp only [onHaloTimeout, h, if_pos ho]

/-- The wait for a row counts while the producer runs. -/
theorem haloOver_slot {from_ span : Nat} (hw : (haloOf x.q.inst d).waitSlot = some (from_, span))
    (hr : isRun x.from_.inst = true) (ht : span ≤ s.now - max from_ x.from_.inst.since) :
    haloOver s x d .slot = true := by
  simp [haloOver, hw, hr, ht]

theorem haloOver_credit {t : Nat} (hw : (haloOf x.q.inst d).waitCredit = some t) (ht : t ≤ s.now) :
    haloOver s x d .credit = true := by
  simp [haloOver, hw, ht]

end

/-! ## The sender's next row (R292, R293, R297) -/

section
variable {s : State} {d : HaloDir} {x : HaloCtx} (hd : rowDrained x (haloOf x.q.inst d).sent = true)
  (hs : (haloOf x.q.inst d).sent < x.rows.1)
include hd hs

/-- With a credit the row goes into its slot, then the header that marks it ready. -/
theorem sendHaloRow_credit (hc : 0 < (haloOf x.q.inst d).credits) :
    let r := haloOf x.q.inst d
    let a := slotAddr x d (r.sent + 1)
    let y := x.rows.2 + r.sent
    sendHaloRow s x d = modInst
      (padWrite (padWrite s x.q.inst.core (a + 64) (fit x.b.rowBytes (haloRowData s x y))) x.q.inst.core a
        (le4 (r.sent + 1) ++ le4 y ++ by1 1 ++ zeros 55)) x.q.ref
      fun i => setHalo i d { r with sent := r.sent + 1, credits := r.credits - 1, waitCredit := none } := by
  simp [sendHaloRow, hd, Nat.not_le.2 hs, Nat.ne_of_gt hc]

/-- Without one the wait begins, or goes on as it began. -/
theorem sendHaloRow_noCredit (hc : (haloOf x.q.inst d).credits = 0) :
    sendHaloRow s x d = modInst s x.q.ref fun i => setHalo i d { haloOf x.q.inst d with
      waitCredit := some ((haloOf x.q.inst d).waitCredit.getD (haloDue s)) } := by
  simp [sendHaloRow, hd, Nat.not_le.2 hs, hc]

end

/-! ## The row that the consumer expects next (R294, R297) -/

section
variable {s : State} {d : HaloDir} {x : HaloCtx} (ht : (haloOf x.q.inst d).taken < x.rows.1)
  (hf : ringFree x.q x.h (x.rows.2 + (haloOf x.q.inst d).taken) = true) (ha : d = .below → aboveTaken s x.q x.h = true)
include ht hf ha

/-- Nothing holds the consumer back from its next row. -/
theorem halo_row_is_next :
    ¬ (x.rows.1 ≤ (haloOf x.q.inst d).taken ∨ (!ringFree x.q x.h (x.rows.2 + (haloOf x.q.inst d).taken)) = true ∨
      (d = .below ∧ (!aboveTaken s x.q x.h) = true)) := by
  simpa [hf, ht] using ha

/-- The row lies in its slot: it goes into the ring, and the slot's flag is cleared. -/
theorem readHaloSlot_ready :
    let r := haloOf x.q.inst d
    let a := slotAddr x d (r.taken + 1)
    let c := x.q.inst.core
    leNat (padRead s c (a + 8) 1) = 1 ∧ leNat (padRead s c a 4) = r.taken + 1 →
    readHaloSlot s x d = modInst (padWrite (takeHaloRow s x a (x.rows.2 + r.taken)) c (a + 8) [0]) x.q.ref fun i =>
      setHalo i d { r with taken := r.taken + 1, waitSlot := none } :=
  fun h => (if_neg (halo_row_is_next ht hf ha)).trans (if_pos h)

/-- Until it does, the wait begins, or goes on as it began. -/
theorem readHaloSlot_notReady :
    let r := haloOf x.q.inst d
    let a := slotAddr x d (r.taken + 1)
    let c := x.q.inst.core
    ¬ (leNat (padRead s c (a + 8) 1) = 1 ∧ leNat (padRead s c a 4) = r.taken + 1) →
    readHaloSlot s x d = modInst s x.q.ref fun i =>
      setHalo i d { r with waitSlot := some (r.waitSlot.getD (s.now, haloTicks s)) } :=
  fun h => (if_neg (halo_row_is_next ht hf ha)).trans (if_neg h)

end

/-! ## The vision command that streams, and the bands that it keeps (R383, log entry 23) -/

theorem vision_run_streams {s : State} {q : Placed} (hr : isRunning s = true) (hi : isRun q.inst = true)
    (he : q.cmd.spec.engine = 6 ∨ q.cmd.spec.engine = 7) :
    (!isRunning s || !onCore q.inst || !(q.cmd.spec.engine = 6 || q.cmd.spec.engine = 7)) = false := by
  simpa [onCore, hr, hi, or_iff_not_imp_left] using he

/-- A band joins the kept ones where it goes out for the first time, from a producer in place. -/
theorem keptBands_eq (old : Option (List Byte)) (p : Bool) (l m : List (List Byte)) :
    (if old.isSome || !p then l else m) = if old.isNone ∧ p = true then m else l := by
  cases old <;> cases p <;> rfl

/-! ## Errors of the reel's memory (R300) and of tile memory (R385) -/

section
variable {s : State} {ref : CmdRef} {q : Placed} (hr : isRunning s = true) (hf : findInst s ref = some q)
  (hi : isRun q.inst = true)
include hr hf hi

section
variable (hp : (haloProducer s q.loop.tenant q.step q.ref.cmd).isSome = true)
include hp

theorem onReelEccError_corrected : onReelEccError ref true s =
    setRegW s aReelEcc (putBits (regW s aReelEcc) 15 0 (satAdd (bits (regW s aReelEcc) 15 0) 1 0xFFFF)) := by
  simp [onReelEccError, hf, hr, hi, Option.isNone_eq_false_iff.2 hp]

theorem onReelEccError_uncorrected :
    let u := setRegW s aReelEcc (putBits (regW s aReelEcc) 31 16 (satAdd (bits (regW s aReelEcc) 31 16) 1 0xFFFF))
    onReelEccError ref false s = if inPlace q.cmd.spec = true
      then failStep (eccEvent u q 1 1 dtEccScratchpad 0) ref.loop stEccUncorrectable dtEccScratchpad ref.cmd
      else killInsts u [ref] kcEcc := by
  simp [onReelEccError, hf, hr, hi, Option.isNone_eq_false_iff.2 hp]

end

section
variable (he : q.cmd.spec.engine = 6 ∨ q.cmd.spec.engine = 7)
include he

theorem onTileMemoryEcc_running : onTileMemoryEcc ref s = eccPad s q := by
  simp [onTileMemoryEcc, hf, hr, hi, he]

/-! ## Bands (R383) -/

variable {c : Placed} {b : Nat × Nat × Nat} (hc : consumerOf s q (visHeadOf s q.loop.tenant q.cmd.spec) = some c)
  (hb : (bands (visHeadOf s q.loop.tenant q.cmd.spec))[q.inst.strm.bands]? = some b)
include hc hb

/-- The slot is free: a band that was kept goes out as it went, and a new one is kept where the producer is in place. -/
theorem onStreamBand_slotFree :
    let h := visHeadOf s q.loop.tenant q.cmd.spec
    let slot := h.streamAddr + q.inst.strm.bands % h.slots * slotBytes h
    let old := q.inst.strm.kept[q.inst.strm.bands]?
    let data := old.getD (bandBytes s q h b)
    leNat (padRead s c.inst.core (slot + 8) 1) = 0 → old.isSome = true ∨ firstStop s q (sourceReads h) = none →
    onStreamBand ref s = modInst
      (padWrite (padWrite s c.inst.core (slot + 64) data) c.inst.core slot
        (le4 (q.inst.strm.bands + 1) ++ le2 b.2.1 ++ le2 b.2.2 ++ by1 1 ++ by1 b.1 ++ zeros 54)) ref
      fun i => { i with strm := { i.strm with
        bands := q.inst.strm.bands + 1
        wait := none
        kept := if old.isNone ∧ inPlace q.cmd.spec = true then q.inst.strm.kept ++ [data] else q.inst.strm.kept } } := by
  dsimp only
  intro hz hs
  have hstop := ite_eq_left_iff.2 hs.resolve_left
  simp only [onStreamBand, hf, vision_run_streams hr hi he, hc, hb, hz, hstop, keptBands_eq, Bool.false_eq_true, if_false,
    ne_eq, not_true]

/-- The consumer has not freed the slot: the wait begins, or goes on as it began. -/
theorem onStreamBand_slotFull :
    let h := visHeadOf s q.loop.tenant q.cmd.spec
    leNat (padRead s c.inst.core (h.streamAddr + q.inst.strm.bands % h.slots * slotBytes h + 8) 1) ≠ 0 →
    onStreamBand ref s = modInst s ref fun i => { i with strm := { i.strm with
      wait := some (i.strm.wait.getD (s.now + usTicks * rField s aVisConfig 15 0)) } } := by
  intro h hz
  simp only [onStreamBand, hf, vision_run_streams hr hi he, hc, hb, Bool.false_eq_true, if_false]
  exact if_pos hz

end

/-- A wait that is due ends both commands while the slot is still full (R384). -/
theorem onStreamTimeout_over {c : Placed} {due : Nat} :
    let h := visHeadOf s q.loop.tenant q.cmd.spec
    consumerOf s q h = some c → q.inst.strm.wait = some due → isRun c.inst = true → due ≤ s.now →
    leNat (padRead s c.inst.core (h.streamAddr + q.inst.strm.bands % h.slots * slotBytes h + 8) 1) ≠ 0 →
    onStreamTimeout ref s = killInsts (incReg s aVisTimeouts 1 cap32) [ref, c.ref] kcHalo := by
  intro h hc hw hrun hdue hz
  simp [onStreamTimeout, onCore, hf, hr, hi, hc, hw, hrun, hdue, hz, h]

end

end Sys2Proof.Machine
end

section
/-! Rows and bands between cores: the statement about halo streams and vision streams (O41). -/

namespace Sys2Proof.Machine

open Sys2Proof

/-- Settles O41: each outcome is the branch of its operation that the stream's credits, flags and waits name. -/
theorem rowStreams : Obligations.RowStreams := by
  refine ⟨⟨fun ref d s x h hd hs => ⟨?_, ?_⟩, fun ref d s x h ht hf ha => ⟨?_, ?_⟩, fun ref d s x h => ⟨?_, ?_, ?_⟩,
    fun ref s q hr hf hi hp => ⟨?_, fun hq => ?_, fun hq => ?_⟩⟩,
    fun ref s q hr hf hi he => ⟨?_, fun c b hc hb => ⟨?_, ?_⟩, ?_⟩⟩
  · exact fun hc => next_eq ((onHaloRowSend_stream h).trans (sendHaloRow_credit hd hs hc))
  · exact fun hc => next_eq ((onHaloRowSend_stream h).trans (sendHaloRow_noCredit hd hs hc))
  · exact fun hflag hrow => next_eq ((onHaloSlotRead_stream h).trans (readHaloSlot_ready ht hf ha ⟨hflag, hrow⟩))
  · exact fun hslot => next_eq ((onHaloSlotRead_stream h).trans (readHaloSlot_notReady ht hf ha hslot))
  · exact fun hc => next_eq (onHaloCredit_returns h hc)
  · exact fun from_ span hw hrun ht => next_eq (onHaloTimeout_over h (haloOver_slot hw hrun ht))
  · exact fun t hw _ ht => next_eq (onHaloTimeout_over h (haloOver_credit hw ht))
  · exact next_eq (onReelEccError_corrected hr hf hi hp)
  · exact next_eq ((onReelEccError_uncorrected hr hf hi hp).trans (if_neg (ne_true_of_eq_false hq)))
  · exact next_eq ((onReelEccError_uncorrected hr hf hi hp).trans (if_pos hq))
  · exact next_eq (onTileMemoryEcc_running hr hf hi he)
  · exact fun hz hs => next_eq (onStreamBand_slotFree hr hf hi he hc hb hz hs)
  · exact fun hz => next_eq (onStreamBand_slotFull hr hf hi he hc hb hz)
  · exact fun c due hc hw hrun hdue hz => next_eq (onStreamTimeout_over hr hf hi hc hw hrun hdue hz)

end Sys2Proof.Machine
end

section
/-! SUPPORT. Galliard's decision (R313, R351, R354): the buffers that are due leave the candidates, and the branch of the
decision follows. -/

namespace Sys2Proof.Machine

open Sys2Proof

/-! ## What a decision records -/

@[simp] theorem getPipe_trace (s : State) (point t : Nat) (args : List Nat) (p : Nat) :
    getPipe (trace s point t args) p = getPipe s p := by
  rw [trace_eq]
  rfl

@[simp] theorem decideAs_decided (s : State) (p kind : Nat) (d : Decision) :
    (getPipe (decideAs s p kind d) p).decided = some d := by
  simp [decideAs]

@[simp] theorem regW_modPipe (s : State) (p : Nat) (f : Pipe → Pipe) (a : Nat) : regW (modPipe s p f) a = regW s a := rfl

@[simp] theorem getPipe_incReg (s : State) (a n cap p : Nat) : getPipe (incReg s a n cap) p = getPipe s p := rfl

theorem regW_incReg_ne (s : State) {a b : Nat} (n cap : Nat) (h : b ≠ a) : regW (incReg s a n cap) b = regW s b :=
  regW_setRegW_ne s _ h

/-! ## What a decision does first: a missed presentation is counted, and the buffers that are due are candidates no more -/

def takeDue (s : State) (p : Nat) (cut : Frac) : State :=
  let x := getPipe s p
  let claim := nextClaim x.fg.claims
  let met := match claim with | some c => (claimedBuffer x cut c).isSome | none => false
  modPipe (if (x.fg.bound || claim.isSome) && !met then incReg s (fgMissed p) 1 cap32 else s) p
    fun y => { y with cands := y.cands.filter fun b => !(b.subs = 0 && frLe b.at_ cut) }

section
variable (s : State) (p : Nat) (cut : Frac)

/-- Of the registers the counter of missed presentations alone can change. -/
theorem regW_takeDue {a : Nat} (h : a ≠ fgMissed p) : regW (takeDue s p cut) a = regW s a := by
  rw [takeDue, regW_modPipe, apply_ite (regW · a), regW_incReg_ne _ _ _ h, ite_self]

theorem getTen_takeDue (t : Nat) : getTen (takeDue s p cut) t = getTen s t := by
  rw [getTen, takeDue, modPipe_tenants, apply_ite State.tenants, incReg_tenants, ite_self]
  rfl

theorem takeDue_gal : getGal (takeDue s p cut) p = getGal s p := by
  rw [takeDue, getGal, getPipe_modPipe_self, apply_ite (getPipe · p), getPipe_incReg, ite_self]
  rfl

theorem pipeHolder_takeDue : pipeHolder (takeDue s p cut) p = pipeHolder s p := by
  refine List.find?_congr fun t ht => ?_
  have ht := List.mem_range.1 ht
  rw [regW_takeDue]
  unfold aTen fgMissed aFg
  omega

theorem suppressed_takeDue : suppressed (takeDue s p cut) p = suppressed s p := by
  unfold suppressed
  rw [pipeHolder_takeDue]
  cases pipeHolder s p with
  | none => rfl
  | some t => dsimp only; rw [getTen_takeDue]

/-- The registers of Galliard and of the display lie above those of frame generation. -/
theorem regW_gal_takeDue (o : Nat) : regW (takeDue s p cut) (aGal p o) = regW s (aGal p o) :=
  regW_takeDue s p cut (by unfold aGal fgMissed aFg; omega)

theorem regW_pipe_takeDue (o : Nat) : regW (takeDue s p cut) (aPipe p o) = regW s (aPipe p o) :=
  regW_takeDue s p cut (by unfold aPipe fgMissed aFg; omega)

theorem motionOffset_takeDue : motionOffset (takeDue s p cut) p = motionOffset s p := by
  rw [motionOffset, rField, regW_takeDue s p cut (by unfold fgMissed aFg; omega)]
  rfl

theorem presentedPlane_takeDue : presentedPlane (takeDue s p cut) p = presentedPlane s p := by
  simp only [presentedPlane, rField, regW_pipe_takeDue]

theorem planeBytes_takeDue (k : Nat) : planeBytes (takeDue s p cut) p k = planeBytes s p k := by
  simp only [planeBytes, rField, aPlane, regW_pipe_takeDue]

/-- The reason to hold is the one that stood before. -/
theorem holdReason_takeDue : holdReason (takeDue s p cut) p = holdReason s p := by
  have hf (o hi lo : Nat) : rField (takeDue s p cut) (aGal p o) hi lo = rField s (aGal p o) hi lo := by
    rw [rField, regW_gal_takeDue, rField]
  unfold holdReason
  rw [takeDue_gal, motionOffset_takeDue, presentedPlane_takeDue, planeBytes_takeDue, hf, hf]

end

/-! ## The branches of a decision -/

section
variable {s : State} {p : Nat} {a f : Frac}

/-- A buffer that is due is shown and becomes the anchor (R313). -/
theorem decideFrame_due {b : Cand} (h : dueBuffer (getPipe s p) (frMin (getPipe s p).time.deadline a) = some b) :
    (getPipe (decideFrame s p a f) p).decided = some (.show b.va b.order) ∧
      (getGal (decideFrame s p a f) p).anchor = some b.va := by
  simp only [decideFrame, h, getGal, modGal, getPipe_trace, getPipe_modPipe_self, and_self]

section
variable (h : dueBuffer (getPipe s p) (frMin (getPipe s p).time.deadline a) = none)
include h

/-- With no buffer due, the decision is Galliard's where it is enabled and not suppressed (R351, R360). -/
theorem decideFrame_noneDue :
    decideFrame s p a f =
      let u := takeDue s p (frMin (getPipe s p).time.deadline a)
      if bit (regW u (aGal p 0)) 31 && !suppressed u p then
        match holdReason u p, (getGal u p).anchor, pipeHolder u p with
        | some r, _, _ => decideAs u p 2 (.hold r)
        | none, some va, some t => extrapolate u p t va a f
        | none, _, _ => decideAs u p 2 (.hold 1)
      else decideAs u p 2 .repeat_ := by
  unfold decideFrame
  dsimp only
  rw [h]
  rfl

/-- The last image is repeated where Galliard is off or suppressed (R360). -/
theorem decideFrame_repeats (hoff : bit (regW s (aGal p 0)) 31 = false ∨ suppressed s p = true) :
    (getPipe (decideFrame s p a f) p).decided = some .repeat_ := by
  have hg : ¬ (bit (regW s (aGal p 0)) 31 && !suppressed s p) = true := by
    rcases hoff with hoff | hoff <;> simp [hoff]
  rw [decideFrame_noneDue h]
  dsimp only
  rw [regW_gal_takeDue, suppressed_takeDue, if_neg hg, decideAs_decided]

/-- Galliard holds where a reason stands (R354). -/
theorem decideFrame_holds {r : Nat} (hon : bit (regW s (aGal p 0)) 31 = true) (hs : suppressed s p = false)
    (hr : holdReason s p = some r) : (getPipe (decideFrame s p a f) p).decided = some (.hold r) := by
  have hg : (bit (regW s (aGal p 0)) 31 && !suppressed s p) = true := by simp [hon, hs]
  rw [decideFrame_noneDue h]
  dsimp only
  rw [regW_gal_takeDue, suppressed_takeDue, if_pos hg, holdReason_takeDue, hr]
  exact decideAs_decided ..

end

end

/-! ## The deadline -/

section
variable {s : State} {p : Nat} (hr : isRunning s = true)
include hr

theorem onGalliardDecision_due (hx : (getPipe s p).state = 2) (hd : (getPipe s p).decided = none)
    (ht : frLe (getPipe s p).time.deadline (pipeNow s p) = true) :
    onGalliardDecision p s = wallReady
      (decideFrame s p (getPipe s p).time.deadline ((nextStart s p).getD (getPipe s p).time.fmax)) := by
  simp [onGalliardDecision, hr, hx, hd, ht]

theorem onGalliardDecision_inactive (hx : (getPipe s p).state ≠ 2) : onGalliardDecision p s = wallReady s := by
  simp [onGalliardDecision, hr, hx]

end

end Sys2Proof.Machine
end

section
/-! Galliard's decisions: the statement about a frame at its deadline (O43). -/

namespace Sys2Proof.Machine

open Sys2Proof

/-- Settles O43: at the deadline of an active pipe the frame is decided; what is decided is the branch that the due buffer,
the registers and the reasons to hold name, none of which the count of a missed presentation changes. -/
theorem galliardDecides : Obligations.GalliardDecides := by
  refine fun p s hr => ⟨?_, ?_, fun a f => ⟨?_, ?_, ?_⟩⟩
  · exact fun hx hd ht => next_eq (onGalliardDecision_due hr hx hd ht)
  · exact fun hx => next_eq (onGalliardDecision_inactive hr hx)
  · exact fun b hb => decideFrame_due hb
  · exact fun hn hoff => decideFrame_repeats hn hoff
  · exact fun r _ _ hn hon hs hh => decideFrame_holds hn hon hs hh

end Sys2Proof.Machine
end

section
/-! The packets of a display list: what the raster front end does with the packet that it stands before (O40). -/

namespace Sys2Proof.Machine

open Sys2Proof

/-! ## A packet that passes its checks (R332, R338) -/

section
variable {s : State} {ref : CmdRef} {ty size : Nat} {q : Placed} {body : List Byte}

/-- A well-formed packet ahead has its effect, and the front end goes on behind it. -/
theorem parsePacket_ahead (h : PacketAhead s ref ty size q body) (k : Placed → RasHead → List Byte → State) :
    parsePacket ty ref s k = behindPacket (k q (rasHeadOf s q) body) ref (q.inst.ras.pos + size) := by
  obtain ⟨hr, hf, hi, he, ho, hin, hh, hk, hz, hl, hmin, hm, hfit, hrd, hb, hp⟩ := h
  have hgo : ¬ (!isRunning s || !isRun q.inst || q.cmd.spec.engine ≠ 5 || q.inst.ras.ended) = true := by
    simp [hr, hi, he, ho]
  have hsize : ¬ (0 ≠ 0 ∨ size < 8 ∨ size % 8 ≠ 0 ∨ (rasHeadOf s q).dlBytes < q.inst.ras.pos + size) := by omega
  simp only [parsePacket, hf, if_neg hgo, if_neg (Nat.not_le.2 hin), hk, hz, hl, hh, if_neg hsize, hrd, ← hb, hp]
  simp [behindPacket]

/-! ## Primitives and the bin limit (R346) -/

variable {r : RasHead} {n : Nat} {ps : List RasPrim}

theorem addPrims_fits (h : binOverflow r (ps.reverse ++ q.inst.ras.prims) = false) :
    addPrims s q r n ps = modRas s q.ref fun x =>
      { x with prims := ps.reverse ++ q.inst.ras.prims, count := x.count + n } := by
  simp [addPrims, h]

theorem addPrims_overflows (h : binOverflow r (ps.reverse ++ q.inst.ras.prims) = true) :
    addPrims s q r n ps = failStep s q.ref.loop stLimitExceeded dtBinOverflow q.ref.cmd := by
  simp [addPrims, h]

/-! ## What each packet type does (R333) -/

theorem onDlState_ahead (h : PacketAhead s ref 1 size q body) :
    onDlState ref s =
      behindPacket (modRas s ref fun x => { x with state := body }) ref (q.inst.ras.pos + size) :=
  parsePacket_ahead h _

theorem onDlTriangles_ahead (h : PacketAhead s ref 2 size q body) :
    onDlTriangles ref s = behindPacket (addPrims s q (rasHeadOf s q) (leAt body 0 4)
      ((List.range (leAt body 0 4)).map fun k =>
        triPieces (rasHeadOf s q) q.inst.ras.state body (q.inst.ras.count + k) k).flatten)
      ref (q.inst.ras.pos + size) :=
  parsePacket_ahead h _

theorem onDlRects_ahead (h : PacketAhead s ref 3 size q body) :
    onDlRects ref s = behindPacket (addPrims s q (rasHeadOf s q) (leAt body 0 4)
      ((List.range (leAt body 0 4)).map fun k =>
        rectPrim (rasHeadOf s q) q.inst.ras.state body (q.inst.ras.count + k) k))
      ref (q.inst.ras.pos + size) :=
  parsePacket_ahead h _

theorem onDlEnd_fits (h : PacketAhead s ref 4 size q body)
    (hb : binOverflow (rasHeadOf s q) q.inst.ras.prims = false) :
    onDlEnd ref s = behindPacket (modRas s ref fun x => { x with ended := true }) ref (q.inst.ras.pos + size) := by
  rw [onDlEnd, parsePacket_ahead h, hb, if_neg Bool.false_ne_true]

theorem onDlEnd_overflows (h : PacketAhead s ref 4 size q body)
    (hb : binOverflow (rasHeadOf s q) q.inst.ras.prims = true) :
    onDlEnd ref s = behindPacket (failStep s q.ref.loop stLimitExceeded dtBinOverflow q.ref.cmd) ref
      (q.inst.ras.pos + size) := by
  rw [onDlEnd, parsePacket_ahead h, if_pos hb]

theorem onDlNop_ahead (h : PacketAhead s ref 5 size q body) :
    onDlNop ref s = behindPacket s ref (q.inst.ras.pos + size) :=
  parsePacket_ahead h _

end

/-- Settles O40: a packet that passes its checks has the effect of its type before the front end goes on behind it, and
that effect is the branch that the bin limit names. -/
theorem rasterPackets : Obligations.RasterPackets := by
  refine fun s ref size q body => ⟨fun h => ?_, fun h => ⟨fun hb => ?_, fun hb => ?_⟩, fun h => ⟨fun hb => ?_, fun hb => ?_⟩,
    fun h => ⟨fun hb => ?_, fun hb => ?_⟩, fun h => ?_⟩
  · exact next_eq (onDlState_ahead h)
  · exact next_eq ((onDlTriangles_ahead h).trans (congrArg (behindPacket · ref _) (addPrims_fits hb)))
  · exact next_eq ((onDlTriangles_ahead h).trans (congrArg (behindPacket · ref _) (addPrims_overflows hb)))
  · exact next_eq ((onDlRects_ahead h).trans (congrArg (behindPacket · ref _) (addPrims_fits hb)))
  · exact next_eq ((onDlRects_ahead h).trans (congrArg (behindPacket · ref _) (addPrims_overflows hb)))
  · exact next_eq (onDlEnd_fits h hb)
  · exact next_eq (onDlEnd_overflows h hb)
  · exact next_eq (onDlNop_ahead h)

end Sys2Proof.Machine
end

section
/-! SUPPORT. CSI-2 packets at a receiver (R391, R393, R400): what becomes of a header, and one equation per case of a packet. -/

namespace Sys2Proof.Machine

open Sys2Proof

/-! ## Headers (R393) -/

/-- The receiver has seen a packet. -/
def seePacket (s : State) (r : Nat) : State := modRx s r fun x => { x with state := 3, lastPacket := s.now }

/-- The receiver has used a packet's header, and counted it where it was corrected. -/
def useHeader (s : State) (r : Nat) (h : CsiHeader) : State :=
  if decide (h = .corrected) then countRx (seePacket s r) r 24 else seePacket s r

/-- A header that was used has marked the records of the open frame where it was corrected. -/
def markHeader (s : State) (r vc : Nat) (h : CsiHeader) : State :=
  markFixed (useHeader s r h) r vc (decide (h = .corrected))

/-- A receiver takes packets while the chip runs, it is on, and it has a link. -/
structure TakesPackets (s : State) (r : Nat) : Prop where
  running : isRunning s = true
  on : rxOn s r = true
  linked : 2 ≤ (getRx s r).state

section
variable {s : State} {r : Nat} {h : CsiHeader} {k : State → Bool → State}

theorem TakesPackets.not_skipped (ht : TakesPackets s r) :
    ¬ (!isRunning s || !rxOn s r || decide ((getRx s r).state < 2)) = true := by
  simp [ht.running, ht.on, Nat.not_lt.2 ht.linked]

theorem packet_dropped (ht : TakesPackets s r) : packet s r .uncorrectable k = countRx (seePacket s r) r 16 :=
  if_neg ht.not_skipped

theorem packet_used (ht : TakesPackets s r) (hh : h ≠ .uncorrectable) :
    packet s r h k = k (useHeader s r h) (decide (h = .corrected)) := by
  cases h with
  | good => exact if_neg ht.not_skipped
  | corrected => exact if_neg ht.not_skipped
  | uncorrectable => exact absurd rfl hh

end

@[simp] theorem markFixed_unfixed (s : State) (r vc : Nat) : markFixed s r vc false = s := by
  unfold markFixed
  split <;> rfl

section
variable {s : State} {r : Nat} {h : CsiHeader} (ht : TakesPackets s r) (hh : h ≠ .uncorrectable)
include ht hh

/-! ## Frame starts -/

theorem onFrameStartCsi_used (vc n : Nat) :
    let w := useHeader s r h
    let u := (camerasOn w r vc).foldl (fun s c => loseCurrent s c hrIncomplete) w
    let v := setFrame u r vc (some { number := n, start := u.now, fixed := decide (h = .corrected) })
    onFrameStartCsi r vc n h s = ((camerasOn v r vc).filter (ctxTakes v)).foldl (fun s c => openRecord s c n) v :=
  packet_used ht hh

/-! ## Long packets (R391) -/

section
variable {vc dt wc : Nat} {data : List Byte}

/-- A type that the receiver does not store is counted. -/
theorem onCsiLong_unsupported (ok : Bool) (hp : pixelBits dt = none) :
    onCsiLong r vc dt h wc ok data s = countRx (markHeader s r vc h) r 0 := by
  rw [onCsiLong, packet_used ht hh, hp, markHeader]

variable {f : CsiFrame} (hp : (pixelBits dt).isSome = true)
include hp

/-- The first packet of a data type in its frame begins the rows of that type. -/
theorem onCsiLong_firstRow (hf : frameOf (markHeader s r vc h) r vc = some f)
    (hn : f.types.find? (fun x => x.1 = dt) = none) :
    let u := setFrame (touchSource (markHeader s r vc h) r vc dt f.start) r vc
      (some { f with types := f.types ++ [(dt, wc, 1)] })
    onCsiLong r vc dt h wc true data s = ((camerasOn u r vc).filter fun c => ctxSelect u c % 64 = dt).foldl
      (fun s c => addRow s c dt wc (storedRow dt data)) u := by
  obtain ⟨b, hb⟩ := Option.isSome_iff_exists.1 hp
  rw [onCsiLong, packet_used ht hh, hb, ← markHeader]
  simp only [if_true, hf, hn, Bool.not_true, Bool.or_false, Bool.false_eq_true, if_false]

/-- A wrong CRC is counted and spoils the frame (R393). -/
theorem onCsiLong_badCrc (hf : frameOf (countRx (markHeader s r vc h) r 8) r vc = some f) :
    onCsiLong r vc dt h wc false data s =
      spoilFrame (touchSource (countRx (markHeader s r vc h) r 8) r vc dt f.start) r vc f := by
  obtain ⟨b, hb⟩ := Option.isSome_iff_exists.1 hp
  rw [onCsiLong, packet_used ht hh, hb, ← markHeader]
  simp only [Bool.false_eq_true, if_false, hf, Bool.not_false, Bool.true_or, if_true]

end

/-! ## Frame ends -/

theorem onFrameEndCsi_noFrame {vc : Nat} (hf : frameOf (useHeader s r h) r vc = none) :
    onFrameEndCsi r vc h s = useHeader s r h := by
  rw [onFrameEndCsi, packet_used ht hh]
  simp only [hf]

/-- The sources of a frame without an error are noted, and the records of its contexts are written out. -/
theorem onFrameEndCsi_frame {vc : Nat} {f : CsiFrame} (hf : frameOf (useHeader s r h) r vc = some f) :
    let u := setFrame (useHeader s r h) r vc none
    let v := if f.bad then u else f.types.foldl (fun s x => noteSource s r vc f x) u
    onFrameEndCsi r vc h s = (camerasOn v r vc).foldl (fun s c =>
      writeRecord (modCtx s c fun x => { x with current := x.current.map fun y =>
        { y with last := tbStamp s (ctxBase s c), fixed := f.fixed || decide (h = .corrected) } }) c) v := by
  rw [onFrameEndCsi, packet_used ht hh]
  simp only [hf]

/-! ## Other packets -/

/-- Virtual channels beyond the four of a receiver are not supported: their packets are counted. -/
theorem onCsiIgnored_beyond {vcExt : Nat} (dt : Nat) (hv : 4 ≤ vcExt) :
    onCsiIgnored r vcExt dt h s = countRx (markHeader s r vcExt h) r 0 := by
  rw [onCsiIgnored, packet_used ht hh]
  exact if_pos (.inl hv)

/-- An ignored packet shows its header alone. -/
theorem onCsiIgnored_ignored {vcExt dt : Nat} (hv : vcExt < 4) (hi : ignoredType dt = true) :
    onCsiIgnored r vcExt dt h s = markHeader s r vcExt h := by
  rw [onCsiIgnored, packet_used ht hh]
  exact if_neg (by simp [hv, hi])

end

end Sys2Proof.Machine
end

section
/-! SUPPORT. Links, sources and audio ports (R394, R395, R402, R408, R409): one equation per case of a timer, a change or a
frame of samples. -/

namespace Sys2Proof.Machine

open Sys2Proof

/-! ## Events leave the sensors as they are -/

@[simp] theorem event_sens (s : State) (t op st d : Nat) (p : List Byte) : (event s t op st d p).sens = s.sens := by
  unfold event toTenant
  split
  · rw [sendMsg_sens]
  · rfl

@[simp] theorem sourceEvent_sens (s : State) (l : List Nat) (p : List Byte) : (sourceEvent s l p).sens = s.sens := by
  unfold sourceEvent
  induction (0 :: l.map (ctxTenant s)).eraseDups generalizing s with
  | nil => rfl
  | cons t r ih => rw [List.foldl_cons, ih, event_sens]

@[simp] theorem getRx_sourceEvent (s : State) (l : List Nat) (p : List Byte) (r : Nat) :
    getRx (sourceEvent s l p) r = getRx s r := by
  rw [getRx, sourceEvent_sens, ← getRx]

@[simp] theorem getRx_modRx_self (s : State) (r : Nat) (f : Receiver → Receiver) : getRx (modRx s r f) r = f (getRx s r) :=
  getRx_setRx_self ..

/-! ## Camera frames and sources (R402, R408) -/

section
variable {s : State} (hr : isRunning s = true)
include hr

theorem onFrameTimeout_late {c : Nat} {x : Record} (hc : (getCtx s c).current = some x) (hk : ctxKind s c = 1)
    (ht : x.opened + frameTicks s ≤ s.now) : onFrameTimeout c s = loseCurrent s c hrIncomplete := by
  simp [onFrameTimeout, hc, hr, hk, ht]

/-- A source that no frame has carried, nor may carry still, leaves the table with an event. -/
theorem onSourceLost_unseen {r vc dt : Nat} {q : Source}
    (hq : (getRx s r).sources.find? (fun q => q.vc = vc && q.dataType = dt) = some q)
    (ht : q.seen + lostTicks s ≤ s.now) (hm : mayCarry s r vc = false) :
    let u := modRx s r fun y => { y with sources := y.sources.filter fun z => !(z.vc = vc && z.dataType = dt) }
    onSourceLost r vc dt s = sourceEvent u ((camerasOn u r vc).filter fun c => ctxSelect s c % 64 = dt)
      (sourcePayload s 0 r 1 vc dt q.words q.rows) := by
  simp only [onSourceLost, hq]
  exact if_neg (by simp [hr, ht, hm])

/-! ## Links (R408, R409) -/

theorem onCsiLink_up {r : Nat} (mbps : Nat) (ho : rxOn s r = true) (hc : bit s.chip.clk 6 = true)
    (hx : (getRx s r).state < 2) :
    onCsiLink r true mbps s = linkChange (modRx s r fun x => { x with state := 2, mbps := mbps }) r true := by
  simp [onCsiLink, hr, ho, hc, hx]

theorem onCsiLink_down {r : Nat} (mbps : Nat) (ho : rxOn s r = true) (hx : 2 ≤ (getRx s r).state) :
    onCsiLink r false mbps s = linkChange (modRx s r fun x => { x with state := 1, mbps := 0 }) r false := by
  simp [onCsiLink, hr, ho, hx]

theorem onNoPackets_late {r : Nat} (hx : (getRx s r).state = 3) (ht : (getRx s r).lastPacket + lostTicks s ≤ s.now) :
    onNoPackets r s = modRx s r fun y => { y with state := 2 } := by
  simp [onNoPackets, hr, hx, ht]

/-! ## FIFOs (R395) -/

theorem onFifoOverflow_csi (r : Fin 12) :
    onFifoOverflow (.csi r) s = (camerasOf s r).foldl (fun s c => loseCurrent s c hrOverflow) s :=
  if_neg (by simp [hr])

theorem onFifoOverflow_tdm (p : Fin 6) :
    onFifoOverflow (.tdm p) s = (arraysOn s p).foldl (fun s c => loseCurrent s c hrOverflow) s :=
  if_neg (by simp [hr])

/-! ## Frames of samples (R394) -/

section
variable {p n : Nat} (ho : tdmOn s p = true)
include ho

theorem onTdmFrame_locked_good (w : List Word) (hz : Nat) (hx : (getTdm s p).state = 3) (hn : n = portBits s p) :
    let u := modTdm (modTdm s p fun y => { y with last := s.now, clocks := n }) p fun y => { y with hz := hz }
    onTdmFrame p n w hz s = (arraysOn u p).foldl (fun s c => addSamples s p w c) u := by
  simp [onTdmFrame, hr, ho, hx, hn]

theorem onTdmFrame_locked_wrong (w : List Word) (hz : Nat) (hx : (getTdm s p).state = 3) (hn : n ≠ portBits s p) :
    onTdmFrame p n w hz s = unlockPort (modTdm s p fun y => { y with last := s.now, clocks := n }) p := by
  simp [onTdmFrame, hr, ho, hx, hn]

theorem onTdmFrame_unlocked_locks (w : List Word) (hz : Nat) (hx : (getTdm s p).state = 2) (hn : n = portBits s p)
    (h4 : 4 ≤ (getTdm s p).run + 1) :
    onTdmFrame p n w hz s = portEvent (modTdm (modTdm s p fun y => { y with last := s.now, clocks := n }) p
      fun y => { y with state := 3, run := (getTdm s p).run + 1, hz := hz }) p 5 := by
  simp [onTdmFrame, hr, ho, hx, hn, h4]

theorem onTdmFrame_unlocked_counts (w : List Word) (hz : Nat) (hx : (getTdm s p).state = 2) (hn : n = portBits s p)
    (h4 : (getTdm s p).run + 1 < 4) :
    onTdmFrame p n w hz s = modTdm (modTdm s p fun y => { y with last := s.now, clocks := n }) p
      fun y => { y with run := (getTdm s p).run + 1 } := by
  simp [onTdmFrame, hr, ho, hx, hn, Nat.not_le.2 h4]

theorem onTdmFrame_unlocked_wrong (w : List Word) (hz : Nat) (hx : (getTdm s p).state = 2) (hn : n ≠ portBits s p) :
    onTdmFrame p n w hz s = modTdm (modTdm s p fun y => { y with last := s.now, clocks := n }) p
      fun y => { y with run := 0 } := by
  simp [onTdmFrame, hr, ho, hx, hn]

end

/-! ## Clocks of a port (R394, R408, R409) -/

section
variable {p : Nat}

theorem onTdmSync_late (hx : (getTdm s p).state = 3) (ht : twoPeriods s p = true) : onTdmSync p s = unlockPort s p := by
  simp [onTdmSync, hr, hx, ht]

theorem onBitClockLoss_unlocked (hx : (getTdm s p).state = 2) (ht : twoPeriods s p = true) :
    onBitClockLoss p s = portEvent (modTdm s p fun y => { y with state := 1, run := 0 }) p 4 := by
  simp [onBitClockLoss, hr, hx, ht]

theorem onBitClockDetected_waiting (hx : (getTdm s p).state = 1) :
    onBitClockDetected p s = portEvent (modTdm s p fun y => { y with state := 2, run := 0 }) p 3 := by
  simp [onBitClockDetected, hr, hx]

end

end

end Sys2Proof.Machine
end

section
/-! SUPPORT. Requests of the sensor group (R410, R412): one equation per request that is served. -/

namespace Sys2Proof.Machine

open Sys2Proof

variable {s : State} {rq : Req} {ss : Session}

/-- The state whose record a chunk joins: a first chunk has opened it. -/
def feedTarget (s : State) (a : SnsFeedArgs) : State :=
  if bit a.flags.toNat 0 = true then feedOpen s a.context.toNat a else s

/-- A chunk that its context's record has room for joins it, and the last one writes it out (R412). -/
theorem onSnsFeed_joins {a : SnsFeedArgs} {r : Record} (h : Served s (.snsFeed rq a) opSnsFeed rq ss)
    (hf : firstFault (feedChecks s ss.tenant a) = none)
    (hs : bit a.flags.toNat 0 = true →
      slotUsable s ss.tenant a.context.toNat (getCtx s a.context.toNat).nextSlot = true)
    (hc : bit a.flags.toNat 0 = false → continues (getCtx s a.context.toNat) a = true)
    (hr : (getCtx (feedTarget s a) a.context.toNat).current = some r)
    (hb : r.bytes + a.data.length ≤ slotRoom (feedTarget s a) a.context.toNat) :
    let c := a.context.toNat
    let u := feedTarget s a
    let v := modCtx u c fun x => { x with current := some { r with
      bytes := r.bytes + a.data.length, last := tbStamp u (ctxBase u c), data := a.data :: r.data } }
    onSnsFeed rq a s = replyOk (if bit a.flags.toNat 1 = true then writeRecord v c else v) opSnsFeed rq [] := by
  have hslot : ¬ (bit a.flags.toNat 0 && !slotUsable s ss.tenant a.context.toNat
      (getCtx s a.context.toNat).nextSlot) = true := by simpa using hs
  have hnext : ¬ (!bit a.flags.toNat 0 && !continues (getCtx s a.context.toNat) a) = true := by simpa using hc
  rw [onSnsFeed, take_served h, checked_pass hf, if_neg hslot, if_neg hnext, ← feedTarget]
  simp only [hr, if_neg (Nat.not_lt.2 hb)]

theorem onSnsScan_served (h : Served s (.snsScan rq) opSnsScan rq ss) :
    onSnsScan rq s = replyOk s opSnsScan rq (snsScanReply s) := take_served h _

end Sys2Proof.Machine
end

section
/-! Sensor inputs: the statements about CSI-2 packets (O44), sensor ports (O45) and sensor requests (O46). -/

namespace Sys2Proof.Machine

open Sys2Proof

/-- Settles O44: a header that can be used is counted where it was corrected and lets its packet take the branch that the
type, the CRC and the open frame name; an uncorrectable one is counted and drops it. -/
theorem csiPackets : Obligations.CsiPackets := by
  unfold Obligations.CsiPackets
  intro rx s hr ho hl
  have ht : TakesPackets s rx := ⟨hr, ho, hl⟩
  have hg : CsiHeader.good ≠ .uncorrectable := by decide
  have hc : CsiHeader.corrected ≠ .uncorrectable := by decide
  refine ⟨fun h hh => ⟨fun vc n => next_eq (onFrameStartCsi_used ht hh vc n.toNat), fun vc dt wc data => ⟨?_, ?_, ?_⟩,
      fun vc => ⟨?_, ?_⟩⟩, fun vc n wc dt ok data => ⟨?_, ?_, ?_⟩, fun vcExt dt => ⟨?_, fun hv => ?_, fun hv hi => ⟨?_, ?_⟩⟩⟩
  · exact fun ok hp => next_eq (onCsiLong_unsupported ht hh ok hp)
  · exact fun f hp hf hn => next_eq (onCsiLong_firstRow ht hh hp hf hn)
  · exact fun f hp hf => next_eq (onCsiLong_badCrc ht hh hp hf)
  · exact fun hf => next_eq (onFrameEndCsi_noFrame ht hh hf)
  · exact fun f hf => next_eq (onFrameEndCsi_frame ht hh hf)
  · exact next_eq (packet_dropped ht)
  · exact next_eq (packet_dropped ht)
  · exact next_eq (packet_dropped ht)
  · exact next_eq (packet_dropped ht)
  · exact next_eq ((onCsiIgnored_beyond ht hg _ hv).trans (congrArg (countRx · _ 0) (markFixed_unfixed ..)))
  · exact next_eq ((onCsiIgnored_ignored ht hg hv hi).trans (markFixed_unfixed ..))
  · exact next_eq (onCsiIgnored_ignored ht hc hv hi)

/-- Settles O45: each timer, change and frame of samples is the branch of its operation that the link's or the port's state
and the clock name; the event of a lost source leaves the table as the loss has left it. -/
theorem sensorPorts : Obligations.SensorPorts := by
  unfold Obligations.SensorPorts
  refine ⟨⟨fun c s r hr hc hk ht => next_eq (onFrameTimeout_late hr hc hk ht), fun rx vc dt s q hr hq ht hm => ?_,
      fun rx mbps s hr ho hc hx => next_eq (onCsiLink_up hr _ ho hc hx),
      fun rx mbps s hr ho hx => next_eq (onCsiLink_down hr _ ho hx),
      fun rx s hr hx ht => next_eq (onNoPackets_late hr hx ht), fun rx s hr => next_eq (onFifoOverflow_csi hr rx),
      fun p s hr => next_eq (onFifoOverflow_tdm hr p)⟩,
    fun p s hr => ⟨fun n w hz ho _ => ⟨?_, ?_, ?_, ?_, ?_⟩, ?_, ?_, ?_⟩⟩
  · refine ⟨_, next_eq (onSourceLost_unseen hr hq ht hm), fun z hz => ?_, rfl⟩
    rw [getRx_sourceEvent, getRx_modRx_self, List.mem_filter] at hz
    rintro ⟨hv, hd⟩
    simp [hv, hd] at hz
  · exact fun hx hn => next_eq (onTdmFrame_locked_good hr ho w hz hx hn)
  · exact fun hx hn => next_eq (onTdmFrame_locked_wrong hr ho w hz hx hn)
  · exact fun hx hn h4 => next_eq (onTdmFrame_unlocked_locks hr ho w hz hx hn h4)
  · exact fun hx hn h4 => next_eq (onTdmFrame_unlocked_counts hr ho w hz hx hn h4)
  · exact fun hx hn => next_eq (onTdmFrame_unlocked_wrong hr ho w hz hx hn)
  · exact fun hx ht => next_eq (onTdmSync_late hr hx ht)
  · exact fun hx ht => next_eq (onBitClockLoss_unlocked hr hx ht)
  · exact fun hx => next_eq (onBitClockDetected_waiting hr hx)

/-- Settles O46: a chunk that passes its checks joins the record it opens or continues, and a scan replies. -/
theorem sensorRequests : Obligations.SensorRequests := by
  unfold Obligations.SensorRequests
  exact ⟨fun rq a s₀ ss h hf hs hc _ hr hb => next_eq (onSnsFeed_joins h hf hs hc hr hb),
    fun rq s₀ ss h => next_eq (onSnsScan_served h)⟩

end Sys2Proof.Machine
end

section
/-! SUPPORT. What a walk over a list keeps. -/

namespace Sys2Proof.Machine

/-- What each of a list's steps keeps, the list keeps. -/
theorem foldl_keeps {α β : Type} (g : State → β) {f : State → α → State} (h : ∀ s x, g (f s x) = g s) (l : List α) (s : State) :
    g (l.foldl f s) = g s := by
  induction l generalizing s with
  | nil => rfl
  | cons x r ih => rw [List.foldl_cons, ih, h]

end Sys2Proof.Machine
end

section
/-! SUPPORT. Requests of decode streams that are served (R416, R418, R419): one equation per request. -/

namespace Sys2Proof.Machine

open Sys2Proof

variable {s : State} {rq : Req} {ss : Session}

/-- A stream opens in the lowest place that is free (R416). -/
theorem onDecOpen_served {a : DecOpenArgs} {i : Nat} (h : Served s (.decOpen rq a) opDecOpen rq ss)
    (h0 : a.reserved0 = 0) (h1 : a.reserved1 = 0) (hf : decFieldsOk a = true)
    (hr : decRegionsOk s ss.tenant { tenant := ss.tenant, args := a } = true) (hi : freeStream s = some i) :
    onDecOpen rq a s =
      replyOk (setStream s i { tenant := ss.tenant, args := a }) opDecOpen rq (by1 i ++ zeros 3) := by
  rw [onDecOpen, take_served h, checked_pass (by simp [firstFault_eq_none, h0, h1, hf, hr, hi])]
  simp only [hi]

section
variable {a : DecPushArgs} {x : Stream} (h : Served s (.decPush rq a) opDecPush rq ss)
  (hx : isStreamOf s ss.tenant a.stream.toNat = some x) (h0 : a.reserved0 = 0) (h1 : a.reserved1 = 0)
  (hf : a.flags.toNat < 2) (he : x.endPushed = false)
  (hb : x.pushed - x.consumed + a.bytes.toNat ≤ ringBytes x)
include h hx h0 h1 hf he hb

/-- Bytes of the ring are made known (R418). -/
theorem onDecPush_more (ha : a.flags = 0) :
    let y := parse s { x with pushed := x.pushed + a.bytes.toNat }
    onDecPush rq a s = deliverAll (replyOk (setStream s a.stream.toNat y) opDecPush rq (le8 y.pushed ++ le8 y.consumed))
      a.stream.toNat := by
  rw [onDecPush, take_served h]
  simp only [hx]
  rw [checked_pass (by simp [firstFault_eq_none, h0, h1, hf, he, hb]), if_pos ha]
  rfl

/-- The last bytes of a stream are made known: the request completes when the stream is done (R418). -/
theorem onDecPush_last (ha : a.flags = 1) (hc : asyncCount s ss.tenant rq.session.toNat < 4096) :
    let y := parse s { x with pushed := x.pushed + a.bytes.toNat }
    onDecPush rq a s = deliverAll
      (setStream (answered s opDecPush rq ss.tenant stAccepted (le8 y.pushed ++ le8 y.consumed)) a.stream.toNat
        { y with endPushed := true, ending := some (asyncOf opDecPush rq), state := if y.state = 1 then 2 else y.state })
      a.stream.toNat := by
  have hn : ¬ a.flags = 0 := by rw [ha]; decide
  rw [onDecPush, take_served h]
  simp only [hx]
  rw [checked_pass (by simp [firstFault_eq_none, h0, h1, hf, he, hb]), if_neg hn, accept_pass hc]
  rfl

end

/-- A stream closes: a push that waits for its end is aborted, and its records go (R419). -/
theorem onDecClose_served {id : Byte} {x : Stream} (h : Served s (.decClose rq id 0) opDecClose rq ss)
    (hx : isStreamOf s ss.tenant id.toNat = some x) (hc : asyncCount s ss.tenant rq.session.toNat < 4096) :
    let u := answered s opDecClose rq ss.tenant stAccepted []
    let v := match x.ending with | some a => complete u ss.tenant a stAborted 0 [] | none => u
    onDecClose rq id 0 s = closeDone (setStream v id.toNat
      { x with state := 5, records := [], ending := none, closing := some (asyncOf opDecClose rq) }) id.toNat := by
  rw [onDecClose, take_served h]
  simp only [hx]
  rw [checked_pass (by simp [firstFault_eq_none]), accept_pass hc]
  rfl

end Sys2Proof.Machine
end

section
/-! SUPPORT. Records and the lanes that decode them (R424 to R427, R434, R435): one equation per outcome. -/

namespace Sys2Proof.Machine

open Sys2Proof

/-! ## A record on a lane -/

/-- A lane that has taken a record, before its claims are checked (R425, R426). -/
def laneTakes (s : State) (l t id : Nat) (x : Stream) (r : DecRecord) : State :=
  modRecord (setLane { s with dec := { s.dec with
      lastTenant := t, lastStream := tabSet s.dec.lastStream t id } } l { getLane s l with job := some (id, r.start) })
    id r.start fun y => { y with
      lane := some l
      started := tbNs s 0
      budget := 1000000 * rField s (aDecTenant t) 31 22
      width := (claimsOf r.codec (payloadOf r (recordBytes s x r))).size.1
      height := (claimsOf r.codec (payloadOf r (recordBytes s x r))).size.2 }

/-- The checks of what a record claims, in a lane that has taken it (R425). -/
def laneChecks (v : State) (l : Nat) (x : Stream) (r : DecRecord) (bytes : List Byte) : State :=
  match recordBad v x r with
  | some va => eccLane v l va
  | none =>
    match claimFault v x r bytes (claimsOf r.codec (payloadOf r bytes)) with
    | none => v
    | some (status, detail) =>
      endLane (if limitDetail detail then incReg v aDecLimits 1 cap32 else v) l status detail false

/-- What the codec makes of a record on a lane (R428, R429). -/
def recordImage (s : State) (x : Stream) (r : DecRecord) : Option Picture :=
  if r.codec = 1 then jpegDecode (payloadOf r (recordBytes s x r)) else pngDecode (payloadOf r (recordBytes s x r))

section
variable {v : State} {l : Nat} {x : Stream} {r : DecRecord} {bytes : List Byte}

theorem laneChecks_spoilt {va : Nat} (hb : recordBad v x r = some va) : laneChecks v l x r bytes = eccLane v l va := by
  simp only [laneChecks, hb]

theorem laneChecks_pass (hb : recordBad v x r = none)
    (hc : claimFault v x r bytes (claimsOf r.codec (payloadOf r bytes)) = none) : laneChecks v l x r bytes = v := by
  simp only [laneChecks, hb, hc]

theorem laneChecks_refuse {e : Nat × Nat} (hb : recordBad v x r = none)
    (hc : claimFault v x r bytes (claimsOf r.codec (payloadOf r bytes)) = some e) : laneChecks v l x r bytes =
      endLane (if limitDetail e.2 then incReg v aDecLimits 1 cap32 else v) l e.1 e.2 false := by
  simp only [laneChecks, hb, hc]

end

/-! ## What a lane does -/

variable {s : State} (hr : isRunning s = true)
include hr

/-- The next record takes the stream's next slot; one that cannot be read is done at once (R424). -/
theorem onRecordDispatch_dispatches {id k : Nat} {x : Stream} {r : DecRecord} (hx : getStream s id = some x)
    (hk : x.records.findIdx? (fun r => !r.dispatched) = some k) (hg : x.records[k]? = some r) (h5 : x.state ≠ 5)
    (hm : mayDispatch s x k r = true) :
    onRecordDispatch id s = deliverAll (setStream s id { x with
      records := x.records.set k { r with
        dispatched := true
        slot := x.nextSlot
        done := if r.bad then some (stBadParam, dtRecordFormat) else none }
      nextSlot := (x.nextSlot + 1) % max 1 x.args.outSlots.toNat }) id := by
  simp [onRecordDispatch, hx, hk, hg, hr, h5, hm]

/-- An idle lane takes the record whose turn it is, and then checks what the record claims. -/
theorem onLaneStart_takes {l t id : Nat} {x : Stream} {r : DecRecord} (hj : (getLane s l).job = none)
    (hp : (getLane s l).func.phase = .enabled) (ht : pickStream s = some (t, id)) (hx : getStream s id = some x)
    (hw : waitingRecord x = some r) :
    onLaneStart l s = laneChecks (laneTakes s l t id x r) l x r (recordBytes s x r) := by
  have idle : ¬ (!isRunning s || (getLane s l).job.isSome || decide ((getLane s l).func.phase ≠ .enabled)) = true := by
    simp [hr, hj, hp]
  simp only [onLaneStart, if_neg idle, ht, hx, hw]
  rfl

section
variable {l id : Nat} {x : Stream} {r : DecRecord} (hl : laneRecord s l = some (id, x, r))
include hl

/-- Data that an uncorrectable error touches ends the record with an event (R435). -/
theorem onDecodeFinish_spoilt {va : Nat} (hb : recordBad s x r = some va) : onDecodeFinish l s = eccLane s l va := by
  simp [onDecodeFinish, hr, hl, hb]

/-- Data that breaks the codec's rules ends the record. -/
theorem onDecodeFinish_corrupt (hb : recordBad s x r = none) (hi : recordImage s x r = none) :
    onDecodeFinish l s = endLane s l stBadParam dtDataCorrupt false := by
  rw [recordImage] at hi
  simp only [onDecodeFinish, hr, hl, hb, hi]
  rfl

/-- The image is stored in the record's slot, row by row (R431, R434). -/
theorem onDecodeFinish_lands {m : Picture} (hb : recordBad s x r = none) (hi : recordImage s x r = some m) :
    let a := augOf x r (blockOf r (recordBytes s x r)) m.width m.height
    let z := augSize a m.width m.height
    onDecodeFinish l s = endLane (modRecord
      ((imageRows x m a).foldl (fun s p => storeBytes s x.tenant (outSlotVa x r.slot + p.1) p.2) s) id r.start
      fun r => { r with width := z.1, height := z.2, channels := m.channels, ops := a.ops, seeded := a.seeded })
      l stOk 0 false := by
  rw [recordImage] at hi
  simp only [onDecodeFinish, hr, hl, hb, hi]
  rfl

/-- A budget runs out (R427). -/
theorem onBudgetTimeout_out (ht : r.started + r.budget ≤ tbNs s 0) :
    onBudgetTimeout l s = endLane (incReg s aDecTimeouts 1 cap32) l stTimeout 0 false := by
  simp [onBudgetTimeout, hr, hl, ht]

end

end Sys2Proof.Machine
end

section
/-! Data decode: the statements about requests (O47) and about records and lanes (O48). -/

namespace Sys2Proof.Machine

open Sys2Proof

/-- Settles O47: each request that is served is the equation of its operation. -/
theorem decodeRequests : Obligations.DecodeRequests := by
  unfold Obligations.DecodeRequests
  exact ⟨fun rq a s₀ ss i h h0 h1 hf hr hi => next_eq (onDecOpen_served h h0 h1 hf hr hi),
    fun rq a s₀ ss x h hx h0 h1 hf he hb => ⟨fun ha => next_eq (onDecPush_more h hx h0 h1 hf he hb ha),
      fun ha hc => next_eq (onDecPush_last h hx h0 h1 hf he hb ha hc)⟩,
    fun rq id s₀ ss x h hx hc => next_eq (onDecClose_served h hx hc)⟩

/-- Settles O48: a dispatch, a start, a finish and a budget that has run out are each the branch of their operation that
the record, its memory and its claims name. -/
theorem decodeLanes : Obligations.DecodeLanes := by
  unfold Obligations.DecodeLanes
  refine ⟨fun id s x k r hr hx hk hg h5 hm => next_eq (onRecordDispatch_dispatches hr hx hk hg h5 hm),
    fun l s t id x r hr hj hp ht hx hw => ⟨fun va hb => ?_, fun hb hc => ?_, fun e hb hc => ?_⟩,
    fun l s id x r hr hl => ⟨fun va hb => ?_, fun hb hi => ?_, fun m hb hi => ?_, fun ht => ?_⟩⟩
  · exact next_eq ((onLaneStart_takes hr hj hp ht hx hw).trans (laneChecks_spoilt hb))
  · exact next_eq ((onLaneStart_takes hr hj hp ht hx hw).trans (laneChecks_pass hb hc))
  · exact next_eq ((onLaneStart_takes hr hj hp ht hx hw).trans (laneChecks_refuse hb hc))
  · exact next_eq (onDecodeFinish_spoilt hr hl hb)
  · exact next_eq (onDecodeFinish_corrupt hr hl hb hi)
  · exact next_eq (onDecodeFinish_lands hr hl hb hi)
  · exact next_eq (onBudgetTimeout_out hr hl ht)

end Sys2Proof.Machine
end

section
/-! SUPPORT. Frame starts, tearing-effect edges and lines of a display pipe (R451, R456, R459): one equation per outcome. -/

namespace Sys2Proof.Machine

open Sys2Proof

/-! ## Lines that leave (R447): a line is no Ethernet frame, and goes at once -/

/-- A line leaves the memory, the registers and the pipes as they are: it goes out as pixels or, where the output
compresses, as free bytes. -/
theorem sendLine_effect (s : State) (p n : Nat) (l : List Nat) :
    (sendLine s p n l).disp = s.disp ∧ (sendLine s p n l).hbm = s.hbm ∧ (sendLine s p n l).regs = s.regs ∧
    (bit (regW s (aPipe p 8)) 0 = false → (sendLine s p n l).sent = .line p n (portOf s p) l :: s.sent) ∧
    (bit (regW s (aPipe p 8)) 0 = true → (sendLine s p n l).sent =
      .dscLine p n (portOf s p) (fit (dscLineBytes (regW s) p) (Config.freeBytes s.fresh)) :: s.sent ∧
      (sendLine s p n l).fresh = s.fresh + 1) := by
  cases hd : bit (regW s (aPipe p 8)) 0 with
  | false =>
    have plain : sendLine s p n l = { s with sent := .line p n (portOf s p) l :: s.sent } := if_neg (by simp [hd])
    rw [plain]
    exact ⟨rfl, rfl, rfl, fun _ => rfl, nofun⟩
  | true =>
    have packed : sendLine s p n l = draw { s with
        sent := .dscLine p n (portOf s p) (fit (dscLineBytes (regW s) p) (Config.freeBytes s.fresh)) :: s.sent } := if_pos hd
    rw [packed]
    exact ⟨rfl, rfl, rfl, nofun, fun _ => ⟨rfl, rfl⟩⟩

/-! ## A pipe of a running chip -/

variable {s : State} (hr : isRunning s = true)
include hr

theorem onFrameStart_timed {p : Nat} {f : Frac} (ho : pipeOn s p = true) (hn : nextStart s p = some f) :
    onFrameStart p s = if frLe f (pipeNow s p) = true then startFrame s p f else s := by
  simp [onFrameStart, hr, ho, hn]

/-- An edge that counts sets the next frame start, where none stands (R456). -/
theorem onTeEdge_counts {u p : Nat} {rising : Bool} (hp : tePipe s u = some p)
    (hb : rising ≠ bit (regW s (aPipe p 0x2C)) 0) (ha : teAccepted s p (pipeNow s p) = true)
    (hl : (getTx s (4 + u)).teLost = false) (h2 : (getPipe s p).state ≠ 2) :
    onTeEdge u rising s = modPipe s p fun y => { y with time := { y.time with
      teEdges := keptEdges y.time.last (teDelay s p) (pipeNow s p :: y.time.teEdges)
      next := some (y.time.next.getD (frAdd (pipeNow s p) (teDelay s p))) } } := by
  have counts : ¬ (!isRunning s || decide (rising = bit (regW s (aPipe p 0x2C)) 0) || !teAccepted s p (pipeNow s p)) =
      true := by
    simp [hr, hb, ha]
  simp only [onTeEdge, hp, if_neg counts]
  simp [hl, h2]

/-- A panel that gives no edge in one and a half periods is driven on time from then on (R456). -/
theorem onTeTimeout_late {p : Nat} (ho : pipeOn s p = true) (hm : syncMode s p = 2) (hn : (getPipe s p).time.next = none)
    (hl : (getTx s (pipeTx s p)).teLost = false)
    (ht : frLe (frAdd ((getPipe s p).time.teEdges.headD (getPipe s p).time.last)
      (fr ((timing s p).period.num * 3) ((timing s p).period.den * 2))) (pipeNow s p) = true) :
    let limit := frAdd ((getPipe s p).time.teEdges.headD (getPipe s p).time.last)
      (fr ((timing s p).period.num * 3) ((timing s p).period.den * 2))
    let v := modPipe (dspErr s p 4) p fun y => { y with time := { y.time with next := some (frAdd limit (teDelay s p)) } }
    onTeTimeout p s =
      linkEvent (setTx v (pipeTx s p) { getTx v (pipeTx s p) with teLost := true }) (pipeTx s p) 5 p := by
  refine if_pos ?_
  simpa only [hr, ho, hm, hn, hl, Option.isNone_none, decide_true, Bool.not_false, Bool.and_self, Bool.true_and] using ht

/-- A line whose planes leave nothing behind is composed and goes out (R459). -/
theorem onLineStart_sends {p : Nat} {fetch : List LineFetch} (ho : pipeOn s p = true)
    (hl : (getPipe s p).line < (timing s p).vactive) (hf : regW s (aPipe p 0x4C) ≠ 0)
    (ht : frLt (pipeNow s p) (frAdd (getPipe s p).time.last (frScale (timing s p).line (getPipe s p).line)) = false)
    (hq : (composeLine s p (getPipe s p).line fetch).2 = []) (hc : (getPipe s p).carried = true) :
    onLineStart p fetch s =
      sendLine (modPipe s p fun y => { y with line := (getPipe s p).line + 1, prevLines := [] }) p (getPipe s p).line
        ((composeLine s p (getPipe s p).line fetch).1.map (sentPixel (bit (regW s (aPipe p 8)) 1))) := by
  have due : ¬ (!isRunning s || !pipeOn s p || decide ((timing s p).vactive ≤ (getPipe s p).line) ||
      decide (regW s (aPipe p 0x4C) = 0) ||
      frLt (pipeNow s p) (frAdd (getPipe s p).time.last (frScale (timing s p).line (getPipe s p).line))) = true := by
    simp [hr, ho, hl, hf, ht]
  simp only [onLineStart, if_neg due, hq, hc, if_true]
  rfl

end Sys2Proof.Machine
end

section
/-! SUPPORT. DisplayPort links that train (R445, R473, R542): one equation per outcome. -/

namespace Sys2Proof.Machine

open Sys2Proof

variable {s : State} {x : Nat}

section
variable (hr : isRunning s = true)
include hr

theorem onHpdChange_plugged (c : SinkCaps) : onHpdChange x (some c) s =
    stampTx s (startTraining (linkEvent (setTx s x { getTx s x with hpd := true, sink := some c }) x 0 0xFF) x) x := by
  simp [onHpdChange, hr]

theorem onHpdChange_unplugged (hh : (getTx s x).hpd = true) : onHpdChange x none s =
    stampTx s (linkEvent (loseLink (setTx s x { getTx s x with
      hpd := false, sink := none, training := false, trained := none, failed := false, idle := [] }) x) x 1 0xFF) x := by
  simp [onHpdChange, hr, hh]

theorem onIrqHpd_lost (ht : (getTx s x).trained.isSome = true) :
    onIrqHpd x true s = stampTx s (startTraining (linkEvent (loseLink s x) x 4 0xFF) x) x := by
  simp [onIrqHpd, hr, ht]

section
variable (ht : (getTx s x).training = true) (hp : restarting s 4 = false)
include ht hp

/-- A result within what register and sink allow, under a locked reference, is the link's rate and lanes. -/
theorem onLinkTrainingDone_trained {r : Fin 4} {n : Fin 3} (hc : bit s.chip.clk 4 = true)
    (ho : resultPossible s x r n = true) : onLinkTrainingDone x (.trained r n) s =
      refreshIdle (stampTx s (linkEvent (setTx s x { getTx s x with
        training := false, trained := some (r.val, n.val) }) x 2 0xFF) x) x := by
  simp [onLinkTrainingDone, hr, ht, hp, hc, ho]

theorem onLinkTrainingDone_failed : onLinkTrainingDone x .failed s =
    stampTx s (linkEvent (setTx s x { getTx s x with training := false, failed := true }) x 3 0xFF) x := by
  simp [onLinkTrainingDone, hr, ht, hp]

end

end

theorem onIrqHpd_kept : onIrqHpd x false s = s := by simp [onIrqHpd]

/-- Training waits while the display processor restarts (R542). -/
theorem onLinkTrainingDone_waits (r : TrainResult) (hp : restarting s 4 = true) : onLinkTrainingDone x r s = s := by
  simp [onLinkTrainingDone, hp]

end Sys2Proof.Machine
end

section
/-! Display: the statements about pipes (O49) and about DisplayPort links (O50). -/

namespace Sys2Proof.Machine

open Sys2Proof

/-- Settles O49: a frame start, an edge and a timeout are each the branch that the pipe's time names; a line leaves as
pixels or, where the output compresses, as the bytes of its rate. -/
theorem displayPipes : Obligations.DisplayPipes := by
  unfold Obligations.DisplayPipes
  refine ⟨fun p s f hr ho hn => ⟨fun ht => ?_, fun ht => ?_⟩,
    fun u rising s p hr hp hb ha hl h2 => next_eq (onTeEdge_counts hr hp hb ha hl h2),
    fun p s hr ho hm hn hl ht => next_eq (onTeTimeout_late hr ho hm hn hl ht),
    fun p fetch s hr ho hl hf ht hq hc => ⟨_, next_eq (onLineStart_sends hr ho hl hf ht hq hc), ?_⟩⟩
  · exact next_eq ((onFrameStart_timed hr ho hn).trans (if_pos ht))
  · exact next_eq ((onFrameStart_timed hr ho hn).trans (if_neg (by simp [ht])))
  obtain ⟨hd, hrest⟩ := sendLine_effect (modPipe s p fun y => { y with line := (getPipe s p).line + 1, prevLines := [] }) p
    (getPipe s p).line ((composeLine s p (getPipe s p).line fetch).1.map (sentPixel (bit (regW s (aPipe p 8)) 1)))
  refine ⟨?_, hrest⟩
  rw [getPipe, hd]
  exact congrArg Pipe.line (getPipe_modPipe_self ..)

/-- Settles O50: each change and each result of a training is the branch that the transmitter's state names. -/
theorem displayLinks : Obligations.DisplayLinks := by
  unfold Obligations.DisplayLinks
  exact fun x s hr => ⟨fun c => next_eq (onHpdChange_plugged hr c), fun hh => next_eq (onHpdChange_unplugged hr hh),
    fun ht => next_eq (onIrqHpd_lost hr ht), next_eq onIrqHpd_kept,
    fun r n ht hp hc ho => next_eq (onLinkTrainingDone_trained hr ht hp hc ho),
    fun ht hp => next_eq (onLinkTrainingDone_failed hr ht hp), fun r hp => next_eq (onLinkTrainingDone_waits r hp)⟩

end Sys2Proof.Machine
end

section
/-! SUPPORT. What passes with one PERI cycle (R41, R497). -/

namespace Sys2Proof.Machine

open Sys2Proof

/-- The state one PERI cycle later: a running chip's four time bases have advanced (R497). -/
def cycleLater (s : State) : State :=
  { s with now := s.now + 1, net := { s.net with bases := (List.range 4).map fun b => (b, advance (getBase s b)) } }

theorem passCycle_running {s : State} (h : isRunning s = true) : passCycle s = drainPorts (cycleLater s) := if_pos h

theorem passCycle_stopped {s : State} (h : isRunning s = false) : passCycle s = { s with now := s.now + 1 } :=
  if_neg (by simp [h])

/-- Where no frame waits at any port, none leaves. -/
theorem drainPorts_empty {s : State} (h : ∀ p, (getEgress s p).queue = []) : drainPorts s = s := by
  have port (p : Nat) : drainPort s p = s := if_pos (h p)
  simp [drainPorts, port]

end Sys2Proof.Machine
end

section
/-! SUPPORT. gPTP at a port (R486, R487, R494, R496, R500, R502): what its frames carry as they leave, and one equation per
message and timer that counts. -/

namespace Sys2Proof.Machine

open Sys2Proof

/-! ## What gPTP keeps at a port leaves its frames and instants alone -/

section
variable (s : State) (p : Nat) (f : GptpPort → GptpPort)

theorem getPort_modGptp_self : getPort (modGptp s p f) p = { getPort s p with gptp := f (getPort s p).gptp } :=
  tabGet_tabSet_self ..

theorem paced_modGptp : paced (modGptp s p f) p = paced s p := by
  rw [paced, getPort_modGptp_self]
  rfl

theorem txInstant_modGptp : txInstant (modGptp s p f) p = txInstant s p := by
  rw [txInstant, txDelay, getPort_modGptp_self]
  rfl

end

variable {s : State} {p : Nat}

theorem link_of_gptpOn (h : gptpOn s p = true) : (getPort s p).link = true := by
  simp only [gptpOn, Bool.and_eq_true] at h
  exact h.1.1.2

/-- A gPTP frame whose port is up and paces nothing leaves at once, with what follows it (R494). -/
theorem out_gptp {kind : Nat} {l : List Int} (hl : (getPort s p).link = true) (hg : paced s p = false) :
    out s (.gptp p kind l) = (depart s (.gptp p kind l)).2.foldl (fun s o => (depart s o).1) (depart s (.gptp p kind l)).1 := by
  simp [out, muted, ethFrame, hl, hg]

/-- The transmit instant as a Sync or its Follow_Up brings it: whole ns, and the rest in 2^-16 ns. -/
def originStamp (t : Frac) : List Int := [frFloor t, toScaled (frSub t (frOf (frFloor t)))]

section
variable (hl : (getPort s p).link = true) (hg : paced s p = false)
include hl hg

theorem out_sync_oneStep (d seq : Int) :
    (out s (.gptp p 0 [d, seq, 1])).sent = .gptp p 0 ([d, seq, 1] ++ originStamp (txInstant s p)) :: s.sent := by
  rw [out_gptp hl hg]
  rfl

theorem out_sync_twoStep (d seq : Int) : (out s (.gptp p 0 [d, seq, 0])).sent =
    .gptp p 1 ([d, seq] ++ originStamp (txInstant s p)) :: .gptp p 0 [d, seq, 0] :: s.sent := by
  rw [out_gptp hl hg]
  rfl

/-- A delay request keeps the instant at which it leaves. -/
theorem out_pdelayReq (l : List Int) : (out s (.gptp p 2 l)).sent = .gptp p 2 l :: s.sent ∧
    (getPort (out s (.gptp p 2 l)) p).gptp.pdelaySent = some (txInstant s p) := by
  rw [out_gptp hl hg]
  exact ⟨rfl, congrArg (fun x => x.gptp.pdelaySent)
    (getPort_modGptp_self s p fun g => { g with pdelaySent := some (txInstant s p) })⟩

/-- The answer to a delay request is followed by the instant at which it leaves. -/
theorem out_pdelayResp (source seq t : Int) : (out s (.gptp p 3 [source, seq, t])).sent =
    .gptp p 4 [source, seq, toScaled (txInstant s p)] :: .gptp p 3 [source, seq, t] :: s.sent := by
  rw [out_gptp hl hg]
  rfl

theorem out_announce (l : List Int) : (out s (.gptp p 5 l)).sent = .gptp p 5 l :: s.sent := by
  rw [out_gptp hl hg]
  rfl

end

/-! ## Messages -/

section
variable {m : SyncMsg} (hm : fromMaster s p m.source = true) (hd : domainOk s p m.domain = true)
include hm hd

/-- A two-step Sync of the master waits for its Follow_Up. -/
theorem onSync_twoStep (h : m.twoStep = true) :
    onSync p m s = modGptp (modBase s (ptpBase s p) fun x => { x with lastSync := s.now }) p fun g =>
      { g with pending := some m } := by
  simp [onSync, hm, hd, h]

theorem onSync_oneStep (h : m.twoStep = false) :
    onSync p m s = useSync (modGptp (modBase s (ptpBase s p) fun x => { x with lastSync := s.now }) p fun g =>
      { g with pending := none }) p m m.origin m.correction m.rateRatio := by
  simp [onSync, hm, hd, h]

end

/-- The Follow_Up of the Sync that waits for it. -/
theorem onFollowUp_awaited {m : FollowUpMsg} {y : SyncMsg} (hy : (getPort s p).gptp.pending = some y)
    (hm : fromMaster s p m.source = true) (hd : domainOk s p m.domain = true) (hs : y.source = m.source)
    (hq : y.sequence = m.sequence) :
    onFollowUp p m s = useSync (modGptp s p fun g => { g with pending := none }) p y m.origin m.correction m.rateRatio := by
  simp [onFollowUp, hy, hm, hd, hs, hq]

section
variable (hg : gptpOn s p = true) (ht : timeRuns s = true)
include hg ht

theorem onPdelayReq_answers (m : PdelayReqMsg) :
    onPdelayReq p m s = out s (.gptp p 3 [m.source.toNat, m.sequence.toNat, toScaled (rxInstant s p m.macStamp)]) := by
  simp [onPdelayReq, hg, ht]

/-- The response to the port's last request gives its delay. -/
theorem onPdelayResp_awaited {m : PdelayRespMsg} {t1 : Frac} (h1 : (getPort s p).gptp.pdelaySent = some t1)
    (hq : m.sequence.toNat = (getPort s p).gptp.pdelaySeq) :
    onPdelayResp p m s = reselect (modGptp (draw s) p fun g => { g with
      delay := some (meanDelay t1 (scaled m.receipt) (scaled m.transmit) (rxInstant s p m.macStamp)
        (Config.neighbourRate s.fresh))
      pdelaySent := none }) (ptpBase s p) := by
  simp [onPdelayResp, h1, hg, ht, hq]

/-- The first Announce at a port is the best one. -/
theorem onAnnounce_first {m : AnnounceMsg} (hd : domainOk s p m.domain = true) (hq : qualified m = true)
    (hb : (getPort s p).gptp.best = none) : onAnnounce p m s =
      reselect (modGptp s p fun g => { g with best := some m, bestSeen := s.now }) (ptpBase s p) := by
  simp [onAnnounce, hg, ht, hd, hq, hb]

/-! ## Timers -/

theorem onSyncInterval_due (h2 : (getPort s p).gptp.role = 2) (h5 : (getBase s (ptpBase s p)).state = 5)
    (hn : (getPort s p).gptp.syncDue ≤ s.now) : onSyncInterval p s =
      out (modGptp s p fun g => { g with
          syncSeq := ((getPort s p).gptp.syncSeq + 1) % 65536, syncDue := s.now + logTicks (logSync s p) })
        (.gptp p 0 [(timCfg s (ptpBase s p) 30 24 : Nat), (((getPort s p).gptp.syncSeq + 1) % 65536 : Nat),
          (portCfg s p 25 25 : Nat)]) := by
  have due : ¬ (!gptpOn s p || !timeRuns s || decide ((getPort s p).gptp.role ≠ 2) ||
      decide ((getBase s (ptpBase s p)).state ≠ 5) || decide (s.now < (getPort s p).gptp.syncDue)) = true := by
    simp [hg, ht, h2, h5, hn]
  exact if_neg due

theorem onPdelayInterval_due (hn : (getPort s p).gptp.pdelayDue ≤ s.now) : onPdelayInterval p s =
    out (modGptp s p fun g => { g with
        pdelaySeq := ((getPort s p).gptp.pdelaySeq + 1) % 65536
        pdelaySent := none
        pdelayDue := s.now + logTicks (logPdelay s p) })
      (.gptp p 2 [(((getPort s p).gptp.pdelaySeq + 1) % 65536 : Nat)]) := by
  have due : ¬ (!gptpOn s p || !timeRuns s || decide (s.now < (getPort s p).gptp.pdelayDue)) = true := by
    simp [hg, ht, hn]
  exact if_neg due

theorem onAnnounceInterval_due (h2 : (getPort s p).gptp.role = 2) (hn : (getPort s p).gptp.announceDue ≤ s.now) :
    onAnnounceInterval p s =
      out (modGptp s p fun g => { g with
          announceSeq := ((getPort s p).gptp.announceSeq + 1) % 65536, announceDue := s.now + secTicks })
        (.gptp p 5 [timCfg s (ptpBase s p) 30 24, (((getPort s p).gptp.announceSeq + 1) % 65536 : Nat),
          timCfg s (ptpBase s p) 23 16, 248, 0xFE, 0x4E5D, timCfg s (ptpBase s p) 15 8, ownClock, 0]) := by
  have due : ¬ (!gptpOn s p || !timeRuns s || decide ((getPort s p).gptp.role ≠ 2) ||
      decide (s.now < (getPort s p).gptp.announceDue)) = true := by
    simp [hg, ht, h2, hn]
  exact if_neg due

/-- Missing Announces drop the master (R487). -/
theorem onAnnounceTimeout_late {m : AnnounceMsg} (hb : (getPort s p).gptp.best = some m)
    (hn : (getPort s p).gptp.bestSeen + 3 * logTicks (max (-7) (min 22 m.logInterval)) ≤ s.now) :
    onAnnounceTimeout p s = reselect (modGptp s p fun g => { g with best := none }) (ptpBase s p) := by
  simp [onAnnounceTimeout, hb, hg, ht, hn]

end

/-- Missing Syncs put a base into holdover (R502). -/
theorem onSyncTimeout_late {b : Nat} (hr : isRunning s = true) (hs : (getBase s b).state = 2 ∨ (getBase s b).state = 3)
    (hn : (getBase s b).lastSync + 3 * logTicks (logSync s (getBase s b).slave) ≤ s.now) :
    onSyncTimeout b s = enterHoldover s b := by
  simp [onSyncTimeout, hr, hs, hn]

end Sys2Proof.Machine
end

section
/-! SUPPORT. Wall sync (R457, R505 to R509): what a message of a known member makes of the wall, and one equation per timer
that counts. -/

namespace Sys2Proof.Machine

open Sys2Proof

theorem onWallKey_owner {s : State} {rq : Req} {key : List Byte} {ss : Session}
    (h : Served s (.wallKey rq key) opWallKey rq ss) (ht : ss.tenant = 0) :
    onWallKey rq key s = modWall (replyOk s opWallKey rq []) fun w => { w with key := some (fit 32 key) } := by
  rw [onWallKey, take_served h, if_neg (by simp [ht])]

/-! ## Messages of a known member (R505) -/

/-- The wall once a message of a known member has been heard: what it said last, and when (R507). -/
def wallHeard (v : State) (m : WallMsg) (o : WallMember) : State :=
  modWall v fun w => { w with
    seen := tabSet w.seen m.index (m.boot, m.counter)
    members := tabSet w.members m.index { o with
      last := tbNs v (wallBase v), boot := m.boot, counter := m.counter, priority := m.priority } }

section
variable {d : WallDatagram} {s u : State} {c : Nat} {m : WallMsg} {o : WallMember} (hr : isRunning s = true)
  (hl : (getPort s d.frame.eth).link = true) (hn : d.frame.length ≤ maxFrame)
  (hq : qci s d.frame.eth d.frame = (u, some c)) (hw : wallLive (countClass u d.frame.eth c) = true)
  (hp : d.frame.eth.val = wallPort (countClass u d.frame.eth c))
  (hi : m.index ≠ wallIndex (countClass u d.frame.eth c))
  (ho : tabFind (countClass u d.frame.eth c).net.wall.members m.index = some o)
include hr hl hn hq hw hp hi ho

/-- A message of a known member is heard and then acts. -/
theorem takeWall_known {kind : Nat} {k : State → WallMsg → State}
    (hm : wallMsg (countClass u d.frame.eth c) kind d = some m) :
    takeWall s kind d k = k (wallHeard (countClass u d.frame.eth c) m o) m := by
  rw [takeWall, receiveFrame_passes hr hl hn hq]
  generalize countClass u d.frame.eth c = v at *
  have live : ¬ (!wallLive v || decide (d.frame.eth.val ≠ wallPort v)) = true := by simp [hw, hp]
  refine (if_neg live).trans ?_
  simp only [hm]
  refine (if_neg hi).trans ?_
  simp only [modWall, setWall, ho]
  rfl

theorem onWallReady_known (hm : wallMsg (countClass u d.frame.eth c) wkReady d = some m)
    (hf : newer m.frame (countClass u d.frame.eth c).net.wall.frame = true) : onWallReady d s =
      checkAgree (modMember (wallHeard (countClass u d.frame.eth c) m o) m.index fun x => { x with ready := some m.a }) := by
  rw [onWallReady, takeWall_known hr hl hn hq hw hp hi ho hm]
  exact if_pos hf

theorem onWallClaim_known (hm : wallMsg (countClass u d.frame.eth c) wkClaim d = some m) :
    let w := wallHeard (countClass u d.frame.eth c) m o
    onWallClaim d s = modMember w m.index fun x => { x with claim := some (tbNs w (wallBase w)) } :=
  takeWall_known hr hl hn hq hw hp hi ho hm

/-- The leader's agreement: every pipe of the wall starts at the instant it names (R508). -/
theorem onWallAgree_leader (hm : wallMsg (countClass u d.frame.eth c) wkAgree d = some m)
    (hj : (countClass u d.frame.eth c).net.wall.joined = true)
    (ha : (countClass u d.frame.eth c).net.wall.leader = m.index) : onWallAgree d s =
      takeAgreed (setLeaderless (modWall (wallHeard (countClass u d.frame.eth c) m o) fun y => { y with
        joined := true, leader := m.index, isLeader := false, frame := m.frame, candidate := none, claimAt := none,
        members := tabMap (fun _ x => { x with claim := none, ready := none }) y.members }) false) m.a := by
  have same : ¬ (!(countClass u d.frame.eth c).net.wall.joined ||
      decide ((countClass u d.frame.eth c).net.wall.leader ≠ m.index)) = true := by simp [hj, ha]
  rw [onWallAgree, takeWall_known hr hl hn hq hw hp hi ho hm]
  exact if_neg same

end

/-! ## Timers -/

theorem wallIndex_setLeaderless (s : State) (v : Bool) : wallIndex (setLeaderless s v) = wallIndex s := by
  refine (foldl_keeps wallIndex (fun u p => ?_) ..).trans ?_ <;> rfl

section
variable {s : State} (hr : isRunning s = true)
include hr

/-- At the fallback time the leader agrees with the candidates it has (R508). -/
theorem onAgreeFallback_late {p : Nat} {r : List Nat} (hp : wallPipes s = p :: r) (hw : wallLive s = true)
    (hd : s.net.wall.isLeader = true) (hu : unagreed s = true)
    (ht : frLe (frSub (frSub (getPipe s p).time.fmax (marginNs s p)) (usNs 100)) (pipeNow s p) = true) :
    onAgreeFallback s = sendAgree s := by
  simp [onAgreeFallback, hp, hr, hw, hd, hu, ht]

/-- A pipe of the wall whose agreement is missing when its frame start must be fixed (R457). -/
def agreementLate (s : State) (p : Nat) : Bool :=
  (getPipe s p).time.agreed.isNone && (getPipe s p).time.next.isNone &&
    (!(getPipe s p).time.leaderless || regW s (aPipe p 0x4C) = 0) &&
    frLe (frSub (getPipe s p).time.fmax (marginNs s p)) (pipeNow s p)

/-- Such pipes start on time, and a member that does not lead has no leader from then on (R457, R509). -/
theorem onAgreementMissing_late (hp : (wallPipes s).filter (agreementLate s) ≠ []) :
    let u := ((wallPipes s).filter (agreementLate s)).foldl (fun s p =>
      setRegW (modPipe s p fun x => { x with time := { x.time with next := some x.time.fmax } })
        (aPipe p 0x50) (regW s (aPipe p 0x50) ||| 8)) s
    onAgreementMissing s = if wallOn u && !u.net.wall.isLeader && !u.net.wall.leaderless
      then wallEvent (setLeaderless (modWall u fun w => { w with joined := false }) true) 4 (wallIndex u) else u := by
  have late : ¬ (!isRunning s || decide ((wallPipes s).filter (agreementLate s) = [])) = true := by simp [hr, hp]
  exact if_neg late

/-- A member that ranks below every claimant it has heard leads (R509). -/
theorem onElection_won {c : Nat} {per : Frac} (hw : wallLive s = true) (hl : s.net.wall.leaderless = true)
    (hc : s.net.wall.claimAt = some c) (hp : wallPeriods s 1 = some per)
    (ht : frLe (frAdd (frOf (c : Nat)) per) (getBase s (wallBase s)).t = true)
    (hm : ∀ m ∈ s.net.wall.members, ∀ t, m.2.claim = some t → c ≤ t →
      wallCfg s 23 16 * 64 + wallIndex s < m.2.priority * 64 + m.1) :
    onElection s = checkAgree (wallReady (wallEvent (setLeaderless (modWall s fun w => { w with
      claimAt := none, members := tabMap (fun _ m => { m with claim := none }) w.members, isLeader := true,
      joined := true, leader := wallIndex s }) false) 0 (wallIndex s))) := by
  have due : (isRunning s && wallLive s && s.net.wall.leaderless &&
      frLe (frAdd (frOf (c : Nat)) per) (getBase s (wallBase s)).t) = true := by simp [hr, hw, hl, ht]
  have lowest : ((s.net.wall.members.filter fun m => match m.2.claim with | some t => decide (c ≤ t) | none => false).map
      fun m => m.2.priority * 64 + m.1).all (fun r => decide (wallCfg s 23 16 * 64 + wallIndex s < r)) = true := by
    simp only [List.all_map, List.all_filter, List.all_eq_true]
    intro m h
    cases hk : m.2.claim with
    | none => rfl
    | some t =>
      obtain hlt | hle := Nat.lt_or_ge t c
      · simp [hlt]
      · simp [hm m h t hk hle]
  simp only [onElection, hc, hp, if_pos due]
  refine (if_pos lowest).trans ?_
  rw [wallIndex_setLeaderless]
  rfl

/-- A member that has not been heard for three periods is lost (R507). -/
theorem onMemberLost_late {i : Nat} {m : WallMember} {per : Frac} (hw : wallLive s = true)
    (hm : tabFind s.net.wall.members i = some m) (hp : wallPeriods s 3 = some per)
    (ht : frLe (frAdd (frOf (m.last : Nat)) per) (getBase s (wallBase s)).t = true) :
    onMemberLost i s =
      checkAgree (wallEvent (modWall s fun w => { w with members := tabErase w.members i }) 2 i) := by
  simp [onMemberLost, hm, hp, hr, hw, ht]

end

end Sys2Proof.Machine
end

section
/-! Time: the statements about a step on an empty queue (O2), about gPTP (O54) and about wall sync (O55). -/

namespace Sys2Proof.Machine

open Sys2Proof

/-- Settles O2: an empty queue lets a cycle pass; the ports of a running chip are drained after it, which leaves empty ones
as they are. -/
theorem idleStepPassesOneCycle : Obligations.IdleStepPassesOneCycle := by
  unfold Obligations.IdleStepPassesOneCycle
  intro s hq
  have idle : step s = .next (passCycle s) := by rw [step, hq]
  refine ⟨fun h => ?_, fun h => ⟨?_, fun hp => ?_⟩, fun b hy => if_pos hy⟩
  · exact idle.trans (next_eq (passCycle_stopped h))
  · exact idle.trans (next_eq (passCycle_running h))
  · exact idle.trans (next_eq ((passCycle_running h).trans (drainPorts_empty hp)))

/-- Settles O54: each message and each timer that counts is the branch of its operation, and a frame whose port paces
nothing leaves with the instants that it carries. -/
theorem timeSync : Obligations.TimeSync := by
  unfold Obligations.TimeSync
  refine ⟨fun p m s hm hd => ⟨fun h => next_eq (onSync_twoStep hm hd h), fun h => next_eq (onSync_oneStep hm hd h)⟩,
    fun p m s y hy hm hd hs hq => next_eq (onFollowUp_awaited hy hm hd hs hq),
    fun p m s hg ht => ⟨next_eq (onPdelayReq_answers hg ht m), fun hp => out_pdelayResp (link_of_gptpOn hg) hp ..⟩,
    fun p m s t1 h1 hg ht hq => next_eq (onPdelayResp_awaited hg ht h1 hq),
    fun p m s hg ht hd hq hb => next_eq (onAnnounce_first hg ht hd hq hb),
    fun p s hg ht h2 h5 hn => ⟨next_eq (onSyncInterval_due hg ht h2 h5 hn), fun hp h1 => ?_, fun hp h0 => ?_⟩,
    fun p s hg ht hn => ⟨next_eq (onPdelayInterval_due hg ht hn), fun hp => ?_⟩,
    fun p s hg ht h2 hn => ⟨next_eq (onAnnounceInterval_due hg ht h2 hn), fun hp => ?_⟩,
    fun b s hr hs hn => next_eq (onSyncTimeout_late hr hs hn),
    fun p s m hg ht hb hn => next_eq (onAnnounceTimeout_late hg ht hb hn)⟩
  all_goals
    have hl : ∀ f, (getPort (modGptp s p f) p).link = true := fun f =>
      (congrArg Port.link (getPort_modGptp_self ..)).trans (link_of_gptpOn hg)
  · simp only [h1]
    rw [← txInstant_modGptp]
    exact out_sync_oneStep (hl _) ((paced_modGptp ..).trans hp) ..
  · simp only [h0]
    rw [← txInstant_modGptp]
    exact out_sync_twoStep (hl _) ((paced_modGptp ..).trans hp) ..
  · rw [← txInstant_modGptp]
    exact out_pdelayReq (hl _) ((paced_modGptp ..).trans hp) _
  · exact out_announce (hl _) ((paced_modGptp ..).trans hp) _

/-- Settles O55: a message of a known member is heard and acts as its kind says, and each timer that counts is the branch of
its operation; the lowest rank leads because every claimant that was heard ranks above it. -/
theorem wallSync : Obligations.WallSync := by
  unfold Obligations.WallSync
  refine ⟨fun rq key s₀ ss h ht => next_eq (onWallKey_owner h ht),
    fun d s u c m o hr hl hn hq hw hp hi ho => ⟨fun hm hf => ?_, fun hm => ?_, fun hm hj ha => ?_⟩,
    fun s p r hr hp hw hd hu ht => next_eq (onAgreeFallback_late hr hp hw hd hu ht),
    fun s hr hp => next_eq (onAgreementMissing_late hr hp),
    fun s c per hr hw hl hc hp ht hm => next_eq (onElection_won hr hw hl hc hp ht hm),
    fun i s m per hr hw hm hp ht => next_eq (onMemberLost_late hr hw hm hp ht)⟩
  · exact next_eq (onWallReady_known hr hl hn hq hw hp hi ho hm hf)
  · exact next_eq (onWallClaim_known hr hl hn hq hw hp hi ho hm)
  · exact next_eq (onWallAgree_leader hr hl hn hq hw hp hi ho hm hj ha)

end Sys2Proof.Machine
end

section
/-! SUPPORT. The power loop's inputs and outputs (R558, R559, R561, R562, R564, R566, R570) and memory sleep (R471): one
equation per outcome, and the bounds of a duty step. -/

namespace Sys2Proof.Machine

open Sys2Proof

/-- What holds of every value that a table's change gives, and of the default, holds at every key. -/
theorem tabGet_tabMap_of {α : Type} {P : α → Prop} {f : Nat → α → α} (hf : ∀ k x, P (f k x)) {dflt : α} (hd : P dflt)
    (t : Tab α) (k : Nat) : P (tabGet (tabMap f t) dflt k) := by
  induction t with
  | nil => exact hd
  | cons e r ih =>
    rw [tabMap, tabGet]
    split
    · exact hf ..
    · exact ih

/-! ## The trip (R566) -/

/-- The links of some ports go down. -/
def portsDown (l : List Nat) (s : State) : State :=
  l.foldl (fun s p => setPort s p { getPort s p with link := false, preempt := false }) s

theorem link_portsDown (l : List Nat) (s : State) {p : Nat} (h : p ∈ l ∨ (getPort s p).link = false) :
    (getPort (portsDown l s) p).link = false := by
  induction l generalizing s with
  | nil => exact h.resolve_left List.not_mem_nil
  | cons q r ih =>
    refine ih _ ?_
    by_cases e : p = q
    · exact .inr (by rw [e, getPort_setPort_self])
    · rw [getPort_setPort_ne s _ e]
      exact h.imp_left fun h => (List.mem_cons.1 h).resolve_left e

/-- Ports alone change. -/
theorem portsDown_rest (l : List Nat) (s : State) : portsDown l s = { s with net := (portsDown l s).net } := by
  induction l generalizing s with
  | nil => rfl
  | cons p r ih => exact ih _

/-- What of the chip stops at a trip, before the trip is told. -/
def chipStopped (s : State) : State :=
  let u := portsDown (List.range 4)
    (modPwr s fun x => { x with level := 4, leaving := none, lvlEvents := satAdd x.lvlEvents 1 cap32 })
  { u with
    disp := { u.disp with txs := tabMap (fun _ => txStopped) u.disp.txs }
    sens := { u.sens with
      rx := tabMap (fun _ => rxStopped) u.sens.rx, tdm := tabMap (fun _ x => { x with state := 0, run := 0 }) u.sens.tdm }
    chip := { u.chip with phase := .tripped, wasTripped := true, trip := true } }

/-! Neither a trip nor an in-band interrupt is an Ethernet frame: both leave at once. -/

theorem out_thermTrip (s : State) : out s .thermTrip = { s with sent := .thermTrip :: s.sent } := rfl
theorem out_ibi (s : State) (level : Nat) : out s (.ibi level) = { s with sent := .ibi level :: s.sent } := rfl

theorem tripChip_eq (s : State) :
    tripChip s = { chipStopped s with sent := .ibi 4 :: .thermTrip :: (chipStopped s).sent } := by
  rw [tripChip, out_ibi, out_thermTrip]
  rfl

theorem tripChip_tells (s : State) : (tripChip s).sent = .ibi 4 :: .thermTrip :: s.sent ∧ (tripChip s).hbm = s.hbm := by
  rw [tripChip_eq, chipStopped, portsDown_rest]
  exact ⟨rfl, rfl⟩

theorem tripChip_level (s : State) : (tripChip s).chip.phase = .tripped ∧ (tripChip s).chip.trip = true ∧
    (tripChip s).pwr.level = 4 := by
  rw [tripChip_eq, chipStopped, portsDown_rest]
  exact ⟨rfl, rfl, rfl⟩

theorem tripChip_links (s : State) (p : Nat) (h : p < 4) : (getPort (tripChip s) p).link = false := by
  rw [tripChip_eq]
  exact link_portsDown (List.range 4) _ (.inl (List.mem_range.2 h))

theorem tripChip_trained (s : State) (x : Nat) : (getTx (tripChip s) x).trained = none := by
  rw [tripChip_eq]
  exact tabGet_tabMap_of (P := fun y : Transmitter => y.trained = none) (fun _ _ => rfl) rfl _ x

theorem tripChip_receivers (s : State) (r : Nat) : (getRx (tripChip s) r).state = 0 := by
  rw [tripChip_eq]
  exact tabGet_tabMap_of (P := fun y : Receiver => y.state = 0) (fun _ _ => rfl) rfl _ r

/-! ## Samples (R558, R559) -/

section
variable {s : State} (hs : sensed s = true)
include hs

/-- The diodes as sampled, and whether one stood at the trip temperature. -/
def sampled (s : State) (r : SensorReadings) : State :=
  modPwr (storeReadings s r) fun x => { x with hot115 := (r.core ++ r.uncore).any fun v => decide (tripC ≤ v) }

theorem onSensorSample_stores (hr : isRunning s = true) (r : SensorReadings) : onSensorSample r s =
    if (((r.core ++ r.uncore).any fun v => decide (tripC ≤ v)) && s.pwr.hot115) = true then tripChip (sampled s r)
    else judgeLevel (judgeHold (sampled s r)) := by
  have on : ¬ (!sensed s) = true := by simp [hs]
  have run : ¬ (!isRunning (sampled s r)) = true := by
    have : isRunning (sampled s r) = true := hr
    simp [this]
  exact (if_neg on).trans (if_neg run)

/-- The currents as sampled, with their averages, and what the limiter does. -/
def railsSampled (s : State) (r : RailReadings) : State :=
  modPwr (keepSample s r) fun x => { x with
    now16 := coreAmps r
    avg16 := currentSum (keepSample s r) / avgTicks
    package := powerSum (keepSample s r) / packTicks
    packPeak := max x.packPeak (powerSum (keepSample s r) / packTicks)
    limiter := limiterActs (keepSample s r) (coreAmps r)
    limEvents := if limiterActs (keepSample s r) (coreAmps r) && !x.limiter then satAdd x.limEvents 1 cap32 else x.limEvents }

theorem onCurrentSample_stores (r : RailReadings) : onCurrentSample r s =
    if isRunning s = true then judgeLevel (judgeHold (railsSampled s r)) else railsSampled s r :=
  if_neg (by simp [hs])

end

section
variable {s : State} {n : Nat}

theorem limiterActs_above (h : 16 * peakA s < n) : limiterActs s n = true := by simp [limiterActs, h]

theorem limiterActs_below (h : n < 16 * peakA s) (ha : currentSum s < 16 * burstA s * avgTicks) :
    limiterActs s n = false := by
  simp [limiterActs, h, ha, Nat.not_lt.2 h.le, Nat.not_lt.2 ha.le]

/-- A limiter that acts goes on until a sample lies below every limit. -/
theorem limiterActs_stays (hl : s.pwr.limiter = true) (h : 16 * peakA s ≤ n) : limiterActs s n = true := by
  simp [limiterActs, hl, Nat.not_lt.2 h]

end

/-! ## The 1 ms loop (R561, R562) -/

/-- The new thresholds are in force, and the loop's next period stands (R570). -/
def thresholdsTaken (s : State) : State :=
  modPwr s fun x => { x with
    loopDue := s.now + msTicks, thermal := regW s (aPwr 4), limits := regW s (aPwr 8), park := regW s (aPwr 0xC) }

theorem onPowerLoop_due {s : State} (hl : loopsRun s = true) (hd : s.pwr.loopDue ≤ s.now) : onPowerLoop s =
    judgeLevel (modPwr (draw (thresholdsTaken s)) fun x => { x with
      duty := nextDuty (thresholdsTaken s)
      at32 := if x.level = 1 ∧ nextDuty (thresholdsTaken s) = 32 then some (x.at32.getD s.now) else none }) :=
  if_neg (by simp [hl, hd])

theorem dutyFloor_le (level : Nat) : dutyFloor level ≤ 64 := by
  unfold dutyFloor
  split <;> decide

/-- A duty step is one of at most 4, or up to the level's floor at that pace. -/
theorem nextDuty_eq (s : State) : ∃ n ≤ 4, ∃ down : Bool,
    (throttleC s < hottest s → down = true) ∧
    nextDuty s = max (min (dutyFloor s.pwr.level) (s.pwr.duty + 4))
      (if down then s.pwr.duty - n else min 64 (s.pwr.duty + n)) := by
  refine ⟨Config.freeNat s.fresh % 5, by omega, _, fun h => ?_, rfl⟩
  have above : ¬ (decide (hottest s = throttleC s) || (decide (hottest s < throttleC s) && overTdp s)) = true := by
    simp [h.ne', h.le]
  exact (if_neg above).trans (decide_eq_true h)

theorem nextDuty_bounds (s : State) (h : s.pwr.duty ≤ 64) :
    min (dutyFloor s.pwr.level) (s.pwr.duty + 4) ≤ nextDuty s ∧ nextDuty s ≤ 64 ∧ nextDuty s ≤ s.pwr.duty + 4 ∧
    s.pwr.duty ≤ nextDuty s + 4 ∧
    (throttleC s < hottest s → dutyFloor s.pwr.level ≤ s.pwr.duty → nextDuty s ≤ s.pwr.duty) := by
  obtain ⟨n, hn, down, hot, he⟩ := nextDuty_eq s
  have hf := dutyFloor_le s.pwr.level
  rw [he]
  cases down with
  | true =>
    rw [if_pos rfl]
    refine ⟨by omega, by omega, by omega, by omega, fun _ _ => by omega⟩
  | false =>
    rw [if_neg Bool.false_ne_true]
    refine ⟨by omega, by omega, by omega, by omega, fun hc => absurd (hot hc) Bool.false_ne_true⟩

/-! ## Parking (R564) -/

/-- The next park period stands 10 ms on. -/
def parkPeriodTaken (s : State) : State := modPwr s fun x => { x with parkDue := s.now + 10 * msTicks }

section
variable {s : State} (hl : loopsRun s = true) (hd : s.pwr.parkDue ≤ s.now)
include hl hd

theorem onParkPeriod_parks (h2 : s.pwr.level = 2) (ht : throttleC s ≤ hottest s) : onParkPeriod s =
    refresh (((sortBy (parkBefore (parkPeriodTaken s)) (parkable (parkPeriodTaken s))).take
      (min 8 ((stayingCores (parkPeriodTaken s)).length - max (bits s.pwr.park 7 0) s.sched.reserve))).foldl parkCore
      (parkPeriodTaken s)) := by
  have due : ¬ ((!loopsRun s) = true ∨ s.now < s.pwr.parkDue) := by simp [hl, hd]
  exact (if_neg due).trans (if_pos ⟨h2, ht⟩)

theorem onParkPeriod_releases (h1 : s.pwr.level ≤ 1) : onParkPeriod s =
    ((releaseOrder (parkPeriodTaken s)).take 8).foldl (fun s c => setCoreState s c 5) (parkPeriodTaken s) := by
  have due : ¬ ((!loopsRun s) = true ∨ s.now < s.pwr.parkDue) := by simp [hl, hd]
  have cool : ¬ (s.pwr.level = 2 ∧ throttleC s ≤ hottest s) := by omega
  exact (if_neg due).trans ((if_neg cool).trans (if_pos h1))

end

/-! ## Memory sleep (R471) -/

theorem onMemSleepEnter_sleeps {s : State} (hr : isRunning s = true) (hb : s.chip.hbmReady = true)
    (ha : s.disp.asleep = false) (hs : sleepAllowed s = true) :
    onMemSleepEnter s = incReg { s with disp := { s.disp with asleep := true } } aMemSleeps 1 cap32 :=
  if_pos (by simp [hr, hb, ha, hs])

theorem onMemSleepEnter_needed {s : State} (hs : sleepAllowed s = false) : onMemSleepEnter s = s :=
  if_neg (by simp [hs])

end Sys2Proof.Machine
end

section
/-! Power: the statement about levels, loops and memory sleep (O57). -/

namespace Sys2Proof.Machine

open Sys2Proof

/-- Settles O57: samples, periods and memory sleep are each the branch that thresholds and time name; a trip downs every
link; a duty step is at most 4, down where the chip is too hot and up to the level's floor. -/
theorem powerLevels : Obligations.PowerLevels := by
  unfold Obligations.PowerLevels
  refine ⟨⟨fun r s hr hs => ⟨fun hh ha => ?_, fun hh => ?_⟩,
      fun s => ?_,
      fun r s hs => ⟨limiterActs_above (s := keepSample s r), limiterActs_below (s := keepSample s r),
        limiterActs_stays (s := keepSample s r), fun hr => ?_, fun hr => ?_⟩,
      fun s hl hd => ⟨next_eq (onPowerLoop_due hl hd), nextDuty_bounds (thresholdsTaken s)⟩,
      fun s hl hd => ⟨fun h2 ht => next_eq (onParkPeriod_parks hl hd h2 ht),
        fun h1 => next_eq (onParkPeriod_releases hl hd h1)⟩⟩,
    fun s hr hb ha hs => next_eq (onMemSleepEnter_sleeps hr hb ha hs), fun s => rfl,
    fun s hs => next_eq (onMemSleepEnter_needed hs)⟩
  · exact next_eq ((onSensorSample_stores hs hr r).trans (if_pos (by rw [hh, ha]; rfl)))
  · exact next_eq ((onSensorSample_stores hs hr r).trans (if_neg (by rw [Bool.and_eq_false_iff.2 hh]; decide)))
  · obtain ⟨hphase, htrip, hlevel⟩ := tripChip_level s
    exact ⟨hphase, htrip, hlevel, tripChip_links s, tripChip_trained s, tripChip_receivers s, tripChip_tells s⟩
  · exact next_eq ((onCurrentSample_stores hs r).trans (if_pos hr))
  · exact next_eq ((onCurrentSample_stores hs r).trans (if_neg (by simp [hr])))

end Sys2Proof.Machine
end

section
/-! SUPPORT. Which operations leave the processors alone: messages, trace records and the state machines of time synchronisation
change nothing of them, and a restart keeps their SRAM until it ends (R541, R542). -/

namespace Sys2Proof.Machine

open Sys2Proof

/-! ## Messages and records -/

@[simp] theorem toTenant_fw (s : State) (t : Nat) (m : Msg) (keep : Bool) : (toTenant s t m keep).fw = s.fw := by
  unfold toTenant
  split
  · rw [sendMsg_fw]
  · split <;> rfl

@[simp] theorem toTenant_pwr (s : State) (t : Nat) (m : Msg) (keep : Bool) : (toTenant s t m keep).pwr = s.pwr := by
  unfold toTenant
  split
  · rw [sendMsg_pwr]
  · split <;> rfl

@[simp] theorem event_fw (s : State) (t op st d : Nat) (p : List Byte) : (event s t op st d p).fw = s.fw := toTenant_fw ..
@[simp] theorem event_pwr (s : State) (t op st d : Nat) (p : List Byte) : (event s t op st d p).pwr = s.pwr := toTenant_pwr ..

@[simp] theorem complete_fw (s : State) (t : Nat) (a : Async) (st d : Nat) (p : List Byte) :
    (complete s t a st d p).fw = s.fw := by
  unfold complete
  split
  · rw [toTenant_fw]
    rfl
  · rfl

@[simp] theorem pushLog_procs (s : State) (source severity code tenant : Nat) (args : List Nat) :
    (pushLog s source severity code tenant args).fw.procs = s.fw.procs := by
  unfold pushLog
  dsimp only
  split_ifs <;> rfl

@[simp] theorem trace_procs (s : State) (point tenant : Nat) (args : List Nat) :
    (trace s point tenant args).fw.procs = s.fw.procs := by
  unfold trace
  split
  · exact pushLog_procs ..
  · rfl

@[simp] theorem fwEvent_procs (s : State) (proc change cause build : Nat) :
    (fwEvent s proc change cause build).fw.procs = s.fw.procs := by
  rw [fwEvent, event_fw]
  rfl

@[simp] theorem fwEvent_pwr (s : State) (proc change cause build : Nat) :
    (fwEvent s proc change cause build).pwr = s.pwr := by
  rw [fwEvent, event_pwr]
  rfl

/-! ## Time synchronisation (R487, R501 to R503) -/

@[simp] theorem modBase_fw (s : State) (b : Nat) (f : TimeBase → TimeBase) : (modBase s b f).fw = s.fw := rfl

@[simp] theorem timeEvent_fw (s : State) (b change : Nat) : (timeEvent s b change).fw = s.fw :=
  foldl_keeps State.fw (fun _ _ => event_fw ..) ..

@[simp] theorem setBaseState_procs (s : State) (b new : Nat) : (setBaseState s b new).fw.procs = s.fw.procs := by
  unfold setBaseState
  dsimp only
  split
  · rfl
  · split
    · rw [trace_procs, modBase_fw]
    · rfl

@[simp] theorem enterHoldover_procs (s : State) (b : Nat) : (enterHoldover s b).fw.procs = s.fw.procs := by
  unfold enterHoldover
  dsimp only
  split
  · rw [timeEvent_fw]
    exact setBaseState_procs ..
  · split <;> rfl

@[simp] theorem setRoles_fw (s : State) (b : Nat) (sl : Option (Nat × AnnounceMsg)) : (setRoles s b sl).fw = s.fw := by
  refine foldl_keeps State.fw (fun u p => ?_) ..
  rfl

@[simp] theorem newMaster_fw (s : State) (b gm : Nat) : (newMaster s b gm).fw = s.fw := by
  unfold newMaster
  dsimp only
  split
  · rfl
  · rw [timeEvent_fw, modBase_fw]

@[simp] theorem leadBase_procs (s : State) (b : Nat) : (leadBase s b).fw.procs = s.fw.procs := by
  unfold leadBase
  dsimp only
  split
  · rw [timeEvent_fw, setBaseState_procs, newMaster_fw]
  · rw [setBaseState_procs, newMaster_fw]

@[simp] theorem reselect_procs (s : State) (b : Nat) : (reselect s b).fw.procs = s.fw.procs := by
  unfold reselect
  dsimp only
  split
  · rfl
  · split
    · next p m _ =>
      have followed {c : Prop} [Decidable c] (u : State) (f : TimeBase → TimeBase) : 
          (if c then modBase u b f else u).fw = u.fw := by split <;> rfl
      split
      · rw [modBase_fw, setBaseState_procs, followed, newMaster_fw, setRoles_fw]
      · split
        · rw [enterHoldover_procs, followed, newMaster_fw, setRoles_fw]
        · rw [followed, newMaster_fw, setRoles_fw]
    · split
      · rw [leadBase_procs, setRoles_fw]
      · split
        · rw [enterHoldover_procs, setRoles_fw]
        · rw [setRoles_fw]

@[simp] theorem timeStart_procs (s : State) : (timeStart s).fw.procs = s.fw.procs := by
  refine foldl_keeps (fun u => u.fw.procs) (fun u b => ?_) ..
  split
  · rw [reselect_procs]
    split
    · exact setBaseState_procs ..
    · rfl
  · rfl

@[simp] theorem timeHold_procs (s : State) : (timeHold s).fw.procs = s.fw.procs :=
  foldl_keeps (fun u => u.fw.procs) enterHoldover_procs ..

/-! ## Processors keep their SRAM -/

/-- The instruction and data SRAM of every processor stand. -/
def SramKept (s t : State) : Prop :=
  ∀ q, (getProc t q).imem = (getProc s q).imem ∧ (getProc t q).dmem = (getProc s q).dmem

theorem SramKept.of_procs {s t : State} (h : t.fw.procs = s.fw.procs) : SramKept s t := fun q => by
  simp only [getProc, h, and_self]

theorem SramKept.trans {s t u : State} (h : SramKept s t) (k : SramKept t u) : SramKept s u :=
  fun q => ⟨(k q).1.trans (h q).1, (k q).2.trans (h q).2⟩

theorem endActivation_procs (s : State) (device status detail : Nat) :
    (endActivation s device status detail).fw.procs = s.fw.procs := by
  unfold endActivation
  dsimp only
  split
  · rw [complete_fw]
    rfl
  · rfl

theorem finishActivation_procs (s : State) : (finishActivation s).fw.procs = s.fw.procs := by
  rw [finishActivation, endActivation_procs, fwEvent_procs]
  rfl

/-- A restart begins with the SRAM as it was. -/
theorem startRestart_sram (s : State) (p cause : Nat) : SramKept s (startRestart s p cause) := by
  have mark : SramKept s (modProc s p fun x => { x with
      state := .restarting (s.now + restartTicks), pending := cause, cause := cause,
      count := if cause = 6 then x.count else satAdd x.count 1 0xFFFF }) := fun q => by
    by_cases h : q = p
    · rw [h, modProc, getProc_setProc_self]
      exact ⟨rfl, rfl⟩
    · rw [modProc, getProc_setProc_ne _ _ h]
      exact ⟨rfl, rfl⟩
  unfold startRestart
  dsimp only
  split
  · exact mark.trans (.of_procs rfl)
  · split
    · exact mark.trans (.of_procs rfl)
    · split
      · exact mark.trans (.of_procs (timeHold_procs _))
      · exact mark

theorem activationStep_sram (s : State) : SramKept s (activationStep s) := by
  unfold activationStep
  dsimp only
  split
  · exact .of_procs rfl
  · split
    · exact .of_procs rfl
    · split
      · split
        · exact .of_procs (fwEvent_procs ..)
        · exact .of_procs rfl
      · refine .trans (.of_procs ?_) (startRestart_sram _ _ _)
        split
        · exact fwEvent_procs ..
        · exact fwEvent_procs ..
        · rfl

/-- The end of a restart, before an activation goes on: the processor's section is reloaded and its data SRAM cleared. -/
def reloaded (s : State) (p : Nat) : State :=
  setProc s p { getProc s p with
    state := .running
    build := if (getProc s p).pending = 6 then imgBuild s.fw.next else (getProc s p).build
    requests := []
    imem := sectionOf (if (getProc s p).pending = 6 then s.fw.next else s.fw.image) p
    dmem := [] }

/-- What a restart's end tells and lets go on, before an activation does: the requests that waited for it, the time bases
of the time processor, and the held faults of the scheduler processor (R542). -/
def restartTold (s : State) (p : Nat) : State :=
  let x := getProc s p
  let u := x.requests.foldl (fun s a => complete s 0 a stOk 0 [])
    (fwEvent (reloaded s p) p 0 x.pending (if x.pending = 6 then imgBuild s.fw.next else x.build))
  if p = 3 then timeStart u else if p = 2 then faultTime u (u.now + restartTicks - restartEnd x) else u

/-- The same, with a restart of an activation counted (R547). -/
def restartCounted (s : State) (p : Nat) : State :=
  if (getProc s p).pending = 6 then modFw (restartTold s p) fun f => { f with actNext := f.actNext + 1 } else restartTold s p

theorem restartDone_eq (s : State) (p : Nat) : restartDone s p =
    if (getProc s p).pending = 6 ∧ 6 ≤ (restartCounted s p).fw.actNext then finishActivation (restartCounted s p)
    else activationStep (restartCounted s p) := rfl

theorem restartTold_procs (s : State) (p : Nat) : (restartTold s p).fw.procs = (reloaded s p).fw.procs := by
  have told (l : List Async) (u : State) : (l.foldl (fun s a => complete s 0 a stOk 0 []) u).fw.procs = u.fw.procs :=
    foldl_keeps (fun u => u.fw.procs) (fun _ _ => by rw [complete_fw]) ..
  unfold restartTold
  dsimp only
  split
  · rw [timeStart_procs, told, fwEvent_procs]
  · split
    · exact (told ..).trans (fwEvent_procs ..)
    · rw [told, fwEvent_procs]

theorem restartCounted_procs (s : State) (p : Nat) : (restartCounted s p).fw.procs = (reloaded s p).fw.procs := by
  unfold restartCounted
  split <;> exact restartTold_procs s p

/-- What waits for a restart, and the activation that goes on behind it, leave the reloaded SRAM as it is. -/
theorem restartDone_sram (s : State) (p : Nat) : SramKept (reloaded s p) (restartDone s p) := by
  rw [restartDone_eq]
  split
  · exact .of_procs ((finishActivation_procs _).trans (restartCounted_procs s p))
  · exact (SramKept.of_procs (restartCounted_procs s p)).trans (activationStep_sram _)

theorem restartDone_dmem (s : State) (p : Nat) : (getProc (restartDone s p) p).dmem = [] :=
  (restartDone_sram s p p).2.trans (congrArg Processor.dmem (getProc_setProc_self ..))

/-- A restart that is no activation's reloads the section of the image that runs (R541). -/
theorem restartDone_imem {s : State} {p : Nat} (h : (getProc s p).pending ≠ 6) :
    (getProc (restartDone s p) p).imem = sectionOf s.fw.image p := by
  refine (restartDone_sram s p p).1.trans ((congrArg Processor.imem (getProc_setProc_self ..)).trans ?_)
  exact congrArg (sectionOf · p) (if_neg h)

end Sys2Proof.Machine
end

section
/-! SUPPORT. Loading and activation (R533, R536, R537, R546), faults and restarts of processors (R541 to R544), self-test
(R609, R610) and the log (R550): one equation per outcome. -/

namespace Sys2Proof.Machine

open Sys2Proof

/-! ## Requests that are served -/

section
variable {s : State} {rq : Req} {ss : Session}

theorem onFwLoad_served {off : Word} {data : List Byte} (h : Served s (.fwLoad rq off 0 data) opFwLoad rq ss)
    (hn : off.toNat + data.length ≤ stageBytes) (hb : s.chip.hbmReady = true) (hp : fwPending s = false)
    (ht : ss.tenant = 0) : onFwLoad rq off 0 data s =
      replyOk (modFw s fun f => { f with staging := putBytes f.staging off.toNat data }) opFwLoad rq [] := by
  rw [onFwLoad, take_served h, checked_pass (by simp [firstFault_eq_none, hn, hb, hp, ht])]

/-- A good image is accepted, or deferred while the level is not quiet (R546). -/
theorem onFwActivate_served {n : Word} (h : Served s (.fwActivate rq n 0) opFwActivate rq ss)
    (hf : imageForm (fit 160 s.fw.staging) n.toNat = true) (hm : imgMajor (fit 160 s.fw.staging) = ndMajor)
    (hp : fwPending s = false) (ht : ss.tenant = 0) (hc : asyncCount s 0 rq.session.toNat < 4096) :
    onFwActivate rq n 0 s = modFw
      (answered s opFwActivate rq 0 (if s.fw.device = 0 ∨ quietLevel s = true then stAccepted else stDeferred) [])
      fun f => { f with
        next := fit n.toNat f.staging
        request := some (asyncOf opFwActivate rq)
        actState := 1
        actNext := 0
        device := if f.device = 2 then 3 else f.device } := by
  rw [onFwActivate, take_served h, ht]
  dsimp only
  rw [checked_pass (by simp [firstFault_eq_none, hf, hm, hp]), accept_pass hc]
  rfl

/-- FW_RESTART restarts a processor that runs, and completes with it (R544). -/
theorem onFwRestart_served {p : Byte} (h : Served s (.fwRestart rq p 0) opFwRestart rq ss) (hq : p.toNat ≤ 5)
    (h5 : p = 5 → s.pwr.level = 0) (hp : fwPending s = false) (hr : (getProc s p.toNat).state = .running)
    (ht : ss.tenant = 0) (hc : asyncCount s 0 rq.session.toNat < 4096) :
    let u := answered s opFwRestart rq 0 stAccepted []
    (getProc u p.toNat).state = .running ∧ onFwRestart rq p 0 s =
      modProc (startRestart u p.toNat 5) p.toNat fun x => { x with requests := x.requests ++ [asyncOf opFwRestart rq] } := by
  have hu : (getProc (answered s opFwRestart rq 0 stAccepted []) p.toNat).state = .running := by
    rwa [getProc, answered, reply_fw, modTen_fw]
  have level : p.toNat = 5 → s.pwr.level = 0 := fun e => h5 (BitVec.eq_of_toNat_eq e)
  refine ⟨hu, ?_⟩
  rw [onFwRestart, take_served h, ht]
  dsimp only
  rw [checked_pass (by simpa [firstFault_eq_none, hq, hp, hr] using level), accept_pass hc]
  exact congrArg (modProc · _ _) (if_pos hu)

theorem onLogRead_served {first : Word} {n : Half} (h : Served s (.logRead rq first n 0) opLogRead rq ss)
    (h1 : 1 ≤ n.toNat) (hn : n.toNat ≤ 255) : onLogRead rq first n 0 s =
      replyOk s opLogRead rq (logReply s ss.tenant ss.maxPayload first.toNat n.toNat) := by
  rw [onLogRead, take_served h, checked_pass (by simp [firstFault_eq_none, hn]; omega)]

end

/-! ## The image is verified (R537) -/

section
variable {s : State} (hr : isRunning s = true) (h1 : s.fw.actState = 1)
include hr h1

/-- The device state to which an activation that fails returns. -/
def deviceBefore (s : State) : Nat := if s.fw.device = 3 then 2 else s.fw.device

theorem onFwVerifyDone_unsigned (hg : imageSigned s s.fw.next = false) : onFwVerifyDone s =
    endActivation { s with sec := { s.sec with authFails := satAdd s.sec.authFails 1 cap32 } } (deviceBefore s)
      stAuthFailed dtFwSignature := by
  simp [onFwVerifyDone, deviceBefore, hr, h1, hg]

variable (hg : imageSigned s s.fw.next = true)
include hg

theorem onFwVerifyDone_old (hv : imgSecver s.fw.next < nvrWord s 64) :
    onFwVerifyDone s = endActivation s (deviceBefore s) stRollbackRefused 0 := by
  simp [onFwVerifyDone, deviceBefore, hr, h1, hg, hv]

theorem onFwVerifyDone_first (hv : nvrWord s 64 ≤ imgSecver s.fw.next) (hd : s.fw.device = 0) : onFwVerifyDone s =
    startProcessors (modFw s fun f => { f with actState := 3, device := 1 }) (imgBuild s.fw.next) := by
  simp [onFwVerifyDone, hr, h1, hg, Nat.not_lt.2 hv, hd]

theorem onFwVerifyDone_next (hv : nvrWord s 64 ≤ imgSecver s.fw.next) (hd : s.fw.device ≠ 0) :
    onFwVerifyDone s = activationStep (modFw s fun f => { f with actState := 2 }) := by
  simp [onFwVerifyDone, hr, h1, hg, Nat.not_lt.2 hv, hd]

end

/-! ## Faults and restarts of processors (R541 to R543) -/

section
variable {s : State} (hr : isRunning s = true)
include hr

theorem onActivationResume_running : onActivationResume s = activationStep s := if_pos hr

theorem procFault_restarts {p : Nat} (cause : Nat) (hs : (getProc s p).state = .running) (h5 : p ≠ 5 ∨ s.pwr.level = 0) :
    procFault p cause s = startRestart s p cause := by
  have free : ¬ (p = 5 ∧ 1 ≤ s.pwr.level) := by omega
  simp [procFault, hr, hs, free]

/-- The power processor in an emergency is held, and the level goes to 3 (R543). -/
theorem procFault_held (cause : Nat) (hs : (getProc s 5).state = .running) (h1 : 1 ≤ s.pwr.level) (h3 : s.pwr.level < 3) :
    procFault 5 cause s = judgeHold (setLevel (fwEvent (modPwr
      (setProc s 5 { getProc s 5 with state := .held, pending := cause }) fun y =>
        { y with held := true, clear := none, leaving := none })
      5 1 cause (getProc s 5).build) 3 3) := by
  have low : (fwEvent (modPwr (setProc s 5 { getProc s 5 with state := .held, pending := cause }) fun y =>
      { y with held := true, clear := none, leaving := none }) 5 1 cause (getProc s 5).build).pwr.level < 3 := by
    rw [fwEvent_pwr]
    exact h3
  have runs : ¬ (!isRunning s || decide ((getProc s 5).state ≠ .running)) = true := by simp [hr, hs]
  refine (if_neg runs).trans ((if_pos ⟨rfl, h1⟩).trans ?_)
  exact congrArg judgeHold (if_pos low)

theorem onHoldRelease_clear {t : Nat} (hh : s.pwr.held = true) (hc : s.pwr.clear = some t)
    (ht : t + 500 * msTicks ≤ s.now) : onHoldRelease s =
      startRestart (modPwr s fun x => { x with held := false, clear := none }) 5 (getProc s 5).pending := by
  simp [onHoldRelease, hc, hr, hh, ht]

/-- A restart ends, and what waited for the processor goes on (R542). -/
theorem onRestartDone_running {p due : Nat} (hs : (getProc s p).state = .restarting due) :
    let u := restartDone s p
    onRestartDone p s = resumeAll (if p = 1 then resumeHandshakes u else if p = 2 then formAll u else u) := by
  simp only [onRestartDone, hs, hr, if_true]

/-! ## Self-test (R609, R610) -/

theorem onSelfTestDone_passes {r : SelfTestReport} (hd : s.fw.device = 1)
    (hf : ((List.range 128).filter fun c => (getCore (testCores s r) c).state = 4).length ≤ 64)
    (hg : (testRetired r).length ≤ 4096) :
    let u := testCores s r
    onSelfTestDone r s = finishActivation { u with chip := { u.chip with
      selftest := 1
      failed := ((List.range 128).filter fun c => (getCore u c).state = 4).length
      retired := (testRetired r).length
      retiredFrames := testRetired r } } := by
  have on : ¬ (!isRunning s || decide (s.fw.device ≠ 1)) = true := by simp [hr, hd]
  have all : min (testRetired r).length 65535 = (testRetired r).length := by omega
  simp only [onSelfTestDone, if_neg on, if_neg (Nat.not_lt.2 hf), if_neg (Nat.not_lt.2 hg), if_true, all]

end

/-- The frames that self-test retires: any uncorrectable error, or more than one corrected (R609). -/
theorem mem_testRetired {r : SelfTestReport} {f : Nat} :
    f ∈ testRetired r ↔ ∃ e ∈ r.frames, e.1 = f ∧ (0 < e.2.1 ∨ 1 < e.2.2) := by
  simp only [testRetired, List.mem_eraseDups, List.mem_map, List.mem_filter, Bool.or_eq_true, decide_eq_true_eq]
  constructor
  · rintro ⟨e, ⟨he, hb⟩, rfl⟩
    exact ⟨e, he, rfl, hb⟩
  · rintro ⟨e, he, rfl, hb⟩
    exact ⟨e, ⟨he, hb⟩, rfl⟩

end Sys2Proof.Machine
end

section
/-! SUPPORT. The I3C target (R612) and the JTAG port (R614, R615): one equation per outcome. -/

namespace Sys2Proof.Machine

open Sys2Proof

/-! ## JTAG -/

section
variable {s : State}

theorem onExtest_inReset (h : s.chip.phase = .inReset) : onExtest s = s := if_pos h

/-- Out of reset EXTEST acts as BYPASS. -/
theorem onExtest_running (h : s.chip.phase ≠ .inReset) : onExtest s = out s (.tdo 1 0) := if_neg h

theorem onDebugRead_device {a : Word} {i : Nat} {r : RegSpec} (h : findReg a.toNat = some (i, r)) (hc : r.cls = .device) :
    onDebugRead a s = out s (.tdo 32 ((readWord s 0 a.toNat).getD 0)) := by
  simp only [onDebugRead, h, if_pos hc]

theorem onDebugWrite_owner {a v : Word} {i : Nat} {r : RegSpec} (h : findReg a.toNat = some (i, r))
    (hr : isRunning s = true) (hj : bit (regW s aSysJtag) 0 = true) (hc : r.cls = .owner)
    (hf : writeFault s 0 .jtag [(a.toNat, v.toNat)] = none) : onDebugWrite a v s = plainWrite s a.toNat v.toNat := by
  simp [onDebugWrite, h, hr, hj, hc, hf]

/-- Without debug_enable nothing is written (R615). -/
theorem onDebugWrite_disabled (a v : Word) (hj : bit (regW s aSysJtag) 0 = false) : onDebugWrite a v s = s := by
  simp [onDebugWrite, hj]

/-! ## I3C -/

theorem i3cAwake_of_running (h : isRunning s = true) : i3cAwake s = true := by
  have hp : s.chip.phase = .running := of_decide_eq_true h
  simp [i3cAwake, hp]

theorem takeDynamic_first (a : BitVec 7) (h : i3cAwake s = true) (hd : s.chip.i3cDyn = none) :
    takeDynamic a s = out { s with chip := { s.chip with i3cDyn := some a } } .i3cAck :=
  if_pos (by simp [h, hd])

theorem onI3cAddress_known {a : Word} (h : i3cAwake s = true)
    (ha : i3cReadable a.toNat = true ∨ i3cWritable a.toNat = true) :
    onI3cAddress a s = out (setI3cAddr s a.toNat) .i3cAck :=
  if_pos (by simpa [h] using ha)

theorem onI3cAddress_unknown {a : Word} (hr : i3cReadable a.toNat = false) (hw : i3cWritable a.toNat = false) :
    onI3cAddress a s = out s .i3cNack :=
  if_neg (by simp [hr, hw])

theorem onI3cRead_readable (h : i3cAwake s = true) (hr : i3cReadable s.chip.i3cAddr = true) :
    onI3cRead s = out s (.i3cRead (le4 ((readWord s 0 s.chip.i3cAddr).getD 0))) :=
  if_pos (by simp [h, hr])

theorem i3cWrite_refused {a v : Nat} (hw : i3cWritable a = false) : i3cWrite s a v = out s .i3cNack :=
  if_pos (by simp [hw])

/-- A write that its register's table allows is acknowledged and acts. -/
theorem i3cWrite_taken {a v : Nat} (h : i3cAwake s = true) (hw : i3cWritable a = true)
    (hf : wordFault s 0 .i3c a v = none) : i3cWrite s a v =
      let u := out (setI3cAddr s a) .i3cAck
      if a = aSysResetReq then (if isRunning u then resetNow u causeRequest else u)
      else if bit v 0 then armEnroll u else u :=
  if_neg (by simp [h, hw, hf])

/-- A reset request acts at once on a running chip (R606). -/
theorem i3cWrite_reset {v : Nat} (hr : isRunning s = true) (hf : wordFault s 0 .i3c aSysResetReq v = none) :
    i3cWrite s aSysResetReq v = resetNow (out (setI3cAddr s aSysResetReq) .i3cAck) causeRequest := by
  have running : isRunning (out (setI3cAddr s aSysResetReq) .i3cAck) = true := hr
  rw [i3cWrite_taken (i3cAwake_of_running hr) rfl hf]
  exact (if_pos rfl).trans (if_pos running)

/-- The write of SEC_ENROLL that sets arm opens the enrolment window (R579). -/
theorem i3cWrite_arm {v : Nat} (h : i3cAwake s = true) (hf : wordFault s 0 .i3c aSecEnroll v = none)
    (ha : bit v 0 = true) : i3cWrite s aSecEnroll v = armEnroll (out (setI3cAddr s aSecEnroll) .i3cAck) := by
  rw [i3cWrite_taken h rfl hf]
  exact (if_neg (by decide)).trans (if_pos ha)

end

end Sys2Proof.Machine
end

section
/-! SUPPORT. The security group (R573, R574, R580, R583 to R585), the enrolment window (R579) and the persistent bank (R588):
one equation per outcome, and what a stored word leaves. -/

namespace Sys2Proof.Machine

open Sys2Proof

/-! ## Requests that are served -/

section
variable {s : State} {rq : Req} {ss : Session}

theorem onSecCert_served (h : Served s (.secCert rq) opSecCert rq ss) :
    onSecCert rq s = replyOk s opSecCert rq (certificate s) := take_served h _

theorem onSecAttest_served {c : List Byte} (h : Served s (.secAttest rq c) opSecAttest rq ss) :
    onSecAttest rq c s = replyOk s opSecAttest rq (attestation s ss.tenant rq.session.toNat ss.credential c) :=
  take_served h _

section
variable {k g : List Byte} (h : Served s (.ownerChange rq k g) opOwnerChange rq ss) (ht : ss.tenant = 0)
  (hk : (k.all fun b => b = 0) = false)
include h ht hk

/-- A new owner credential under a signature that fits is accepted, and its nine words join the bank's queue (R580). -/
theorem onOwnerChange_signed (hg : edVerify (fit 32 k) (ownerMessage s k) (fit 64 g) = true)
    (hc : asyncCount s 0 rq.session.toNat < 4096) : onOwnerChange rq k g s =
      nvrEnqueue (answered s opOwnerChange rq 0 stAccepted []) 0 (asyncOf opOwnerChange rq) 0 (ownerQueue k) := by
  rw [onOwnerChange, take_served h, ht, if_neg (by simp), if_neg (ne_true_of_eq_false hk), if_neg (by simp [hg]), accept_pass hc]
  rfl

theorem onOwnerChange_unsigned (hg : edVerify (fit 32 k) (ownerMessage s k) (fit 64 g) = false) : onOwnerChange rq k g s =
    refuse { s with sec := { s.sec with authFails := satAdd s.sec.authFails 1 cap32 } } opOwnerChange rq
      (stAuthFailed, dtOwnerSignature) := by
  rw [onOwnerChange, take_served h, ht, if_neg (by simp), if_neg (ne_true_of_eq_false hk), if_pos (by simp [hg])]

end

/-! ## A word of the bank for the owner -/

theorem ownerWrite_queues {op w v : Nat} (hp : nvrWorn s w = true ∨ fwPending s = false)
    (hc : asyncCount s 0 rq.session.toNat < 4096) :
    ownerWrite s op rq 0 w v = nvrEnqueue (answered s op rq 0 stAccepted []) 0 (asyncOf op rq) 0 [(w, v)] := by
  have free : ¬ (!nvrWorn s w && fwPending s) = true := by
    obtain h | h := hp <;> simp [h]
  rw [ownerWrite, if_neg free, accept_pass hc]
  rfl

theorem ownerWrite_busy {op w v : Nat} (hw : nvrWorn s w = false) (hp : fwPending s = true) :
    ownerWrite s op rq 0 w v = refuse s op rq (stBusy, dtFwPending) :=
  if_pos (by simp [hw, hp])

/-- The revoked keys, with one more (R585). -/
def keysWith (s : State) (i : Nat) : Nat := if bit (nvrComing s 65) i then nvrComing s 65 else nvrComing s 65 + 2 ^ i

section
variable {i : Byte} (h : Served s (.secKeyRevoke rq i 0) opSecKeyRevoke rq ss) (ht : ss.tenant = 0) (hi : i.toNat ≤ 3)
include h ht hi

theorem onSecKeyRevoke_gone (hb : bit (nvrWord s 65) i.toNat = true) :
    onSecKeyRevoke rq i 0 s = replyOk s opSecKeyRevoke rq [] := by
  rw [onSecKeyRevoke, take_served h, ht, checked_pass (by simp [firstFault_eq_none, hi]), if_pos hb]

/-- A key that neither runs nor is the last one is revoked by a word of the bank. -/
theorem onSecKeyRevoke_writes (hb : bit (nvrWord s 65) i.toNat = false) (hr : i.toNat ≠ imgKey (runningImage s))
    (ha : keysWith s i.toNat % 16 ≠ 15) :
    onSecKeyRevoke rq i 0 s = ownerWrite s opSecKeyRevoke rq 0 65 (keysWith s i.toNat) := by
  have unused : ¬ (decide (i.toNat = imgKey (runningImage s)) || decide (keysWith s i.toNat % 16 = 15)) = true := by
    simp [hr, ha]
  rw [onSecKeyRevoke, take_served h, ht, checked_pass (by simp [firstFault_eq_none, hi]), if_neg (by simp [hb])]
  exact if_neg unused

end

section
variable {m : Word} (h : Served s (.secRollbackRaise rq m) opSecRollbackRaise rq ss) (ht : ss.tenant = 0)
include h ht

theorem onSecRollbackRaise_same (hm : m.toNat = nvrWord s 64) :
    onSecRollbackRaise rq m s = replyOk s opSecRollbackRaise rq [] := by
  rw [onSecRollbackRaise, take_served h, ht, checked_pass (by simp [firstFault_eq_none]), if_pos hm]

/-- A higher minimum that the running image meets is a word of the bank. -/
theorem onSecRollbackRaise_writes (hm : nvrWord s 64 < m.toNat) (hr : m.toNat ≤ imgSecver (runningImage s)) :
    onSecRollbackRaise rq m s = ownerWrite s opSecRollbackRaise rq 0 64 (max m.toNat (nvrComing s 64)) := by
  rw [onSecRollbackRaise, take_served h, ht, checked_pass (by simp [firstFault_eq_none]), if_neg (by omega),
    if_neg (by omega), if_neg (by omega)]

end

/-! ## The enrolment window and entropy -/

theorem onEntropyFail_running (hr : isRunning s = true) :
    onEntropyFail s = { s with sec := { s.sec with entropyFail := true } } := if_pos hr

theorem onEnrollExpiry_over (h : enrollArmed s = false) : onEnrollExpiry s = { s with sec := { s.sec with enroll := none } } :=
  if_neg (by simp [h])

/-- A word whose lowest bit is written as 1 has it set. -/
theorem bit_putBits_zero (w : Nat) : bit (putBits w 0 0 1) 0 = true := by
  simp only [bit, putBits, bits, beq_iff_eq]
  omega

end

/-! ## A word is stored (R588, R589) -/

/-- A completion is a packet or waits with its tenant: the bank and an enrolment stand. -/
theorem toTenant_bank (s : State) (t : Nat) (m : Msg) (keep : Bool) :
    (toTenant s t m keep).nvr = s.nvr ∧ (toTenant s t m keep).link.enrolling = s.link.enrolling := by
  unfold toTenant
  split
  · next i _ => exact ⟨sendMsg_nvr .., (congrArg (fun l => l.enrolling) (sendMsg_same s i m).link :)⟩
  · split <;> exact ⟨rfl, rfl⟩

theorem complete_bank (s : State) (t : Nat) (a : Async) (st d : Nat) (p : List Byte) :
    (complete s t a st d p).nvr = s.nvr ∧ (complete s t a st d p).link.enrolling = s.link.enrolling := by
  unfold complete
  split
  · exact toTenant_bank ..
  · exact ⟨rfl, rfl⟩

section
variable (s : State) (w : Nat) (v : Word)

theorem nvrWord_nvrStore_self : nvrWord (nvrStore s w v.toNat) w = v.toNat := by
  simp only [nvrWord, nvrStore, tabGet_tabPut_self, BitVec.ofNat_toNat, BitVec.setWidth_eq]

theorem nvrWrites_nvrStore_self : nvrWrites (nvrStore s w v.toNat) w = nvrWrites s w + 1 := by
  simp only [nvrWrites, nvrStore, tabGet_tabPut_self]

theorem nvrWord_nvrStore_ne {x : Nat} (h : x ≠ w) : nvrWord (nvrStore s w v.toNat) x = nvrWord s x := by
  simp only [nvrWord, nvrStore, tabPut]
  split
  · rw [tabGet_tabErase_ne _ _ h]
  · rw [tabGet_tabSet_ne _ _ _ h]

end

theorem finishEnrol_none {s : State} (h : s.link.enrolling = none) : finishEnrol s = s := by simp only [finishEnrol, h]

/-- The bank once the last word of a job is stored: nothing waits, and the job is over. -/
def lastStored (s : State) (w : Nat) (v : Word) (job : Nat) (x : Nat × Async × Nat × Nat) : State :=
  let u := nvrStore { s with nvr := { s.nvr with queue := [], due := s.nvr.due + nvrTicks } } w v.toNat
  { u with nvr := { u.nvr with jobs := tabErase (tabSet s.nvr.jobs job x) job } }

/-- The last word of a job completes its request. -/
theorem storeNvrWord_last {s : State} {w job t n addr : Nat} {v : Word} {a : Async} (hr : isRunning s = true)
    (hd : s.nvr.due ≤ s.now) (hq : s.nvr.queue = [(w, v, job)]) (hw : w < ownerSlot)
    (hj : tabFind s.nvr.jobs job = some (t, a, n, addr)) : storeNvrWord s =
      complete (lastStored s w v job (t, a, n + 1, addr)) t a stOk 0 (nvrPayload a addr (n + 1) 0) := by
  have due : ¬ (!isRunning s || decide (s.now < s.nvr.due)) = true := by simp [hr, hd]
  have target : nvrTarget s w v.toNat = (w, v.toNat) := if_pos hw
  have quiet (u : State) (h : u.nvr.queue = []) : nvrRefuse 1 u = u := by simp only [nvrRefuse, h]
  have empty : (complete (lastStored s w v job (t, a, n + 1, addr)) t a stOk 0 (nvrPayload a addr (n + 1) 0)).nvr.queue =
      [] := congrArg Nvr.queue (complete_bank ..).1
  have job_found : tabFind (tabSet s.nvr.jobs job (t, a, n + 1, addr)) job = some (t, a, n + 1, addr) := tabFind_tabSet_self ..
  simp only [storeNvrWord, hq]
  refine (if_neg due).trans ?_
  simp only [target, nvrStore, hj, job_found, List.any_nil, Bool.false_eq_true, if_false, endJob]
  exact quiet _ empty

end Sys2Proof.Machine
end

section
/-! SUPPORT. The one command that may stop, and the operand on which it does (R598). -/

namespace Sys2Proof.Machine

open Sys2Proof

/-- A rail is out of tolerance and has crossed neither threshold (R598): BROWNOUT with it has no defined effect. -/
def railUndefined : SupplyEvent → Prop
  | .pwrGoodFell => False
  | .monitorLow mv ns => (700 ≤ mv ∨ ns < 1000) ∧ (mv < 728 ∨ 772 < mv)
  | .outOfTolerance => True

/-- Any other command has a meaning that answers. -/
theorem exec_answers {c : Instr} (h : ∀ e, c ≠ .brownout e) (s : State) : ∃ t, exec c s = .next t := by
  cases c with
  | brownout e => exact absurd rfl (h e)
  | _ => exact ⟨_, rfl⟩

/-- A threshold that is crossed resets the chip or adds its cause, and a rail within tolerance does nothing. -/
theorem execBrownout_answers {e : SupplyEvent} (h : ¬ railUndefined e) (s : State) : ∃ t, execBrownout e s = .next t := by
  cases e with
  | pwrGoodFell =>
    rw [execBrownout]
    split <;> exact ⟨_, rfl⟩
  | monitorLow mv ns =>
    by_cases hc : mv < 700 ∧ 1000 ≤ ns
    · rw [execBrownout, if_pos hc]
      split <;> exact ⟨_, rfl⟩
    · have ht : 728 ≤ mv ∧ mv ≤ 772 := by
        rw [railUndefined] at h
        omega
      exact ⟨s, (if_neg hc).trans (if_pos ht)⟩
  | outOfTolerance => exact absurd trivial h

theorem execBrownout_stops {e : SupplyEvent} (h : railUndefined e) (s : State) :
    execBrownout e s = .fault .supplyUndefined := by
  cases e with
  | pwrGoodFell => exact h.elim
  | monitorLow mv ns =>
    obtain ⟨hc, ht⟩ := h
    exact (if_neg (by omega)).trans (if_neg (by omega))
  | outOfTolerance => rfl

/-- What the statement says of the operand. -/
theorem railUndefined_cases {e : SupplyEvent} (h : railUndefined e) :
    e = .outOfTolerance ∨ ∃ mv ns, e = .monitorLow mv ns ∧ (700 ≤ mv ∨ ns < 1000) ∧ (mv < 728 ∨ 772 < mv) := by
  cases e with
  | pwrGoodFell => exact h.elim
  | monitorLow mv ns => exact .inr ⟨mv, ns, rfl, h⟩
  | outOfTolerance => exact .inl rfl

end Sys2Proof.Machine
end

section
/-! Firmware, security, the debug ports and the one stop: the statements O56, O58, O60 and O8. -/

namespace Sys2Proof.Machine

open Sys2Proof

/-- Settles O56: each request, verification, fault and restart is the branch of its operation that the processors, the level
and the image name; a restart leaves the reloaded SRAM to the processor whatever goes on behind it. -/
theorem firmwareRuns : Obligations.FirmwareRuns := by
  unfold Obligations.FirmwareRuns
  refine ⟨fun rq off data s₀ ss h hn hb hp ht => next_eq (onFwLoad_served h hn hb hp ht),
    fun rq n s₀ ss h hf hm hp ht hc => next_eq (onFwActivate_served h hf hm hp ht hc),
    fun s hr h1 => ⟨fun hg => next_eq (onFwVerifyDone_unsigned hr h1 hg),
      fun hg hv => next_eq (onFwVerifyDone_old hr h1 hg hv), fun hg hv hd => next_eq (onFwVerifyDone_first hr h1 hg hv hd),
      fun hg hv hd => next_eq (onFwVerifyDone_next hr h1 hg hv hd)⟩,
    fun s hr => next_eq (onActivationResume_running hr), fun p s hr hs h5 => ?_,
    fun s hr hs h1 h3 => next_eq (procFault_held hr 1 hs h1 h3),
    fun s t hr hh hc ht => next_eq (onHoldRelease_clear hr hh hc ht),
    fun p s due hr hs => ⟨next_eq (onRestartDone_running hr hs), restartDone_dmem s p, restartDone_imem⟩,
    fun rq p s₀ ss h hq h5 hp hr ht hc => ?_,
    fun r s hr hd => ⟨fun hf hg => next_eq (onSelfTestDone_passes hr hd hf hg), fun f => mem_testRetired⟩,
    fun rq first n s₀ ss h h1 hn => next_eq (onLogRead_served h h1 hn)⟩
  · have fault (cause : Nat) := procFault_restarts hr cause hs h5
    exact ⟨next_eq (fault 1), next_eq (fault 2), next_eq (fault 3), next_eq (fault 4)⟩
  · obtain ⟨hu, he⟩ := onFwRestart_served h hq h5 hp hr ht hc
    exact ⟨hu, next_eq he⟩

/-- Settles O58: each request is the branch of its checks that the owner, its signature and the bank name; a word that is
stored is the word read from then on, and the last of its job completes the request. -/
theorem securityAndStorage : Obligations.SecurityAndStorage := by
  unfold Obligations.SecurityAndStorage
  refine ⟨fun rq s₀ ss h => next_eq (onSecCert_served h), fun rq c s₀ ss h => next_eq (onSecAttest_served h),
    fun rq k g s₀ ss h ht hk => ⟨fun hg hc => next_eq (onOwnerChange_signed h ht hk hg hc),
      fun hg => next_eq (onOwnerChange_unsigned h ht hk hg)⟩,
    fun rq i s₀ ss h ht hi => ⟨fun hb => next_eq (onSecKeyRevoke_gone h ht hi hb),
      fun hb hr ha => ⟨fun hp hc => ?_, fun hw hp => ?_⟩⟩,
    fun rq m s₀ ss h ht => ⟨fun hm => next_eq (onSecRollbackRaise_same h ht hm),
      fun hm hr => ⟨fun hp hc => ?_, fun hw hp => ?_⟩⟩,
    fun s hr => next_eq (onEntropyFail_running hr), fun s h => next_eq (onEnrollExpiry_over h),
    fun s h hf => next_eq (i3cWrite_arm h hf (bit_putBits_zero _)),
    fun s w v job t n addr a hr hd hq hw he hj => ?_⟩
  · exact next_eq ((onSecKeyRevoke_writes h ht hi hb hr ha).trans (ownerWrite_queues hp hc))
  · exact next_eq ((onSecKeyRevoke_writes h ht hi hb hr ha).trans (ownerWrite_busy hw hp))
  · exact next_eq ((onSecRollbackRaise_writes h ht hm hr).trans (ownerWrite_queues hp hc))
  · exact next_eq ((onSecRollbackRaise_writes h ht hm hr).trans (ownerWrite_busy hw hp))
  · have hb := complete_bank (lastStored s w v job (t, a, n + 1, addr)) t a stOk 0 (nvrPayload a addr (n + 1) 0)
    obtain ⟨hnvr, hlink⟩ := hb
    have done : onNvrWordStored s = _ := (congrArg finishEnrol (storeNvrWord_last hr hd hq (by unfold ownerSlot; omega) hj)).trans
      (finishEnrol_none (hlink.trans he))
    refine ⟨_, next_eq done, ?_⟩
    simp only [nvrWord, nvrWrites, hnvr]
    exact ⟨rfl, nvrWord_nvrStore_self .., nvrWrites_nvrStore_self _ w v, fun x hx => nvrWord_nvrStore_ne _ w v hx,
      tabFind_tabErase_self ..⟩

/-- Settles O60: each instruction of the JTAG port and each transfer of the I3C target is the branch of its operation that
the register map and the pins name. -/
theorem debugPorts : Obligations.DebugPorts := by
  unfold Obligations.DebugPorts
  have reset_word : (BitVec.ofNat 32 aSysResetReq).toNat = aSysResetReq := by decide
  refine ⟨fun s => ⟨rfl, rfl, rfl, fun h => next_eq (onExtest_inReset h), fun h => next_eq (onExtest_running h)⟩,
    fun a s i r h => ⟨fun hc => next_eq (onDebugRead_device h hc),
      fun v hr hj hc hf => next_eq (onDebugWrite_owner h hr hj hc hf), fun v hj => next_eq (onDebugWrite_disabled a v hj)⟩,
    fun a s h hd => ⟨next_eq (takeDynamic_first a h hd), next_eq (takeDynamic_first a h hd)⟩,
    fun a s h => ⟨fun ha => next_eq (onI3cAddress_known h ha), fun hr hw => next_eq (onI3cAddress_unknown hr hw)⟩,
    fun s h hr => next_eq (onI3cRead_readable h hr), fun v s hr hf => next_eq ?_,
    fun a v s hw => next_eq (i3cWrite_refused hw)⟩
  rw [onI3cRegister, reset_word, i3cWrite_reset hr hf]

/-- Settles O8: every command but BROWNOUT has a meaning that answers, and BROWNOUT stops on exactly the operands that R598
leaves undefined. -/
theorem onlyBrownoutStops : Obligations.OnlyBrownoutStops := by
  unfold Obligations.OnlyBrownoutStops
  intro c s
  by_cases hb : ∃ e, c = .brownout e
  · obtain ⟨e, rfl⟩ := hb
    by_cases hu : railUndefined e
    · exact .inr ⟨execBrownout_stops hu s, e, rfl, railUndefined_cases hu⟩
    · exact .inl (execBrownout_answers hu s)
  · exact .inl (exec_answers (fun e he => hb ⟨e, he⟩) s)

end Sys2Proof.Machine
end
